-- ==== Sys2Proof/Word.lean ====
section
/-! DEFINITION. The word types of the Holtofer 3.2 model and the sparse table in canonical form that holds every
memory and every large array of the block (a list of key and value pairs, keys strictly rising, no entry equal to
what an unlisted key reads as). -/

namespace Sys2Proof

/-- A byte. -/
abbrev Byte := BitVec 8
/-- A 16-bit field or register. -/
abbrev W16 := BitVec 16
/-- A 32-bit field or register. -/
abbrev W32 := BitVec 32
/-- A 64-bit field or register. -/
abbrev W64 := BitVec 64

/-- A sparse table: keys strictly rising; an unlisted key reads as the table's default. -/
abbrev Tab (α : Type) := List (Nat × α)

/-- What a table holds at a key; `d` is what an unlisted key reads as. -/
def Tab.get {α : Type} (d : α) : Tab α → Nat → α
  | [], _ => d
  | (k, v) :: rest, a => if a = k then v else Tab.get d rest a

/-- Remove a key. -/
def Tab.erase {α : Type} : Tab α → Nat → Tab α
  | [], _ => []
  | (k, v) :: rest, a => if a = k then rest else (k, v) :: Tab.erase rest a

/-- Put a value at a key, keeping the keys rising. -/
def Tab.put {α : Type} : Tab α → Nat → α → Tab α
  | [], a, x => [(a, x)]
  | (k, v) :: rest, a, x =>
    if a < k then (a, x) :: (k, v) :: rest
    else if a = k then (k, x) :: rest
    else (k, v) :: Tab.put rest a x

/-- Write a key; writing the default removes the entry, so that equal tables are equal lists. -/
def Tab.set {α : Type} [DecidableEq α] (d : α) (m : Tab α) (a : Nat) (x : α) : Tab α :=
  if x = d then Tab.erase m a else Tab.put m a x

/-- Every listed key lies above the bound, keys rise, and no entry equals the default. -/
def Tab.wfFrom {α : Type} [DecidableEq α] (d : α) : Nat → Tab α → Bool
  | _, [] => true
  | lo, (k, v) :: rest => decide (lo ≤ k) && decide (v ≠ d) && Tab.wfFrom d (k + 1) rest

/-- The canonical form. -/
def Tab.wf {α : Type} [DecidableEq α] (d : α) (m : Tab α) : Bool := Tab.wfFrom d 0 m

/-- A memory: bytes by address, an unlisted address reads as 0 (log entries 2 and 3). -/
abbrev Mem := Tab Byte

end Sys2Proof
end

