-- ==== Sys2Proof/Config.lean ====
section
/-! DEFINITION. What one implementation fixes and the manual leaves open: constants with no body, so that nothing in
Lean can evaluate them, and a statement proved of them holds whatever they are. -/

namespace Sys2Proof.Config

/-- A free value of any width: the model applies it to `State.free`, a counter it advances (log entry 1). -/
opaque freeValue (w : Nat) : Nat → BitVec w
/-- A result of a herd instruction that the manual does not state: a free function of the opcode and the operands, so that equal
operands give equal bits (R7, R66; log entry 14). -/
opaque openResult (code : Nat) (a b c : BitVec 32) : BitVec 32
/-- A free choice (which of two permitted outcomes happens): applied to `State.free` (log entry 1). -/
opaque freeChoice : Nat → Bool
/-- SHA-384 (FIPS 180-4), as a byte string with the most significant byte first (R439). -/
opaque sha384 : List Byte → List Byte
/-- HMAC with SHA-384 (R440). -/
opaque hmac384 : List Byte → List Byte → List Byte
/-- HKDF-Expand with SHA-384: key, info, output bytes (R341, R440, R450). -/
opaque hkdfExpand : List Byte → List Byte → Nat → List Byte
/-- The public key x ‖ y (96 bytes) of a P-384 private key (R440). -/
opaque p384Public : Nat → List Byte
/-- A 96-byte string is a point of P-384 (R452). -/
opaque p384IsPoint : List Byte → Bool
/-- ECDSA P-384 verification: key x ‖ y, message digest, signature r ‖ s (R395, R452). -/
opaque ecdsaVerify : List Byte → List Byte → List Byte → Bool
/-- ECDSA P-384 signature with the deterministic nonce of RFC 6979 (R444). -/
opaque ecdsaSign : Nat → List Byte → List Byte
/-- DER of the DeviceID certificate: serial, days, intermediate's subject, public key, signature (R443). -/
opaque deviceCert : List Byte → W16 → List Byte → List Byte → List Byte → List Byte
/-- To-be-signed part and DER of the alias certificate: serial, version, alias key, measurement, DeviceID private key (R444). -/
opaque aliasCert : List Byte → W32 → List Byte → List Byte → Nat → List Byte
/-- The digest that Nezavir's signature over the DeviceID certificate covers (R443). -/
opaque deviceCertTbsDigest : List Byte → W16 → List Byte → List Byte → List Byte
/-- Where the Virmin image body holds its CA list: root certificate and intermediate number i (R442). -/
opaque imageRootCert : List Byte → List Byte
opaque imageIntermediate : List Byte → Nat → Option (List Byte)
/-- The public key of an intermediate certificate (R442). -/
opaque certKey : List Byte → List Byte
/-- The 64 mailbox binding words in the image body (R454; their place in the body is not given). -/
opaque imageBindings : List Byte → List W32
/-- Silicon constants (R445, R451, R485, R486). -/
opaque rootHash : List Byte
opaque licenceRootHash : List Byte
opaque mipiMfr : W16
opaque vendorId : W32
/-- SHA-384 of the loader ROM (R448, measurement 1). -/
opaque loaderRomDigest : List Byte
/-- Body of an SPDM response as the SPDM 1.3 standard lays it out: request code, request bytes, transcript state. -/
opaque spdmBody : Nat → List Byte → Nat → List Byte
/-- Does an SPDM request satisfy the standard's own checks (parameters, transcript, MAC)? -/
opaque spdmAccepts : Nat → List Byte → Nat → Bool
/-- A block-private settings word for a lane after training (R356, lane_settings are private to the block). -/
opaque laneSettings : Nat → List Byte
/-- AES-256-GCM sealing: key, nonce, plain bytes; the 16-byte tag stands after the sealed bytes (R242, R340). -/
opaque gcmSeal : List Byte → List Byte → List Byte → List Byte
/-- AES-256-GCM opening: none when the tag fails (R242, R340). -/
opaque gcmOpen : List Byte → List Byte → List Byte → Option (List Byte)
/-- AES-256-XTS encryption of one 64-byte data unit: key, tweak, plain unit (R167). -/
opaque xtsEncrypt (key : Nat) (tweak : BitVec 128) (plain : BitVec 512) : BitVec 512
/-- The 30 parity symbols of the RS(544,514) code over GF(2^10) that IEEE 802.3 specifies (R331). -/
opaque rsParity : List (BitVec 10) → List (BitVec 10)
/-- The export master secret of an SPDM session, by its transcript (R450). -/
opaque exportMaster : Nat → List Byte

/-- The endpoint UUID that Get Endpoint UUID answers; the manual gives none (R486). -/
opaque endpointUuid : BitVec 128
/-- The version entries that Get MCTP Version Support answers for a message type, as the DMTF standard lays them out (R486). -/
opaque mctpVersions : Byte → List Byte

end Sys2Proof.Config
end

