-- ==== Sys2Proof/Syntax.lean ====
section
/-! DEFINITION. The commands of the block: one constructor of `Instr` per row of spec/opcode_table.json, with the row's
operands, and the operand types. A command is a descriptor read from a queue, a request, a register or dictionary
access, an event at a port or inside the block, a packet or message, or one herd instruction issued for one thread
group. Operands hold what the spec gives the command; where the spec names a modifier and gives no encoding of it
(the compare of ISETP, the rounding of CVT), the operand is the modifier itself (log entry 10). -/

namespace Sys2Proof

/-- Which thread group issues a herd instruction: the launch's command, the gang and the group in it (R102). -/
structure GroupRef where
  launch : Nat
  gang : Nat
  group : Nat
  deriving DecidableEq, Repr, Inhabited

/-- Register format (R136): guard, 4-bit modifier, rd, ra, rb, rc, 16-bit modifier. -/
structure RFmt where
  guard : BitVec 4
  mod4 : BitVec 4
  rd : Byte
  ra : Byte
  rb : Byte
  rc : Byte
  mod16 : W16
  deriving DecidableEq, Repr, Inhabited

/-- Immediate format (R136). -/
structure IFmt where
  guard : BitVec 4
  mod4 : BitVec 4
  rd : Byte
  ra : Byte
  imm : W32
  deriving DecidableEq, Repr, Inhabited

/-- Memory format (R136) with the memory modifier [23:16]. -/
structure MFmt where
  guard : BitVec 4
  mod4 : BitVec 4
  rd : Byte
  ra : Byte
  rb : Byte
  modReserved : Bool
  scope : BitVec 2
  order : BitVec 2
  ty : BitVec 3
  off : W16
  deriving DecidableEq, Repr, Inhabited

/-- Branch format (R136): indirect target, signed offset in instructions. -/
structure BFmt where
  guard : BitVec 4
  mod4 : BitVec 4
  ra : Byte
  off : W32
  deriving DecidableEq, Repr, Inhabited

/-- The special registers S2R reads (R137). -/
inductive SpecialReg where
  | tid | gang | group | lane | ngang | core | clock | time
  deriving DecidableEq, Repr, Inhabited

/-- How VOTE combines the predicate (log entry 12). -/
inductive VoteOp where
  | ballot | any | all
  deriving DecidableEq, Repr, Inhabited

/-- Comparisons of ISETP and FSETP. -/
inductive CmpOp where
  | eq | ne | lt | le | gt | ge | unordered
  deriving DecidableEq, Repr, Inhabited

/-- Absolute value and negation of the FP32 operands, "as modifiers" (R137). -/
structure SignMods where
  absA : Bool
  negA : Bool
  absB : Bool
  negB : Bool
  absC : Bool
  negC : Bool
  deriving DecidableEq, Repr, Inhabited

/-- The formats of CVT and LFIN (R126, R131). -/
inductive CvtFmt where
  | fp32 | bf16 | fp16 | e4m3 | e5m2 | e2m3 | e3m2 | e2m1 | int8 | int4 | int32
  deriving DecidableEq, Repr, Inhabited

/-- The four roundings of CVT (R131). -/
inductive Rounding where
  | nearest | zero | down | up
  deriving DecidableEq, Repr, Inhabited

/-- The three paths to the dictionary (R490); a request on the management port carries its req_tag (R498). -/
inductive DictPath where
  | mgmt (reqTag : Byte) | window | debug
  deriving DecidableEq, Repr, Inhabited

/-- A unit whose zero fill ends (R228): pond unit (paddock, unit) or tarn unit. -/
inductive FillUnit where
  | pond (paddock unit : Nat)
  | tarn (unit : Nat)
  deriving DecidableEq, Repr, Inhabited

/-- A sluice with a drain deadline (R421). -/
inductive Sluice where
  | context (slot : Nat)
  | hqi (h : Nat)
  | fold (n : Nat)
  | whole
  deriving DecidableEq, Repr, Inhabited

/-- Status of a host completion (R482). -/
inductive HostStatus where
  | good | unsupported | abort | poisoned
  deriving DecidableEq, Repr, Inhabited

/-- The gauges of R269. -/
inductive GaugeId where
  | clkArr | clkHerd | power | temp
  | rail (i : Nat)
  | fold (n k : Nat)
  deriving DecidableEq, Repr, Inhabited

/-- What made a capacity fall (R265). -/
inductive CapSource where
  | farCtl | tarnBank | stackChannel
  | farRate (rate : W32)
  | link (p : Nat) (x4 : Bool)
  deriving DecidableEq, Repr, Inhabited

/-- What began a brownout hold (R389). -/
inductive RailSource where
  | group (i : Nat)
  | pwrWarn
  deriving DecidableEq, Repr, Inhabited

/-- A flit before encryption (R334): kind, virtual channel, valid payload bytes. -/
structure Flit where
  kind : BitVec 2
  vc : Nat
  payload : List Byte
  deriving DecidableEq, Repr, Inhabited

/-- The payload of a control flit (R334). -/
structure CtlFlit where
  creditRet : List W16
  retrain : Bool
  keySwitch : Bool
  nak : Bool
  keyEpochNext : W32
  ackNext : W64
  deriving DecidableEq, Repr, Inhabited

/-- A packet: the fields of its header (R347) and its payload bytes. -/
structure Packet where
  address : W64
  seq : W32
  mapVersion : W32
  destNode : BitVec 18
  srcNode : BitVec 18
  destTag : W16
  srcFold : BitVec 4
  ttl : Byte
  stamp : W16
  ptype : Byte
  op : Byte
  payload : List Byte
  deriving DecidableEq, Repr, Inhabited

/-- What a port learns from its partner in the plain phase (R355, step 3). -/
structure PortHello where
  node : W32
  major : Byte
  lanes : Byte
  licensed : Bool
  deriving DecidableEq, Repr, Inhabited

/-- Where a STACK_PACKET comes from: the source number of the sending die's network interface, and the virtual channel it is on (R472). -/
structure StackOrigin where
  src : BitVec 4
  vc : Nat
  deriving DecidableEq, Repr, Inhabited

/-- The home fold a RESV_REQ asks, and whether the client's context is latency critical: READ data travels back in that class (R214,
R323; log entry 53). -/
structure ResvHome where
  fold : Nat
  lc : Bool
  deriving DecidableEq, Repr, Inhabited

/-- The fields of a map message header (R280); type, count and length follow from the message. -/
structure MsgHdr where
  epoch : W64
  version : W32
  flockId : W32
  senderNode : BitVec 18
  senderFold : BitVec 4
  senderRank : BitVec 2
  detail : Byte
  deriving DecidableEq, Repr, Inhabited

/-- The 256-bit map header (R280): bellwether and replicas in the peer layout. -/
structure MapHdr where
  bellwether : W32
  replica1 : W32
  replica2 : W32
  lastMember : W16
  reproducible : Bool
  reservedZero : Bool
  deriving DecidableEq, Repr, Inhabited

/-- A change record (R280): member number and its new map entry. -/
structure ChangeRec where
  member : W16
  entry : BitVec 128
  reservedZero : Bool
  deriving DecidableEq, Repr, Inhabited

/-- One record of a QUERY_ANS (R323): token, request_id, state. -/
structure ResvFound where
  token : BitVec 128
  request : W64
  committed : Bool
  digest : W64
  member : W16
  deriving DecidableEq, Repr, Inhabited

/-- The 64-byte head of a HANDOVER message (R323). -/
structure HandRec where
  token : BitVec 128
  request : W64
  length : Nat
  digest : W64
  key : BitVec 128
  deriving DecidableEq, Repr, Inhabited

/-- An SPDM path (R446): the management port, a link port, a fold-transfer peer. -/
inductive SpdmPath where
  | mgmt
  | link (p : Nat)
  | fold (node : BitVec 18)
  deriving DecidableEq, Repr, Inhabited

/-- An SPDM message: session (0 for none), the parameter that selects a slot, index or algorithm offer, and its bytes. -/
structure SpdmMsg where
  session : Nat
  param : Nat
  bytes : List Byte
  deriving DecidableEq, Repr, Inhabited

/-- The commands, one constructor per row of the opcode table (its rule stands beside each). -/
inductive Instr where
  /-- TILE_TASK (R82). -/
  | tileTask (q : Nat) (d : BitVec 512)
  /-- HERD_LAUNCH (R107). -/
  | herdLaunch (q : Nat) (d : BitVec 512)
  /-- MOVE_COPY (R190). -/
  | moveCopy (q : Nat) (d : BitVec 512)
  /-- MOVE_FILL (R190). -/
  | moveFill (q : Nat) (d : BitVec 512)
  /-- MOVE_REDUCE (R190). -/
  | moveReduce (q : Nat) (d : BitVec 512)
  /-- FENCE_SIGNAL (R185). -/
  | fenceSignal (q : Nat) (d : BitVec 512)
  /-- FENCE_WAIT (R185). -/
  | fenceWait (q : Nat) (d : BitVec 512)
  /-- SEM_ACQUIRE (R188). -/
  | semAcquire (q : Nat) (d : BitVec 512)
  /-- SEM_RELEASE (R189). -/
  | semRelease (q : Nat) (d : BitVec 512)
  /-- ALL_REDUCE (R300). -/
  | allReduce (q : Nat) (d : BitVec 512)
  /-- REDUCE (R300). -/
  | reduce (q : Nat) (d : BitVec 512)
  /-- BROADCAST (R300). -/
  | broadcast (q : Nat) (d : BitVec 512)
  /-- ALL_GATHER (R300). -/
  | allGather (q : Nat) (d : BitVec 512)
  /-- MODEL_LOAD (R218). -/
  | modelLoad (q : Nat) (d : BitVec 512)
  /-- MODEL_EVICT (R222). -/
  | modelEvict (q : Nat) (d : BitVec 512)
  /-- RESV_LOOKUP (R321). -/
  | resvLookup (q : Nat) (d : BitVec 512)
  /-- RESV_RESERVE (R321). -/
  | resvReserve (q : Nat) (d : BitVec 512)
  /-- RESV_FILL (R321). -/
  | resvFill (q : Nat) (d : BitVec 512)
  /-- RESV_COMMIT (R321). -/
  | resvCommit (q : Nat) (d : BitVec 512)
  /-- RESV_READ (R321). -/
  | resvRead (q : Nat) (d : BitVec 512)
  /-- RESV_RELEASE (R321). -/
  | resvRelease (q : Nat) (d : BitVec 512)
  /-- MARK (R191). -/
  | mark (q : Nat) (d : BitVec 512)
  /-- SET_ROOT (R158). -/
  | setRoot (q : Nat) (d : BitVec 512)
  /-- FRAME_OWN (R510). -/
  | frameOwn (q : Nat) (d : BitVec 512)
  /-- WINDOW (R158). -/
  | window (q : Nat) (d : BitVec 512)
  /-- RESOLVE (R163). -/
  | resolve (q : Nat) (d : BitVec 512)
  /-- INVALIDATE (R161). -/
  | invalidate (q : Nat) (d : BitVec 512)
  /-- CONTEXT_CREATE (R181). -/
  | contextCreate (q : Nat) (d : BitVec 512)
  /-- CONTEXT_TEARDOWN (R183). -/
  | contextTeardown (q : Nat) (d : BitVec 512)
  /-- FOLD_FREEZE (R241). -/
  | foldFreeze (q : Nat) (d : BitVec 512)
  /-- FOLD_THAW (R241). -/
  | foldThaw (q : Nat) (d : BitVec 512)
  /-- FOLD_EXPORT (R242). -/
  | foldExport (q : Nat) (d : BitVec 512)
  /-- FOLD_IMPORT (R246). -/
  | foldImport (q : Nat) (d : BitVec 512)
  /-- SUSPECT_REVIEW (R429). -/
  | suspectReview (q : Nat) (d : BitVec 512)
  /-- ENGINE_RESET (R427). -/
  | engineReset (q : Nat) (d : BitVec 512)
  /-- FOLD_RESET (R430). -/
  | foldReset (q : Nat) (d : BitVec 512)
  /-- HQI_CREATE (R172). -/
  | hqiCreate (r : BitVec 512)
  /-- HQI_DESTROY (R174). -/
  | hqiDestroy (r : BitVec 512)
  /-- QUEUE_CREATE (R172). -/
  | queueCreate (r : BitVec 512)
  /-- QUEUE_DESTROY (R174). -/
  | queueDestroy (r : BitVec 512)
  /-- QUEUE_RESUME (R178). -/
  | queueResume (r : BitVec 512)
  /-- SEM_ALLOC (R172). -/
  | semAlloc (r : BitVec 512)
  /-- SEM_FREE (R187). -/
  | semFree (r : BitVec 512)
  /-- COMMIT (R227). -/
  | commit (n : Nat)
  /-- CANCEL (R227). -/
  | cancel (n : Nat)
  /-- DISABLE (R234). -/
  | disable (n : Nat)
  /-- ENABLE (R235). -/
  | enable (n : Nat)
  /-- SCRUB (R236). -/
  | scrub (n : Nat)
  /-- DELETE (R235). -/
  | delete (n : Nat)
  /-- PROPOSE (R282). -/
  | propose
  /-- PROMOTE (R290). -/
  | promote
  /-- TRAIN (R355). -/
  | train (p : Nat)
  /-- TRAIN_FAST (R356). -/
  | trainFast (p : Nat)
  /-- DOWN (R358). -/
  | down (p : Nat)
  /-- REKEY (R343). -/
  | rekey (p : Nat)
  /-- JOURNAL_ENABLE (R376). -/
  | journalEnable
  /-- JOURNAL_DISABLE (R376). -/
  | journalDisable
  /-- INSTANCE_RESET (R431). -/
  | instanceReset
  /-- POWER_CYCLE_REQUEST (R433). -/
  | powerCycleRequest
  /-- COLLECTOR_ACK (R418). -/
  | collectorAck (v : W32)
  /-- CONFIG_LOCK (R495). -/
  | configLock (v : Byte)
  /-- BUNDLE_CHUNK (R394). -/
  | bundleChunk (bytes : List Byte)
  /-- BOOT_GO (R392). -/
  | bootGo
  /-- SWITCH_EPOCH_WRITE (R200). -/
  | switchEpochWrite (v : W64)
  /-- LEN_SWITCH_EPOCH_WRITE (R367). -/
  | lenSwitchEpochWrite (v : W64)
  /-- START_EPOCH_WRITE (R304). -/
  | startEpochWrite (v : W64)
  /-- HOST_CAP_WRITE (R254). -/
  | hostCapWrite (now : Bool) (v : W32)
  /-- GAUGE_CLEAR (R269). -/
  | gaugeClear (v : W32)
  /-- DICT_READ (R490). -/
  | dictRead (path : DictPath) (index : W16) (sub : Byte) (offset length : Nat)
  /-- DICT_WRITE (R492). -/
  | dictWrite (path : DictPath) (index : W16) (sub : Byte) (offset : Nat) (bytes : List Byte)
  /-- REGISTER_WRITE (R501). -/
  | registerWrite (off size : Nat) (v : W64)
  /-- DOORBELL (R176). -/
  | doorbell (h loc : Nat) (v : W32)
  /-- CQ_HEAD_WRITE (R502). -/
  | cqHeadWrite (h loc : Nat) (v : W32)
  /-- FENCE_DB (R502). -/
  | fenceDb (h : Nat) (addr : W64)
  /-- KQ_ENABLE (R504). -/
  | kqEnable
  /-- FAULT_RING_ENABLE (R506). -/
  | faultRingEnable
  /-- FAULT_RING_DISABLE (R506). -/
  | faultRingDisable
  /-- FR_RD_WRITE (R411). -/
  | frRdWrite (v : W64)
  /-- JNL_RD_WRITE (R507). -/
  | jnlRdWrite (v : W64)
  /-- MBX_DATA_WRITE (R456). -/
  | mbxDataWrite (master : W16) (ch size : Nat) (v : W64)
  /-- MBX_ACK (R456). -/
  | mbxAck (master : W16) (ch : Nat) (v : W32)
  /-- DEBUG_ENABLE_WRITE (R489). -/
  | debugEnableWrite (path : DictPath) (v : Byte)
  /-- DESCRIPTOR_FETCH (R512). -/
  | descriptorFetch (q : Nat)
  /-- DESCRIPTOR_BATCH_ARRIVAL (R177). -/
  | descriptorBatchArrival (q : Nat)
  /-- DESCRIPTOR_READ_FAILURE (R513). -/
  | descriptorReadFailure (q : Nat)
  /-- TASK_READY (R205). -/
  | taskReady (uid : Nat)
  /-- TILE_START (R206). -/
  | tileStart (e : Nat)
  /-- TILE_COMPLETE (R91). -/
  | tileComplete (e : Nat)
  /-- GANG_PLACE (R103). -/
  | gangPlace (core : Nat)
  /-- LAUNCH_TRAP_RECORD (R138). -/
  | launchTrapRecord (uid : Nat)
  /-- MEMORY_RESPONSE (R114). -/
  | memoryResponse (req : Nat) (err : Bool)
  /-- MODEL_PARK (R220). -/
  | modelPark (n : Nat) (uid : Nat)
  /-- MODEL_RELOAD (R221). -/
  | modelReload (slot : Nat)
  /-- BOUNDARY_PREDICTION_EXPIRY (R364). -/
  | boundaryPredictionExpiry
  /-- SYNC_IN_PULSE (R364). -/
  | syncInPulse
  /-- LOAD (R361). -/
  | load (time epoch : W64)
  /-- CHECK (R361). -/
  | check (time epoch : W64)
  /-- REPHASE (R361). -/
  | rephase (time epoch : W64)
  /-- GRAZING_WINDOW_START (R203). -/
  | grazingWindowStart (w : Nat)
  /-- UNIT_FILL_END (R228). -/
  | unitFillEnd (u : FillUnit)
  /-- TEARDOWN_DRAIN_END (R183). -/
  | teardownDrainEnd (slot : Nat)
  /-- DISABLE_DRAIN_END (R234). -/
  | disableDrainEnd (n : Nat)
  /-- FREEZE_DRAIN_END (R241). -/
  | freezeDrainEnd (n : Nat)
  /-- INVALIDATE_DRAIN_END (R161). -/
  | invalidateDrainEnd (uid : Nat)
  /-- FRAME_OWN_DRAIN_END (R510). -/
  | frameOwnDrainEnd (uid : Nat)
  /-- SCRUB_END (R236). -/
  | scrubEnd (n : Nat)
  /-- DRAIN_LIMIT_EXPIRY (R422). -/
  | drainLimitExpiry (sl : Sluice)
  /-- DRAIN_UNIT_RESET (R422). -/
  | drainUnitReset (herd : Bool) (unit : Nat)
  /-- UNIT_RESET_TIMEOUT (R425). -/
  | unitResetTimeout (herd : Bool) (unit : Nat)
  /-- FOLD_RESET_TIMEOUT (R425). -/
  | foldResetTimeout (n : Nat)
  /-- INSTANCE_RESET_TIMEOUT (R431). -/
  | instanceResetTimeout
  /-- SUSPECT_RERUN_TIMEOUT (R429). -/
  | suspectRerunTimeout (uid : Nat)
  /-- CARRIED_TASK_TIMEOUT (R295). -/
  | carriedTaskTimeout (uid : Nat)
  /-- COLLECTIVE_TIMEOUT (R303). -/
  | collectiveTimeout (uid : Nat)
  /-- RESV_TIMEOUT (R321). -/
  | resvTimeout (uid : Nat)
  /-- REQUEST_RESEND (R351). -/
  | requestResend (n : Nat) (seq : W32)
  /-- END_TO_END_TIMEOUT (R351). -/
  | endToEndTimeout (n : Nat) (seq : W32)
  /-- HOST_COMPLETION_TIMEOUT (R482). -/
  | hostCompletionTimeout (tag : Nat)
  /-- HOST_COMPLETION (R482). -/
  | hostCompletion (tag : Nat) (status : HostStatus)
  /-- MODERATION_TIMER_EXPIRY (R172). -/
  | moderationTimerExpiry (q : Nat)
  /-- WEIR_MISS_WINDOW_END (R262). -/
  | weirMissWindowEnd
  /-- POWER_ESTIMATE_UPDATE (R35). -/
  | powerEstimateUpdate (estimate temp : Nat)
  /-- GAUGE_SAMPLE (R268). -/
  | gaugeSample (g : GaugeId) (v : Nat)
  /-- ALIVE_TOGGLE (R420). -/
  | aliveToggle
  /-- DROVER_WATCHDOG_LAPSE (R419). -/
  | droverWatchdogLapse
  /-- WATCHDOG_REFRESH (R419). -/
  | watchdogRefresh
  /-- UNIT_RETIRE (R403). -/
  | unitRetire (bit : Nat)
  /-- CAPACITY_DROP (R265). -/
  | capacityDrop (cls : CapSource)
  /-- DOMAIN_POWER_DOWN (R34). -/
  | domainPowerDown (dom : Nat)
  /-- DOMAIN_ACK (R385). -/
  | domainAck (dom : Nat) (level : Bool)
  /-- DOMAIN_ACK_TIMEOUT (R385). -/
  | domainAckTimeout (dom : Nat)
  /-- RAIL_WARNING (R389). -/
  | railWarning (src : RailSource)
  /-- BROWNOUT_RELEASE (R389). -/
  | brownoutRelease
  /-- RAIL_RESET (R391). -/
  | railReset (i : Nat)
  /-- THERMAL_SHUTDOWN (R390). -/
  | thermalShutdown
  /-- RESET_N_ASSERT (R391). -/
  | resetNAssert
  /-- RESET_N_RELEASE (R465). -/
  | resetNRelease
  /-- HP_FLR (R484). -/
  | hpFlr
  /-- HP_LINK_UP_CHANGE (R483). -/
  | hpLinkUpChange (up : Bool) (speed : BitVec 3) (width : BitVec 5)
  /-- FLIT_RECEIVE (R336). -/
  | flitReceive (p : Nat) (f : Flit) (good : Bool)
  /-- CONTROL_FLIT (R334). -/
  | controlFlit (p : Nat) (c : CtlFlit)
  /-- CONTROL_FLIT_TIMER (R337). -/
  | controlFlitTimer (p : Nat)
  /-- LINK_SILENCE (R357). -/
  | linkSilence (p : Nat)
  /-- LANE_FAILURE (R357). -/
  | laneFailure (p lane : Nat)
  /-- REKEY_COUNT (R343). -/
  | rekeyCount (p : Nat)
  /-- PADDING_SLOT (R354). -/
  | paddingSlot (p n : Nat) (lc : Bool)
  /-- PACKET_READ (R347). -/
  | packetRead (k : Packet)
  /-- PACKET_WRITE (R347). -/
  | packetWrite (k : Packet)
  /-- PACKET_ATOMIC (R347). -/
  | packetAtomic (k : Packet)
  /-- PACKET_REDUCE (R347). -/
  | packetReduce (k : Packet)
  /-- PACKET_FENCE (R347). -/
  | packetFence (k : Packet)
  /-- READ_DATA (R347). -/
  | readData (k : Packet)
  /-- PACKET_ACK (R347). -/
  | packetAck (k : Packet)
  /-- REFUSE (R347). -/
  | refuse (k : Packet)
  /-- TASK (R294). -/
  | task (k : Packet)
  /-- TASK_RESULT (R295). -/
  | taskResult (k : Packet)
  /-- COLL (R300). -/
  | coll (k : Packet)
  /-- MGMT (R347). -/
  | mgmt (p : Nat) (k : Packet) (m : PortHello)
  /-- SPDM (R341). -/
  | spdm (p : Nat) (m : SpdmMsg) (done good : Bool)
  /-- PREPARE (R283). -/
  | prepare (n : Nat) (h : MsgHdr) (mh : MapHdr) (recs : List ChangeRec)
  /-- MAP_ACK (R283). -/
  | mapAck (n : Nat) (h : MsgHdr)
  /-- NAK (R290). -/
  | nak (n : Nat) (h : MsgHdr)
  /-- EXCLUDE (R289). -/
  | exclude (n : Nat) (h : MsgHdr) (members : List Nat)
  /-- ABORT (R290). -/
  | abort (n : Nat) (h : MsgHdr)
  /-- SNAPSHOT (R282). -/
  | snapshot (h : MsgHdr) (n : Nat) (first : Nat) (entries : List (BitVec 128))
  /-- TWIN_DIGEST (R307). -/
  | twinDigest (h : MsgHdr) (recs : List (BitVec 128))
  /-- TWIN_HALT (R308). -/
  | twinHalt (h : MsgHdr)
  /-- SPDM_FOLD (R449). -/
  | spdmFold (h : MsgHdr) (m : SpdmMsg) (done good : Bool)
  /-- RESV_REQ (R323). -/
  | resvReq (h : MsgHdr) (n : ResvHome) (d : BitVec 512) (bytes : List Byte)
  /-- RESV_ANS (R323). -/
  | resvAns (h : MsgHdr) (uid : Nat) (status : Byte) (ans : BitVec 256) (bytes : List Byte)
  /-- DISCLAIM (R325). -/
  | disclaim (h : MsgHdr) (uid : Nat)
  /-- RESV_RESOLVE (R325). -/
  | resvResolve (h : MsgHdr) (n : Nat) (key : BitVec 128) (request : W64) (token : BitVec 128)
  /-- QUERY (R325). -/
  | query (h : MsgHdr) (n : Nat) (key : BitVec 128)
  /-- QUERY_ANS (R325). -/
  | queryAns (h : MsgHdr) (n : Nat) (key : BitVec 128) (recs : List ResvFound)
  /-- RESOLVE_ANS (R325). -/
  | resolveAns (h : MsgHdr) (uid : Nat) (status : Byte) (token : BitVec 128) (digest : W64)
  /-- DROP (R325). -/
  | drop (h : MsgHdr) (n : Nat) (key token : BitVec 128)
  /-- HANDOVER (R328). -/
  | handover (h : MsgHdr) (n : Nat) (hr : HandRec) (page : List Byte)
  /-- HANDOVER_FILL_END (R329). -/
  | handoverFillEnd (n : Nat)
  /-- STACK_READ_DATA (R473). -/
  | stackReadData (ch tag : Nat) (status : BitVec 3)
  /-- STACK_WRITE_ACK (R473). -/
  | stackWriteAck (ch tag : Nat) (status : BitVec 3)
  /-- STACK_PACKET (R472). -/
  | stackPacket (src : StackOrigin) (k : Packet)
  /-- ENTDAA (R485). -/
  | entdaa (addr : BitVec 7)
  /-- SET_ENDPOINT_ID (R486). -/
  | setEndpointId (src eid : Byte)
  /-- GET_ENDPOINT_ID (R486). -/
  | getEndpointId (src : Byte) (dst : Byte)
  /-- GET_ENDPOINT_UUID (R486). -/
  | getEndpointUuid (src : Byte) (dst : Byte)
  /-- GET_MCTP_VERSION_SUPPORT (R486). -/
  | getMctpVersionSupport (src : Byte) (dst : Byte) (mtype : Byte)
  /-- GET_MESSAGE_TYPE_SUPPORT (R486). -/
  | getMessageTypeSupport (src : Byte) (dst : Byte)
  /-- MCTP_RESPONSE_EXPIRY (R486). -/
  | mctpResponseExpiry
  /-- GET_VERSION (R447). -/
  | getVersion (path : SpdmPath) (m : SpdmMsg)
  /-- GET_CAPABILITIES (R447). -/
  | getCapabilities (path : SpdmPath) (m : SpdmMsg)
  /-- NEGOTIATE_ALGORITHMS (R447). -/
  | negotiateAlgorithms (path : SpdmPath) (m : SpdmMsg)
  /-- GET_DIGESTS (R447). -/
  | getDigests (path : SpdmPath) (m : SpdmMsg)
  /-- GET_CERTIFICATE (R442). -/
  | getCertificate (path : SpdmPath) (m : SpdmMsg)
  /-- CHALLENGE (R447). -/
  | challenge (path : SpdmPath) (m : SpdmMsg)
  /-- GET_MEASUREMENTS (R448). -/
  | getMeasurements (path : SpdmPath) (m : SpdmMsg)
  /-- KEY_EXCHANGE (R446). -/
  | keyExchange (path : SpdmPath) (m : SpdmMsg)
  /-- FINISH (R447). -/
  | finish (path : SpdmPath) (m : SpdmMsg)
  /-- HEARTBEAT (R447). -/
  | heartbeat (path : SpdmPath) (m : SpdmMsg)
  /-- KEY_UPDATE (R447). -/
  | keyUpdate (path : SpdmPath) (m : SpdmMsg)
  /-- END_SESSION (R446). -/
  | endSession (path : SpdmPath) (m : SpdmMsg)
  /-- BYPASS (R488). -/
  | bypass (tdi : Bool)
  /-- IDCODE (R488). -/
  | idcode
  /-- SAMPLE_PRELOAD (R488). -/
  | samplePreload (v : W64)
  /-- EXTEST (R488). -/
  | extest (v : W64)
  /-- DBG_DICT (R500). -/
  | dbgDict (v : BitVec 96)
  /-- NOP (R137). -/
  | nop (t : GroupRef) (f : BFmt)
  /-- BRA (R136). -/
  | bra (t : GroupRef) (f : BFmt)
  /-- BRX (R137). -/
  | brx (t : GroupRef) (f : BFmt)
  /-- CALL (R105). -/
  | call (t : GroupRef) (f : BFmt)
  /-- RET (R105). -/
  | ret (t : GroupRef) (f : BFmt)
  /-- JOIN (R105). -/
  | join (t : GroupRef) (f : BFmt)
  /-- BAR (R118). -/
  | bar (t : GroupRef) (f : BFmt)
  /-- EXIT (R141). -/
  | exit (t : GroupRef) (f : BFmt)
  /-- TRAP (R138). -/
  | trap (t : GroupRef) (f : IFmt)
  /-- S2R (R137). -/
  | s2r (t : GroupRef) (f : RFmt) (sr : SpecialReg)
  /-- VOTE (R137). -/
  | vote (t : GroupRef) (f : RFmt) (op : VoteOp) (flag : BitVec 4)
  /-- SHFL (R137). -/
  | shfl (t : GroupRef) (f : RFmt)
  /-- IADD (R137). -/
  | iadd (t : GroupRef) (f : RFmt)
  /-- ISUB (R137). -/
  | isub (t : GroupRef) (f : RFmt)
  /-- IMUL (R137). -/
  | imul (t : GroupRef) (f : RFmt)
  /-- IMAD (R137). -/
  | imad (t : GroupRef) (f : RFmt)
  /-- IDIV (R130). -/
  | idiv (t : GroupRef) (f : RFmt) (signed : Bool)
  /-- IREM (R130). -/
  | irem (t : GroupRef) (f : RFmt) (signed : Bool)
  /-- IMIN (R137). -/
  | imin (t : GroupRef) (f : RFmt) (signed : Bool)
  /-- IMAX (R137). -/
  | imax (t : GroupRef) (f : RFmt) (signed : Bool)
  /-- ISETP (R136). -/
  | isetp (t : GroupRef) (f : RFmt) (c : CmpOp) (signed : Bool)
  /-- IADDI (R137). -/
  | iaddi (t : GroupRef) (f : IFmt)
  /-- AND (R137). -/
  | andI (t : GroupRef) (f : RFmt)
  /-- OR (R137). -/
  | orI (t : GroupRef) (f : RFmt)
  /-- XOR (R137). -/
  | xorI (t : GroupRef) (f : RFmt)
  /-- NOT (R137). -/
  | notI (t : GroupRef) (f : RFmt)
  /-- SHL (R137). -/
  | shl (t : GroupRef) (f : RFmt)
  /-- SHR (R137). -/
  | shr (t : GroupRef) (f : RFmt)
  /-- SAR (R137). -/
  | sar (t : GroupRef) (f : RFmt)
  /-- POPC (R137). -/
  | popc (t : GroupRef) (f : RFmt)
  /-- CLZ (R137). -/
  | clz (t : GroupRef) (f : RFmt)
  /-- BFE (R137). -/
  | bfe (t : GroupRef) (f : RFmt)
  /-- BFI (R137). -/
  | bfi (t : GroupRef) (f : RFmt)
  /-- MOVI (R137). -/
  | movi (t : GroupRef) (f : IFmt)
  /-- SEL (R137). -/
  | sel (t : GroupRef) (f : RFmt) (flag : BitVec 4)
  /-- MOV (R137). -/
  | mov (t : GroupRef) (f : RFmt)
  /-- FADD (R130). -/
  | fadd (t : GroupRef) (f : RFmt) (sg : SignMods)
  /-- FSUB (R130). -/
  | fsub (t : GroupRef) (f : RFmt) (sg : SignMods)
  /-- FMUL (R130). -/
  | fmul (t : GroupRef) (f : RFmt) (sg : SignMods)
  /-- FFMA (R130). -/
  | ffma (t : GroupRef) (f : RFmt) (sg : SignMods)
  /-- FMIN (R130). -/
  | fmin (t : GroupRef) (f : RFmt) (sg : SignMods)
  /-- FMAX (R130). -/
  | fmax (t : GroupRef) (f : RFmt) (sg : SignMods)
  /-- FSETP (R130). -/
  | fsetp (t : GroupRef) (f : RFmt) (c : CmpOp) (sg : SignMods)
  /-- CVT (R131). -/
  | cvt (t : GroupRef) (f : RFmt) (src dst : CvtFmt) (rnd : Rounding) (sat : Bool)
  /-- RCP (R128). -/
  | rcp (t : GroupRef) (f : RFmt)
  /-- SQRT (R128). -/
  | sqrt (t : GroupRef) (f : RFmt)
  /-- RSQ (R128). -/
  | rsq (t : GroupRef) (f : RFmt)
  /-- EX2 (R128). -/
  | ex2 (t : GroupRef) (f : RFmt)
  /-- LG2 (R128). -/
  | lg2 (t : GroupRef) (f : RFmt)
  /-- RCP_A (R129). -/
  | rcpA (t : GroupRef) (f : RFmt)
  /-- RSQ_A (R129). -/
  | rsqA (t : GroupRef) (f : RFmt)
  /-- EX2_A (R129). -/
  | ex2A (t : GroupRef) (f : RFmt)
  /-- LG2_A (R129). -/
  | lg2A (t : GroupRef) (f : RFmt)
  /-- LCLR (R126). -/
  | lclr (t : GroupRef) (f : IFmt)
  /-- LACC (R126). -/
  | lacc (t : GroupRef) (f : RFmt) (isInt : Bool)
  /-- LMUL (R126). -/
  | lmul (t : GroupRef) (f : RFmt)
  /-- LADD (R126). -/
  | ladd (t : GroupRef) (f : RFmt)
  /-- LFIN (R126). -/
  | lfin (t : GroupRef) (f : RFmt) (dst : CvtFmt) (bound : Bool)
  /-- LLD (R126). -/
  | lld (t : GroupRef) (f : MFmt) (isLocal : Bool)
  /-- LST (R126). -/
  | lst (t : GroupRef) (f : MFmt) (isLocal : Bool)
  /-- PHILOX (R132). -/
  | philox (t : GroupRef) (f : RFmt)
  /-- RNG (R132). -/
  | rng (t : GroupRef) (f : RFmt)
  /-- LD (R114). -/
  | ld (t : GroupRef) (f : MFmt)
  /-- ST (R114). -/
  | st (t : GroupRef) (f : MFmt)
  /-- LDL (R113). -/
  | ldl (t : GroupRef) (f : MFmt)
  /-- STL (R113). -/
  | stl (t : GroupRef) (f : MFmt)
  /-- PREF (R137). -/
  | pref (t : GroupRef) (f : MFmt)
  /-- ATOM_ADD (R120). -/
  | atomAdd (t : GroupRef) (f : MFmt) (isLocal : Bool)
  /-- ATOM_AND (R120). -/
  | atomAnd (t : GroupRef) (f : MFmt) (isLocal : Bool)
  /-- ATOM_OR (R120). -/
  | atomOr (t : GroupRef) (f : MFmt) (isLocal : Bool)
  /-- ATOM_XOR (R120). -/
  | atomXor (t : GroupRef) (f : MFmt) (isLocal : Bool)
  /-- ATOM_MIN (R120). -/
  | atomMin (t : GroupRef) (f : MFmt) (isLocal : Bool)
  /-- ATOM_MAX (R120). -/
  | atomMax (t : GroupRef) (f : MFmt) (isLocal : Bool)
  /-- ATOM_XCHG (R120). -/
  | atomXchg (t : GroupRef) (f : MFmt) (isLocal : Bool)
  /-- ATOM_CAS (R120). -/
  | atomCas (t : GroupRef) (f : MFmt) (isLocal : Bool)
  /-- ATOM_FADD (R122). -/
  | atomFadd (t : GroupRef) (f : MFmt) (isLocal : Bool)
  /-- LADD_TO_MEMORY (R123). -/
  | laddToMemory (t : GroupRef) (f : MFmt)
  /-- BNDMAX (R123). -/
  | bndmax (t : GroupRef) (f : MFmt)
  /-- FENCE (R117). -/
  | fence (t : GroupRef) (f : MFmt)
  /-- TIMEBASE_FRAME_ERROR (R361). -/
  | timebaseFrameError
  /-- FUSE_ACK (R469). -/
  | fuseAck (data : W32) (err : Bool)
  /-- FUSE_ACK_TIMEOUT (R469). -/
  | fuseAckTimeout
  /-- STACK_CREDIT_RETURN (R472). -/
  | stackCreditReturn (ch count : Nat)
  /-- HP_MSIX_ACK (R481). -/
  | hpMsixAck
  /-- RECEIVER_LOCK (R355). -/
  | receiverLock (p : Nat)
  /-- TRAINING_FAILED (R357). -/
  | trainingFailed (p : Nat)
  /-- FLIT_SLOT (R334). -/
  | flitSlot (p : Nat)
  /-- CAPACITY_RISE (R266). -/
  | capacityRise (rate : W32)
  /-- WEIR_METER_REFRESH (R253). -/
  | weirMeterRefresh
  /-- ABANDONED_REQUEST_EXPIRY (R183). -/
  | abandonedRequestExpiry (slot gen : Nat)
  /-- UNIT_RESET_END (R427). -/
  | unitResetEnd (herd : Bool) (unit : Nat)
  /-- FOLD_RESET_RESPONSE_LIMIT (R430). -/
  | foldResetResponseLimit (n : Nat)
  /-- TOPOLOGY_AGREEMENT_TIMEOUT (R405). -/
  | topologyAgreementTimeout
  /-- VIRMIN_FAILURE_REPORT (R408). -/
  | virminFailureReport (code : W64)
  deriving DecidableEq, Repr

end Sys2Proof
end

