-- ==== Sys2Proof/Machine/Bits.lean ====
section
/-! DEFINITION. Bit fields, little-endian byte strings (R10), saturating counters, bit masks, and the CRC-64 of R372. -/

namespace Sys2Proof.Machine

/-- Field [lo + len - 1 : lo] of a word, as a number (R10). -/
def field {n : Nat} (d : BitVec n) (lo len : Nat) : Nat := (d.toNat >>> lo) % 2 ^ len

/-- Field [lo + w - 1 : lo] of a word, as bits. -/
def bitsAt {n : Nat} (d : BitVec n) (lo w : Nat) : BitVec w := d.extractLsb' lo w

/-- Bit i of a word. -/
def bitAt {n : Nat} (d : BitVec n) (i : Nat) : Bool := d.getLsbD i

/-- A word with bit i set. -/
def setBit {n : Nat} (d : BitVec n) (i : Nat) : BitVec n := d ||| (1#n <<< i)

/-- A word with bit i clear. -/
def clearBit {n : Nat} (d : BitVec n) (i : Nat) : BitVec n := d &&& ~~~ (1#n <<< i)

/-- A field's value, placed at its position in a wider word. -/
def place {n : Nat} (v : Nat) (lo len : Nat) : BitVec n := BitVec.ofNat n ((v % 2 ^ len) <<< lo)

/-- The indices below n whose bit is set, ascending. -/
def bitList {w : Nat} (n : Nat) (d : BitVec w) : List Nat := (List.range n).filter fun i => d.getLsbD i

/-- How many of the low n bits are set. -/
def countBits {w : Nat} (n : Nat) (d : BitVec w) : Nat := (bitList n d).length

/-- The low n bytes of a number, least significant first (R10). -/
def leBytes (n v : Nat) : List Byte := (List.range n).map fun i => BitVec.ofNat 8 (v >>> (8 * i))

/-- The number a byte string holds, least significant byte first (R10). -/
def ofLe : List Byte → Nat
  | [] => 0
  | b :: bs => b.toNat + 256 * ofLe bs

/-- The number a byte string holds, most significant byte first (R439). -/
def ofBe (bs : List Byte) : Nat := ofLe bs.reverse

/-- The low n bytes of a number, most significant first (R340, R439). -/
def beBytes (n v : Nat) : List Byte := (leBytes n v).reverse

/-- Add to a counter that saturates at its all-ones value. -/
def satAdd {w : Nat} (x : BitVec w) (k : Nat) : BitVec w :=
  if x.toNat + k < 2 ^ w then BitVec.ofNat w (x.toNat + k) else BitVec.allOnes w

/-- Ceiling division. -/
def ceilDiv (a b : Nat) : Nat := (a + b - 1) / b

/-- ceil(log2 n), with ceil(log2 1) = 0 (R58). -/
def clog2 (n : Nat) : Nat := if n ≤ 1 then 0 else Nat.log2 (n - 1) + 1

/-- Signed value of the low w bits of a number. -/
def signed (w v : Nat) : Int := if v % 2 ^ w < 2 ^ (w - 1) then (v % 2 ^ w : Nat) else (v % 2 ^ w : Nat) - (2 ^ w : Nat)

/-- The low w bits of an integer, as a number. -/
def wrapInt (w : Nat) (x : Int) : Nat := (x % ((2 ^ w : Nat) : Int)).toNat

/-- One bit of the reflected CRC-64 (R372). -/
def crcStep (c : Nat) : Nat := if c % 2 = 1 then (c / 2) ^^^ 0xC96C5795D7870F42 else c / 2

/-- One byte of the reflected CRC-64 (R372). -/
def crcByte (c : Nat) (b : Byte) : Nat :=
  crcStep (crcStep (crcStep (crcStep (crcStep (crcStep (crcStep (crcStep (c ^^^ b.toNat))))))))

/-- CRC-64 of a byte string: ECMA-182, reflected, initial value and final inversion all ones (R372). -/
def crc64 (bs : List Byte) : W64 :=
  BitVec.ofNat 64 ((bs.foldl crcByte 0xFFFFFFFFFFFFFFFF) ^^^ 0xFFFFFFFFFFFFFFFF)

/-- One bit of the CRC-16 of polynomial 0x1021, most significant bit first (R361). -/
def crc16Bit (c : BitVec 16) (b : Bool) : BitVec 16 := if c.msb != b then (c <<< 1) ^^^ 0x1021 else c <<< 1

/-- CRC-16 of a word, most significant bit first: initial value 0xFFFF, no reflection, no final inversion (R361). -/
def crc16 {w : Nat} (d : BitVec w) : BitVec 16 := (List.range w).foldl (fun c i => crc16Bit c (d.getLsbD (w - 1 - i))) 0xFFFF

/-- Bytes of a wide word, least significant first. -/
def bytesOf {w : Nat} (n : Nat) (d : BitVec w) : List Byte := leBytes n d.toNat

/-- Append the bytes of a list at an address of a sparse memory, in ascending order. -/
def memWrite (m : Mem) (a : Nat) : List Byte → Mem
  | [] => m
  | b :: bs => memWrite (Tab.set 0 m a b) (a + 1) bs

/-- n bytes of a sparse memory from an address, in ascending order. -/
def memRead (m : Mem) (a n : Nat) : List Byte := (List.range n).map fun i => Tab.get 0 m (a + i)

/-- Remove from a sparse memory every byte of [a, a + n): those bytes then read as 0. -/
def memZero (m : Mem) (a n : Nat) : Mem := m.filter fun c => c.1 < a || a + n ≤ c.1

/-- Replace the element at an index. -/
def listSet {α : Type} : List α → Nat → α → List α
  | [], _, _ => []
  | _ :: xs, 0, y => y :: xs
  | x :: xs, n + 1, y => x :: listSet xs n y

/-- Split a byte string into pieces of n bytes (`fuel` pieces at most). -/
def chunksOf (n : Nat) : Nat → List Byte → List (List Byte)
  | 0, _ => []
  | fuel + 1, bs => if bs.isEmpty then [] else bs.take n :: chunksOf n fuel (bs.drop n)

end Sys2Proof.Machine
end

