-- ==== Sys2Proof/Machine/Numbers.lean ====
section
/-! DEFINITION. Element formats and exact values (R37-R45), rounding and conversion (R63-R65, R131, R509), FP32
arithmetic (R130) and the correctly rounded functions (R128). Every finite value is an integer times a power of two,
so sums and products are exact, and each operation rounds once. -/

namespace Sys2Proof.Machine

/-- A value of a floating-point format: NaN, an infinity, or (-1)^neg × m × 2^e. A zero keeps its sign. -/
inductive Val where
  | nan
  | inf (neg : Bool)
  | fin (neg : Bool) (m : Nat) (e : Int)
  deriving DecidableEq, Repr

/-- A floating-point format (R37): exponent and mantissa bits, bias, whether the all-ones exponent is special, whether
only S.1111.111 is NaN, and the largest finite exponent field and mantissa. -/
structure FpFmt where
  eb : Nat
  mb : Nat
  bias : Int
  ieee : Bool
  oneNan : Bool
  maxE : Nat
  maxM : Nat
  nanBits : Nat
  deriving DecidableEq, Repr

def FpFmt.fp32 : FpFmt := { eb := 8, mb := 23, bias := 127, ieee := true, oneNan := false, maxE := 254, maxM := 0x7FFFFF, nanBits := 0x7FC00000 }
def FpFmt.bf16 : FpFmt := { eb := 8, mb := 7, bias := 127, ieee := true, oneNan := false, maxE := 254, maxM := 0x7F, nanBits := 0x7FC0 }
def FpFmt.fp16 : FpFmt := { eb := 5, mb := 10, bias := 15, ieee := true, oneNan := false, maxE := 30, maxM := 0x3FF, nanBits := 0x7E00 }
def FpFmt.e4m3 : FpFmt := { eb := 4, mb := 3, bias := 7, ieee := false, oneNan := true, maxE := 15, maxM := 6, nanBits := 0x7F }
def FpFmt.e5m2 : FpFmt := { eb := 5, mb := 2, bias := 15, ieee := true, oneNan := false, maxE := 30, maxM := 3, nanBits := 0x7E }
def FpFmt.e2m3 : FpFmt := { eb := 2, mb := 3, bias := 1, ieee := false, oneNan := false, maxE := 3, maxM := 7, nanBits := 0 }
def FpFmt.e3m2 : FpFmt := { eb := 3, mb := 2, bias := 3, ieee := false, oneNan := false, maxE := 7, maxM := 3, nanBits := 0 }
def FpFmt.e2m1 : FpFmt := { eb := 2, mb := 1, bias := 1, ieee := false, oneNan := false, maxE := 3, maxM := 1, nanBits := 0 }

/-- Formats with a NaN encoding (R64). -/
def FpFmt.hasNan (f : FpFmt) : Bool := f.ieee || f.oneNan

/-- The value of an encoding (R37, R38). -/
def FpFmt.decode (f : FpFmt) (x : Nat) : Val :=
  let neg := (x >>> (f.eb + f.mb)) % 2 = 1
  let ef := (x >>> f.mb) % 2 ^ f.eb
  let mf := x % 2 ^ f.mb
  if f.ieee && ef = 2 ^ f.eb - 1 then (if mf = 0 then .inf neg else .nan)
  else if f.oneNan && ef = 2 ^ f.eb - 1 && mf = 2 ^ f.mb - 1 then .nan
  else if ef = 0 then .fin neg mf (1 - f.bias - f.mb)
  else .fin neg (2 ^ f.mb + mf) ((ef : Int) - f.bias - f.mb)

/-- Round m × 2^(-sh) to an integer; `up` says whether a magnitude is raised when something is lost. -/
def roundShift (r : Rounding) (neg : Bool) (m sh : Nat) : Nat :=
  let q := m >>> sh
  let rem := m % 2 ^ sh
  match r with
  | .nearest =>
    if 2 * rem < 2 ^ sh then q else if 2 ^ sh < 2 * rem then q + 1 else if q % 2 = 1 then q + 1 else q
  | .zero => q
  | .down => if neg && rem ≠ 0 then q + 1 else q
  | .up => if !neg && rem ≠ 0 then q + 1 else q

/-- Round a magnitude m × 2^e to the format's precision at unbounded exponent, keeping subnormals: (q, qe). -/
def FpFmt.quantize (f : FpFmt) (r : Rounding) (neg : Bool) (m : Nat) (e : Int) : Nat × Int :=
  if m = 0 then (0, 1 - f.bias - f.mb) else
  let qe := max (e + (Nat.log2 m : Int) - f.mb) (1 - f.bias - f.mb)
  if qe ≤ e then (m <<< (e - qe).toNat, qe)
  else
    let q := roundShift r neg m (qe - e).toNat
    if q = 2 ^ (f.mb + 1) then (2 ^ f.mb, qe + 1) else (q, qe)

/-- Fields of a rounded magnitude: exponent field and mantissa field, not judged against the range. -/
def FpFmt.fields (f : FpFmt) (q : Nat) (qe : Int) : Int × Nat :=
  if q < 2 ^ f.mb then (0, q) else (qe + f.mb + f.bias, q - 2 ^ f.mb)

def FpFmt.signBit (f : FpFmt) (neg : Bool) : Nat := if neg then 2 ^ (f.eb + f.mb) else 0

def FpFmt.maxFinite (f : FpFmt) (neg : Bool) : Nat := f.signBit neg + f.maxE * 2 ^ f.mb + f.maxM

def FpFmt.infinity (f : FpFmt) (neg : Bool) : Nat := f.signBit neg + (2 ^ f.eb - 1) * 2 ^ f.mb

/-- What to write when a rounded magnitude exceeds the largest finite value. -/
inductive Overflow where
  | toMax | ieee (r : Rounding) | nan
  deriving DecidableEq, Repr

/-- Encode a finite value: bits and whether it lay beyond the largest finite value. A zero result is +0 unless `keepZero`. -/
def FpFmt.encode (f : FpFmt) (r : Rounding) (ov : Overflow) (keepZero : Bool) (neg : Bool) (m : Nat) (e : Int) : Nat × Bool :=
  let (q, qe) := f.quantize r neg m e
  if q = 0 then ((if keepZero then f.signBit neg else 0), false) else
  let (ef, mf) := f.fields q qe
  if (f.maxE : Int) < ef ∨ ((f.maxE : Int) = ef ∧ f.maxM < mf) then
    (match ov with
      | .toMax => (f.maxFinite neg, true)
      | .nan => (f.nanBits, true)
      | .ieee .nearest => (f.infinity neg, true)
      | .ieee .zero => (f.maxFinite neg, true)
      | .ieee .down => ((if neg then f.infinity neg else f.maxFinite neg), true)
      | .ieee .up => ((if neg then f.maxFinite neg else f.infinity neg), true))
  else (f.signBit neg + ef.toNat * 2 ^ f.mb + mf, false)

/-! ### Exact values -/

/-- Exact product, with the IEEE 754 rules for special operands (R43, R45). -/
def Val.mul : Val → Val → Val
  | .nan, _ => .nan
  | _, .nan => .nan
  | .inf a, .inf b => .inf (a != b)
  | .inf a, .fin b m _ => if m = 0 then .nan else .inf (a != b)
  | .fin a m _, .inf b => if m = 0 then .nan else .inf (a != b)
  | .fin a m e, .fin b n f => .fin (a != b) (m * n) (e + f)

def Val.neg : Val → Val
  | .nan => .nan
  | .inf a => .inf (!a)
  | .fin a m e => .fin (!a) m e

def Val.abs : Val → Val
  | .nan => .nan
  | .inf _ => .inf false
  | .fin _ m e => .fin false m e

/-- Signed integer numerator of a finite value. -/
def sgn (neg : Bool) (m : Nat) : Int := if neg then -(m : Int) else m

/-- Exact sum of two finite values as (numerator, exponent). -/
def exactAdd (x : Int) (e : Int) (y : Int) (f : Int) : Int × Int :=
  if e ≤ f then (x + y * (2 ^ (f - e).toNat : Nat), e) else (x * (2 ^ (e - f).toNat : Nat) + y, f)

/-- Exact sum with the IEEE 754 rules for special operands; an exact zero sum of unlike signs is +0 (R45, R130). -/
def Val.add : Val → Val → Val
  | .nan, _ => .nan
  | _, .nan => .nan
  | .inf a, .inf b => if a = b then .inf a else .nan
  | .inf a, .fin .. => .inf a
  | .fin .., .inf b => .inf b
  | .fin a m e, .fin b n f =>
    if m = 0 ∧ n = 0 then .fin (a && b) 0 0 else
    let (s, g) := exactAdd (sgn a m) e (sgn b n) f
    .fin (decide (s < 0)) s.natAbs g

/-- FP32 result of an exact value: one rounding to nearest even, overflow to infinity, canonical NaN (R130). -/
def toFp32 : Val → W32
  | .nan => 0x7FC00000
  | .inf neg => BitVec.ofNat 32 (FpFmt.fp32.infinity neg)
  | .fin neg m e => BitVec.ofNat 32 (FpFmt.fp32.encode .nearest (.ieee .nearest) true neg m e).1

def ofFp32 (x : W32) : Val := FpFmt.fp32.decode x.toNat

/-- One FP32 addition of a fast-mode accumulator (R44): the exact sum, rounded once to FP32. -/
def fastAdd (a b : Val) : Val := ofFp32 (toFp32 (Val.add a b))

def fp32Add (a b : Val) : W32 := toFp32 (Val.add a b)
def fp32Mul (a b : Val) : W32 := toFp32 (Val.mul a b)
def fp32Fma (a b c : Val) : W32 := toFp32 (Val.add (Val.mul a b) c)

/-- Order of two non-NaN values, with -0 equal to +0: negative, zero or positive. -/
def Val.cmp : Val → Val → Ordering
  | .inf a, .inf b => if a = b then .eq else if a then .lt else .gt
  | .inf a, _ => if a then .lt else .gt
  | _, .inf b => if b then .gt else .lt
  | .fin a m e, .fin b n f =>
    let (s, _) := exactAdd (sgn a m) e (-(sgn b n)) f
    if s < 0 then .lt else if s = 0 then .eq else .gt
  | _, _ => .eq

def Val.isNan : Val → Bool
  | .nan => true
  | _ => false

def Val.isZero : Val → Bool
  | .fin _ 0 _ => true
  | _ => false

def Val.isNeg : Val → Bool
  | .nan => false
  | .inf a => a
  | .fin a _ _ => a

/-- FMIN and FMAX (R130): the non-NaN operand when exactly one is NaN; -0 below +0; NaN results are canonical. -/
def fp32MinMax (isMax : Bool) (x y : W32) : W32 :=
  let a := ofFp32 x
  let b := ofFp32 y
  match a.isNan, b.isNan with
  | true, true => 0x7FC00000
  | true, false => y
  | false, true => x
  | false, false =>
    match Val.cmp a b with
    | .lt => if isMax then y else x
    | .gt => if isMax then x else y
    | .eq => if a.isNeg != isMax then x else y

/-- FSETP (R130): IEEE 754 comparison, NaN unordered. -/
def fp32Compare (c : CmpOp) (a b : Val) : Bool :=
  if a.isNan || b.isNan then (match c with | .ne => true | .unordered => true | _ => false)
  else
    match c, Val.cmp a b with
    | .eq, o => o = .eq
    | .ne, o => o ≠ .eq
    | .lt, o => o = .lt
    | .le, o => o ≠ .gt
    | .gt, o => o = .gt
    | .ge, o => o ≠ .lt
    | .unordered, _ => false

/-! ### Conversions of CVT (R131) and of the epilogue (R64) -/

def cvtBits : CvtFmt → Nat
  | .fp32 => 32 | .bf16 => 16 | .fp16 => 16 | .e4m3 => 8 | .e5m2 => 8 | .e2m3 => 6 | .e3m2 => 6 | .e2m1 => 4
  | .int8 => 8 | .int4 => 4 | .int32 => 32

def cvtFp : CvtFmt → Option FpFmt
  | .fp32 => some .fp32 | .bf16 => some .bf16 | .fp16 => some .fp16 | .e4m3 => some .e4m3 | .e5m2 => some .e5m2
  | .e2m3 => some .e2m3 | .e3m2 => some .e3m2 | .e2m1 => some .e2m1 | .int8 => none | .int4 => none | .int32 => none

/-- The value of an element of a format. -/
def cvtDecode (f : CvtFmt) (x : Nat) : Val :=
  match cvtFp f with
  | some g => g.decode x
  | none =>
    let v := signed (cvtBits f) x
    .fin (decide (v < 0)) v.natAbs 0

/-- Round a finite value to an integer of w bits, saturating at the format's ends: bits, and whether it lay beyond. -/
def toInt (w : Nat) (r : Rounding) (neg : Bool) (m : Nat) (e : Int) : Nat × Bool :=
  let q := if 0 ≤ e then m <<< e.toNat else roundShift r neg m (-e).toNat
  let v := sgn neg q
  let hi : Int := (2 ^ (w - 1) : Nat) - 1
  let lo : Int := -((2 ^ (w - 1) : Nat) : Int)
  if hi < v then (wrapInt w hi, true) else if v < lo then (wrapInt w lo, true) else (wrapInt w v, false)

def intEnd (w : Nat) (neg : Bool) : Nat := if neg then 2 ^ (w - 1) else 2 ^ (w - 1) - 1

/-- CVT of a value to a format under a rounding, with or without saturation (R131). -/
def cvt (dst : CvtFmt) (r : Rounding) (sat : Bool) (v : Val) : Nat :=
  match cvtFp dst, v with
  | some g, .nan => if g.hasNan then g.nanBits else 0
  | some g, .inf neg => if g.ieee && !sat then g.infinity neg else g.maxFinite neg
  | some g, .fin neg m e =>
    let ov : Overflow := if sat then .toMax else if g.ieee then .ieee r else if g.oneNan then .nan else .toMax
    (g.encode r ov true neg m e).1
  | none, .nan => 0
  | none, .inf neg => intEnd (cvtBits dst) neg
  | none, .fin neg m e => (toInt (cvtBits dst) r neg m e).1

/-- Conversion of an accumulator's condition, already scaled, to an output format under the rows of R64: bits, whether
the first row applied, whether the element saturated on the last row. -/
def convertOut (dst : CvtFmt) (v : Val) : Nat × Bool × Bool :=
  match cvtFp dst, v with
  | some g, .nan => ((if g.hasNan then g.nanBits else 0), true, false)
  | some g, .inf neg => ((if g.ieee then g.infinity neg else g.maxFinite neg), false, false)
  | some g, .fin neg m e => let (b, s) := g.encode .nearest .toMax true neg m e; ((if m = 0 then 0 else zeroSign g b), false, s)
  | none, .nan => (0, true, false)
  | none, .inf neg => (intEnd (cvtBits dst) neg, false, false)
  | none, .fin neg m e => let (b, s) := toInt (cvtBits dst) .nearest neg m e; (b, false, s)
where
  /-- A result that rounds to zero is written as +0 (R64). -/
  zeroSign (g : FpFmt) (b : Nat) : Nat := if b % 2 ^ (g.eb + g.mb) = 0 then 0 else b

/-- floor(log2 |y|) + 1 of a non-zero finite value. -/
def Val.log2Succ : Val → Option Int
  | .fin _ m e => if m = 0 then none else some ((Nat.log2 m : Int) + e + 1)
  | _ => none

/-- Bound contribution of a written element (R60, R126): none for zero, 511 for NaN or infinity. -/
def boundOf (v : Val) : Option Int :=
  match v with
  | .fin .. => v.log2Succ
  | _ => some 511

/-! ### Correctly rounded functions (R128). Each returns the FP32 value nearest to the exact result. -/

/-- Round the positive rational n / d to FP32 bits: the quotient to 64 bits below the unit, with the lost part kept
as one more bit that is never a tie. -/
def ratToFp32 (neg : Bool) (n d : Nat) (e : Int) : W32 :=
  let sh := 64 + Nat.log2 d
  let q := (n <<< sh) / d
  let lost := (n <<< sh) % d ≠ 0
  toFp32 (.fin neg (2 * q + (if lost then 1 else 0)) (e - sh - 1))

/-- RCP (R128). -/
def rcp : Val → W32
  | .nan => 0x7FC00000
  | .inf neg => if neg then 0x80000000 else 0
  | .fin neg m e => if m = 0 then BitVec.ofNat 32 (FpFmt.fp32.infinity neg) else ratToFp32 neg 1 m (-e)

/-- Square root of m × 2^e to FP32: integer square root with 40 extra digits and a sticky bit. -/
def sqrtBits (m : Nat) (e : Int) : W32 :=
  let e' := if e % 2 = 0 then e else e - 1
  let m' := if e % 2 = 0 then m else 2 * m
  let big := m' <<< 160
  let q := Nat.sqrt big
  toFp32 (.fin false (2 * q + (if q * q = big then 0 else 1)) (e' / 2 - 81))

/-- SQRT (R128). -/
def sqrt32 : Val → W32
  | .nan => 0x7FC00000
  | .inf neg => if neg then 0x7FC00000 else 0x7F800000
  | .fin neg m e => if m = 0 then (if neg then 0x80000000 else 0) else if neg then 0x7FC00000 else sqrtBits m e

/-- RSQ (R128): 1 / sqrt x = sqrt (1 / x), the quotient taken to 400 digits. -/
def rsq32 : Val → W32
  | .nan => 0x7FC00000
  | .inf neg => if neg then 0x7FC00000 else 0
  | .fin neg m e =>
    if m = 0 then BitVec.ofNat 32 (FpFmt.fp32.infinity neg) else if neg then 0x7FC00000 else
    let e' := if e % 2 = 0 then e else e - 1
    let m' := if e % 2 = 0 then m else 2 * m
    let big := (1 <<< 400) / m'
    let q := Nat.sqrt big
    toFp32 (.fin false (2 * q + (if q * q * m' = 1 <<< 400 then 0 else 1)) (-(e' / 2) - 201))

/-- Fixed point with 192 fractional bits. -/
def fxBits : Nat := 192

/-- Sum of the first n terms of exp on [0, 1): t is the running term, all in fixed point. -/
def expSeries (y : Nat) : Nat → Nat → Nat → Nat → Nat
  | 0, _, _, acc => acc
  | n + 1, k, t, acc => let t' := ((t * y) >>> fxBits) / k; expSeries y n (k + 1) t' (acc + t')

/-- Sum of the atanh series: z odd powers over odd numbers. -/
def atanhSeries (z2 : Nat) : Nat → Nat → Nat → Nat → Nat
  | 0, _, _, acc => acc
  | n + 1, k, t, acc => atanhSeries z2 n (k + 2) ((t * z2) >>> fxBits) (acc + t / k)

/-- ln 2 in fixed point: 2 atanh (1/3). -/
def fxLn2 : Nat :=
  let z := (1 <<< fxBits) / 3
  2 * atanhSeries ((z * z) >>> fxBits) 70 1 z 0

/-- 2^f for f in [0, 1), fixed point. -/
def fxExp2 (f : Nat) : Nat := expSeries ((f * fxLn2) >>> fxBits) 60 1 (1 <<< fxBits) (1 <<< fxBits)

/-- log2 x for x in [1, 2), fixed point: ln x = 2 atanh ((x - 1) / (x + 1)). -/
def fxLog2 (x : Nat) : Nat :=
  let one := 1 <<< fxBits
  let z := ((x - one) <<< fxBits) / (x + one)
  let ln := 2 * atanhSeries ((z * z) >>> fxBits) 130 1 z 0
  (ln <<< fxBits) / fxLn2

/-- EX2 (R128). Arguments past ±256 overflow or round to zero; an integer argument is exact; otherwise the exact
result is irrational, and 192-bit fixed point decides the rounding (log entry 13). -/
def ex2 : Val → W32
  | .nan => 0x7FC00000
  | .inf neg => if neg then 0 else 0x7F800000
  | .fin neg m e =>
    if m = 0 then 0x3F800000 else
    if 9 < (Nat.log2 m : Int) + e then (if neg then 0 else 0x7F800000) else
    -- the fixed-point value, rounded toward zero; digits below 2^-192 cannot reach a rounding boundary
    let mag := if 0 ≤ e + fxBits then m <<< (e + fxBits).toNat else m >>> (-(e + fxBits)).toNat
    let x : Int := sgn neg mag
    let k := x / ((1 <<< fxBits : Nat) : Int)
    let f := (x % ((1 <<< fxBits : Nat) : Int)).toNat
    if f = 0 ∧ 0 ≤ e + fxBits then toFp32 (.fin false 1 k)
    else if f = 0 then (if neg then 0x3F800000 else 0x3F800000)
    else toFp32 (.fin false (2 * fxExp2 f + 1) (k - fxBits - 1))

/-- LG2 (R128): LG2(1) is +0; powers of two are exact; otherwise 192-bit fixed point decides (log entry 13). -/
def lg2 : Val → W32
  | .nan => 0x7FC00000
  | .inf neg => if neg then 0x7FC00000 else 0x7F800000
  | .fin neg m e =>
    if m = 0 then 0xFF800000 else if neg then 0x7FC00000 else
    let k : Int := (Nat.log2 m : Int) + e
    let frac := (m <<< fxBits) >>> Nat.log2 m
    if m = 2 ^ Nat.log2 m then (if k = 0 then 0 else toFp32 (.fin (decide (k < 0)) k.natAbs 0))
    else
      let v : Int := k * ((1 <<< fxBits : Nat) : Int) + (fxLog2 frac : Nat)
      toFp32 (.fin (decide (v < 0)) (2 * v.natAbs + 1) (-(fxBits : Int) - 1))

/-- A value lies within half the relative error 2^-21 of the correctly rounded result (R129; log entry 96). -/
def approxOk (exact free : W32) : Bool :=
  match ofFp32 exact, ofFp32 free with
  | .fin a m e, .fin b n f =>
    let (d, g) := exactAdd (sgn a m) e (-(sgn b n)) f
    -- |d| × 2^g × 2^22 < m × 2^e, half the bound, so that the rounding of `exact` cannot exceed it
    decide (Val.cmp (.fin false (d.natAbs * 2 ^ 22) g) (.fin false m e) = .lt)
  | _, _ => false

/-- An approximate function's result: the free value where the bound allows it, else the nearest value (R129). -/
def approx (exact free : W32) : W32 := if approxOk exact free then free else exact

/-! ### Philox-4x32-10 (R132) -/

/-- One round. -/
def philoxRound (c : W32 × W32 × W32 × W32) (k0 k1 : W32) : W32 × W32 × W32 × W32 :=
  let p := 0xD2511F53 * c.1.toNat
  let q := 0xCD9E8D57 * c.2.2.1.toNat
  (BitVec.ofNat 32 (q >>> 32) ^^^ c.2.1 ^^^ k0, BitVec.ofNat 32 q,
   BitVec.ofNat 32 (p >>> 32) ^^^ c.2.2.2 ^^^ k1, BitVec.ofNat 32 p)

def philoxRounds : Nat → W32 × W32 × W32 × W32 → W32 → W32 → W32 × W32 × W32 × W32
  | 0, c, _, _ => c
  | n + 1, c, k0, k1 => philoxRounds n (philoxRound c k0 k1) (k0 + 0x9E3779B9) (k1 + 0xBB67AE85)

/-- The generator: ten rounds, the key raised between rounds (R132). -/
def philox (c0 c1 c2 c3 k0 k1 : W32) : W32 × W32 × W32 × W32 := philoxRounds 10 (c0, c1, c2, c3) k0 k1

end Sys2Proof.Machine
end

