-- ==== Sys2Proof/Machine/Flags.lean ====
section
/-! DEFINITION. The ledger and its sticky flags: placing and accumulating terms (R46-R51), the final value (R52), the
container (R53), container addition (R54), anchors (R57-R62), conversion with its precedence (R64, R509) and MX output
(R65). -/

namespace Sys2Proof.Machine

/-- A ledger: V modulo 2^160, anchor, term count, flags (bit 0 RANGE, 1 NAN, 2 PINF, 3 NINF, 4 TRUNC, 5 MISMATCH),
arithmetic profile (R47, R53). -/
structure Ledger where
  v : BitVec 160
  a : Int
  count : Nat
  flags : BitVec 6
  profile : Byte
  deriving DecidableEq, Repr

/-- Every field at its reset value, for an anchor (R53). -/
def Ledger.empty (a : Int) : Ledger := { v := 0, a := a, count := 0, flags := 0, profile := 1 }

def flRange : Nat := 0
def flNan : Nat := 1
def flPinf : Nat := 2
def flNinf : Nat := 3
def flTrunc : Nat := 4
def flMismatch : Nat := 5

/-- Set a sticky flag. -/
def Ledger.raise (l : Ledger) (i : Nat) : Ledger := { l with flags := setBit l.flags i }
def Ledger.has (l : Ledger) (i : Nat) : Bool := bitAt l.flags i

/-- The largest count a ledger holds. -/
def countMax : Nat := 2 ^ 40 - 1

/-- |m × 2^e| is at least 2^k. -/
def magAtLeast (m : Nat) (e k : Int) : Bool := m != 0 && decide (k ≤ (Nat.log2 m : Int) + e)

/-- Place a finite term on the grid of an anchor: the placed value, RANGE, TRUNC (R48, R49). -/
def placeTerm (neg : Bool) (m : Nat) (e a : Int) : Int × Bool × Bool :=
  if magAtLeast m e (a + 31) then ((if neg then -(2 ^ 127 : Int) else 2 ^ 127 - 1), true, false)
  else
    let sh := e - (a - 96)
    if 0 ≤ sh then (sgn neg m * 2 ^ sh.toNat, false, false)
    else
      let d : Int := 2 ^ (-sh).toNat
      (sgn neg m / d, false, decide (sgn neg m % d ≠ 0))

/-- Add one term, whatever its value (R48-R51). -/
def Ledger.accumulate (l : Ledger) (p : Val) : Ledger :=
  let l1 := { l with count := min (l.count + 1) countMax }
  match p with
  | .nan => l1.raise flNan
  | .inf neg => l1.raise (if neg then flNinf else flPinf)
  | .fin neg m e =>
    let (t, range, trunc) := placeTerm neg m e l.a
    let l2 := { l1 with v := l1.v + BitVec.ofInt 160 t }
    let l3 := if range then l2.raise flRange else l2
    if trunc then l3.raise flTrunc else l3

/-- Container addition (R54). -/
def Ledger.add (x y : Ledger) : Ledger :=
  let fl := x.flags ||| y.flags
  let n := min (x.count + y.count) countMax
  if x.a ≠ y.a ∨ x.profile ≠ 1 ∨ y.profile ≠ 1 ∨ x.has flMismatch ∨ y.has flMismatch then
    { v := 0, a := min x.a y.a, count := n, flags := setBit fl flMismatch, profile := 1 }
  else { v := x.v + y.v, a := x.a, count := n, flags := fl, profile := x.profile }

/-- The container layout (R53). -/
def Ledger.pack (l : Ledger) : BitVec 256 :=
  place l.v.toNat 0 160 ||| place (wrapInt 10 l.a) 160 10 ||| place l.count 176 40 ||| place l.flags.toNat 216 6 |||
    place l.profile.toNat 224 8

def unpackLedger (c : BitVec 256) : Ledger :=
  { v := bitsAt c 0 160, a := signed 10 (field c 160 10), count := field c 176 40, flags := bitsAt c 216 6,
    profile := bitsAt c 224 8 }

def ledgerOfBytes (bs : List Byte) : Ledger := unpackLedger (BitVec.ofNat 256 (ofLe bs))
def Ledger.bytes (l : Ledger) : List Byte := bytesOf 32 l.pack

/-- The final integer and whether it lay out of range (R52). -/
def Ledger.final (l : Ledger) : Int × Bool :=
  let v := l.v.toInt
  if v < -(2 ^ 127 : Int) ∨ 2 ^ 127 - 1 < v ∨ 2 ^ 32 < l.count then
    ((if bitAt l.v 159 then -(2 ^ 127 : Int) else 2 ^ 127 - 1), true)
  else (v, false)

/-- The container shows MISMATCH (R56). -/
def Ledger.mismatched (l : Ledger) : Bool := l.has flMismatch || l.profile != 1

/-- The input condition of a ledger (R509 step 1), and whether RANGE makes the task report it. -/
def Ledger.condition (l : Ledger) : Val × Bool :=
  let (v, range) := l.final
  let r := l.has flRange || range
  if l.mismatched || l.has flNan || (l.has flPinf && l.has flNinf) then (.nan, r)
  else if l.has flPinf then (.inf false, r)
  else if l.has flNinf then (.inf true, r)
  else (.fin (decide (v < 0)) v.natAbs (l.a - 96), r)

/-! ### Anchors -/

/-- Header-mode anchor: the anchor, and RANGE when it was clamped from above (R58, R61). -/
def headerAnchor (ba bb : Int) (kTotal : Nat) : Int × Bool :=
  if ba = -512 ∨ bb = -512 then (-512, false)
  else
    let a := ba + bb + (clog2 kTotal : Int) + 1
    if 511 < a then (511, true) else if a < -512 then (-512, false) else (a, false)

/-- An element breaks its header bound (R59). An infinite or NaN element is not judged against it (DESIGN CHOICE: the rule speaks of
magnitudes and does not say whether such an element counts; log entry 126). -/
def breaksBound (v : Val) (bound : Int) : Bool :=
  match v with
  | .fin _ m e => magAtLeast m e bound
  | _ => false

/-! ### Writing an MX block (R65) -/

/-- emax of an element format. -/
def emaxOf (f : CvtFmt) : Int :=
  match f with
  | .e4m3 => 8
  | .e5m2 => 15
  | .e2m3 => 2
  | .e3m2 => 4
  | _ => 2

/-- Convert 32 values: the scale byte, the element bits, and how many saturated. -/
def mxBlock (f : CvtFmt) (vs : List Val) : Byte × List Nat × Nat :=
  let special := vs.any fun v => match v with | .fin .. => false | _ => true
  if special then (0xFF, vs.map fun _ => 0, 0)
  else
    match (vs.filterMap Val.log2Succ).max? with
    | none => (0, vs.map fun _ => 0, 0)
    | some top =>
      let s := max 0 (min 0xFE (top - 1 - emaxOf f + 127))
      let outs := vs.map fun v =>
        match v with
        | .fin neg m e => convertOut f (.fin neg m (e - (s - 127)))
        | w => convertOut f w
      (BitVec.ofInt 8 s, outs.map fun o => o.1, (outs.filter fun o => o.2.2).length)

/-- The value an MX element holds under its block's scale (R41, R42). -/
def mxValue (scale : Byte) (v : Val) : Val :=
  if scale = 0xFF then .nan
  else match v with
    | .fin neg m e => .fin neg m (e + (scale.toNat : Int) - 127)
    | w => w

end Sys2Proof.Machine
end

