-- ==== Sys2Proof/Machine/State.lean ====
section
/-! DEFINITION. The state of one Holtofer 3.2 block, as plain data: every register, queue, buffer, counter, mode and pin
the manual gives it, the queue of commands that wait, and the memories its requests reach. Each field cites the rule
that gives it; INVENTORY.md lists them with their reset values. -/

namespace Sys2Proof.Machine

/-- Why a command of the block has no defined behaviour. -/
inductive Fault where
  /-- The surroundings broke a duty in a way the block cannot detect, so that the manual defines no behaviour (R2).
  Raised by an event at a port that answers nothing the block asked. Safe: the model stops. -/
  | breach (duty : String)
  deriving DecidableEq, Repr

/-- Why a command is turned away. -/
inductive Refusal where
  /-- No meaning yet. Raised by no meaning. Safe. -/
  | notModelled (mnemonic : String)
  /-- The command is not one the row names: its descriptor or request carries another opcode or op. Safe. -/
  | illFormed (mnemonic : String)
  deriving DecidableEq, Repr

/-! ### Boot, identity, management (R392-R406, R438-R452, R485-R489) -/

/-- 0x1001.01 (R406). -/
inductive InstState where
  | booting | ready | degraded | failed
  deriving DecidableEq, Repr

/-- Entries 0x1001, 0x1002, 0x7000 and what the loader holds during a boot (R392-R406, R495). -/
structure Boot where
  state : InstState
  degradedCause : Byte
  failCause : Byte
  hold : Byte
  locked : Bool
  source : Byte
  step : Byte
  bundleAddr : W64
  bundleLen : W32
  chunks : List Byte
  goDone : Bool
  fuseMap : BitVec 768
  testFail : BitVec 768
  discrepancies : W16
  compat : Byte
  topoAgreed : Byte
  virminVersion : W32
  readyTime : W64
  image : List Byte
  licences : List (List Byte)
  retained : Option (List Byte)
  blobs : Option (List Byte)
  topo : Option (List Byte)
  resetting : Bool
  topoAt : Nat
  deriving DecidableEq, Repr

/-- The FUSE_* pins and the words read (R468, R469). -/
structure Fuse where
  reading : Bool
  addr : Byte
  sealed : Bool
  readAt : Nat
  words : Tab W32
  deriving DecidableEq, Repr

/-- Entries 0x1010 and 0x1800, and the identity key store (R440-R452). -/
structure Ident where
  idState : Byte
  instanceIdentity : List Byte
  deviceIdPub : List Byte
  aliasPub : List Byte
  measurement : List Byte
  deviceSerial : List Byte
  deviceCertDer : List Byte
  aliasCertDer : List Byte
  rootDer : List Byte
  interDer : List Byte
  devKey : Nat
  aliasKey : Nat
  features : W64
  accepted : Byte
  status : Tab Byte
  measured3 : List Byte
  deriving DecidableEq, Repr

/-- One SPDM connection: how far negotiation went, and the sessions open on it (R446). -/
structure SpdmConn where
  version : Bool
  caps : Bool
  algs : Bool
  opening : List Nat
  sessions : List Nat
  lastUse : W64
  transcript : Nat
  deriving DecidableEq, Repr

/-- Entry 0x1100, the MCTP endpoint and its waiting responses, each with the REFCLK_100 cycle it waits from (R485-R487,
R498). -/
structure Mgmt where
  dynAddr : Byte
  eid : Byte
  busOwner : Byte
  node : W32
  discarded : W32
  ibiCount : W32
  responses : List (Nat × List Byte)
  deriving DecidableEq, Repr

/-- Entry 0x7100 and the test access port (R488, R489, R500). -/
structure Debug where
  enable : Bool
  accesses : W32
  ir : Byte
  bypassBit : Bool
  boundary : W64
  driving : Bool
  dictReg : BitVec 96
  deriving DecidableEq, Repr

/-- 0x2000.01 to .09 and the units out of use (R399-R403, R434). -/
structure LogMap where
  licensed : Nat
  minimum : Nat
  map : Tab W16
  retired : BitVec 768
  unusable : BitVec 768
  retireVector : W16
  retirements : W32
  deriving DecidableEq, Repr

/-! ### Power, clocks, pins (R35, R384-R391, R459-R467) -/

/-- Entries 0x5000 and 0x5100, the clocks, the domain pins: requests with the cycles they rose at, and the domains that are
powered down until they return to service (R34, R384, R459). `powArr` to `heatHerd` are the clocks in MHz that the power limit and
the thermal limit allow, the lower of which applies; `overPower` says that the estimate has passed the limit and not fallen below
it since; `underLimit` and `coolFor` count the updates that allow a step up (R35, R390). -/
structure Power where
  powerLimit : W16
  domainsOn : BitVec 128
  requests : BitVec 128
  reqAt : Tab Nat
  wanted : List (Nat × Nat)
  nextReq : Nat
  down : BitVec 128
  domainFailures : W32
  brownouts : W32
  warnVector : W16
  hysteresis : W16
  pwrWarnEvents : W32
  warn : Tab W16
  reset : Tab W16
  throttle : W16
  critical : W16
  shutdown : W16
  tNow : W16
  throttleEvents : W32
  criticalEvents : W32
  thermalVector : W16
  clkArr : Nat
  clkHerd : Nat
  powArr : Nat
  powHerd : Nat
  heatArr : Nat
  heatHerd : Nat
  overPower : Bool
  underLimit : Nat
  coolFor : Nat
  brownout : Bool
  aboveThrottle : Bool
  aboveCritical : Bool
  deriving DecidableEq, Repr

/-- Sideband pins the block drives or sees (R462, R465, R467); the cycles of the last edge of ALIVE_OUT and of the last
refresh of the drover watchdog (R419, R420). -/
structure Pins where
  resetLow : Bool
  alive : Bool
  toggling : Bool
  pwrCycReq : Bool
  flr : Bool
  aliveAt : Nat
  watchdog : Nat
  deriving DecidableEq, Repr

/-- What the surroundings and the silicon are, as tests and training find it: the units that fail known-answer tests,
those that fail training, the installed far memory and its rate. The model's own field (log entry 4). -/
structure Plant where
  katFail : BitVec 768
  trainFail : BitVec 768
  farSize : Nat
  farCap : W32
  deriving DecidableEq, Repr

/-! ### Memory, translation, protection (R142-R170) -/

/-- The kinds of translation and protection fault (R166). -/
inductive FaultKind where
  | notPresent | writeDenied | execDenied | highBits | format | windowInvalid | access | remoteRefused
  deriving DecidableEq, Repr

/-- The kind of an access (R166). -/
inductive AccessKind where
  | read | write | atomic | fetch
  deriving DecidableEq, Repr

/-- Who waits on a translation (R163, R164). -/
inductive Requester where
  | task (uid : Nat)
  | group (t : GroupRef)
  | move (uid : Nat)
  | fence (uid : Nat)
  deriving DecidableEq, Repr

/-- A TLB entry: one leaf, tagged by slot and generation (R150); `place` is the paddock, or 8 + the MMU. -/
structure TlbEntry where
  place : Nat
  slot : Nat
  gen : Nat
  va : Nat
  size : Nat
  pa : Nat
  write : Bool
  noexec : Bool
  deriving DecidableEq, Repr

/-- A walk-cache entry: the table found below a level (R150). -/
structure WalkEntry where
  mmu : Nat
  level : Nat
  slot : Nat
  gen : Nat
  va : Nat
  table : Nat
  deriving DecidableEq, Repr

/-- A pending-fault entry (R163, R166). -/
structure PendingFault where
  idx : Nat
  seq : Byte
  tag : W16
  page : Nat
  kind : FaultKind
  access : AccessKind
  master : W16
  level : Nat
  pasid : BitVec 20
  time : W64
  count : W32
  waiters : List Requester
  written : Bool
  deriving DecidableEq, Repr

/-- What keeps a translation epoch from draining (R160). -/
inductive HolderOwner where
  | request (id : Nat)
  | task (uid : Nat)
  | remote (fold : Nat) (seq : W32)
  deriving DecidableEq, Repr

/-- One holder of a translation epoch (R160). -/
structure Holder where
  epoch : Nat
  tag : W16
  owner : HolderOwner
  deriving DecidableEq, Repr

/-- A request in flight (R160, R258, R259), of a queue of an HQI (R174); `pc` is the address of the instruction that made it
(R138). -/
structure Req where
  id : Nat
  tag : W16
  cls : Nat
  uid : Nat
  master : W16
  admitted : W64
  bytes : Nat
  frame : Option Nat
  address : Nat
  grp : Option GroupRef
  pc : W64
  hqi : Nat
  abandoned : Bool
  deriving DecidableEq, Repr

/-- The unit on whose behalf memory is accessed: the command it works for, its master identity, and the group of a herd
core with the address of its instruction. -/
structure Agent where
  uid : Nat
  master : W16
  grp : Option GroupRef
  pc : W64
  deriving DecidableEq, Repr

/-- A request held at its weir (R258, R262, R271): who asks, its tag, meter key, target unit and class, and since when. -/
structure Held where
  uid : Nat
  grp : Option GroupRef
  tag : W16
  key : Nat
  unit : Nat
  lc : Bool
  since : W64
  deriving DecidableEq, Repr

/-- 0x2000.20 to .28, the TLBs, the translation epoch and the pending-fault table (R144-R166). `lastVa` is the address
translated last and `walked` the table level at which its walk stopped, 0 where a TLB answered (R148, R166);
`agent` is who accesses memory now, `held` the requests held at weirs. -/
structure Xlate where
  localBase : W64
  farSize : Nat
  ptLevels : Byte
  pteBits : Tab Byte
  faultParked : W32
  tlb : List TlbEntry
  walks : List WalkEntry
  epoch : Nat
  lastVa : Nat
  walked : Nat
  agent : Option Agent
  held : List Held
  holders : List Holder
  reqs : List Req
  nextReq : Nat
  pending : List PendingFault
  pendSeq : Tab Byte
  parked : List (Requester × Nat)
  frames : Tab Byte
  keyOf : Tab Nat
  nextKey : Nat
  keySlots : Tab Nat
  filling : List FillUnit
  deriving DecidableEq, Repr

/-! ### Folds, weirs, the model cache (R216, R225-R271) -/

/-- Fold states (R233). -/
inductive FoldState where
  | free | pending | active | frozen | closing | disabled | scrubbing | resetting
  deriving DecidableEq, Repr

/-- One weir class's settings (R255). -/
structure WeirSet where
  guarantee : W32
  ceiling : W32
  target : W32
  rank : Byte
  prio : Byte
  deriving DecidableEq, Repr

/-- What a fold is or is to become: the staged values and those in force (R225, R255). -/
structure FoldRes where
  role : Byte
  sealed : Bool
  padded : Bool
  keyed : Bool
  engines : W32
  halfGroups : W16
  tarnUnits : BitVec 512
  pondUnits : BitVec 256
  ctxQuota : W16
  queueQuota : W16
  semQuota : W16
  waitQuota : W16
  peers : Tab W32
  cacheWays : W16
  weirs : Tab WeirSet
  deriving DecidableEq, Repr

/-- One fold class's meter and figures (R255, R258-R262). -/
structure Meter where
  gTokens : Int
  cTokens : Int
  honoured : Bool
  honoured1 : Bool
  ewma : Nat
  misses : W32
  bytesLast : W64
  bytesNow : Nat
  winBytes : Nat
  winHeld : Nat
  announced : Bool
  deriving DecidableEq, Repr

/-- A model cache directory entry (R216, R220): state 1 loading, 2 resident, 3 parked. -/
structure Model where
  id : W64
  home : Nat
  state : Nat
  length : Nat
  digest : W64
  src : W64
  loader : W16
  lastDispatch : W64
  written : List Nat
  saved : List Nat
  deriving DecidableEq, Repr

/-- Figures the statement page shows (R249, R250, R270). `cycles` corrects the CLK_ARR cycles of the epoch for clock changes
within it, in ns × MHz; `page` is the fold statement page as last rewritten. -/
structure Statement where
  updateSeq : W32
  epoch : W64
  time : W64
  misses : W16
  missesNow : W16
  ceilingRatio : W16
  beatWork : Nat
  cycles : Int
  page : List Byte
  deriving DecidableEq, Repr

/-- Scheduling figures (R216, R223, R224). `turns` is what the rotation of R207 took last: by class (0 LC, 1 BE) a context slot plus 1, and
at 2 + 2 × slot + class a queue plus 1. -/
structure Sched where
  slowLast : W16
  slowLcLast : W16
  history : List Nat
  turns : Tab Nat
  readyTime : Nat
  interference : Nat
  interferenceLc : Nat
  boosts : W32
  hits : W32
  evictions : W32
  parks : W32
  homes : Tab (BitVec 256)
  models : List Model
  deriving DecidableEq, Repr

/-- A change a fold has answered ACK to (R283). -/
structure HeldMap where
  version : W32
  hdr : MsgHdr
  mapHdr : MapHdr
  recs : List ChangeRec
  applyAt : W64
  forParent : Bool
  acks : List Nat
  deriving DecidableEq, Repr

/-- Membership record of a fold and its part in flock protocols (R278, R282-R291). A change under preparation is in `held`, and
`snapshot` collects the new map's entries for a joiner, `snapshotOf` naming sender, flock and version. The fields `parent…` are the
same for the parent flock in which the fold represents its own: its header and entries, the epoch since which its version is in
force, and whether that version removed the fold (R284; log entry 76). -/
structure Member where
  admitFlock : W32
  admitBell : W32
  admitParent : W32
  admitParentBell : W32
  flockId : W32
  version : W32
  bellwether : W32
  replica1 : W32
  replica2 : W32
  parentVersion : W32
  appliedEpoch : W64
  memberNo : W16
  lastMember : W16
  mapUnit : BitVec 9
  mapValid : Bool
  state : Nat
  lead : Nat
  reproducible : Bool
  vector : W16
  held : Option HeldMap
  heldParent : Option HeldMap
  answered : Option W32
  snapshot : Tab (BitVec 128)
  snapshotCount : Nat
  snapshotOf : Option (W32 × W32 × W32)
  proposed : Option HeldMap
  abortNak : Bool
  parentFlock : W32
  parentHdr : MapHdr
  parentMap : Tab (BitVec 128)
  parentApplied : W64
  parentGone : Bool
  parentAnswered : Option W32
  parentSnapshot : Tab (BitVec 128)
  parentSnapshotCount : Nat
  parentSnapshotOf : Option (W32 × W32 × W32)
  deriving DecidableEq, Repr

/-- A reservoir slot (R315, R321). `reads` names the channel a READ's bytes leave on: 0 for none, else 1 + 64 × port +
channel (R318); `sent` says that hand-over has sent the record (R327). -/
structure ResvSlot where
  committed : Bool
  gen : W16
  token : BitVec 128
  key : BitVec 128
  request : W64
  length : Nat
  digest : W64
  lastUse : Nat
  reads : Nat
  dropAt : Option W64
  sent : Bool
  deriving DecidableEq, Repr

/-- A fold's reservoir areas, slots, counters and hand-over (R314-R329). `slots` lists the used slots, `gens` the
generation of each slot that has been used. -/
structure Resv where
  pageBase : W64
  indexBase : W64
  slotCount : Nat
  valid : Bool
  slots : List (Nat × ResvSlot)
  gens : Tab W16
  evictions : W32
  hits : W32
  misses : W32
  expired : W32
  dropped : W32
  uses : Nat
  shortRaised : Bool
  handover : Option W64
  filling : Bool
  filled : Bool
  leaving : Bool
  deriving DecidableEq, Repr

/-- What the answer to an end-to-end request does at its origin beyond ending it: it loads a lane's register (type of
R136; type 8 only names the group), or it delivers bytes of a MOVE or a collective at an offset. -/
inductive E2EUse where
  | none
  | lane (t : GroupRef) (lane rd ty : Nat)
  | piece (off len : Nat)
  deriving DecidableEq, Repr

/-- An end-to-end request not yet acknowledged (R351), with the requester's master, virtual address, walk level, instruction address and
HQI (R138, R155, R166, R174). -/
structure E2E where
  seq : W32
  packet : Packet
  uid : Nat
  tag : W16
  use : E2EUse
  master : W16
  va : Nat
  level : Nat
  pc : W64
  hqi : Nat
  sentAt : W64
  firstAt : W64
  vc : Nat
  abandoned : Bool
  deriving DecidableEq, Repr

/-- One fold: `armed` and `deleting` are the epochs of an armed COMMIT and DELETE (R227, R235); 0x2100 + n, 0x2200 + n, its windows, its membership, its reservoir and dump areas. -/
structure Fold where
  state : FoldState
  ctlOutcome : Byte
  commitEpoch : W64
  serial : W32
  staged : FoldRes
  live : FoldRes
  armed : Option W64
  deleting : Option W64
  keySlot : Byte
  keyId : Nat
  scrubbed : Bool
  frozenTime : W64
  exportSerial : W32
  drainUntil : Option W64
  freezing : Option Nat
  resetting : Option Nat
  resetAt : W64
  windows : Tab W64
  missVector : W16
  meters : Tab Meter
  sched : Sched
  stmt : Statement
  member : Member
  resv : Resv
  dumpBase : W64
  dumpLen : W32
  dumpNext : W32
  nextSeq : W32
  unacked : List E2E
  deriving DecidableEq, Repr

/-- A 256-byte line of far memory in the far-memory cache: its way, the line's number, its frame's owner (R261). -/
structure FarLine where
  way : Nat
  line : Nat
  fold : Nat
  deriving DecidableEq, Repr

/-- 0x2000.30 to .3C (R254); `farCache` holds the lines of the far-memory cache, the one used last at the end (R261); the far-memory rate the base die grants (R265), the meter keys whose capacity has risen since the last
boundary (R266), and for each unit of a class (64 × meter key + unit) the fold it served last, plus 1 (R258). -/
structure WeirG where
  derate : W16
  farCap : W32
  farCapNow : W32
  linkCapNow0 : W32
  linkCapNow1 : W32
  hostCap : W32
  hostCapNow : W32
  cacheUnits : W16
  capacityEvents : W32
  capacityVector : W16
  stackCapNow : W32
  farRate : W32
  farCache : List FarLine
  risen : List Nat
  served : Tab Nat
  deriving DecidableEq, Repr

/-! ### Contexts, queues, commands (R171-R194) -/

/-- Context states (R181). -/
inductive CtxState where
  | free | live | closing
  deriving DecidableEq, Repr

/-- A context slot: liveness entry, class, tables, fences (R148, R152, R181-R186). -/
structure Ctx where
  state : CtxState
  fold : Nat
  gen : Nat
  lc : Bool
  reproducible : Bool
  root : Option W64
  pasid : BitVec 20
  fenceList : W64
  fenceLen : W32
  model : Option W64
  lastDispatch : W64
  sluiceClosed : Bool
  drainUntil : Option W64
  abandoned : Tab Nat
  boosted : Bool
  deriving DecidableEq, Repr

/-- Queue states with the cause of a stop (R178, R502). -/
inductive QState where
  | free | active | seqGap | waitSlots | hang | notReady | readError | fenced
  deriving DecidableEq, Repr

/-- One queue (R172-R178, R502); `orig` is the binding an imported queue keeps (R247). -/
structure Queue where
  state : QState
  hqi : Nat
  loc : Nat
  tag : W16
  ring : W64
  cring : W64
  headWb : W64
  size : Nat
  msix : W16
  modCount : W16
  modTime : W16
  sqHead : W32
  sqTail : W32
  nextSeq : W32
  cqHead : W32
  cqTail : W32
  unannounced : Nat
  firstAt : W64
  batch : Nat
  destroying : Bool
  orig : Option (Byte × W16 × W16)
  deriving DecidableEq, Repr

/-- One HQI (R171-R174). -/
structure Hqi where
  created : Bool
  fold : Nat
  closed : Bool
  drainUntil : Option W64
  spoof : W32
  doorbellBad : W32
  deriving DecidableEq, Repr

/-- One hardware semaphore (R187-R189). -/
structure Sem where
  created : Bool
  fold : Nat
  count : W32
  max : W32
  holders : List (W16 × Nat)
  waiters : List Nat
  deriving DecidableEq, Repr

/-- How far an accepted command has come. -/
inductive Phase where
  /-- accepted, not dispatched -/
  | accepted
  /-- a task on its fold's ready list, pre-translated (R205) -/
  | ready
  /-- in the dispatch queue of an engine (R206) -/
  | queued (e : Nat)
  /-- a tile in the array of an engine -/
  | tile (e : Nat)
  /-- a launch whose gangs are being placed (R103) -/
  | launched
  /-- a MOVE, load or signal under way -/
  | busy
  /-- a FENCE_WAIT whose read of the fence is due or under way: at its acceptance, without a wait slot, or with one (R185) -/
  | reading (slot : Bool)
  /-- a FENCE_WAIT that holds a wait slot (R185) -/
  | waitFence (addr : W64) (target : W64)
  /-- a SEM_ACQUIRE that waits (R188) -/
  | waitSem (sem : Nat) (units : Nat)
  /-- waits on a pending fault (R163) -/
  | faulted (idx : Nat)
  /-- parked: the pending-fault table was full (R163) -/
  | parked
  /-- a MODEL_LOAD that waits for a home (R219) -/
  | residency
  /-- purged, draining the epochs up to the number (R161) -/
  | draining (epoch : Nat)
  /-- an invalidation at its first step (R161) -/
  | invalWait
  /-- FRAME_OWN waiting for earlier requests (R510) -/
  | frameWait (reqs : List Nat)
  /-- CONTEXT_TEARDOWN in step 2 (R183) -/
  | teardown (slot : Nat)
  /-- FOLD_FREEZE draining (R241) -/
  | freezing
  /-- FOLD_EXPORT or FOLD_IMPORT waiting for its session (R449) -/
  | session
  /-- carried to another member, waiting for TASK_RESULT (R295); tries made -/
  | carried (tries : Nat)
  /-- a collective or reservoir op waiting for peers -/
  | peers
  /-- a suspect held after a unit reset (R427) -/
  | held (herd : Bool) (unit : Nat)
  /-- a suspect being re-run (R429) -/
  | rerun (herd : Bool) (unit : Nat)
  /-- ENGINE_RESET waiting for the unit's reset to end (R427) -/
  | unitReset (herd : Bool) (unit : Nat)
  /-- SUSPECT_REVIEW under way (R429) -/
  | review (herd : Bool) (unit : Nat) (timeout : Nat)
  /-- FOLD_RESET under way (R430) -/
  | foldReset (n : Nat)
  deriving DecidableEq, Repr

/-- A herd trap (R138, R139). -/
structure Trap where
  detail : Nat
  pc : W64
  gang : Nat
  group : Nat
  lanes : W16
  imm : W16
  master : W16
  time : W64
  deriving DecidableEq, Repr

/-- What a launch keeps while it runs (R104, R110, R127, R138); `cores` have run one of its gangs;
`dataError` says that one of its traps was DATA_ERROR (R141). -/
structure Launch where
  next : Nat
  exited : Nat
  range : Bool
  trap : Option Trap
  traps : Nat
  dataError : Bool
  stopped : Bool
  cores : List Nat
  deriving DecidableEq, Repr

/-- What a collective keeps at its coordinator (R300-R303). -/
structure CollState where
  waiting : List Nat
  acc : List Byte
  parts : List (Nat × List Byte)
  writing : Bool
  origin : Option Packet
  deriving DecidableEq, Repr

/-- An accepted command not yet completed (R177, R192); of a tile task `asked` pieces of its operands have been requested and `opnd`
are those that have come, by piece, `seg` is the segment in use (R86), `out` are the output bytes not yet written (R93) and
`setting` the resources its fold held when it began (R14); `got` are the bytes gathered of a range being read; `pages` are the leaves a task holds, at most
1,024 (R86, R151, R160), and `coll.parts` the bytes it has fetched across windows; `mover` (0 to 15) is the mover that carries its transfers, which
the manual leaves open (log entry 28). -/
structure Cmd where
  uid : Nat
  q : Nat
  desc : BitVec 512
  tag : W16
  acceptTime : W64
  digest : W64
  journalled : Bool
  phase : Phase
  boosted : Bool
  judged : Bool
  moved : Nat
  launch : Launch
  coll : CollState
  carriedIn : Option Packet
  readyAt : W64
  startAt : W64
  pages : List TlbEntry
  mover : Nat
  asked : Nat
  opnd : List (Nat × List Byte)
  seg : Nat
  out : List (Nat × List Byte)
  got : List Byte
  setting : Option FoldRes
  deriving DecidableEq, Repr

/-- Entry 0x3100, the journal pointers, the 256-entry buffer and the records held with it (R192, R193, R375, R507); a record
without an entry follows a held one of its queue (R179). -/
structure Journal where
  enabled : Bool
  base : W64
  entries : W32
  wr : W64
  rd : W64
  fullHolds : W32
  bufferHolds : W32
  halfVector : W16
  unjournalled : W32
  buffer : List (BitVec 512)
  heldBack : List (Nat × BitVec 256 × Option (BitVec 512))
  deriving DecidableEq, Repr

/-! ### Engines and herd cores (R71-R141) -/

/-- One logical engine: its dispatch queue and the tile in its array, of which `entered` thousandths of beats have entered (R73, R206,
R270); what the halves of its operand buffer and scale
store hold, as task and segment (R86); it serves nothing else while it is held for
review or reset (R427), or waits for the reset of R422; whether its reset is under way, and since when. -/
structure Engine where
  queue : List Nat
  tile : Option Nat
  lastFold : Nat
  entered : Nat
  buf : List (Nat × Nat)
  blocked : Bool
  abandoned : Bool
  resetting : Bool
  resetAt : W64
  deriving DecidableEq, Repr

/-- One physical herd half-group: as an engine (R422, R427). -/
structure Half where
  blocked : Bool
  abandoned : Bool
  resetting : Bool
  resetAt : W64
  deriving DecidableEq, Repr

/-- A pushed divergence: where the lanes meet, the lanes that meet there, and the lanes and address of the path not
yet taken (R105). -/
structure Recon where
  join : W64
  mask : W16
  elsePc : W64
  elseMask : W16
  deriving DecidableEq, Repr

/-- Why a thread group does not issue; `acquire` says that the last answer it awaits ends an acquire (R118). -/
inductive Wait where
  | none | barrier | fault (idx : Nat) | parked | exited | trapped | stopped | remote (left : Nat) (acquire : Bool)
  deriving DecidableEq, Repr

/-- A thread group (R101, R105, R136). Registers are keyed lane × 256 + register, flags by lane (bit k is g(k+1)). -/
structure Group where
  pc : W64
  active : W16
  alive : W16
  regs : Tab W32
  flags : Tab (BitVec 7)
  recon : List Recon
  rets : List W64
  draws : Tab W32
  wait : Wait
  deriving DecidableEq, Repr

/-- A gang on its core (R102, R103, R109): the core is 16 × paddock + number. -/
structure Gang where
  launch : Nat
  gang : Nat
  core : Nat
  store : Mem
  groups : List Group
  deriving DecidableEq, Repr

/-- Herd cores: gangs, data caches (by context tag and virtual address, a cached byte plus 1), cycle count (R101, R118, R137). -/
structure Herd where
  gangs : List Gang
  caches : Tab (Tab Nat)
  cycles : W64
  deriving DecidableEq, Repr

/-- Entry 0x2300 and the window in progress (R198-R203). -/
structure Graze where
  activeBank : Nat
  switchEpoch : W64
  count0 : Byte
  count1 : Byte
  overruns : W32
  refusals : W32
  bank0 : Tab W64
  bank1 : Tab W64
  window : Nat
  deriving DecidableEq, Repr

/-! ### Flocks, twins, reservoir, links (R274-R358) -/

/-- Entry 0x2400 (R277). `proposing` is a PROPOSE, or a PROMOTE when true, whose record could not yet be read: its read waits like any
other access (R281, R483). -/
structure Flock where
  collTimeout : W32
  proposeAddr : W64
  proposeFold : Byte
  proposing : Option Bool
  outcome : Byte
  epoch : W64
  excluded : W32
  msgsRefused : W32
  staleRefused : W32
  peerTimeouts : W32
  deriving DecidableEq, Repr

/-- Entry 0x2600 and the digests a bellwether holds (R304-R309). -/
structure Twin where
  fold : Byte
  partner : W32
  tag : W16
  mode : Byte
  startEpoch : W64
  state : Byte
  lostEpochs : Byte
  vector : W16
  compared : W64
  mismatches : W32
  lastMismatch : BitVec 256
  holds : W32
  late : W32
  own : List (BitVec 128)
  partnerHeld : List (BitVec 128)
  outgoing : List (BitVec 128)
  done : List (Nat × List (Nat × BitVec 128))
  silent : Nat
  heard : Bool
  haltPending : Bool
  deriving DecidableEq, Repr

/-- A reservoir resolution under way at the bellwether (R325). -/
structure Resolution where
  key : BitVec 128
  request : W64
  fold : Nat
  client : MsgHdr
  uid : Nat
  since : W64
  waiting : List Nat
  found : List ResvFound
  deriving DecidableEq, Repr

/-- Entry 0x2500 without the per-fold records (R314). -/
structure ResvG where
  leaseEpochs : Byte
  handoverEpochs : W16
  lowWater : W16
  shortVector : W16
  disclaims : W32
  resolves : W32
  resolutions : List Resolution
  deriving DecidableEq, Repr

/-- A message of R280 or R323 that waits to be sent: header, type, destination (node and fold), payload. -/
structure Msg where
  hdr : MsgHdr
  mtype : Nat
  node : BitVec 18
  fold : Nat
  count : Nat
  payload : List Byte
  vc : Nat
  deriving DecidableEq, Repr

/-- A flit kept for replay (R337): counter, key epoch, kind, channel, payload. -/
structure Kept where
  counter : W64
  epoch : W32
  flit : Flit
  deriving DecidableEq, Repr

/-- The transmit lanes of a port (R333): bits of the flit stream that fill no symbol yet, data symbols of the codeword in progress,
codewords sent, and the symbols of the last of them by lane in use. -/
structure Lanes where
  bits : List Bool
  symbols : List (BitVec 10)
  codewords : Nat
  sent : List (List (BitVec 10))
  deriving DecidableEq, Repr

/-- One scale-link port: entries 0x4000 + s and the state of its flit layer (R333-R358). `heardAt`, `ctlSent`, `creditAt` and
`tagFails` are REFCLK_100 cycles: of the last control flit accepted and sent, of the oldest credit not yet returned, of tag
failures; `replayAt` is the counter that replay sends next, `onLanes` the flit in the present slot and `line` the stream on the lanes. -/
structure Port where
  state : Byte
  partner : W32
  lanes : Byte
  keyEpoch : W32
  rekeyFlits : W64
  settings : List Byte
  saved : List Byte
  replays : W32
  tagFailures : W32
  fecCorrected : W64
  fecUncorrected : W32
  resendUs : W32
  ttl : Byte
  downVector : W16
  credits : Tab W16
  advertised : Tab W16
  txCounter : W64
  rxCounter : W64
  rxEpoch : W32
  kept : List Kept
  idles : List (W32 × W64)
  acked : W64
  sinceControl : Nat
  replayWait : Bool
  naksSame : Nat
  tagFails : List Nat
  heardAt : Nat
  ctlSent : Nat
  creditAt : Option Nat
  replayAt : Option (W32 × W64)
  onLanes : Option Kept
  line : Lanes
  badLanes : Byte
  mustControl : Bool
  mustNak : Bool
  mustSwitch : Bool
  streams : Tab (List Byte)
  rxStreams : Tab (List Byte)
  consumed : Tab W16
  returned : Tab W16
  creditOut : Tab W16
  trainStep : Nat
  fast : Bool
  retrained : Bool
  session : Bool
  deriving DecidableEq, Repr

/-- One sequence window (R352). -/
structure Window where
  node : BitVec 18
  fold : BitVec 4
  high : W32
  seen : List (W32 × Byte × W64)
  newest : W64
  deriving DecidableEq, Repr

/-- A packet that this instance carries out: `uid` names the requests it makes of the memories, which are outstanding until their
responses return (R160, R170); `vc`, `answer` and `status` are its answer, and `waits` says that it has not been carried out yet. -/
structure Serving where
  uid : Nat
  packet : Packet
  vc : Nat
  answer : Packet
  status : Byte
  waits : Bool
  deriving DecidableEq, Repr

/-- The network interfaces: windows, route table, messages to send, packets sent to other instances of the module and those that
wait for credits of the stack port (R472), packets that wait to be carried out, fragments of messages with the channel they
came by (R348), packets being carried out (R347-R352). -/
structure Net where
  windows : List Window
  windowsBusy : W32
  duplicates : W32
  route : Mem
  outbox : List Msg
  toStack : List (BitVec 4 × Packet)
  inbox : List Packet
  fragments : List (Nat × Packet)
  stackWait : List (BitVec 4 × Packet)
  serving : List Serving
  deriving DecidableEq, Repr

/-- A stack-port transaction awaiting its response (R471-R473): its bytes, and the data a write carries, as the base die sees it:
encrypted for a keyed fold's far memory (R167). -/
structure StackReq where
  ch : Nat
  tag : Nat
  write : Bool
  req : Nat
  address : Nat
  bytes : Nat
  data : List Byte
  deriving DecidableEq, Repr

/-- Entry 0x4100, credits and transactions of the stack port (R470-R474). -/
structure Stack where
  state : Byte
  channelsUp : W64
  corrected : W64
  uncorrected : W32
  repaired : W16
  settings : List Byte
  credits : Tab Nat
  sent : Tab Nat
  out : List StackReq
  waiting : List StackReq
  deriving DecidableEq, Repr

/-- What a non-posted host request serves (R482, R512). -/
inductive HostUse where
  | batch (q : Nat)
  | fence (uid : Nat)
  | packet (k : Packet)
  deriving DecidableEq, Repr

/-- A memory request presented to the host's controller: its Relaxed Ordering attribute, the address of its header and its PASID
(R148, R478, R480). -/
structure HostTlp where
  write : Bool
  relaxed : Bool
  address : Nat
  length : Nat
  pasid : Option (BitVec 20)
  deriving DecidableEq, Repr

/-- A non-posted host request outstanding, since a REFCLK_100 cycle, of an HQI. -/
structure HostReq where
  tag : Nat
  use : HostUse
  tagOf : W16
  hqi : Nat
  since : Nat
  deriving DecidableEq, Repr

/-- A dictionary access that has arrived (R490, R491); `path` is none for a row that names the write itself. -/
structure DictAccess where
  path : Option DictPath
  write : Bool
  index : Nat
  sub : Nat
  offset : Nat
  length : Nat
  bytes : List Byte
  deriving DecidableEq, Repr

/-- Entry 0x4200 and the host port (R477-R484); `heldTags` are tags not reused before a cycle (R482);
`accesses` the dictionary accesses that have arrived and not ended (R490, R505); `served` the queues that have had their batch
in the present turn of the rotation (R512), `tlp` the last memory request presented to the controller (R148). -/
structure HostPort where
  link : W16
  maxPayload : W16
  maxRead : W16
  roEnable : Bool
  atomicOk : Bool
  cplTimeouts : W32
  cplErrors : W32
  badTarget : W32
  msixVectors : W16
  vectorsDropped : W32
  outcome : W32
  vectors : List Nat
  out : List HostReq
  heldTags : List (Nat × Nat)
  posted : List (Nat × List Byte)
  accesses : List DictAccess
  served : List Nat
  tlps : List HostTlp
  deriving DecidableEq, Repr

/-! ### Time, faults, gauges, mailboxes, BAR0 -/

/-- Timebase states (R359). -/
inductive TbState where
  | unset | locked | freeRun
  deriving DecidableEq, Repr

/-- The kind of a TIMEBASE_IN frame (R361). -/
inductive FrameType where
  | load | check | rephase
  deriving DecidableEq, Repr

/-- Entry 0x3000, the REFCLK_100 cycle count and the boundary prediction (R359-R369). Edges are counted in REFCLK_100
cycles; the frame waits for the first edge not before `frameFrom`. -/
structure Timebase where
  state : TbState
  time : W64
  epoch : W64
  len : W32
  lenNext : W32
  lenSwitch : W64
  lastBoundary : W64
  slips : W32
  consecutive : Byte
  freeRunEntries : W32
  skipped : W32
  frameErrors : W32
  lastOffset : W32
  slew : Int
  vector : W16
  cycle : Nat
  boundaryCycle : Nat
  predicted : Nat
  taken : Bool
  realign : Bool
  frame : Option (FrameType × W64 × W64 × Nat)
  deriving DecidableEq, Repr

/-- Where an unacknowledged fault stands (R409, R411). -/
inductive Where where
  | ring (i : Nat) | buffered | dropped | pendingEntry (idx : Nat) | waitingB
  deriving DecidableEq, Repr

/-- An unacknowledged fault: class 0 to 7 for A to H, level, unit-mask bit (R411-R413). -/
structure Unacked where
  cls : Nat
  level : Nat
  place : Where
  bit : Option Nat
  latched : Bool
  deriving DecidableEq, Repr

/-- Entry 0x6000, the fault ring, the buffer (R407-R437, R506). `waitingB` holds class B records that open no pending
entry and find no room in the ring (R409; log entry 22). -/
structure Faults where
  collector : W32
  armed : Bool
  drainLimit : W32
  lost : W32
  base : Tab Byte
  cap : Tab Byte
  vectors : Tab W16
  counts : Tab W32
  unacked : List Unacked
  buffer : List (BitVec 512)
  waitingB : List (BitVec 512)
  frBase : W64
  frEntries : W32
  frOn : Bool
  frWr : W64
  frRd : W64
  sluiceClosed : Bool
  drainUntil : Option W64
  deriving DecidableEq, Repr

/-- A gauge record (R268). -/
structure Gauge where
  min : W32
  max : W32
  count : W64
  bins : Tab W32
  deriving DecidableEq, Repr

/-- Entry 0x6100 (R269). -/
structure Gauges where
  clockChanges : W32
  correctable : W64
  clkArr : Gauge
  clkHerd : Gauge
  power : Gauge
  temp : Gauge
  rails : Tab Gauge
  folds : Tab Gauge
  deriving DecidableEq, Repr

/-- A mailbox channel (R455). -/
structure Mailbox where
  data : W64
  full : Bool
  overflow : Bool
  refused : W16
  sender : W16
  vector : W16
  deriving DecidableEq, Repr

/-- Entry 0x1020 and the channels (R453-R456). -/
structure Mailboxes where
  locked : Bool
  invalid : Byte
  foreign : W32
  bindings : Tab W32
  channels : Tab Mailbox
  drover : List Nat
  deriving DecidableEq, Repr

/-- The kernel page registers (R504, R505). -/
structure KernelPage where
  ring : W64
  cring : W64
  headWb : W64
  size : Byte
  enabled : Bool
  msix : W16
  dwHdr : BitVec 128
  dwStatus : Byte
  dwBusy : Bool
  dwData : List Byte
  deriving DecidableEq, Repr

/-! ### The state -/

/-- The state of the block. -/
structure State where
  boot : Boot
  fuse : Fuse
  ident : Ident
  spdm : List (SpdmPath × SpdmConn)
  mgmt : Mgmt
  dbg : Debug
  lmap : LogMap
  power : Power
  pins : Pins
  plant : Plant
  xlate : Xlate
  weirG : WeirG
  folds : Tab Fold
  ctxs : Tab Ctx
  hqis : Tab Hqi
  queues : Tab Queue
  sems : Tab Sem
  cmds : List Cmd
  nextUid : Nat
  journal : Journal
  engines : Tab Engine
  halves : Tab Half
  herd : Herd
  graze : Graze
  flock : Flock
  twin : Twin
  resvG : ResvG
  ports : Tab Port
  net : Net
  stack : Stack
  hostPort : HostPort
  tb : Timebase
  faults : Faults
  gauges : Gauges
  mbx : Mailboxes
  kpage : KernelPage
  pond : Mem
  tarn : Mem
  far : Mem
  host : Mem
  poison : List (Nat × Nat)
  free : Nat
  pending : List Instr
  deriving DecidableEq, Repr


/-! ### Reset values (R3, R12, R391, R435, and the defaults each entry states) -/

def Boot.reset : Boot :=
  { state := .booting, degradedCause := 0, failCause := 0, hold := 0, locked := false, source := 0, step := 1,
    bundleAddr := 0, bundleLen := 0, chunks := [], goDone := false, fuseMap := 0, testFail := 0, discrepancies := 0,
    compat := 0, topoAgreed := 0, virminVersion := 0, readyTime := 0, image := [], licences := [], retained := none,
    blobs := none, topo := none, resetting := false, topoAt := 0 }

def Fuse.reset : Fuse := { reading := false, addr := 0, sealed := false, readAt := 0, words := [] }

def Ident.reset : Ident :=
  { idState := 0, instanceIdentity := [], deviceIdPub := [], aliasPub := [], measurement := [], deviceSerial := [],
    deviceCertDer := [], aliasCertDer := [], rootDer := [], interDer := [], devKey := 0, aliasKey := 0, features := 0,
    accepted := 0, status := [], measured3 := [] }

def SpdmConn.closed : SpdmConn :=
  { version := false, caps := false, algs := false, opening := [], sessions := [], lastUse := 0, transcript := 0 }

def Mgmt.reset : Mgmt :=
  { dynAddr := 0, eid := 0, busOwner := 0, node := 0, discarded := 0, ibiCount := 0, responses := [] }

/-- The test access port selects IDCODE (R488). -/
def Debug.reset : Debug :=
  { enable := false, accesses := 0, ir := 0x01, bypassBit := false, boundary := 0, driving := false, dictReg := 0 }

def LogMap.reset : LogMap :=
  { licensed := 0, minimum := 0, map := [], retired := 0, unusable := 0, retireVector := 0xFFFF, retirements := 0 }

/-- Default warning thresholds in mV (R388). -/
def Power.warnDefault (i : Nat) : W16 :=
  match i with
  | 0 => 665 | 1 => 665 | 2 => 712 | 3 => 760 | 4 => 712 | 5 => 1140 | 6 => 712 | _ => 1710

/-- Default reset thresholds in mV (R388). -/
def Power.resetDefault (i : Nat) : W16 :=
  match i with
  | 0 => 630 | 1 => 630 | 2 => 675 | 3 => 720 | 4 => 675 | 5 => 1080 | 6 => 675 | _ => 1620

def Power.atReset : Power :=
  { powerLimit := 3800, domainsOn := 0, requests := 0, reqAt := [], wanted := [], nextReq := 0, down := 0, domainFailures := 0, brownouts := 0, warnVector := 0xFFFF,
    hysteresis := 10, pwrWarnEvents := 0,
    warn := (List.range 8).map fun i => (i, Power.warnDefault i),
    reset := (List.range 8).map fun i => (i, Power.resetDefault i),
    throttle := 1400, critical := 1500, shutdown := 1600, tNow := 0, throttleEvents := 0, criticalEvents := 0,
    thermalVector := 0xFFFF, clkArr := 1600, clkHerd := 2000, powArr := 1600, powHerd := 2000, heatArr := 1600,
    heatHerd := 2000, overPower := false, underLimit := 0, coolFor := 0, brownout := false, aboveThrottle := false,
    aboveCritical := false }

def Pins.reset : Pins :=
  { resetLow := true, alive := false, toggling := false, pwrCycReq := false, flr := false, aliveAt := 0,
    watchdog := 0 }

/-- The model's own field (log entry 4): nothing fails, no far memory. No statement rests on these values. -/
def Plant.reset : Plant := { katFail := 0, trainFail := 0, farSize := 0, farCap := 0 }

def Xlate.reset : Xlate :=
  { localBase := 0x0007000000000000, farSize := 0, ptLevels := 4, pteBits := [], faultParked := 0, tlb := [],
    walks := [], epoch := 0, lastVa := 0, walked := 0, agent := none, held := [], holders := [], reqs := [], nextReq := 0, pending := [], pendSeq := [], parked := [],
    frames := [], keyOf := [], nextKey := 0, keySlots := [], filling := [] }

def WeirSet.reset : WeirSet := { guarantee := 0, ceiling := 0, target := 0, rank := 15, prio := 0 }

def FoldRes.reset : FoldRes :=
  { role := 0, sealed := false, padded := false, keyed := false, engines := 0, halfGroups := 0, tarnUnits := 0,
    pondUnits := 0, ctxQuota := 0, queueQuota := 0, semQuota := 0, waitQuota := 0, peers := [], cacheWays := 0,
    weirs := [] }

def Meter.reset : Meter :=
  { gTokens := 0, cTokens := 0, honoured := true, honoured1 := true, ewma := 0, misses := 0, bytesLast := 0,
    bytesNow := 0, winBytes := 0, winHeld := 0, announced := false }

/-- The fold statement page before the first rewrite: the reset values of R249 and R271. -/
def Statement.pageReset : List Byte :=
  let share := fun (h : Byte) => List.replicate 12 0 ++ [15, h, 0, 0]
  [1] ++ List.replicate 63 0 ++ share 1 ++ share 1 ++ share 3 ++ share 1

def Statement.reset : Statement :=
  { updateSeq := 0, epoch := 0, time := 0, misses := 0, missesNow := 0, ceilingRatio := 0, beatWork := 0, cycles := 0,
    page := Statement.pageReset }

def Sched.reset : Sched :=
  { slowLast := 0, slowLcLast := 0, history := [], turns := [], readyTime := 0, interference := 0, interferenceLc := 0, boosts := 0,
    hits := 0, evictions := 0, parks := 0, homes := [], models := [] }

/-- A header that names no fold. -/
def blankHdr : MapHdr :=
  { bellwether := 0, replica1 := 0, replica2 := 0, lastMember := 0, reproducible := false, reservedZero := true }

def Member.reset : Member :=
  { admitFlock := 0, admitBell := 0, admitParent := 0, admitParentBell := 0, flockId := 0, version := 0,
    bellwether := 0, replica1 := 0, replica2 := 0, parentVersion := 0, appliedEpoch := 0, memberNo := 0,
    lastMember := 0, mapUnit := 0, mapValid := false, state := 0, lead := 0, reproducible := false, vector := 0xFFFF,
    held := none, heldParent := none, answered := none, snapshot := [], snapshotCount := 0, snapshotOf := none,
    proposed := none, abortNak := false, parentFlock := 0, parentHdr := blankHdr, parentMap := [], parentApplied := 0,
    parentGone := false, parentAnswered := none, parentSnapshot := [], parentSnapshotCount := 0, parentSnapshotOf := none }

def Resv.reset : Resv :=
  { pageBase := 0, indexBase := 0, slotCount := 0, valid := false, slots := [], gens := [], evictions := 0, hits := 0,
    misses := 0, expired := 0, dropped := 0, uses := 0, shortRaised := false, handover := none, filling := false,
    filled := false, leaving := false }

/-- A fold that does not exist, every entry at its default (R225). -/
def Fold.reset : Fold :=
  { state := .free, ctlOutcome := 1, commitEpoch := 0, serial := 0, staged := FoldRes.reset, live := FoldRes.reset,
    armed := none, deleting := none, keySlot := 0xFF, keyId := 0, scrubbed := true, frozenTime := 0, exportSerial := 0,
    drainUntil := none, freezing := none, resetting := none, resetAt := 0, windows := [], missVector := 0xFFFF, meters := [],
    sched := Sched.reset, stmt := Statement.reset, member := Member.reset, resv := Resv.reset, dumpBase := 0,
    dumpLen := 0, dumpNext := 0, nextSeq := 0, unacked := [] }

def WeirG.reset : WeirG :=
  { derate := 850, farCap := 0, farCapNow := 0, linkCapNow0 := 0, linkCapNow1 := 0, hostCap := 121000,
    hostCapNow := 121000, cacheUnits := 0, capacityEvents := 0, capacityVector := 0xFFFF, stackCapNow := 13107200, farRate := 0xFFFFFFFF, farCache := [],
    risen := [], served := [] }

/-- A FREE context slot; slot 0 stands at generation 1 after reset, every other at 0 (R182). -/
def Ctx.atReset (gen : Nat) : Ctx :=
  { state := .free, fold := 0, gen := gen, lc := false, reproducible := false, root := none, pasid := 0,
    fenceList := 0, fenceLen := 0, model := none, lastDispatch := 0, sluiceClosed := false, drainUntil := none,
    abandoned := [], boosted := false }

def Ctx.reset : Ctx := Ctx.atReset 0

def Queue.reset : Queue :=
  { state := .free, hqi := 0, loc := 0, tag := 0, ring := 0, cring := 0, headWb := 0, size := 0, msix := 0xFFFF,
    modCount := 0, modTime := 0, sqHead := 0, sqTail := 0, nextSeq := 0, cqHead := 0, cqTail := 0, unannounced := 0, firstAt := 0,
    batch := 0, destroying := false, orig := none }

def Hqi.reset : Hqi := { created := false, fold := 0, closed := false, drainUntil := none, spoof := 0, doorbellBad := 0 }

def Sem.reset : Sem := { created := false, fold := 0, count := 0, max := 0, holders := [], waiters := [] }

def Launch.reset : Launch := { next := 0, exited := 0, range := false, trap := none, traps := 0, dataError := false, stopped := false, cores := [] }

def CollState.reset : CollState := { waiting := [], acc := [], parts := [], writing := false, origin := none }

def Journal.reset : Journal :=
  { enabled := false, base := 0, entries := 0, wr := 0, rd := 0, fullHolds := 0, bufferHolds := 0,
    halfVector := 0xFFFF, unjournalled := 0, buffer := [], heldBack := [] }

def Engine.reset : Engine := { queue := [], tile := none, lastFold := 0, entered := 0, buf := [], blocked := false, abandoned := false, resetting := false, resetAt := 0 }

def Half.reset : Half := { blocked := false, abandoned := false, resetting := false, resetAt := 0 }

def Herd.reset : Herd := { gangs := [], caches := [], cycles := 0 }

/-- Every open fold may use every commons engine for the whole epoch (R198). -/
def Graze.reset : Graze :=
  { activeBank := 0, switchEpoch := 0, count0 := 1, count1 := 1, overruns := 0, refusals := 0,
    bank0 := [(0, 0xFFFFFFFFFFFF0000)], bank1 := [(0, 0xFFFFFFFFFFFF0000)], window := 0 }

def Flock.reset : Flock :=
  { collTimeout := 10000, proposeAddr := 0, proposeFold := 0, proposing := none, outcome := 1, epoch := 0, excluded := 0,
    msgsRefused := 0, staleRefused := 0, peerTimeouts := 0 }

def Twin.reset : Twin :=
  { fold := 0xFF, partner := 0, tag := 0, mode := 1, startEpoch := 0, state := 0, lostEpochs := 4, vector := 0xFFFF,
    compared := 0, mismatches := 0, lastMismatch := 0, holds := 0, late := 0, own := [], partnerHeld := [],
    outgoing := [], done := [], silent := 0, heard := false, haltPending := false }

def ResvG.reset : ResvG :=
  { leaseEpochs := 4, handoverEpochs := 16, lowWater := 50, shortVector := 0xFFFF, disclaims := 0, resolves := 0,
    resolutions := [] }

/-- Bytes of a blob that holds nothing (0x4000.07). -/
def blobZero : List Byte := []

def Lanes.reset : Lanes := { bits := [], symbols := [], codewords := 0, sent := [] }

def Port.reset : Port :=
  { state := 0, partner := 0, lanes := 0, keyEpoch := 0, rekeyFlits := 0x10000000000, settings := blobZero,
    saved := blobZero, replays := 0, tagFailures := 0, fecCorrected := 0, fecUncorrected := 0, resendUs := 500,
    ttl := 16, downVector := 0xFFFF, credits := [], advertised := [], txCounter := 0, rxCounter := 0, rxEpoch := 0,
    kept := [], idles := [], acked := 0, sinceControl := 0, replayWait := false, naksSame := 0, tagFails := [], heardAt := 0, ctlSent := 0, creditAt := none,
    replayAt := none, onLanes := none, line := Lanes.reset, badLanes := 0,
    mustControl := false, mustNak := false, mustSwitch := false, streams := [], rxStreams := [], consumed := [], returned := [],
    creditOut := [], trainStep := 0, fast := false, retrained := false, session := false }

def Net.reset : Net :=
  { windows := [], windowsBusy := 0, duplicates := 0, route := [], outbox := [], toStack := [], inbox := [], fragments := [], stackWait := [], serving := [] }

def Stack.reset : Stack :=
  { state := 0, channelsUp := 0, corrected := 0, uncorrected := 0, repaired := 0, settings := blobZero, credits := [],
    sent := [], out := [], waiting := [] }

def HostPort.reset : HostPort :=
  { link := 0, maxPayload := 256, maxRead := 512, roEnable := true, atomicOk := false, cplTimeouts := 0,
    cplErrors := 0, badTarget := 0, msixVectors := 2048, vectorsDropped := 0, outcome := 0, vectors := [], out := [], heldTags := [],
    posted := [], accesses := [], served := [], tlps := [] }

def Timebase.reset : Timebase :=
  { state := .unset, time := 0, epoch := 0, len := 1000000, lenNext := 1000000, lenSwitch := 0, lastBoundary := 0,
    slips := 0, consecutive := 0, freeRunEntries := 0, skipped := 0, frameErrors := 0, lastOffset := 0, slew := 0,
    vector := 0xFFFF, cycle := 0, boundaryCycle := 0, predicted := 0, taken := false, realign := false, frame := none }

/-- Default base levels by class (R413). -/
def Faults.baseDefault (c : Nat) : Byte :=
  match c with
  | 0 => 1 | 1 => 0 | 2 => 1 | 3 => 0 | 4 => 1 | 5 => 1 | 6 => 3 | _ => 0

/-- Default caps by class (R413). -/
def Faults.capDefault (c : Nat) : Byte :=
  match c with
  | 0 => 2 | 1 => 1 | 2 => 2 | 3 => 1 | 4 => 3 | 5 => 3 | 6 => 4 | _ => 1

def Faults.reset : Faults :=
  { collector := 0, armed := false, drainLimit := 1000, lost := 0,
    base := [(0, 1), (2, 1), (4, 1), (5, 1), (6, 3)],
    cap := [(0, 2), (1, 1), (2, 2), (3, 1), (4, 3), (5, 3), (6, 4), (7, 1)],
    vectors := [], counts := [], unacked := [], buffer := [], waitingB := [], frBase := 0, frEntries := 0, frOn := false, frWr := 0,
    frRd := 0, sluiceClosed := false, drainUntil := none }

/-- An empty gauge (R268). -/
def Gauge.reset : Gauge := { min := 0xFFFFFFFF, max := 0, count := 0, bins := [] }

def Gauges.reset : Gauges :=
  { clockChanges := 0, correctable := 0, clkArr := Gauge.reset, clkHerd := Gauge.reset, power := Gauge.reset,
    temp := Gauge.reset, rails := [], folds := [] }

def Mailbox.reset : Mailbox :=
  { data := 0, full := false, overflow := false, refused := 0, sender := 0, vector := 0xFFFF }

def Mailboxes.reset : Mailboxes :=
  { locked := false, invalid := 0, foreign := 0, bindings := [], channels := [], drover := [] }

def KernelPage.reset : KernelPage :=
  { ring := 0, cring := 0, headWb := 0, size := 0, enabled := false, msix := 0xFFFF, dwHdr := 0, dwStatus := 0, dwBusy := false,
    dwData := [] }

/-- The block right after reset, RESET_N still low: every dictionary entry and register at its default, no fold, no
context but the generations of R182, no queue, every memory listing nothing, no command waiting. -/
def State.reset : State :=
  { boot := Boot.reset, fuse := Fuse.reset, ident := Ident.reset, spdm := [], mgmt := Mgmt.reset,
    dbg := Debug.reset, lmap := LogMap.reset, power := Power.atReset, pins := Pins.reset, plant := Plant.reset,
    xlate := Xlate.reset, weirG := WeirG.reset, folds := [], ctxs := [(0, Ctx.atReset 1)], hqis := [], queues := [],
    sems := [], cmds := [], nextUid := 1, journal := Journal.reset, engines := [], halves := [], herd := Herd.reset,
    graze := Graze.reset, flock := Flock.reset, twin := Twin.reset, resvG := ResvG.reset, ports := [],
    net := Net.reset, stack := Stack.reset, hostPort := HostPort.reset, tb := Timebase.reset, faults := Faults.reset,
    gauges := Gauges.reset, mbx := Mailboxes.reset, kpage := KernelPage.reset, pond := [], tarn := [], far := [],
    host := [], poison := [], free := 0, pending := [] }

end Sys2Proof.Machine
end

