-- ==== Sys2Proof/Machine/Base.lean ====
section
/-! DEFINITION. Accessors: the one place that reads or updates each indexed object of the state; the context tag; free
values; MSI-X vectors (R481); writes to host memory (R480, R483); the outcomes a meaning answers. -/

namespace Sys2Proof.Machine

/-- What a meaning answers. -/
abbrev Out := Host.Outcome State Fault Refusal

/-- Turn away a command whose operands name no object of the block, or whose descriptor is another row's. -/
def need (c : Bool) (mnemonic : String) (k : Out) : Out := if c then k else .refused (.illFormed mnemonic)

/-! ### Indexed objects -/

def foldAt (s : State) (n : Nat) : Fold := Tab.get Fold.reset s.folds n
def setFold (s : State) (n : Nat) (f : Fold) : State := { s with folds := Tab.set Fold.reset s.folds n f }
def modFold (s : State) (n : Nat) (g : Fold → Fold) : State := setFold s n (g (foldAt s n))

def ctxAt (s : State) (slot : Nat) : Ctx := Tab.get Ctx.reset s.ctxs slot
def setCtx (s : State) (slot : Nat) (c : Ctx) : State := { s with ctxs := Tab.set Ctx.reset s.ctxs slot c }
def modCtx (s : State) (slot : Nat) (g : Ctx → Ctx) : State := setCtx s slot (g (ctxAt s slot))

def hqiAt (s : State) (h : Nat) : Hqi := Tab.get Hqi.reset s.hqis h
def setHqi (s : State) (h : Nat) (x : Hqi) : State := { s with hqis := Tab.set Hqi.reset s.hqis h x }
def modHqi (s : State) (h : Nat) (g : Hqi → Hqi) : State := setHqi s h (g (hqiAt s h))

def queueAt (s : State) (q : Nat) : Queue := Tab.get Queue.reset s.queues q
def setQueue (s : State) (q : Nat) (x : Queue) : State := { s with queues := Tab.set Queue.reset s.queues q x }
def modQueue (s : State) (q : Nat) (g : Queue → Queue) : State := setQueue s q (g (queueAt s q))

def semAt (s : State) (i : Nat) : Sem := Tab.get Sem.reset s.sems i
def setSem (s : State) (i : Nat) (x : Sem) : State := { s with sems := Tab.set Sem.reset s.sems i x }

def engineAt (s : State) (e : Nat) : Engine := Tab.get Engine.reset s.engines e
def setEngine (s : State) (e : Nat) (x : Engine) : State := { s with engines := Tab.set Engine.reset s.engines e x }
def modEngine (s : State) (e : Nat) (g : Engine → Engine) : State := setEngine s e (g (engineAt s e))

def halfAt (s : State) (h : Nat) : Half := Tab.get Half.reset s.halves h
def setHalf (s : State) (h : Nat) (x : Half) : State := { s with halves := Tab.set Half.reset s.halves h x }

def portAt (s : State) (p : Nat) : Port := Tab.get Port.reset s.ports p
def setPort (s : State) (p : Nat) (x : Port) : State := { s with ports := Tab.set Port.reset s.ports p x }
def modPort (s : State) (p : Nat) (g : Port → Port) : State := setPort s p (g (portAt s p))

/-! ### Context tags (R182): [15:12] fold, [11:3] slot, [2:0] generation -/

def tagFold (t : W16) : Nat := field t 12 4
def tagSlot (t : W16) : Nat := field t 3 9
def tagGen (t : W16) : Nat := field t 0 3
def mkTag (fold slot gen : Nat) : W16 := BitVec.ofNat 16 (fold * 4096 + slot * 8 + gen)

/-- The liveness entry of the tag's slot is valid, of the tag's generation and fold (R153, items 1 to 3). -/
def tagLive (s : State) (t : W16) : Bool :=
  let c := ctxAt s (tagSlot t)
  c.state != .free && c.gen == tagGen t && c.fold == tagFold t

/-- A context that is LIVE, not CLOSING, at the tag's generation (R159, R181, R183). -/
def tagOpen (s : State) (t : W16) : Bool := tagLive s t && (ctxAt s (tagSlot t)).state == .live

/-- A fold exists: ACTIVE, FROZEN, CLOSING, DISABLED, SCRUBBING or RESETTING (R173). -/
def foldExists (s : State) (n : Nat) : Bool :=
  decide (n < 16) && (foldAt s n).state != .free && (foldAt s n).state != .pending

/-! ### Commands accepted and not completed -/

def cmdAt (s : State) (uid : Nat) : Option Cmd := s.cmds.find? fun c => c.uid == uid
def modCmd (s : State) (uid : Nat) (g : Cmd → Cmd) : State :=
  { s with cmds := s.cmds.map fun c => if c.uid == uid then g c else c }
def dropCmd (s : State) (uid : Nat) : State := { s with cmds := s.cmds.filter fun c => c.uid != uid }
def setPhase (s : State) (uid : Nat) (p : Phase) : State := modCmd s uid fun c => { c with phase := p }

/-- The HQI whose queue a command came from; 0 for none. -/
def hqiOf (s : State) (uid : Nat) : Nat :=
  match cmdAt s uid with
  | some c => (queueAt s c.q).hqi
  | none => 0

def opcodeOf (d : BitVec 512) : Nat := field d 56 8
def seqOf (d : BitVec 512) : W32 := bitsAt d 96 32
def noWait (d : BitVec 512) : Bool := bitAt d 65

/-- The commands of a queue, oldest first. -/
def cmdsOf (s : State) (q : Nat) : List Cmd := s.cmds.filter fun c => c.q == q

/-! ### Free values (log entry 1) -/

def drawBits (w : Nat) (s : State) : BitVec w × State := (Config.freeValue w s.free, { s with free := s.free + 1 })
def drawChoice (s : State) : Bool × State := (Config.freeChoice s.free, { s with free := s.free + 1 })
/-- A free number below n (0 when n is 0). -/
def drawBelow (n : Nat) (s : State) : Nat × State :=
  ((Config.freeValue 64 s.free).toNat % n, { s with free := s.free + 1 })

/-! ### MSI-X vectors (R481) -/

/-- Present a vector to the controller: 0xFFFF raises nothing, a vector the controller lacks is dropped and counted. -/
def raiseVector (v : W16) (s : State) : State :=
  if v = 0xFFFF then s
  else if s.hostPort.msixVectors.toNat ≤ v.toNat then
    { s with hostPort := { s.hostPort with vectorsDropped := satAdd s.hostPort.vectorsDropped 1 } }
  else { s with hostPort := { s.hostPort with vectors := s.hostPort.vectors ++ [v.toNat] } }

/-! ### Host memory (R480, R483) -/

/-- HP_LINK_UP. -/
def linkUp (s : State) : Bool := bitAt s.hostPort.link 0

/-- A whole 64-byte unit written anew carries fresh check bits (R169). -/
def clearPoison (mem a n : Nat) (s : State) : State :=
  { s with poison := s.poison.filter fun p => !(p.1 == mem && a ≤ p.2 * 64 && p.2 * 64 + 64 ≤ a + n) }

/-- A transfer at the controller's side of the host port (R148, R478): a write in requests of at most max_payload bytes, a read in
requests of at most max_read (R480). -/
def presentTlp (t : HostTlp) (s : State) : State :=
  let m := if t.write then s.hostPort.maxPayload.toNat else s.hostPort.maxRead.toNat
  let cut := (List.range (ceilDiv t.length m)).map fun i =>
    { t with address := t.address + i * m, length := min m (t.length - i * m) }
  { s with hostPort := { s.hostPort with tlps := cut } }

/-- A data request of a context carries its PASID and the original virtual address; management traffic carries the bus address
and no PASID (R148, R478). -/
def contextTlp (tag : W16) (write relaxed : Bool) (a n : Nat) (s : State) : State :=
  let ro := write && relaxed && s.hostPort.roEnable
  presentTlp (if tag = 0 then { write := write, relaxed := ro, address := a, length := n, pasid := none }
    else { write := write, relaxed := ro, address := s.xlate.lastVa, length := n, pasid := some (ctxAt s (tagSlot tag)).pasid }) s

/-- A posted write to host memory that publishes others, without a PASID and with Relaxed Ordering clear (R480); it waits at the port while the link is down (R483). -/
def hostWrite (a : Nat) (bs : List Byte) (s : State) : State :=
  if linkUp s then
    presentTlp { write := true, relaxed := false, address := a, length := bs.length, pasid := none }
      (clearPoison 3 a bs.length { s with host := memWrite s.host a bs })
  else { s with hostPort := { s.hostPort with posted := s.hostPort.posted ++ [(a, bs)] } }

/-- The writes that waited land in their order once the link is up. -/
def hostFlush (s : State) : State :=
  s.hostPort.posted.foldl (fun s w => hostWrite w.1 w.2 s) { s with hostPort := { s.hostPort with posted := [] } }

/-- Bytes of host memory. -/
def hostRead (s : State) (a n : Nat) : List Byte := memRead s.host a n

/-- Some 64-byte unit of [a, a + n) of a memory holds an uncorrectable error (R169). Memories: 0 pond, 1 tarn, 2 far
memory, 3 host memory. -/
def poisoned (s : State) (mem a n : Nat) : Bool :=
  s.poison.any fun p => p.1 == mem && decide (a < p.2 * 64 + 64) && decide (p.2 * 64 < a + n)

/-! ### Time (R359, R370) -/

def now (s : State) : W64 := s.tb.time
/-- The timebase t nanoseconds from now. -/
def later (s : State) (t : Nat) : W64 := s.tb.time + BitVec.ofNat 64 t
/-- The drain deadline counted from now (R422). -/
def drainDeadline (s : State) : W64 := later s (s.faults.drainLimit.toNat * 1000)

/-! ### Lists as sets and folds over ids -/

def addOnce {α : Type} [DecidableEq α] (x : α) (l : List α) : List α := if x ∈ l then l else l ++ [x]

/-- Carry a state through a list. -/
def forEach {α : Type} (l : List α) (g : α → State → State) (s : State) : State := l.foldl (fun s x => g x s) s

/-- The lowest index below n that satisfies a test. -/
def lowest (n : Nat) (p : Nat → Bool) : Option Nat := (List.range n).find? p

end Sys2Proof.Machine
end

