-- ==== Sys2Proof/Machine/Statement.lean ====
section
/-! DEFINITION. What a fold holds and shows of itself: units out of use (R399, R403), half-groups (R107), weir settings (R255),
and the fold statement page with its rewriting at every change of state (R249, R250, R271). -/

namespace Sys2Proof.Machine

/-! ### Units in use -/

/-- A unit is out of use (R399, R403). -/
def unitOut (s : State) (bit : Nat) : Bool := s.lmap.retired.getLsbD bit || s.lmap.unusable.getLsbD bit

/-- Both movers, or the router, of a paddock are out of use (R399). -/
def paddockOut (s : State) (p : Nat) : Bool := unitOut s (328 + p) || (unitOut s (336 + 2 * p) && unitOut s (337 + 2 * p))

/-- A herd core is out of use: retired, or found unusable (R399, R403). -/
def coreUnusable (s : State) (core : Nat) : Bool :=
  unitOut s (608 + core)

/-- Half-groups a fold holds, ascending: fold number i is element i (R107). -/
def foldHalves (s : State) (n : Nat) : List Nat := bitList 16 (foldAt s n).live.halfGroups

/-! ### Weir settings (R255) -/

/-- A fold's live settings in a class (R255). -/
def weirOf (f : Fold) (c : Nat) : WeirSet := Tab.get WeirSet.reset f.live.weirs c
/-- A fold's meter in a class; key 4 is the link class on SL1 (R255). -/
def meterOf (f : Fold) (c : Nat) : Meter := Tab.get Meter.reset f.meters c

/-- The ceiling in force (R230, R255): a sealed fold's is its guarantee; one below the guarantee acts as the guarantee. -/
def ceilingOf (f : Fold) (c : Nat) : Nat :=
  let w := weirOf f c
  if f.live.sealed then w.guarantee.toNat
  else if w.ceiling = 0 then 0 else max w.ceiling.toNat w.guarantee.toNat

/-! ### The statement page (R249, R250, R271) -/

/-- State code of R233. -/
def foldCode : FoldState → Nat
  | .free => 0 | .pending => 1 | .active => 2 | .frozen => 3 | .closing => 4 | .disabled => 5 | .scrubbing => 6
  | .resetting => 7

/-- Herd cores of a fold that are in use. -/
def foldCores (s : State) (n : Nat) : Nat :=
  ((foldHalves s n).map fun h => ((List.range 8).filter fun c => !coreUnusable s (8 * h + c)).length).sum

/-- shares[c], 16 bytes. -/
def shareBytes (f : Fold) (c : Nat) : List Byte :=
  let w := weirOf f c
  let m := meterOf f c
  let h := (if m.honoured then 1 else 0) + (if c = 2 ∧ m.honoured1 then 2 else 0)
  leBytes 4 w.guarantee.toNat ++ leBytes 4 (ceilingOf f c) ++ leBytes 4 w.target.toNat ++
    [w.rank, BitVec.ofNat 8 h, 0, 0]

/-- Mean of slowdown_last over the last 64 epochs. -/
def slowAvg (f : Fold) : Nat := f.sched.history.sum / 64

/-- The 128 leading bytes of a fold's statement page; the rest reads 0. -/
def statementPage (s : State) (n : Nat) : List Byte :=
  let f := foldAt s n
  let r := f.live
  let eng := countBits 32 r.engines
  let flags := (if r.sealed then 1 else 0) + (if r.padded then 2 else 0) + (if r.keyed then 4 else 0) +
    (if r.role = 1 then 8 else 0)
  leBytes 2 1 ++ [BitVec.ofNat 8 (foldCode f.state), BitVec.ofNat 8 flags] ++ leBytes 4 f.stmt.updateSeq.toNat ++
    leBytes 8 f.stmt.epoch.toNat ++ leBytes 8 f.stmt.time.toNat ++ leBytes 2 eng ++ leBytes 2 (countBits 16 r.halfGroups) ++
    leBytes 2 (countBits 256 r.pondUnits) ++ leBytes 2 s.power.clkArr ++ leBytes 4 (countBits 512 r.tarnUnits) ++
    leBytes 2 s.power.clkHerd ++ leBytes 2 f.stmt.misses.toNat ++
    leBytes 4 (eng * 16384 * 2 * s.power.clkArr / 1000) ++ leBytes 4 (foldCores s n * 32 * s.power.clkHerd / 1000) ++
    leBytes 2 f.sched.slowLast.toNat ++ leBytes 2 (slowAvg f) ++ leBytes 2 f.sched.slowLcLast.toNat ++
    leBytes 2 f.stmt.ceilingRatio.toNat ++ List.replicate 8 0 ++
    ((List.range 4).flatMap fun c => shareBytes f c)

/-- Rewrite a fold's statement page with what holds now (R250): update_seq passes from even to even. -/
def rewritePage (s : State) (n : Nat) : State :=
  let s1 := modFold s n fun f => { f with stmt := { f.stmt with updateSeq := f.stmt.updateSeq + 2, time := s.tb.time } }
  modFold s1 n fun f => { f with stmt := { f.stmt with page := statementPage s1 n } }

/-- Change a fold's state; its statement page is rewritten (R250). -/
def setFoldState (s : State) (n : Nat) (st : FoldState) : State :=
  rewritePage (modFold s n fun f => { f with state := st }) n

end Sys2Proof.Machine
end

