-- ==== Sys2Proof/Machine/Meters.lean ====
section
/-! DEFINITION. Meters of the weirs: classes and target units (R251), capacities (R254), reserved entries (R257), admission and
the requests held (R256, R258), and the credits of the stack port with the packets that wait for them (R472). -/

namespace Sys2Proof.Machine

def modMeter (n c : Nat) (g : Meter → Meter) (s : State) : State :=
  modFold s n fun f => { f with meters := Tab.set Meter.reset f.meters c (g (meterOf f c)) }

/-- The class of a meter key. -/
def classOf (k : Nat) : Nat := if k = 4 then 2 else k

/-- The capacity now of a meter's class or port, MB/s (R254). -/
def capacityNow (s : State) (k : Nat) : Nat :=
  match k with
  | 0 => s.weirG.stackCapNow.toNat
  | 1 => s.weirG.farCapNow.toNat
  | 2 => s.weirG.linkCapNow0.toNat
  | 4 => s.weirG.linkCapNow1.toNat
  | _ => s.weirG.hostCapNow.toNat

/-- Is the guarantee honoured (R265)? -/
def honouredAt (f : Fold) (k : Nat) : Bool := if k = 4 then (meterOf f 2).honoured1 else (meterOf f k).honoured

/-- Entries a fold reserves on every unit of a class (R257). -/
def reserveOf (s : State) (f : Fold) (k : Nat) : Nat :=
  let g := (weirOf f (classOf k)).guarantee.toNat
  if g = 0 then 0
  else if honouredAt f k then max 2 (ceilDiv (224 * g) (capacityNow s k))
  else if f.live.sealed then 2 else 0

/-! ### Target units (R21, R251, R399) -/

/-- The tarn interface bank or far-memory controller of an address; one that is out of use is served by its neighbour (R21, R399).
Every other class has one unit to a port. -/
def unitOf (s : State) (k addr : Nat) : Nat :=
  let pick := fun (base u : Nat) => if unitOut s (base + u) then u ^^^ 1 else u
  match k with
  | 0 => pick 312 (addr / 256 % 16)
  | 1 => pick 304 (addr / 512 % 8)
  | _ => 0

/-- Cut [a, a + n) at multiples of a size. -/
def cutAt (size : Nat) : Nat → Nat → Nat → List (Nat × Nat)
  | 0, _, _ => []
  | fuel + 1, a, n =>
    if n = 0 then [] else
    let len := min n (size - a % size)
    (a, len) :: cutAt size fuel (a + len) (n - len)

/-- The beats of up to 256 bytes of an access: each lies in one unit of its class (R21, R267). -/
def beatsAt (a n : Nat) : List (Nat × Nat) := cutAt 256 (n / 256 + 2) a n

/-- The units an access touches. -/
def unitsAt (s : State) (k a n : Nat) : List Nat := ((beatsAt a n).map fun b => unitOf s k b.1).dedup

/-- The port a link request leaves by, as a meter key: that of its route (R349). -/
def requestKey (s : State) (k : Packet) : Nat :=
  let r := Tab.get 0 s.net.route (field k.destNode 4 14)
  if field r 4 1 = 0 then 2 else 4

/-- Requests of a fold that hold entries of a unit: those to memories, and those that left by a link port (R257). -/
def usedAt (s : State) (k unit n : Nat) : Nat :=
  if k = 2 ∨ k = 4 then ((foldAt s n).unacked.filter fun e => requestKey s e.packet == k).length
  else (s.xlate.reqs.filter fun r => r.cls == k && unitOf s k r.address == unit && tagFold r.tag == n && r.tag != 0).length

/-- Entries of the shared pool of a unit that are free when the entries of some folds alone are counted (R257). -/
def poolLeft (s : State) (k unit : Nat) (counts : Nat → Bool) : Nat :=
  let folds := (List.range 16).filter fun n => (foldAt s n).state != .free
  let reserved := (folds.map fun n => reserveOf s (foldAt s n) k).sum
  let excess := ((folds.filter counts).map fun n => usedAt s k unit n - reserveOf s (foldAt s n) k).sum
  240 - reserved - excess

/-- Entries of the shared pool of a unit that are free (R257). -/
def poolFree (s : State) (k unit : Nat) : Nat := poolLeft s k unit fun _ => true

/-! ### Admission (R256, R258) -/

/-- Within guarantee and within ceiling (R258); a sealed fold with guarantee 0 sends nothing (R256). -/
def withinGuarantee (f : Fold) (k : Nat) : Bool :=
  decide (0 < (weirOf f (classOf k)).guarantee.toNat) && decide (0 ≤ (meterOf f k).gTokens)
def withinCeiling (f : Fold) (k : Nat) : Bool :=
  if f.live.sealed && (weirOf f (classOf k)).guarantee == 0 then false
  else ceilingOf f (classOf k) == 0 || decide (0 ≤ (meterOf f k).cTokens)

/-- A unit has an entry for a request of a fold (R257): reserved, or for an open fold one of the shared pool. -/
def entryFor (s : State) (n k unit : Nat) : Bool :=
  decide (usedAt s k unit n < reserveOf s (foldAt s n) k) ||
    (!(foldAt s n).live.sealed && decide (0 < poolFree s k unit))

/-- The weir and the target units admit a request of n bytes (R257, R258). Management traffic passes every weir (R252). -/
def weirAdmits (s : State) (tag : W16) (k addr n : Nat) : Bool :=
  if tag = 0 then true else
  withinCeiling (foldAt s (tagFold tag)) k && (unitsAt s k addr n).all fun u => entryFor s (tagFold tag) k u

/-- Charge a request of b bytes: tokens are thousandths of a byte (R258, R262). -/
def weirCharge (tag : W16) (k b : Nat) (s : State) : State :=
  if tag = 0 then s else
  let f := foldAt s (tagFold tag)
  let inG := withinGuarantee f k
  modMeter (tagFold tag) k (fun m =>
    { m with gTokens := m.gTokens - 1000 * (b : Int), cTokens := m.cTokens - 1000 * (b : Int),
             bytesNow := m.bytesNow + b, winBytes := if inG then m.winBytes + b else m.winBytes }) s

/-- A unit has served a fold: the rotation starts after it (R258). -/
def noteServed (k unit n : Nat) (s : State) : State :=
  { s with weirG := { s.weirG with served := Tab.set 0 s.weirG.served (64 * k + unit) (n + 1) } }

/-- How far a fold stands from its turn at a unit: 0 for the fold after the one served last. -/
def turnsAway (s : State) (k unit n : Nat) : Nat := (n + 16 - Tab.get 0 s.weirG.served (64 * k + unit)) % 16

/-- The priority step of a fold class (R259). -/
def prioStep (f : Fold) (k : Nat) : Nat :=
  let w := weirOf f (classOf k)
  if w.target = 0 then w.prio.toNat
  else min 7 (w.prio.toNat + (16 * (meterOf f k).ewma / w.target.toNat - 8))

/-- The order in which a unit admits the requests held for it (R258): within guarantee of an honoured fold by priority step,
guarantees demoted, then LC before BE and by priority step. A lower number goes first; at each rank LC comes before BE. -/
def admitRank (f : Fold) (k : Nat) (lc : Bool) : Nat :=
  let be := if lc then 0 else 1
  if withinGuarantee f k then
    (if honouredAt f k then 100 + 2 * (7 - prioStep f k) + be else 200 + be)
  else 300 + 8 * be + (7 - prioStep f k)

/-! ### Requests held (R258, R262, R271) -/

/-- The one who asks: the command and group on whose behalf memory is accessed. -/
def asker (s : State) : Nat × Option GroupRef :=
  match s.xlate.agent with
  | none => (0, none)
  | some a => (a.uid, a.grp)

/-- A held request is the asker's own; requests of no command are told apart by their unit. -/
def heldIs (w : Nat × Option GroupRef) (k unit : Nat) (h : Held) : Bool :=
  h.uid == w.1 && h.grp == w.2 && (w.1 != 0 || (h.key == k && h.unit == unit))

/-- The asker's request is admitted: it is held no longer. -/
def unhold (k unit : Nat) (s : State) : State :=
  { s with xlate := { s.xlate with held := s.xlate.held.filter fun h => !heldIs (asker s) k unit h } }

/-- The class of the asker at issue, with a boost (R258). -/
def askerLc (s : State) (tag : W16) : Bool :=
  (ctxAt s (tagSlot tag)).lc || (match cmdAt s (asker s).1 with | some c => c.boosted | none => false)

/-- A request is held at its weir, from when it is first held. -/
def holdAt (tag : W16) (k unit : Nat) (lc : Bool) (s : State) : State :=
  if tag = 0 then s else
  let w := asker s
  match s.xlate.held.find? fun h => heldIs w k unit h && h.key == k && h.unit == unit && h.tag == tag with
  | some _ => s
  | none =>
    let h : Held := { uid := w.1, grp := w.2, tag := tag, key := k, unit := unit, lc := lc, since := now s }
    let s1 := unhold k unit s
    { s1 with xlate := { s1.xlate with held := s1.xlate.held ++ [h] } }

/-- A request for an address is held at the first of its units that has no entry for it. -/
def weirHold (tag : W16) (k addr n : Nat) (s : State) : State :=
  let us := unitsAt s k addr n
  let u := ((us.find? fun u => !entryFor s (tagFold tag) k u).orElse fun _ => us.head?).getD 0
  holdAt tag k u (askerLc s tag) s

/-- The one who asked is still there; units from 100 on stand for the virtual channels of a link port, whose data wait. -/
def heldLives (s : State) (h : Held) : Bool :=
  if 100 ≤ h.unit then !(Tab.get [] (portAt s (if h.key = 2 then 0 else 1)).streams (h.unit - 100)).isEmpty
  else match h.grp with
  | some t => s.herd.gangs.any fun g => g.launch == t.launch && g.gang == t.gang
  | none => h.uid == 0 || s.cmds.any (fun c => c.uid == h.uid) || s.net.serving.any fun v => v.uid == h.uid

/-- Requests of a fold held in a class. -/
def heldIn (s : State) (n k : Nat) : List Held :=
  s.xlate.held.filter fun h => h.key == k && tagFold h.tag == n && heldLives s h

/-- Drop what nobody asks for any more. -/
def pruneHeld (s : State) : State := { s with xlate := { s.xlate with held := s.xlate.held.filter (heldLives s) } }

/-- Do something on behalf of a command, or of a group at an instruction. -/
def onBehalfAt (uid : Nat) (master : W16) (grp : Option GroupRef) (pc : W64) (s : State) : State :=
  { s with xlate := { s.xlate with agent := some { uid := uid, master := master, grp := grp, pc := pc } } }
def onBehalf (uid : Nat) (master : W16) (s : State) : State := onBehalfAt uid master none 0 s
def onBehalfOfNone (s : State) : State := { s with xlate := { s.xlate with agent := none } }
/-- Do something on behalf of a command in between what is being done for another. -/
def doFor (uid : Nat) (master : W16) (act : State → State) (s : State) : State :=
  let s1 := act (onBehalf uid master s)
  { s1 with xlate := { s1.xlate with agent := s.xlate.agent } }

/-! ### Credits of the stack port (R472) -/

/-- A channel's returned credits exceed the beats it has sent. -/
def stackMay (s : State) (ch : Nat) : Bool := decide (Tab.get 0 s.stack.sent ch < Tab.get 0 s.stack.credits ch)

/-- A channel sends beats. -/
def stackBeatsOut (ch n : Nat) (s : State) : State :=
  { s with stack := { s.stack with sent := Tab.set 0 s.stack.sent ch (Tab.get 0 s.stack.sent ch + n) } }

/-- Channels in service; all while none has been trained. -/
def channelsOf (s : State) (l : List Nat) : List Nat :=
  let up := l.filter fun c => bitAt s.stack.channelsUp c && !unitOut s (240 + c)
  if up.isEmpty then l else up

/-- One of several channels: a free choice among those that have a credit, else among all (R20; log entry 44). -/
def pickChannel (l : List Nat) (s : State) : Nat × State :=
  let cs := channelsOf s l
  let open' := cs.filter (stackMay s)
  let from' := if open'.isEmpty then cs else open'
  let (i, s1) := drawBelow from'.length s
  (from'.getD i 0, s1)

/-- A packet crosses the stack port to another instance: 32 header bytes and its payload in beats of 128 bytes (R472). -/
def packetCross (inst : BitVec 4) (k : Packet) (s : State) : State :=
  let (ch, s1) := pickChannel (List.range 64) s
  if stackMay s1 ch then
    stackBeatsOut ch (ceilDiv (32 + k.payload.length) 128)
      { s1 with net := { s1.net with toStack := s1.net.toStack ++ [(inst, k)] } }
  else { s1 with net := { s1.net with stackWait := s1.net.stackWait ++ [(inst, k)] } }

/-- A packet for another instance of the module: behind those that wait for credits, so that order is kept (R472). -/
def packetToStack (inst : BitVec 4) (k : Packet) (s : State) : State :=
  if s.net.stackWait.isEmpty then packetCross inst k s
  else { s with net := { s.net with stackWait := s.net.stackWait ++ [(inst, k)] } }

/-- Credits have come: packets that waited cross in their order. -/
def packetsCross (s : State) : State :=
  forEach s.net.stackWait (fun p s => packetToStack p.1 p.2 s) { s with net := { s.net with stackWait := [] } }

end Sys2Proof.Machine
end

