-- ==== Sys2Proof/Machine/Net.lean ====
section
/-! DEFINITION. Packets (R347), routing (R349), end-to-end sequences at the origin (R351), and the fragments of messages
(R348). A packet this instance sends to itself waits in `net.inbox`; one for another instance of the module waits in
`net.toStack`; one for a link port joins the byte stream of its virtual channel. -/

namespace Sys2Proof.Machine

/-- The node of this instance, [17:4] module, [3:0] instance (R487). -/
def myNode (s : State) : BitVec 18 := bitsAt s.mgmt.node 0 18
def nodeValid (s : State) : Bool := bitAt s.mgmt.node 31
def moduleOf (n : BitVec 18) : Nat := field n 4 14
def instanceOf (n : BitVec 18) : Nat := field n 0 4

/-- The 32 header bytes and the payload of a packet (R347). -/
def packetBytes (k : Packet) : List Byte :=
  leBytes 4 k.payload.length ++ [k.op, k.ptype] ++ leBytes 2 k.stamp.toNat ++
    leBytes 8 (k.ttl.toNat + k.srcFold.toNat * 2 ^ 8 + k.destTag.toNat * 2 ^ 12 + k.srcNode.toNat * 2 ^ 28 +
      k.destNode.toNat * 2 ^ 46) ++
    leBytes 4 k.mapVersion.toNat ++ leBytes 4 k.seq.toNat ++ leBytes 8 k.address.toNat ++ k.payload

/-- The hop count a packet starts with: that of the port its route names (R349, R358). -/
def startTtl (s : State) (dest : BitVec 18) : Byte := (portAt s (field (Tab.get 0 s.net.route (moduleOf dest)) 4 1)).ttl

/-- A packet of this instance with an empty payload. -/
def blankPacket (s : State) : Packet :=
  { address := 0, seq := 0, mapVersion := 0, destNode := myNode s, srcNode := myNode s, destTag := 0, srcFold := 0,
    ttl := 0, stamp := bitsAt s.tb.time 4 16, ptype := 0, op := 0, payload := [] }

/-- The packet is a request that its origin numbers (R351). -/
def isRequest (t : Byte) : Bool :=
  t == 1 || t == 2 || t == 3 || t == 4 || t == 5 || t == 0x10 || t == 0x12 || t == 0x20

/-- The virtual channel of a packet of a fold and class (R214, R344). -/
def vcOf (k : Packet) (fold : Nat) (lc : Bool) : Nat :=
  if k.ptype = 0x20 then 33 else if k.ptype = 0x30 ∨ k.ptype = 0x31 then 32 else 2 * fold + (if lc then 0 else 1)

/-- Append bytes to the stream of a virtual channel of a port. -/
def portSend (p vc : Nat) (bs : List Byte) (s : State) : State :=
  modPort s p fun x => { x with streams := Tab.set [] x.streams vc (Tab.get [] x.streams vc ++ bs) }

/-- The answer to a request: same sequence, back to the origin (R347). -/
def replyTo (s : State) (k : Packet) (ptype op : Byte) (payload : List Byte) : Packet :=
  { address := 0, seq := k.seq, mapVersion := 0, destNode := k.srcNode, srcNode := myNode s, destTag := k.destTag,
    srcFold := k.srcFold, ttl := startTtl s k.srcNode, stamp := k.stamp, ptype := ptype, op := op, payload := payload }

/-- A packet for this instance: a fragment of a message joins those of its channel, another waits to be carried out (R348). -/
def arrive (vc : Nat) (k : Packet) (s : State) : State :=
  if k.ptype = 0x20 then { s with net := { s.net with fragments := s.net.fragments ++ [(vc, k)] } }
  else { s with net := { s.net with inbox := s.net.inbox ++ [k] } }

/-- One routing decision (R349): none when the route entry is invalid or the hop count has run out. -/
def routeOnce (vc : Nat) (k : Packet) (s : State) : Option State :=
  if k.destNode = myNode s then some (arrive vc k s)
  else if moduleOf k.destNode = moduleOf (myNode s) then
    some (packetToStack (BitVec.ofNat 4 (instanceOf k.destNode)) k s)
  else
    let r := Tab.get 0 s.net.route (moduleOf k.destNode)
    if !bitAt r 7 || k.ttl == 0 then none
    else if field r 0 4 = instanceOf (myNode s) then
      some (portSend (field r 4 1) vc (packetBytes { k with ttl := k.ttl - 1 }) s)
    else some (packetToStack (BitVec.ofNat 4 (field r 0 4)) k s)

/-- Send a packet; one that cannot be routed is answered with REFUSE 0x03 toward its source (R349). -/
def routePacket (vc : Nat) (k : Packet) (s : State) : State :=
  match routeOnce vc k s with
  | some s' => s'
  | none =>
    if isRequest k.ptype then
      match routeOnce vc (replyTo s k 0x0A 3 []) s with
      | some s' => s'
      | none => s
    else s

/-- The context of a command; 0 for none. -/
def tagOfCmd (s : State) (uid : Nat) : W16 :=
  match cmdAt s uid with
  | some c => c.tag
  | none => 0

/-- The translation epoch a remote request holds (R160). -/
def remoteHolder (n : Nat) (uid : Nat) (k : Packet) (s : State) : List Holder :=
  if k.ptype.toNat ≤ 5 then [{ epoch := s.xlate.epoch, tag := tagOfCmd s uid, owner := .remote n k.seq }] else []

/-- The packet goes over the stack port to another instance of this module. -/
def toModule (s : State) (node : BitVec 18) : Bool := node != myNode s && moduleOf node == moduleOf (myNode s)

/-- A request over the stack port to another instance is a request of class 0 (R18, R251). -/
def moduleCharge (tag : W16) (k : Packet) (s : State) : State :=
  if toModule s k.destNode then unhold 0 0 (weirCharge tag 0 (32 + k.payload.length) s) else s

/-- A fold's next end-to-end request on a virtual channel, of a master at a virtual address: numbered, kept until it is
acknowledged, and sent (R351); it holds the translation epoch until then (R160). -/
def sendRequestOn (vc n uid : Nat) (use : E2EUse) (master : W16) (va : Nat) (k : Packet) (s : State) : State :=
  let f := foldAt s n
  let k' := { k with seq := f.nextSeq, srcNode := myNode s, srcFold := BitVec.ofNat 4 n, ttl := startTtl s k.destNode }
  let e : E2E := { seq := f.nextSeq, packet := k', uid := uid, tag := tagOfCmd s uid, use := use, master := master,
                   va := va, level := s.xlate.walked,
                   pc := (match s.xlate.agent with | some a => a.pc | none => 0), hqi := hqiOf s uid, sentAt := now s, firstAt := now s, vc := vc, abandoned := false }
  let s1 := setFold s n { f with nextSeq := f.nextSeq + 1, unacked := f.unacked ++ [e] }
  moduleCharge (tagOfCmd s uid) k'
    (routePacket vc k' { s1 with xlate := { s1.xlate with holders := s1.xlate.holders ++ remoteHolder n uid k' s } })

/-- A request on the channel of its fold and class (R214, R344). -/
def sendRequest (n : Nat) (uid : Nat) (use : E2EUse) (master : W16) (va : Nat) (lc : Bool) (k : Packet) (s : State) : State :=
  sendRequestOn (vcOf k n lc) n uid use master va k s

/-- At most 1,024 requests of a fold are unacknowledged; further ones wait (R351). -/
def mayRequest (s : State) (n : Nat) : Bool := decide ((foldAt s n).unacked.length < 1024)

/-- A request of a fold to a node may be sent now: sequences are left (R351), the weir of its class admits it and the link port it
leaves by has an entry for it (R18, R114, R251, R257). -/
def mayReach (s : State) (n : Nat) (node : BitVec 18) : Bool :=
  mayRequest s n &&
    (if node = myNode s then true
     else if toModule s node then withinCeiling (foldAt s n) 0
     else entryFor s n (requestKey s { blankPacket s with destNode := node }) 0)

/-- A request to a node is held at the weir of its class. -/
def holdRemote (tag : W16) (node : BitVec 18) (s : State) : State :=
  holdAt tag (if toModule s node then 0 else requestKey s { blankPacket s with destNode := node }) 0 (askerLc s tag) s

/-- The class of the context a packet names at this instance, for the channel of a reply (R344). -/
def replyVc (s : State) (k : Packet) : Nat := vcOf { k with ptype := 8 } k.srcFold.toNat (ctxAt s (tagSlot k.destTag)).lc

def sendReply (k : Packet) (ptype op : Byte) (payload : List Byte) (s : State) : State :=
  routePacket (replyVc s k) (replyTo s k ptype op payload) s

/-- The 32-byte header of a map message (R280). -/
def msgHeader (t : Nat) (h : MsgHdr) (count length : Nat) : List Byte :=
  leBytes 4 length ++ leBytes 4 count ++ [0, 0, h.detail, BitVec.ofNat 8 t] ++
    leBytes 4 (h.senderRank.toNat * 2 ^ 8 + h.senderFold.toNat * 2 ^ 10 + h.senderNode.toNat * 2 ^ 14) ++
    leBytes 4 h.flockId.toNat ++ leBytes 4 h.version.toNat ++ leBytes 8 h.epoch.toNat

/-- The bytes of a message. -/
def msgBytes (m : Msg) : List Byte := msgHeader m.mtype m.hdr m.count m.payload.length ++ m.payload

/-- A message cut into fragments of at most 4,096 bytes, consecutive on its channel; the last carries address bit 63, and
dest_tag names the destination fold (R347, R348; log entry 20). -/
def sendMsgAs (use : E2EUse) (m : Msg) (s : State) : State :=
  let bs := msgBytes m
  let n := ceilDiv bs.length 4096
  forEach (List.range n) (fun i s =>
    sendRequestOn m.vc m.hdr.senderFold.toNat 0 use 0x7F01 0
      { blankPacket s with
        destNode := m.node, destTag := mkTag m.fold 0 0, ptype := 0x20,
        address := BitVec.ofNat 64 (i * 4096 + (if i + 1 = n then 2 ^ 63 else 0)),
        payload := (bs.drop (i * 4096)).take 4096 } s) s

def sendMsg (m : Msg) (s : State) : State := sendMsgAs .none m s

/-- A message may be sent now: sequences are left for all its fragments (R351), and what travels on a fold's own channels passes the
fold's weir (R323). -/
def mayPost (s : State) (m : Msg) : Bool :=
  let n := m.hdr.senderFold.toNat
  decide ((foldAt s n).unacked.length + ceilDiv (msgBytes m).length 4096 ≤ 1024) && (m.vc == 33 || mayReach s n m.node)

/-- Send a message of a fold, or keep it while it may not be sent. -/
def postMsg (m : Msg) (s : State) : State :=
  if mayPost s m then sendMsg m s else { s with net := { s.net with outbox := s.net.outbox ++ [m] } }

/-- Send the messages that waited, oldest first, as far as the sequence room allows. -/
def flushMsgs (s : State) : State :=
  forEach s.net.outbox (fun m s => postMsg m s) { s with net := { s.net with outbox := [] } }

end Sys2Proof.Machine
end

