-- ==== Sys2Proof/Machine/Complete.lean ====
section
/-! DEFINITION. Completion records and their interrupts (R172, R179), the journal and its buffer (R192, R193, R377), and
the end of a carried task (R295). -/

namespace Sys2Proof.Machine

/-- How a command ends: status (R180), digest and its flags, result field. -/
structure Done where
  status : Byte
  digest : W64
  failed : Bool
  part : Bool
  result : W32
  deriving DecidableEq, Repr

/-- A command that records no digest: 0 with partial = 1 (R373). -/
def Done.plain (st : Byte) : Done := { status := st, digest := 0, failed := false, part := true, result := 0 }
/-- A command whose output is not complete (R374). -/
def Done.broken (st : Byte) : Done := { status := st, digest := 0, failed := true, part := false, result := 0 }
def Done.withDigest (d : W64) : Done := { status := 1, digest := d, failed := false, part := false, result := 0 }

/-- The completion codes of R180 that the model names. -/
def stSuccess : Byte := 0x01
def stFenced : Byte := 0x02
def stAborted : Byte := 0x03
def stDuplicate : Byte := 0x04
def stSpoof : Byte := 0x05
def stTranslation : Byte := 0x06
def stRange : Byte := 0x07
def stDataError : Byte := 0x08
def stHangGuilty : Byte := 0x09
def stHangUnreplayable : Byte := 0x0A
def stFenceRegression : Byte := 0x0B
def stFenceAbandoned : Byte := 0x0C
def stOvercommit : Byte := 0x0D
def stNotReproducible : Byte := 0x0E
def stTimeoutPeer : Byte := 0x0F
def stLicence : Byte := 0x10
def stUnitRetired : Byte := 0x11
def stSlots : Byte := 0x12
def stTwinMismatch : Byte := 0x13
def stLeaseExpired : Byte := 0x14

/-- Entries of a queue's rings. -/
def ringEntries (q : Queue) : Nat := 2 ^ (q.size + 4)

/-- The completion record of R179. -/
def completionRecord (r : Done) (time : W64) (seq : W32) (q opcode : Nat) : BitVec 256 :=
  place r.digest.toNat 192 64 ||| place time.toNat 128 64 ||| place r.result.toNat 96 32 ||| place seq.toNat 64 32 |||
    place q 52 12 ||| place opcode 44 8 ||| place (if r.failed then 1 else 0) 9 1 |||
    place (if r.part then 1 else 0) 8 1 ||| place r.status.toNat 0 8

/-- Raise a queue's vector when its moderation allows; the kernel queue raises on each completion (R172, R504). -/
def announce (q : Nat) (s : State) : State :=
  let x := queueAt s q
  if q = 0 then raiseVector s.kpage.msix s
  else if max 1 x.modCount.toNat ≤ x.unannounced + 1 then raiseVector x.msix (setQueue s q { x with unannounced := 0 })
  else setQueue s q { x with unannounced := x.unannounced + 1, firstAt := if x.unannounced = 0 then now s else x.firstAt }

/-- Write a completion record at CQ_TAIL: entry i of the ring lies at 64 × (i mod entries) (R176, R179; log entry 5); then
announce it. -/
def writeCompletion (q : Nat) (rec : BitVec 256) (s : State) : State :=
  let x := queueAt s q
  let a := x.cring.toNat + (x.cqTail.toNat % ringEntries x) * 64
  announce q (modQueue (hostWrite a (bytesOf 32 rec) s) q fun x => { x with cqTail := x.cqTail + 1 })

/-! ### The journal -/

/-- The target fold of a kernel-queue command, or the fold of the context (R192). -/
def targetFold (tag : W16) (d : BitVec 512) : Nat :=
  match opcodeOf d with
  | 0x10 => if field d 128 4 = 2 then field d 320 4 else field d 156 4
  | 0x11 => field d 156 4
  | 0x12 => field d 400 4
  | 0x13 => field d 156 4
  | 0x14 => field d 128 4
  | 0x15 => field d 128 4
  | 0x16 => field d 128 4
  | 0x19 => field d 128 4
  | _ => tagFold tag

def privileged (op : Nat) : Bool := decide (0x10 ≤ op) && decide (op ≤ 0x1F)

/-- The journal entry of R192; the index is filled in when it is written. -/
def journalEntry (c : Cmd) (r : Done) (time : W64) (hqi : Nat) : BitVec 512 :=
  place c.acceptTime.toNat 448 64 ||| place time.toNat 384 64 ||| place c.digest.toNat 320 64 |||
    place r.digest.toNat 256 64 ||| place (seqOf c.desc).toNat 160 32 ||| place (opcodeOf c.desc) 152 8 |||
    place r.status.toNat 144 8 ||| place c.q 132 12 ||| place hqi 124 8 ||| place c.tag.toNat 108 16 |||
    place (targetFold c.tag c.desc) 104 4 ||| place (if r.part then 1 else 0) 96 1 |||
    place (if r.failed then 1 else 0) 97 1 ||| place (if privileged (opcodeOf c.desc) then 1 else 0) 98 1

/-- The ring holds as many unread entries as it has room for (R193). -/
def journalFull (s : State) : Bool := decide (s.journal.entries.toNat ≤ (s.journal.wr - s.journal.rd).toNat)

/-- Write an entry at JNL_WR, its index field equal to JNL_WR, and raise JNL_WR; half_vector when the unread entries
reach half the ring; a ring that is full now stops acceptance, which is counted (R193, R375, R377). -/
def journalWrite (e : BitVec 512) (s : State) : State :=
  let j := s.journal
  let a := j.base.toNat + (j.wr.toNat % j.entries.toNat) * 64
  let s1 := hostWrite a (bytesOf 64 (e ||| place j.wr.toNat 192 64)) s
  let s0 := { s1 with journal := { s1.journal with wr := s1.journal.wr + 1 } }
  let s2 := if journalFull s0 then { s0 with journal := { s0.journal with fullHolds := s0.journal.fullHolds + 1 } } else s0
  if (s2.journal.wr - s2.journal.rd).toNat * 2 = s2.journal.entries.toNat then raiseVector s2.journal.halfVector s2 else s2

/-- Records of a queue that are held back: a later record of the queue stays behind them (R179). -/
def recordsHeld (s : State) (q : Nat) : Nat := (s.journal.heldBack.filter fun h => h.1 == q).length

/-- Write a record that has no journal entry, behind the held ones of its queue. -/
def putRecord (q : Nat) (rec : BitVec 256) (s : State) : State :=
  if recordsHeld s q = 0 then writeCompletion q rec s
  else { s with journal := { s.journal with heldBack := s.journal.heldBack ++ [(q, rec, none)] } }

/-- Put a completion record and its journal entry out: to the ring, to the 256-entry buffer while the ring is full, or
both held back while the buffer is full too (R193). -/
def putOut (q : Nat) (rec : BitVec 256) (e : BitVec 512) (s : State) : State :=
  if !s.journal.heldBack.isEmpty || (journalFull s && decide (256 ≤ s.journal.buffer.length)) then
    { s with journal := { s.journal with
        bufferHolds := s.journal.bufferHolds + 1, heldBack := s.journal.heldBack ++ [(q, rec, some e)] } }
  else if journalFull s || !s.journal.buffer.isEmpty then
    let s1 := writeCompletion q rec s
    { s1 with journal := { s1.journal with buffer := s1.journal.buffer ++ [e] } }
  else journalWrite e (writeCompletion q rec s)

/-- Move one entry from the buffer to the ring. -/
def journalDrainOne (s : State) : State :=
  match s.journal.buffer with
  | [] => s
  | e :: rest => if journalFull s then s else journalWrite e { s with journal := { s.journal with buffer := rest } }

/-- Release one held completion when the buffer has room. -/
def journalReleaseOne (s : State) : State :=
  match s.journal.heldBack with
  | [] => s
  | (q, rec, none) :: rest => writeCompletion q rec { s with journal := { s.journal with heldBack := rest } }
  | (q, rec, some e) :: rest =>
    if 256 ≤ s.journal.buffer.length then s
    else
      let s1 := writeCompletion q rec { s with journal := { s.journal with heldBack := rest } }
      { s1 with journal := { s1.journal with buffer := s1.journal.buffer ++ [e] } }

/-- Room has returned in the ring: buffered entries, then held completions, move up in their order (R193). -/
def journalAdvance (s : State) : State :=
  let s1 := (List.range s.journal.buffer.length).foldl (fun s _ => journalDrainOne s) s
  let s2 := (List.range s1.journal.heldBack.length).foldl (fun s _ => journalDrainOne (journalReleaseOne s)) s1
  (List.range s2.journal.buffer.length).foldl (fun s _ => journalDrainOne s) s2

/-! ### Ending a command -/

/-- Semaphore waiters, dispatch queues, arrays and operand buffers forget a command that has ended. -/
def forgetWaiter (uid : Nat) (s : State) : State :=
  let s1 := forEach ((s.sems.filter fun p => p.2.waiters.contains uid).map fun p => p.1)
    (fun i s => setSem s i { semAt s i with waiters := (semAt s i).waiters.filter fun u => u != uid }) s
  forEach ((s1.engines.filter fun p => p.2.queue.contains uid || p.2.tile == some uid || p.2.buf.any fun b => b.1 == uid).map fun p => p.1)
    (fun e s => modEngine s e fun x => { x with
      queue := x.queue.filter fun u => u != uid, buf := x.buf.filter fun b => b.1 != uid,
      tile := if x.tile = some uid then none else x.tile, entered := if x.tile = some uid then 0 else x.entered }) s1

/-- The 16 bytes of a TASK_RESULT: status, flags, digest (R295, R347; log entry 21). -/
def taskResultBytes (r : Done) : List Byte :=
  [r.status, BitVec.ofNat 8 ((if r.part then 1 else 0) + (if r.failed then 2 else 0)), 0, 0, 0, 0, 0, 0] ++
    leBytes 8 r.digest.toNat

/-- A carried task's result as a window's entry keeps it: the status with its two flags above it (R352). -/
def resultByte (r : Done) : Byte := r.status + (if r.part then 0x40 else 0) + (if r.failed then 0x80 else 0)
def resultOf (x : Byte) (old : W64) : Done :=
  { status := x &&& 0x3F, digest := old, part := bitAt x 6, failed := bitAt x 7, result := 0 }

/-- The window of a carried task's origin remembers the result for a repeated request (R352). -/
def noteResult (k : Packet) (st : Byte) (d : W64) (s : State) : State :=
  let mark := fun (x : W32 × Byte × W64) => if x.1 = k.seq then (x.1, st, d) else x
  { s with net := { s.net with windows := s.net.windows.map fun w =>
      if w.node = k.srcNode ∧ w.fold = k.srcFold then { w with seen := w.seen.map mark } else w } }

/-! ### Twin records (R306) -/

/-- The 16-byte record of a completed command. -/
def twinRecord (c : Cmd) (r : Done) : BitVec 128 :=
  place (seqOf c.desc).toNat 96 32 ||| place (opcodeOf c.desc) 88 8 ||| place r.status.toNat 80 8 |||
    place (if r.part then 1 else 0) 79 1 ||| place (if r.failed then 1 else 0) 78 1 ||| place r.digest.toNat 0 64

/-- The digest record of a block from its 64 records in ascending sequence order. -/
def blockDigest (q k : Nat) (recs : List (Nat × BitVec 128)) : BitVec 128 :=
  let ordered := recs.insertionSort fun a b => a.1 ≤ b.1
  place q 116 12 ||| place k 90 26 ||| place (crc64 (ordered.flatMap fun x => bytesOf 16 x.2)).toNat 0 64

/-- A command of a twin queue has completed: its record, and its block's digest once all 64 have completed. The queues are
held, and the hold counted, while 1,024 own digests wait (R307). -/
def twinNote (c : Cmd) (r : Done) (s : State) : State :=
  let t := s.twin
  if c.q = 0 ∨ c.tag ≠ t.tag ∨ !(t.state == 1 || t.state == 2) then s
  else
    let old := match t.done.find? fun p => p.1 == c.q with | some p => p.2 | none => []
    let all := old ++ [((seqOf c.desc).toNat, twinRecord c r)]
    let k := (seqOf c.desc).toNat / 64
    let mine := all.filter fun x => x.1 / 64 == k
    let others := t.done.filter fun p => p.1 != c.q
    if mine.length = 64 then
      let d := blockDigest c.q k mine
      { s with twin := { t with
          done := others ++ [(c.q, all.filter fun x => x.1 / 64 != k)], own := t.own ++ [d], outgoing := t.outgoing ++ [d],
          holds := if t.own.length = 1023 then t.holds + 1 else t.holds } }
    else { s with twin := { t with done := others ++ [(c.q, all)] } }

/-! ### Gauges (R268) -/

/-- The bin of a sample. -/
def gaugeBin (v : Nat) : Nat := if v ≤ 1 then 0 else min 31 (Nat.log2 v)

/-- Count one sample. -/
def gaugeAdd (v : Nat) (g : Gauge) : Gauge :=
  let w := BitVec.ofNat 32 (min v 0xFFFFFFFF)
  { min := if w.toNat < g.min.toNat then w else g.min, max := if g.max.toNat < w.toNat then w else g.max,
    count := satAdd g.count 1,
    bins := Tab.set 0 g.bins (gaugeBin v) (satAdd (Tab.get 0 g.bins (gaugeBin v)) 1) }

/-- Gauge k of fold n (R269). -/
def foldGauge (n k v : Nat) (s : State) : State :=
  let i := 8 * n + k
  let fs := Tab.set Gauge.reset s.gauges.folds i (gaugeAdd v (Tab.get Gauge.reset s.gauges.folds i))
  { s with gauges := { s.gauges with folds := fs } }

/-- The class a command runs in: its context's, or latency-critical under a boost (R204, R212). -/
def cmdLc (s : State) (c : Cmd) : Bool := c.boosted || (ctxAt s (tagSlot c.tag)).lc

/-- A tile task or launch that has become ready on this instance (R205) and waits or runs. -/
def counted (c : Cmd) : Bool :=
  (opcodeOf c.desc == 1 || opcodeOf c.desc == 2) &&
    (match c.phase with
      | .ready => true | .queued _ => true | .tile _ => true | .launched => true | .busy => true | .rerun .. => true
      | _ => false)

/-- A tile task or launch under review. -/
def underReview (c : Cmd) : Bool := match c.phase with | .held .. => true | _ => false

/-- A task or launch that was ready ends: its latency gauge, k = 4 for latency-critical, 5 for best-effort (R269). -/
def taskGauge (c : Cmd) (s : State) : State :=
  if counted c || underReview c then foldGauge (tagFold c.tag) (if cmdLc s c then 4 else 5) (now s - c.readyAt).toNat s else s

/-- R373's table lists the command: it records a digest of its output. -/
def hasDigest (d : BitVec 512) : Bool := [0x01, 0x02, 0x03, 0x08, 0x09, 0x0B].contains (opcodeOf d)

/-- No final-format output of the command exists to digest (R373): a container task, a launch with out_len = 0, MOVE op 10,
a container reduction, a RESV_OP other than COMMIT and READ, and every command the table does not list. -/
def alwaysPartial (d : BitVec 512) : Bool :=
  match opcodeOf d with
  | 0x01 => field d 369 5 == 0x0B
  | 0x02 => field d 416 32 == 0
  | 0x03 => field d 70 2 == 2
  | 0x08 => decide (field d 340 4 ≤ 1) && field d 338 2 == 0
  | 0x09 => false
  | 0x0B => field d 92 4 != 3 && field d 92 4 != 4
  | _ => true

/-- Operands of FENCE_SIGNAL, FENCE_WAIT, SEM_ACQUIRE, SEM_RELEASE and MARK (R185). -/
def operand0 (d : BitVec 512) : W64 := bitsAt d 448 64
def operand1 (d : BitVec 512) : W64 := bitsAt d 384 64

/-- The digest a command without an output records: the marker of a MARK, else what it ends with (R179, R191). -/
def markDigest (d : BitVec 512) (x : W64) : W64 := if opcodeOf d = 0x0C then operand0 d else x

/-- The flags partial and digest_failed of a command that ends (R179, R373, R374): one that records a digest and ends without
its output has digest_failed set, whatever ended it. -/
def digestFlags (d : BitVec 512) (r : Done) : Done :=
  if !hasDigest d then { r with digest := markDigest d r.digest, part := true, failed := false }
  else if alwaysPartial d then { r with part := true }
  else if r.failed || (r.part && r.status != stSuccess) then { r with part := false, failed := true }
  else r

/-- A command ends: its completion record and, when it is journalled, its journal entry, both stamped now (R179, R192,
R370). A task carried in from another instance answers TASK_RESULT instead (R295); a part of another flock's collective
has neither. -/
def complete (uid : Nat) (r0 : Done) (s : State) : State :=
  match cmdAt s uid with
  | none => s
  | some c =>
    let r := digestFlags c.desc r0
    let s1 := twinNote c r (forgetWaiter uid (dropCmd (taskGauge c s) uid))
    match c.carriedIn with
    | some k => sendReply k 0x11 r.status (taskResultBytes r) (noteResult k (resultByte r) r.digest s1)
    | none =>
      if 4096 ≤ c.q then s1 else
      let rc := completionRecord r (now s) (seqOf c.desc) c.q (opcodeOf c.desc)
      if c.journalled then putOut c.q rc (journalEntry c r (now s) (queueAt s c.q).hqi) s1
      else putRecord c.q rc s1

def completeAll (uids : List Nat) (r : Done) (s : State) : State := forEach uids (fun u s => complete u r s) s

end Sys2Proof.Machine
end

