-- ==== Sys2Proof/Machine/Faults.lean ====
section
/-! DEFINITION. Sluices (R421-R423), fault records, levels and their actions (R407-R415), the collector (R416-R418),
ALIVE_OUT (R420) and the fault ring (R506). -/

namespace Sys2Proof.Machine

/-! ### Sluices -/

/-- Accepted and not dispatched (R183, R422): a FENCE_WAIT or SEM_ACQUIRE that waits is not dispatched (R241), nor is a tile task
whose pre-translation waits on a page fault (R164). -/
def undispatched (c : Cmd) : Bool :=
  match c.phase with
  | .accepted => true
  | .ready => true
  | .faulted _ => opcodeOf c.desc == 5 || opcodeOf c.desc == 1
  | .parked => opcodeOf c.desc == 5 || opcodeOf c.desc == 1
  | .reading _ => true
  | .waitFence .. => true
  | .waitSem .. => true
  | _ => false

def fenceQueue (q : Nat) (s : State) : State :=
  modQueue s q fun x => if x.state = .free then x else { x with state := .fenced }

/-- Numbers of the queues that satisfy a test. -/
def queuesWhere (s : State) (p : Queue → Bool) : List Nat :=
  (s.queues.filter fun e => e.2.state != .free && p e.2).map fun e => e.1

/-- The earlier of two drain deadlines (R423). -/
def earlierOf (old : Option W64) (t : W64) : Option W64 :=
  match old with
  | none => some t
  | some u => if u.toNat ≤ t.toNat then some u else some t

/-- The uids of commands that satisfy a test. -/
def cmdsWhere (s : State) (p : Cmd → Bool) : List Nat := (s.cmds.filter p).map fun c => c.uid

/-- Close a context's sluice: its queues become FENCED and its undispatched commands complete with the status given
(R183 step 1, R308, R422). -/
def closeCtx (slot : Nat) (st : Byte) (s : State) : State :=
  let c := ctxAt s slot
  let tag := mkTag c.fold slot c.gen
  let s1 := setCtx s slot { c with sluiceClosed := true, drainUntil := earlierOf c.drainUntil (drainDeadline s) }
  let s2 := forEach (queuesWhere s1 fun x => x.tag == tag) fenceQueue s1
  completeAll (cmdsWhere s2 fun x => x.tag == tag && x.q != 0 && undispatched x) (.plain st) s2

/-- Close a fold's sluice (R234 step 1, R422). -/
def closeFold (n : Nat) (s : State) : State :=
  let s1 := modFold s n fun f => { f with drainUntil := earlierOf f.drainUntil (drainDeadline s) }
  let s2 := forEach (queuesWhere s1 fun x => x.hqi != 0 && (hqiAt s1 x.hqi).fold == n) fenceQueue s1
  completeAll (cmdsWhere s2 fun x => tagFold x.tag == n && x.tag != 0 && undispatched x) (.plain stFenced) s2

/-- A FOLD_FREEZE that still drains when its fold is disabled or reset ends with RANGE (R241; log entry 36). -/
def endFreezing (n : Nat) (s : State) : State :=
  match (foldAt s n).freezing with
  | none => s
  | some u => complete u (.plain stRange) (modFold s n fun f => { f with freezing := none })

/-- DISABLE (R234 step 1): ACTIVE and FROZEN folds admit it. -/
def disableFold (n : Nat) (s : State) : State :=
  let f := foldAt s n
  if f.state = .active ∨ f.state = .frozen then
    closeFold n (modFold (setFoldState (endFreezing n s) n .closing) n fun f => { f with ctlOutcome := 0 })
  else s

/-! ### Fault records -/

/-- What a fault record of classes A and C to H carries (R407). Class: 0 for A to 7 for H. -/
structure FaultInfo where
  cls : Nat
  detail : Nat
  master : W16 := 0
  tag : W16 := 0
  fold : Option Nat := none
  address : Nat := 0
  count : Nat := 1
  gang : Nat := 0
  group : Nat := 0
  lanes : Nat := 0
  imm : Nat := 0
  time : Option W64 := none

/-- The record, valid = 1 (R407). -/
def faultRecord (f : FaultInfo) (level : Nat) (t : W64) : BitVec 512 :=
  place f.address 448 64 ||| place (f.time.getD t).toNat 384 64 ||| place f.count 352 32 ||| place f.gang 328 24 |||
    place f.group 323 5 ||| place f.lanes 304 16 ||| place f.tag.toNat 288 16 ||| place f.master.toNat 272 16 |||
    place (if f.fold.isSome then 1 else 0) 271 1 ||| place (f.fold.getD 0) 267 4 ||| place level 264 3 |||
    place f.imm 248 16 ||| place (f.cls + 1) 56 8 ||| place f.detail 48 8 ||| place 1 0 1

/-- The unit-mask bit of a master identity (R26, R398); none for a unit without a field (R411). -/
def maskBit (m : W16) : Option Nat :=
  let p := field m 8 4
  let i := field m 0 8
  match field m 12 4 with
  | 1 => some (736 + 4 * p + i)
  | 2 => some (608 + 16 * p + i)
  | 3 => some (336 + 2 * p + i)
  | 5 => some 216
  | 7 => some (222 + i)
  | 8 => some 217
  | _ => none

/-- The largest number of a list. -/
def maxOf (l : List Nat) : Nat := l.foldl max 0

/-- The escalation level of a new fault (R413, R414). -/
def levelOf (s : State) (cls detail : Nat) : Nat :=
  if detail = 0x90 ∨ detail = 0x91 then 3 else
  let u := s.faults.unacked.filter fun x => x.cls == cls
  let l := if u.isEmpty then (Tab.get 0 s.faults.base cls).toNat else 1 + maxOf (u.map fun x => x.level)
  min l (Tab.get 0 s.faults.cap cls).toNat

/-- The ring takes a record now (R506). -/
def ringRoom (s : State) : Bool :=
  s.faults.frOn && decide ((s.faults.frWr - s.faults.frRd).toNat < s.faults.frEntries.toNat)

/-- Write a record at FR_WR. -/
def ringWrite (rc : BitVec 512) (s : State) : State :=
  let a := s.faults.frBase.toNat + (s.faults.frWr.toNat % s.faults.frEntries.toNat) * 64
  let s1 := hostWrite a (bytesOf 64 rc) s
  { s1 with faults := { s1.faults with frWr := s1.faults.frWr + 1 } }

/-- The source of R416 whose line a fault drives. -/
def lineSource (f : FaultInfo) : Option Nat :=
  match f.detail with
  | 0x80 => some 1
  | 0x81 => some 1
  | 0x90 => some 2
  | 0x54 => some (3 + f.master.toNat % 2)
  | 0x55 => some (3 + f.master.toNat % 2)
  | 0x65 => some 5
  | 0x91 => some 6
  | 0x71 => some 6
  | 0xA0 => some 7
  | _ => none

/-- A line event (R417): the first sets every field, a later one sets overflow and raises count. -/
def collectorEvent (source cls detail level : Nat) (w : W32) : W32 :=
  if bitAt w 31 then
    (w &&& ~~~ (place 0x3F 24 6)) ||| place 1 30 1 ||| place (min 63 (field w 24 6 + 1)) 24 6
  else place 1 31 1 ||| place (cls + 1) 20 4 ||| place level 17 3 ||| place source 13 4 ||| place detail 0 8

/-- The power-cycle notice (R433, R499). -/
def powerCycleNotice (s : State) : List Byte :=
  [0x7E] ++ beBytes 4 Config.vendorId.toNat ++ [3, 0, 0] ++ leBytes 4 s.mgmt.node.toNat ++
    leBytes 4 s.faults.collector.toNat ++ leBytes 8 (now s).toNat

/-- A power-cycle request: PWRCYC_REQ_OUT until RESET_N is low, and the notice, with its in-band interrupt, while the port has an
owner (R433, R486). -/
def requestPowerCycle (s : State) : State :=
  let s1 := { s with pins := { s.pins with pwrCycReq := true } }
  if s.mgmt.eid = 0 then s1
  else { s1 with mgmt := { s1.mgmt with
    responses := s1.mgmt.responses ++ [(s1.tb.cycle, powerCycleNotice s)], ibiCount := s1.mgmt.ibiCount + 1 } }

/-- The actions of a level, each with those below it (R412, R415, R419, R420). -/
def actOn (level : Nat) (cls : Nat) (fold : Option Nat) (s : State) : State :=
  let s1 := if 1 ≤ level then raiseVector (Tab.get 0xFFFF s.faults.vectors cls) s else s
  let s2 := if 2 ≤ level then (match fold with | some n => disableFold n s1 | none => s1) else s1
  let s3 := if 3 ≤ level then
      { s2 with
        faults := { s2.faults with sluiceClosed := true, drainUntil := earlierOf s2.faults.drainUntil (drainDeadline s2) },
        pins := { s2.pins with toggling := false } }
    else s2
  if 4 ≤ level then requestPowerCycle s3 else s3

/-- Count a fault, latch the collector, and remember it as unacknowledged. -/
def noteFault (f : FaultInfo) (level : Nat) (place' : Where) (s : State) : State :=
  let latch := s.faults.armed && (lineSource f).isSome
  let u : Unacked := { cls := f.cls, level := level, place := place', bit := maskBit f.master, latched := latch }
  let fs := { s.faults with
    counts := Tab.set 0 s.faults.counts f.cls (satAdd (Tab.get 0 s.faults.counts f.cls) 1),
    unacked := s.faults.unacked ++ [u],
    collector := if latch then collectorEvent ((lineSource f).getD 0) f.cls f.detail level s.faults.collector
                 else s.faults.collector }
  let s1 := { s with faults := fs }
  if latch then { s1 with pins := { s1.pins with toggling := false } } else s1

/-- A fault of classes A and C to H: exactly one record, or its drop while the buffer of 64 is full (R407, R409), then
the actions of its level; every class H record raises tb_vector (R368). -/
def raiseFault (f : FaultInfo) (s : State) : State :=
  let level := levelOf s f.cls f.detail
  let rc := faultRecord f level (now s)
  let s1 :=
    if ringRoom s && s.faults.buffer.isEmpty then
      noteFault f level (.ring s.faults.frWr.toNat) (ringWrite rc s)
    else if s.faults.buffer.length < 64 then
      noteFault f level .buffered { s with faults := { s.faults with buffer := s.faults.buffer ++ [rc] } }
    else noteFault f level .dropped { s with faults := { s.faults with lost := s.faults.lost + 1 } }
  let s2 := if f.cls = 7 then raiseVector s1.tb.vector s1 else s1
  actOn level f.cls f.fold s2

/-! ### Class B (R166) -/

def kindCode : FaultKind → Nat
  | .notPresent => 0x30 | .writeDenied => 0x31 | .execDenied => 0x32 | .highBits => 0x33 | .format => 0x34
  | .windowInvalid => 0x35 | .access => 0x36 | .remoteRefused => 0x37

def accessCode : AccessKind → Nat
  | .read => 0 | .write => 1 | .atomic => 2 | .fetch => 3

/-- The identifier RESOLVE names: [15:8] sequence, [7:0] entry (R166). -/
def faultId (e : PendingFault) : Nat := e.seq.toNat * 256 + e.idx

/-- The class B record. -/
def recordB (va : Nat) (time : W64) (count : Nat) (pasid : BitVec 20) (id : Nat) (tag master : W16) (level : Nat)
    (a : AccessKind) (k : FaultKind) : BitVec 512 :=
  place (va / 4096 * 4096) 448 64 ||| place time.toNat 384 64 ||| place count 352 32 ||| place pasid.toNat 332 20 |||
    place id 304 16 ||| place tag.toNat 288 16 ||| place master.toNat 272 16 ||| place level 269 3 |||
    place (accessCode a) 267 2 ||| place 0x02 56 8 ||| place (kindCode k) 48 8 ||| place 1 0 1

def recordOf (e : PendingFault) : BitVec 512 :=
  recordB (e.page * 4096) e.time e.count.toNat e.pasid (faultId e) e.tag e.master e.level e.access e.kind

/-- The fault a class B record counts as. -/
def infoB (detail : Nat) (master tag : W16) : FaultInfo :=
  { cls := 1, detail := detail, master := master, tag := tag, fold := if tag = 0 then none else some (tagFold tag) }

/-- A class B fault with a pending entry: its record goes to the ring, or waits in the entry (R166). -/
def raisePending (e : PendingFault) (s : State) : State :=
  let level := levelOf s 1 (kindCode e.kind)
  let i := infoB (kindCode e.kind) e.master e.tag
  let s1 :=
    if ringRoom s && s.faults.buffer.isEmpty then
      let s0 := noteFault i level (.ring s.faults.frWr.toNat) (ringWrite (recordOf e) s)
      { s0 with xlate := { s0.xlate with pending := s0.xlate.pending ++ [{ e with written := true }] } }
    else
      let s0 := noteFault i level (.pendingEntry e.idx) s
      { s0 with xlate := { s0.xlate with pending := s0.xlate.pending ++ [e] } }
  actOn level 1 i.fold s1

/-- A class B fault of kind ACCESS or REMOTE_REFUSED: a record of its own, no pending entry (R155, R163). It names the
requester's own context only; the kernel queue's tag 0x0000 names none, so the record shows no PASID. -/
def raiseAccess (va : Nat) (tag master : W16) (a : AccessKind) (k : FaultKind) (s : State) : State :=
  let level := levelOf s 1 (kindCode k)
  let pasid := if tag = 0 then 0 else (ctxAt s (tagSlot tag)).pasid
  let rc := recordB va (now s) 1 pasid 0 tag master (if tag = 0 then 0 else s.xlate.walked) a k
  let i := infoB (kindCode k) master tag
  let s1 :=
    if ringRoom s && s.faults.buffer.isEmpty && s.faults.waitingB.isEmpty then
      noteFault i level (.ring s.faults.frWr.toNat) (ringWrite rc s)
    else noteFault i level .waitingB { s with faults := { s.faults with waitingB := s.faults.waitingB ++ [rc] } }
  actOn level 1 i.fold s1

/-! ### Acknowledgement and the waiting records (R409, R411, R506) -/

/-- Replace the first unacknowledged fault at one place by another place. -/
def movePlace (a b : Where) : List Unacked → List Unacked
  | [] => []
  | u :: us => if u.place = a then { u with place := b } :: us else u :: movePlace a b us

/-- Move one waiting record into the ring: the buffer first, then class B records. -/
def ringPullOne (s : State) : State :=
  if !ringRoom s then s else
  let i := Where.ring s.faults.frWr.toNat
  match s.faults.buffer with
  | rc :: rest =>
    let s1 := ringWrite rc { s with faults := { s.faults with buffer := rest } }
    { s1 with faults := { s1.faults with unacked := movePlace .buffered i s1.faults.unacked } }
  | [] =>
    match s.faults.waitingB with
    | rc :: rest =>
      let s1 := ringWrite rc { s with faults := { s.faults with waitingB := rest } }
      { s1 with faults := { s1.faults with unacked := movePlace .waitingB i s1.faults.unacked } }
    | [] =>
      match s.xlate.pending.find? fun e => !e.written with
      | none => s
      | some e =>
        let s1 := ringWrite (recordOf e) s
        { s1 with
          faults := { s1.faults with unacked := movePlace (.pendingEntry e.idx) i s1.faults.unacked },
          xlate := { s1.xlate with pending := s1.xlate.pending.map fun x =>
            if x.idx == e.idx then { x with written := true } else x } }

/-- Dropped records count as acknowledged once the ring is enabled, the buffer empty and everything read (R409). -/
def ackDropped (s : State) : State :=
  if s.faults.frOn && s.faults.buffer.isEmpty && s.faults.frRd == s.faults.frWr then
    { s with faults := { s.faults with unacked := s.faults.unacked.filter fun u => u.place != .dropped } }
  else s

/-- Waiting records move up while the ring has room. -/
def ringPull (s : State) : State :=
  let n := s.faults.buffer.length + s.faults.waitingB.length + s.xlate.pending.length
  ackDropped ((List.range n).foldl (fun s _ => ringPullOne s) s)

/-- Acknowledge every record whose slot lies behind the read pointer (R411). -/
def ackBehind (rd : Nat) (s : State) : State :=
  { s with faults := { s.faults with unacked := s.faults.unacked.filter fun u =>
      match u.place with
      | .ring i => decide (rd ≤ i)
      | _ => true } }

/-- unit_status (R411): the units with an unacknowledged record. -/
def unitStatus (s : State) : BitVec 768 :=
  s.faults.unacked.foldl (fun m u => match u.bit with | some b => setBit m b | none => m) 0

end Sys2Proof.Machine
end

