-- ==== Sys2Proof/Machine/Weirs.lean ====
section
/-! DEFINITION. Weirs: classes (R251), capacities (R254), reserved entries (R257), admission (R258), latency (R259),
demotion and restoration (R265, R266), and the requests in flight with the translation epoch they hold (R160). -/

namespace Sys2Proof.Machine

/-- A request leaves: it counts in the translation epoch until its response returns (R160). Class 9 is pond traffic,
which no weir regulates (R251). -/
def issueReq (tag : W16) (k uid : Nat) (master : W16) (addr b : Nat) (frame : Option Nat)
    (grp : Option GroupRef) (pc : W64) (s : State) : State :=
  let id := s.xlate.nextReq
  let r : Req := { id := id, tag := tag, cls := k, uid := uid, master := master, admitted := now s, bytes := b,
                   frame := frame, address := addr, grp := grp, pc := pc, hqi := hqiOf s uid, abandoned := false }
  let h : Holder := { epoch := s.xlate.epoch, tag := tag, owner := .request id }
  { s with xlate := { s.xlate with nextReq := id + 1, reqs := s.xlate.reqs ++ [r],
                                   holders := s.xlate.holders ++ [h] } }

/-- The channels a request to tarn or far memory may use: the four of its tarn bank, or the eight of its far-memory controller
(R19, R251, R399). -/
def stackChannels (s : State) (mem off : Nat) : List Nat :=
  if mem = 1 then (List.range 4).map fun i => 4 * unitOf s 0 off + i
  else (List.range 8).map fun i => 8 * unitOf s 1 off + i

/-- Beats a request sends to the base die. -/
def stackBeats (r : StackReq) : Nat := if r.write then max 1 (ceilDiv r.bytes 128) else 1

/-- Send a request on its channel. -/
def stackSend (r : StackReq) (s : State) : State :=
  stackBeatsOut r.ch (stackBeats r) { s with stack := { s.stack with out := s.stack.out ++ [r] } }

/-- The request numbered last crosses the stack port to tarn or far memory (R471, R472): sent against a credit, or it waits
for one. -/
def stackIssue (mem off bytes : Nat) (write : Bool) (data : List Byte) (s : State) : State :=
  if mem ≠ 1 ∧ mem ≠ 2 then s
  else
    let (ch, s1) := pickChannel (stackChannels s mem off) s
    let all := s1.stack.out ++ s1.stack.waiting
    let tag := (lowest (all.length + 1) fun t => all.all fun r => r.ch != ch || r.tag != t).getD 0
    let r : StackReq := { ch := ch, tag := tag, write := write, req := s1.xlate.nextReq - 1, address := off, bytes := bytes,
                          data := data }
    if stackMay s1 ch && s1.stack.waiting.all (fun x => x.ch != ch) then stackSend r s1
    else { s1 with stack := { s1.stack with waiting := s1.stack.waiting ++ [r] } }

/-- End a holder of a translation epoch (R160). -/
def endHolder (o : HolderOwner) (s : State) : State :=
  { s with xlate := { s.xlate with holders := s.xlate.holders.filter fun h => h.owner != o } }

/-- The number of holders that count in an epoch's counter (R160). -/
def outstanding (s : State) (e : Nat) : Nat := (s.xlate.holders.filter fun h => h.epoch % 4 == e % 4).length
/-- The holders of one epoch: none is left when it has drained (R161). -/
def epochDrained (s : State) (e : Nat) : Bool := s.xlate.holders.all fun h => h.epoch != e

/-- The latency a weir measures for a response (R260): the difference of the 16-bit coarse stamps in ns; a request outstanding
through a wrap of the stamp is measured as 1,048,560 ns. -/
def measured (s : State) (admitted : W64) : Nat :=
  if 2 ^ 16 ≤ (now s).toNat / 16 - admitted.toNat / 16 then 1048560
  else (bitsAt (now s) 4 16 - bitsAt admitted 4 16 : W16).toNat * 16

/-- The running mean of R259, truncated toward zero. -/
def ewmaStep (l x : Nat) : Nat := ((l : Int) + Int.tdiv ((x : Int) - l) 16).toNat

/-- A request abandoned at the drain limit has ended: its slot and generation count one less (R183). -/
def endAbandoned (tag : W16) (s : State) : State :=
  modCtx s (tagSlot tag) fun c =>
    { c with abandoned := Tab.set 0 c.abandoned (tagGen tag) (Tab.get 0 c.abandoned (tagGen tag) - 1) }

/-- A response of a fold class returns: its latency is measured, and enters the mean of a class with a target; the link class
has one mean for both ports (R259, R269). -/
def noteLatency (n k : Nat) (admitted : W64) (s : State) : State :=
  let v := measured s admitted
  let s1 := foldGauge n (classOf k) v s
  let step := fun (m : Meter) => { m with ewma := ewmaStep m.ewma v }
  if (weirOf (foldAt s n) (classOf k)).target = 0 then s1
  else if classOf k = 2 then modMeter n 4 step (modMeter n 2 step s1) else modMeter n k step s1

/-- A response returns: its request and hold end, its latency is measured and enters the mean (R160, R259, R269). -/
def endReq (id : Nat) (s : State) : State :=
  match s.xlate.reqs.find? fun r => r.id == id with
  | none => s
  | some r =>
    let gone := fun (x : StackReq) => x.req != id
    let s0 := endHolder (.request id) { s with
      xlate := { s.xlate with reqs := s.xlate.reqs.filter fun x => x.id != id },
      stack := { s.stack with out := s.stack.out.filter gone, waiting := s.stack.waiting.filter gone } }
    let s1 := if r.abandoned then endAbandoned r.tag s0 else s0
    if r.tag = 0 ∨ 5 ≤ r.cls then s1 else noteLatency (tagFold r.tag) r.cls r.admitted s1

/-! ### Capacity events (R265, R266) -/

/-- Guarantees summed over the folds of rank at most r (R265). -/
def rankSum (s : State) (c r : Nat) : Nat :=
  (((List.range 16).filter fun n =>
      (foldAt s n).state != .free && decide ((weirOf (foldAt s n) c).rank.toNat ≤ r)).map fun n =>
    (weirOf (foldAt s n) c).guarantee.toNat).sum

/-- Every rank up to r fits within the derated capacity. -/
def rankFits (s : State) (k r : Nat) : Bool :=
  (List.range (r + 1)).all fun i => decide (rankSum s (classOf k) i * 1000 ≤ s.weirG.derate.toNat * capacityNow s k)

/-- Set a fold's honoured flag on a meter. -/
def setHonoured (n k : Nat) (b : Bool) (s : State) : State :=
  if k = 4 then modMeter n 2 (fun m => { m with honoured1 := b }) s else modMeter n k (fun m => { m with honoured := b }) s

/-- Step 2 of R265 on a drop: the first rank that does not fit, and every rank below it, is demoted. -/
def demote (k : Nat) (s : State) : State :=
  forEach (List.range 16) (fun n s =>
    let f := foldAt s n
    if f.state = .free ∨ (weirOf f (classOf k)).guarantee = 0 then s
    else if rankFits s k (weirOf f (classOf k)).rank.toNat then s else setHonoured n k false s) s

/-- Step 2 of R265 repeated at a boundary: any rank that now fits is honoured again (R266). -/
def restore (k : Nat) (s : State) : State :=
  forEach (List.range 16) (fun n s =>
    let f := foldAt s n
    if f.state = .free then s
    else if rankFits s k (weirOf f (classOf k)).rank.toNat then setHonoured n k true s else s) s

/-- A capacity has changed from an old value: count it, raise capacity_vector, demote on a fall; a rise lets ranks be honoured again
at the next boundary (R254, R265, R266). -/
def capacityEvent (k old : Nat) (s : State) : State :=
  if capacityNow s k = old then s else
  let s1 := raiseVector s.weirG.capacityVector
    { s with weirG := { s.weirG with capacityEvents := s.weirG.capacityEvents + 1 } }
  if capacityNow s k < old then demote k s1
  else { s1 with weirG := { s1.weirG with risen := addOnce k s1.weirG.risen } }

/-- At a boundary, the classes and ports whose capacity has risen are restored (R266). -/
def restoreRisen (s : State) : State :=
  forEach s.weirG.risen restore { s with weirG := { s.weirG with risen := [] } }

end Sys2Proof.Machine
end

