-- ==== Sys2Proof/Machine/Xlate.lean ====
section
/-! DEFINITION. Physical decode (R143), page walks and TLBs (R142, R144-R150), the checks where a request lands (R153-R155),
reads and writes of the four memories with far-memory keys and uncorrectable errors (R167-R169), and page faults
(R163-R166). -/

namespace Sys2Proof.Machine

/-! ### Physical addresses -/

/-- Where a physical address lands: memory 0 pond, 1 tarn, 2 far memory, 3 host, with the offset in it; a remote window;
or nowhere (R143). -/
inductive Landing where
  | loc (mem off : Nat)
  | remote (index off : Nat)
  | reserved
  deriving DecidableEq, Repr

/-- Physical address decode (R143). -/
def decodePa (s : State) (pa : Nat) : Landing :=
  if 2 ^ 51 ≤ pa then .remote (pa / 2 ^ 40 % 2048) (pa % 2 ^ 40)
  else
    let b := s.xlate.localBase.toNat
    if b ≤ pa ∧ pa < b + 2 ^ 44 then
      let o := pa - b
      if o < 2 ^ 42 then (if o < s.xlate.farSize then .loc 2 o else .reserved)
      else if o < 2 ^ 42 + 2 ^ 29 then .loc 1 (o - 2 ^ 42)
      else if 0x600 * 2 ^ 32 ≤ o ∧ o < 0x600 * 2 ^ 32 + 2 ^ 26 then .loc 0 (o - 0x600 * 2 ^ 32)
      else .reserved
    else .loc 3 pa

/-- The physical address of a place (the inverse of R143). -/
def paOf (s : State) (mem off : Nat) : Nat :=
  match mem with
  | 0 => s.xlate.localBase.toNat + 0x600 * 2 ^ 32 + off
  | 1 => s.xlate.localBase.toNat + 2 ^ 42 + off
  | 2 => s.xlate.localBase.toNat + off
  | _ => off

/-- The frame table's entry for a far-memory address (R154). -/
def frameOf (s : State) (off : Nat) : Byte := Tab.get 0 s.xlate.frames (off / 2 ^ 21)

/-- The unit or frame at a place is owned by a fold (R16, R153 item 4, R154). Tarn units of the far-memory cache belong
to no fold (R261). -/
def ownedBy (s : State) (n mem off : Nat) : Bool :=
  match mem with
  | 0 => foldExists s n && (foldAt s n).live.pondUnits.getLsbD (off / 2 ^ 18)
  | 1 => foldExists s n && (foldAt s n).live.tarnUnits.getLsbD (off / 2 ^ 20)
  | 2 => bitAt (frameOf s off) 7 && field (frameOf s off) 0 4 == n
  | _ => true

/-- The tarn unit holds the map copy of a fold that is in a flock: the guard refuses every tagged request to it (R279). -/
def mapUnitAt (s : State) (mem off : Nat) : Bool :=
  mem == 1 && (List.range 16).any fun n =>
    let m := (foldAt s n).member
    m.state != 0 && m.mapValid && m.mapUnit.toNat == off / 2 ^ 20

/-- The asker is a tile that began under a setting which gave its fold the pond or tarn unit: it, and the requests it issues, run
to their end under that setting (R14, R32). -/
def underSetting (s : State) (mem off : Nat) : Bool :=
  match cmdAt s (asker s).1 with
  | none => false
  | some c => match c.setting, mem with
    | some r, 0 => r.pondUnits.getLsbD (off / 2 ^ 18)
    | some r, 1 => r.tarnUnits.getLsbD (off / 2 ^ 20)
    | _, _ => false

/-- A request passes where it lands (R153, R279). Tag 0x0000 marks management traffic. -/
def landOk (s : State) (tag : W16) (mem off : Nat) : Bool :=
  tag == 0 || (tagLive s tag && (ownedBy s (tagFold tag) mem off || underSetting s mem off) && !mapUnitAt s mem off)

/-- A unit whose zero fill has not ended: its owner's first access waits (R228). -/
def filling (s : State) (mem off : Nat) : Bool :=
  match mem with
  | 0 => decide (FillUnit.pond (off / 2 ^ 23) (off / 2 ^ 18 % 32) ∈ s.xlate.filling)
  | 1 => decide (FillUnit.tarn (off / 2 ^ 20) ∈ s.xlate.filling)
  | _ => false

/-! ### The memories -/

/-- The key of a frame's owner: 0 for an unkeyed fold or no owner (R167). -/
def farKey (s : State) (off : Nat) : Nat :=
  let e := frameOf s off
  if bitAt e 7 then (foldAt s (field e 0 4)).keyId else 0

/-- A byte of far memory: under another key than the one that wrote its 64-byte unit it is a free value (R168). -/
def farByte (s : State) (off i : Nat) : Byte :=
  if Tab.get 0 s.xlate.keyOf (off / 64) = farKey s off then Tab.get 0 s.far off else Config.freeValue 8 (s.free + i)

/-- The bytes of a memory from an offset; far memory read under another key draws free values. -/
def memBytes (mem off n : Nat) (s : State) : List Byte × State :=
  match mem with
  | 0 => (memRead s.pond off n, s)
  | 1 => (memRead s.tarn off n, s)
  | 2 => ((List.range n).map fun i => farByte s (off + i) i, { s with free := s.free + n })
  | _ => (memRead s.host off n, s)

/-- Bring a 64-byte far-memory unit under the key of its owner before a write: what was written under another key turns
into free bytes (R167, R168). -/
def rekeyUnit (u : Nat) (s : State) : State :=
  let k := farKey s (u * 64)
  if Tab.get 0 s.xlate.keyOf u = k then s
  else
    let bs := (List.range 64).map fun i => Config.freeValue 8 (s.free + i)
    { s with far := memWrite s.far (u * 64) bs, free := s.free + 64,
             xlate := { s.xlate with keyOf := Tab.set 0 s.xlate.keyOf u k } }

/-! ### Homes of the model cache (R216) -/

def homePondBack (h : BitVec 256) : Nat := field h 192 64
def homeBase (h : BitVec 256) : Nat := field h 128 64
def homeLen (h : BitVec 256) : Nat := 65536 * field h 96 32
def homePond (h : BitVec 256) : Nat := field h 61 3 * 2 ^ 23 + field h 56 5 * 2 ^ 18
def homePondLen (h : BitVec 256) : Nat := field h 50 6 * 2 ^ 18
def homeValid (h : BitVec 256) : Bool := bitAt h 0
def homeOf (f : Fold) (i : Nat) : BitVec 256 := Tab.get 0 f.sched.homes i

/-- Pond lines (4 KiB) of a home's pond part that a write of n bytes at an offset touches. -/
def pondLines (h : BitVec 256) (off n : Nat) : List Nat :=
  (List.range (n / 4096 + 2)).filterMap fun i =>
    let a := (off / 4096 + i) * 4096
    if decide (a < off + n) && decide (homePond h ≤ a) && decide (a < homePond h + homePondLen h)
    then some ((a - homePond h) / 4096) else none

/-- A pond write is noted for every model whose home it touches (R220). -/
def markPond (off n : Nat) (s : State) : State :=
  forEach ((s.folds.filter fun p => p.2.sched.models.any fun m => m.state == 2 &&
      !(pondLines (homeOf p.2 m.home) off n).isEmpty).map fun p => p.1) (fun k s =>
    let f := foldAt s k
    let note := fun (m : Model) => if m.state = 2 then
      { m with written := m.written ++ (pondLines (homeOf f m.home) off n).filter fun l => !m.written.contains l } else m
    setFold s k { f with sched := { f.sched with models := f.sched.models.map note } }) s

/-- Store bytes in a memory. -/
def memStore (mem off : Nat) (bs : List Byte) (s : State) : State :=
  if bs.isEmpty then s else
  match mem with
  | 0 => clearPoison 0 off bs.length (markPond off bs.length { s with pond := memWrite s.pond off bs })
  | 1 => clearPoison 1 off bs.length { s with tarn := memWrite s.tarn off bs }
  | 2 =>
    let us := (List.range ((off + bs.length - 1) / 64 - off / 64 + 1)).map fun i => off / 64 + i
    let s1 := forEach us rekeyUnit s
    clearPoison 2 off bs.length { s1 with far := memWrite s1.far off bs }
  | _ => hostWrite off bs s

/-- The 64-byte units that a write covers only in part and that hold an uncorrectable error (R169). -/
def partPoison (s : State) (mem off n : Nat) : Bool :=
  s.poison.any fun p => p.1 == mem && decide (off < p.2 * 64 + 64) && decide (p.2 * 64 < off + n) &&
    !(decide (off ≤ p.2 * 64) && decide (p.2 * 64 + 64 ≤ off + n))

/-- Where in a range the first uncorrectable error stands: the start of its 64-byte unit, or of the range (R169). -/
def badUnit (s : State) (mem off n : Nat) : Nat :=
  let us := (s.poison.filter fun p => p.1 == mem && decide (off < p.2 * 64 + 64) && decide (p.2 * 64 < off + n)).map fun p => p.2 * 64
  max off (us.min?.getD off)

/-- What an access to a local memory comes to. -/
inductive Access where
  | ok (bs : List Byte)
  | refused
  | error (detail : Nat) (pa : Nat)
  | wait
  deriving DecidableEq, Repr

/-- The class of a memory's requests (R251); 9 for the pond, which no weir regulates. -/
def memClass (mem : Nat) : Nat :=
  match mem with
  | 0 => 9
  | 1 => 0
  | 2 => 1
  | _ => 3

/-- The power domain that a place of pond, tarn or far memory lies behind (R384). -/
def domainOf (s : State) (mem off : Nat) : Nat :=
  match mem with
  | 0 => 9 * (off / 2 ^ 23) + 6
  | 1 => 72 + unitOf s 0 off
  | 2 => 88 + unitOf s 1 off
  | _ => 98

/-- A place's unit is in service: one that is powered down, or whose power is coming back, makes its requests wait (R34). -/
def inPower (s : State) (mem off n : Nat) : Bool := (beatsAt off n).all fun b => !bitAt s.power.down (domainOf s mem b.1)

/-- The memory is reachable now: host memory needs the link (R483), a unit powered down must be back (R34), and the weir and units
must admit the request. -/
def reachable (s : State) (tag : W16) (mem off n : Nat) : Bool :=
  !(mem == 3 && !linkUp s) && inPower s mem off n && (!filling s mem off || underSetting s mem off) && (mem == 0 || weirAdmits s tag (memClass mem) off n)

/-- A place makes the asker wait: at its weir, but for pond traffic, which passes none (R251, R258). -/
def holdAccess (tag : W16) (mem off n : Nat) (s : State) : State := if mem = 0 then s else weirHold tag (memClass mem) off n s

/-- A 64-byte unit of far memory as the base die sees it: encrypted with AES-256-XTS under its fold's key, its address bits [51:6] as
the tweak (R167). -/
def cipherUnit (s : State) (off : Nat) : List Byte :=
  let plain := memRead s.far off 64
  if farKey s off = 0 then plain
  else bytesOf 64 (Config.xtsEncrypt (farKey s off) (BitVec.ofNat 128 (field (BitVec.ofNat 64 (paOf s 2 off)) 6 46))
    (BitVec.ofNat 512 (ofLe plain)))

/-- What a write of n bytes carries across the stack port: whole units of a keyed fold's far memory, else the bytes (R167, R471). -/
def stackData (s : State) (mem off n : Nat) : List Byte :=
  if mem = 1 then memRead s.tarn off n
  else if farKey s off = 0 then memRead s.far off n
  else ((List.range ((off + n + 63) / 64 - off / 64)).flatMap fun i => cipherUnit s ((off / 64 + i) * 64))

/-! ### The far-memory cache (R261) -/

/-- Lines of a way: c / 16 units of 1 MiB in lines of 256 bytes. -/
def farSets (s : State) : Nat := s.weirG.cacheUnits.toNat / 16 * 4096

/-- A read of far memory on behalf of a fold looks up its line. -/
def farLooks (s : State) (tag : W16) : Bool :=
  s.weirG.cacheUnits != 0 && tag != 0 && (foldAt s (tagFold tag)).live.cacheWays != 0

/-- A cached line serves a beat: it hits only for the fold that owns its frame. -/
def farHit (s : State) (tag : W16) (off : Nat) : Bool :=
  farLooks s tag && s.weirG.farCache.any fun l => l.line == off / 256 && l.fold == tagFold tag

/-- Lines leave the cache, with their errors. -/
def dropFarLines (p : FarLine → Bool) (s : State) : State :=
  if s.weirG.farCache.isEmpty then s else
  let gone := (s.weirG.farCache.filter p).map fun l => l.line
  { s with weirG := { s.weirG with farCache := s.weirG.farCache.filter fun l => !p l },
           poison := s.poison.filter fun x => !(x.1 == 7 && gone.contains x.2) }

/-- The way of a fold that takes a line: one that holds none in the line's set, else the one whose line was used longest ago. -/
def farWay (s : State) (n line : Nat) : Nat :=
  let ways := bitList 16 (foldAt s n).live.cacheWays
  let here := s.weirG.farCache.filter fun l => l.line % farSets s == line % farSets s && ways.contains l.way
  ((ways.find? fun w => here.all fun l => l.way != w).orElse fun _ => here.head?.map fun l => l.way).getD 0

/-- A line is placed in the cache, or becomes the one used last. -/
def farPlace (n line : Nat) (s : State) : State :=
  let mine := fun (l : FarLine) => l.line == line && l.fold == n
  let w := match s.weirG.farCache.find? mine with
    | some l => l.way
    | none => farWay s n line
  let s1 := dropFarLines (fun l => l.way == w && l.line % farSets s == line % farSets s && !mine l) s
  { s1 with weirG := { s1.weirG with
      farCache := s1.weirG.farCache.filter (fun l => !mine l) ++ [{ way := w, line := line, fold := n }] } }

/-- A read of a memory meets an uncorrectable error: of the cached line where one serves it (memory 7 of `poison`, by line number), else
of the memory (R169, R261). -/
def readFails (s : State) (tag : W16) (mem off n : Nat) : Bool :=
  if mem = 2 ∧ farLooks s tag then (beatsAt off n).any fun b =>
    if farHit s tag b.1 then s.poison.contains (7, b.1 / 256) else poisoned s 2 b.1 b.2
  else poisoned s mem off n

/-- One beat of an admitted access of the asker leaves: it takes an entry of its unit until its response returns (R257), and crosses
the stack port to tarn or far memory (R20). A far-memory read that a cached line serves returns at once; one that misses fetches
the whole line (R261). -/
def issueBeat (a : Agent) (tag : W16) (mem : Nat) (write : Bool) (b : Nat × Nat) (s : State) : State :=
  let s1 := noteServed (memClass mem) (unitOf s (memClass mem) b.1) (tagFold tag) s
  let ask := fun (at' n : Nat) =>
    issueReq tag (memClass mem) a.uid a.master at' n (if mem = 2 then some (at' / 2 ^ 21) else none) a.grp a.pc s1
  if mem = 2 && !write && farLooks s tag then
    let line := b.1 / 256
    if farHit s tag b.1 then endReq s1.xlate.nextReq (farPlace (tagFold tag) line (ask b.1 b.2))
    else farPlace (tagFold tag) line (stackIssue 2 (256 * line) 256 false [] (ask (256 * line) 256))
  else stackIssue mem b.1 b.2 write (if write then stackData s1 mem b.1 b.2 else []) (ask b.1 b.2)

/-- An admitted access is charged to the fold's meter in its class (R258), and its requests leave on the asker's behalf (R160, R257);
a posted write to host memory has no response (R480). Pond traffic passes no weir (R251). -/
def charge (tag : W16) (mem off n : Nat) (write : Bool) (s : State) : State :=
  if mem = 0 then s else
  let s1 := unhold (memClass mem) 0 (weirCharge tag (memClass mem) n s)
  match s1.xlate.agent with
  | none => s1
  | some a => if mem = 3 && write then s1 else forEach (beatsAt off n) (issueBeat a tag mem write) s1

/-- Writes for MOVE destinations and herd stores carry Relaxed Ordering; every other request has it clear (R480). -/
def relaxes (s : State) : Bool :=
  match s.xlate.agent with
  | none => false
  | some a => a.grp.isSome || match cmdAt s a.uid with
    | some c => opcodeOf c.desc == 3
    | none => false

/-- Bytes read by an admitted access. -/
def getBytes (tag : W16) (mem off n : Nat) (s : State) : List Byte × State :=
  let (bs, s1) := memBytes mem off n s
  (bs, charge tag mem off n false (if mem = 3 then contextTlp tag false false off n s1 else s1))

/-- Bytes written by an admitted access. A partial write of a failing unit of tarn or unkeyed far memory: the base die decides, by
a free choice, whether the error clears (R169). -/
def putBytes (tag : W16) (mem off : Nat) (bs : List Byte) (s : State) : State :=
  if partPoison s mem off bs.length then
    let (clears, s1) := drawChoice s
    let s2 := charge tag mem off bs.length true (memStore mem off bs s1)
    if clears then { s2 with poison := s2.poison.filter fun p =>
        !(p.1 == mem && decide (off < p.2 * 64 + 64) && decide (p.2 * 64 < off + bs.length)) } else s2
  else
    let s1 := memStore mem off bs s
    charge tag mem off bs.length true (if mem = 3 then contextTlp tag true (relaxes s) off bs.length s1 else s1)

/-- A partial write of a failing unit that fails in its own memory: of pond, and of a keyed fold's far memory (R169). -/
def mergeFails (s : State) (mem off n : Nat) : Bool :=
  partPoison s mem off n && (mem == 0 || (mem == 2 && farKey s off != 0))

/-- Read n bytes that lie within one 4 KiB page of a memory (R153, R155, R169). -/
def locRead (tag : W16) (mem off n : Nat) (s : State) : Access × State :=
  if !landOk s tag mem off then (.refused, s)
  else if !reachable s tag mem off n then (.wait, holdAccess tag mem off n s)
  else if readFails s tag mem off n then (.error (if mem = 3 then 0x43 else 0x42) (paOf s mem (badUnit s mem off n)), s)
  else
    let (bs, s1) := getBytes tag mem off n s
    (.ok bs, s1)

/-- Write bytes that lie within one 4 KiB page of a memory (R153, R155, R169). -/
def locWrite (tag : W16) (mem off : Nat) (bs : List Byte) (s : State) : Access × State :=
  if !landOk s tag mem off then (.refused, s)
  else if !reachable s tag mem off bs.length then (.wait, holdAccess tag mem off bs.length s)
  else if mergeFails s mem off bs.length then (.error 0x42 (paOf s mem (badUnit s mem off bs.length)), s)
  else (.ok [], putBytes tag mem off bs s)

/-! ### Page walks (R142, R144-R149) -/

/-- How a walk ends. -/
inductive Walk where
  | leaf (e : TlbEntry) (level : Nat)
  | fault (k : FaultKind) (level : Nat)
  | error (pa : Nat)
  | wait
  deriving DecidableEq, Repr

/-- Bit position of a configured flag; none while the entry holds 0xFF (R144). -/
def pteBit (s : State) (sub : Nat) : Option Nat :=
  let p := Tab.get 0xFF s.xlate.pteBits sub
  if p = 0xFF then none else some p.toNat

/-- A flag of a page-table entry. -/
def pteFlag (s : State) (sub : Nat) (e : W64) : Bool :=
  match pteBit s sub with
  | none => false
  | some p => bitAt e p

/-- Bytes mapped by a leaf at a level: 1 for 4 KiB, 2 for 2 MiB, 3 for 1 GiB. -/
def leafSize (level : Nat) : Nat := 2 ^ (12 + 9 * (level - 1))

/-- Walk from a level down, and list the tables found below each level for the walk cache (R145). A huge leaf's low
address bits are taken as zero (log entry 23). -/
def walkFrom (s : State) (place slot gen va : Nat) : Nat → Nat → Walk × List (Nat × Nat)
  | 0, _ => (.fault .format 0, [])
  | level + 1, table =>
    let l := level + 1
    let a := table + (va >>> (12 + 9 * level)) % 512 * 8
    if poisoned s 3 a 8 then (.error a, []) else
    let e : W64 := BitVec.ofNat 64 (ofLe (hostRead s a 8))
    let base := field e 12 40 * 4096
    if !pteFlag s 0x23 e then (.fault .notPresent l, [])
    else if l = 1 ∨ ((l = 2 ∨ l = 3) ∧ pteFlag s 0x25 e) then
      (.leaf { place := place, slot := slot, gen := gen, va := va / leafSize l * leafSize l, size := leafSize l,
               pa := base / leafSize l * leafSize l, write := pteFlag s 0x24 e, noexec := pteFlag s 0x26 e } l, [])
    else if pteFlag s 0x25 e then (.fault .format l, [])
    else
      let r := walkFrom s place slot gen va level base
      (r.1, (l, base) :: r.2)

/-- The MMU that serves a place (R22): a paddock 0 to 7, or 8 + MMU for the host port and the network interfaces. -/
def mmuOf (place : Nat) : Nat := if place < 8 then place / 4 else place - 8

/-- Entries of a first-level or shared TLB. -/
def tlbSize (place : Nat) : Nat := if place < 8 then 512 else 4096

/-- Put an entry into a TLB; when the TLB is full a free choice of entry leaves it (R150; log entry 24). -/
def tlbFill (e : TlbEntry) (s : State) : State :=
  let here := s.xlate.tlb.filter fun x => x.place == e.place
  if here.length < tlbSize e.place then { s with xlate := { s.xlate with tlb := s.xlate.tlb ++ [e] } }
  else
    let (i, s1) := drawBelow here.length s
    let victim := here.getD i e
    { s1 with xlate := { s1.xlate with tlb := (s1.xlate.tlb.erase victim) ++ [e] } }

/-- Put the table found below a level into an MMU's walk cache of 64 entries per level (R150). -/
def walkFill (w : WalkEntry) (s : State) : State :=
  let here := s.xlate.walks.filter fun x => x.mmu == w.mmu && x.level == w.level
  if here.length < 64 then { s with xlate := { s.xlate with walks := s.xlate.walks ++ [w] } }
  else
    let (i, s1) := drawBelow here.length s
    { s1 with xlate := { s1.xlate with walks := (s1.xlate.walks.erase (here.getD i w)) ++ [w] } }

/-- The range of addresses that a table below a level maps. -/
def walkRange (level va : Nat) : Nat := va / 2 ^ (12 + 9 * (level - 1)) * 2 ^ (12 + 9 * (level - 1))

/-- The deepest table the walk cache holds for an address, as (level still to read, table). -/
def walkStart (s : State) (place slot gen va root : Nat) : Nat × Nat :=
  let hit := fun l => s.xlate.walks.find? fun w =>
    w.mmu == mmuOf place && w.level == l && w.slot == slot && w.gen == gen && w.va == walkRange l va
  match hit 2, hit 3, hit 4, hit 5 with
  | some w, _, _, _ => (1, w.table)
  | none, some w, _, _ => (2, w.table)
  | none, none, some w, _ => (3, w.table)
  | none, none, none, some w => (4, w.table)
  | none, none, none, none => (s.xlate.ptLevels.toNat, root)

/-- A TLB's entry for an address of a context at its current generation (R150). -/
def tlbHit (s : State) (place slot gen va : Nat) : Option TlbEntry :=
  s.xlate.tlb.find? fun e =>
    e.place == place && e.slot == slot && e.gen == gen && decide (e.va ≤ va) && decide (va < e.va + e.size)

/-- Bits of a virtual address that may be non-zero (R142). -/
def vaBits (s : State) : Nat := if s.xlate.ptLevels = 5 then 57 else 48

/-- The leaf of a virtual address: paddock TLB, shared TLB, then a walk; fills on the way (R145, R150). The walk's reads
are requests of the host class (R251). -/
def lookupLeaf (place slot va : Nat) (s : State) : Walk × State :=
  let c := ctxAt s slot
  match tlbHit s place slot c.gen va with
  | some e => (.leaf e 0, s)
  | none =>
    match tlbHit s (8 + mmuOf place) slot c.gen va with
    | some e => (.leaf e 0, if place < 8 then tlbFill { e with place := place } s else s)
    | none =>
      match c.root with
      | none => (.fault .notPresent 0, s)
      | some root =>
        let tag := mkTag c.fold slot c.gen
        if !(linkUp s && weirAdmits s tag 3 0 8) then (.wait, weirHold tag 3 0 8 s) else
        let (level, table) := walkStart s place slot c.gen va root.toNat
        let r := walkFrom s place slot c.gen va level table
        let s1 := weirCharge tag 3 (8 * (r.2.length + 1)) s
        let s2 := forEach r.2 (fun w s => walkFill { mmu := mmuOf place, level := w.1, slot := slot, gen := c.gen,
                                                     va := walkRange w.1 va, table := w.2 } s) s1
        match r.1 with
        | .leaf e l =>
          let s3 := tlbFill { e with place := 8 + mmuOf place } s2
          (.leaf e l, if place < 8 then tlbFill { e with place := place } s3 else s3)
        | w => (w, s2)

/-- What a translation comes to. -/
inductive Tran where
  | pa (a : Nat)
  | fault (k : FaultKind) (level : Nat)
  | error (pa : Nat)
  | wait
  deriving DecidableEq, Repr

/-- The address translated last, and the level at which its walk stopped. -/
def noteWalk (va level : Nat) (s : State) : State := { s with xlate := { s.xlate with lastVa := va, walked := level } }

/-- Translate one virtual address for an access, with its permission checks (R142, R149). -/
def translate (place : Nat) (tag : W16) (va : Nat) (a : AccessKind) (s : State) : Tran × State :=
  if 2 ^ vaBits s ≤ va then (.fault .highBits 0, noteWalk va 0 s) else
  match lookupLeaf place (tagSlot tag) va s with
  | (.leaf e l, s1) =>
    let s2 := noteWalk va l s1
    if (a = .write ∨ a = .atomic) ∧ !e.write then (.fault .writeDenied l, s2)
    else if a = .fetch ∧ e.noexec then (.fault .execDenied l, s2)
    else (.pa (e.pa + (va - e.va)), s2)
  | (.fault k l, s1) => (.fault k l, noteWalk va l s1)
  | (.error a', s1) => (.error a', s1)
  | (.wait, s1) => (.wait, s1)

/-! ### Page faults (R163) -/

/-- Opens or joins a pending fault, or parks the requester: the entry's index when one took it. A remote request waits for no
resolution: its fault has no requester (R157). -/
def onFault (tag : W16) (va : Nat) (k : FaultKind) (a : AccessKind) (master : W16) (level : Nat) (req : Option Requester)
    (s : State) : Option Nat × State :=
  let page := va % 2 ^ 57 / 4096
  match s.xlate.pending.find? fun e => e.tag == tag && e.page == page with
  | some e =>
    let join := fun (x : PendingFault) =>
      if x.idx == e.idx then { x with waiters := req.toList.foldl (fun l r => addOnce r l) x.waiters, count := satAdd x.count 1 } else x
    (some e.idx, { s with xlate := { s.xlate with pending := s.xlate.pending.map join } })
  | none =>
    let isFree := fun i => s.xlate.pending.all fun e => e.idx != i
    match lowest 256 isFree with
    | none =>
      let parked := s.xlate.parked ++ req.toList.map fun r => (r, page)
      (none, { s with xlate := { s.xlate with parked := parked, faultParked := s.xlate.faultParked + 1 } })
    | some i =>
      let e : PendingFault := {
        idx := i, seq := Tab.get 0 s.xlate.pendSeq i, tag := tag, page := page, kind := k,
        access := a, master := master, level := level, pasid := (ctxAt s (tagSlot tag)).pasid, time := now s,
        count := 1, waiters := req.toList, written := false }
      (some i, raisePending e s)

/-- Free a pending entry; its next use has the next sequence (R163, R166). -/
def freePending (i : Nat) (s : State) : State :=
  { s with xlate := { s.xlate with
      pending := s.xlate.pending.filter fun e => e.idx != i,
      pendSeq := Tab.set 0 s.xlate.pendSeq i (Tab.get 0 s.xlate.pendSeq i + 1) } }

/-- Remove TLB and walk-cache entries that satisfy a test. -/
def purge (p : TlbEntry → Bool) (w : WalkEntry → Bool) (s : State) : State :=
  { s with xlate := { s.xlate with
      tlb := s.xlate.tlb.filter fun e => !p e, walks := s.xlate.walks.filter fun e => !w e } }

/-- Purge every entry of a context slot (R150, R158). -/
def purgeSlot (slot : Nat) (s : State) : State := purge (fun e => e.slot == slot) (fun w => w.slot == slot) s

end Sys2Proof.Machine
end

