-- ==== Sys2Proof/Machine/Reach.lean ====
section
/-! DEFINITION. Flock map entries (R279), remote windows (R156, R296), and how a command's address reaches a memory: by
translation for a context queue, as a bus or local physical address for the kernel queue (R171). -/

namespace Sys2Proof.Machine

/-- Entry m of a fold's map copy (R279). -/
def mapEntry (s : State) (n m : Nat) : BitVec 128 :=
  BitVec.ofNat 128 (ofLe (memRead s.tarn ((foldAt s n).member.mapUnit.toNat * 2 ^ 20 + 16 * m) 16))

def meValid (e : BitVec 128) : Bool := bitAt e 127
def meSub (e : BitVec 128) : Bool := bitAt e 126
def meExcluded (e : BitVec 128) : Bool := bitAt e 125
def meReservoir (e : BitVec 128) : Bool := bitAt e 124
def meNode (e : BitVec 128) : BitVec 18 := bitsAt e 100 18
def meTag (e : BitVec 128) : W16 := bitsAt e 84 16
def meFold (e : BitVec 128) : Nat := field e 96 4
def meLeafBase (e : BitVec 128) : Nat := field e 64 20
def meEngineBase (e : BitVec 128) : Nat := field e 44 20
def meEngineCount (e : BitVec 128) : Nat := field e 24 20
def meLeafCount (e : BitVec 128) : Nat := field e 4 20

/-- The members of a fold's map, ascending. -/
def mapMembers (s : State) (n : Nat) : List Nat :=
  let m := (foldAt s n).member
  if m.state = 0 then []
  else (List.range (m.lastMember.toNat + 1)).filter fun i => meValid (mapEntry s n i)

/-- A node and fold as a map member of a fold's flock (R285). -/
def memberOf (s : State) (n : Nat) (node : BitVec 18) (fold : Nat) : Option Nat :=
  (mapMembers s n).find? fun i => meNode (mapEntry s n i) == node && meFold (mapEntry s n i) == fold

/-- Is a context the flock context of its fold: its tag is the member_tag of its fold's own entry (R279)? -/
def flockContext (s : State) (tag : W16) : Bool :=
  let m := (foldAt s (tagFold tag)).member
  (m.state == 2) && meTag (mapEntry s (tagFold tag) m.memberNo.toNat) == tag

/-! ### Where an access of a command lands -/

/-- The place an access reaches, or why it reaches none. -/
inductive Spot where
  | loc (mem off : Nat)
  | win (node : BitVec 18) (tag : W16) (va : Nat) (version : W32)
  | fault (k : FaultKind) (level : Nat)
  | refused (k : FaultKind)
  | error (pa : Nat)
  | wait
  deriving DecidableEq, Repr

/-- A window's permission for an access (R156). -/
def winAllows (e : W64) (a : AccessKind) : Bool :=
  match a with
  | .read => bitAt e 61
  | .write => bitAt e 62
  | .atomic => bitAt e 60
  | .fetch => false

/-- Resolve a remote window of a fold (R156, R296). -/
def window (s : State) (n index off : Nat) (a : AccessKind) : Spot :=
  let e := Tab.get 0 (foldAt s n).windows index
  if !bitAt e 63 || !winAllows e a then .fault .windowInvalid 0
  else
    let va := field e 0 17 * 2 ^ 40 + off
    if !bitAt e 59 then .win (bitsAt e 40 18) (bitsAt e 24 16) va 0
    else
      let m := (foldAt s n).member
      if m.state = 0 ∨ field e 56 2 ≠ 0 ∨ m.lastMember.toNat < field e 40 16 then .fault .windowInvalid 0
      else
        let x := mapEntry s n (field e 40 16)
        if !meValid x || meSub x || meReservoir x then .fault .windowInvalid 0
        else if meExcluded x then .refused .remoteRefused
        else .win (meNode x) (meTag x) va m.version

/-- Where a physical address of a fold's access lands. -/
def spotOfPa (s : State) (n pa : Nat) (a : AccessKind) : Spot :=
  match decodePa s pa with
  | .loc mem off => .loc mem off
  | .reserved => .refused .access
  | .remote i off => window s n i off a

/-- Where an address of a command lands: translated in its context, or physical on the kernel queue (R171, R185). -/
def reach (place : Nat) (tag : W16) (va : Nat) (a : AccessKind) (s : State) : Spot × State :=
  if tag = 0 then
    (if 2 ^ 51 ≤ va then .refused .access else spotOfPa s 0 va a, s)
  else
    match translate place tag va a s with
    | (.pa p, s1) =>
      ((match spotOfPa s1 (tagFold tag) p a with
        | .fault k _ => .fault k s1.xlate.walked
        | x => x), s1)
    | (.fault k l, s1) => (.fault k l, s1)
    | (.error p, s1) => (.error p, s1)
    | (.wait, s1) => (.wait, s1)

/-- Cut [va, va + n) at 4 KiB boundaries. -/
def pieces : Nat → Nat → Nat → List (Nat × Nat)
  | 0, _, _ => []
  | fuel + 1, va, n =>
    if n = 0 then [] else
    let len := min n (4096 - va % 4096)
    (va, len) :: pieces fuel (va + len) (n - len)

def pagesOf (va n : Nat) : List (Nat × Nat) := pieces (n / 4096 + 2) va n

/-- What reading or writing a whole range comes to; a fault names the address that faulted. -/
inductive Got where
  | ok (bs : List Byte)
  | fault (va : Nat) (k : FaultKind) (level : Nat)
  | refused (va : Nat) (k : FaultKind)
  | error (detail pa : Nat)
  | remote (va : Nat)
  | wait
  deriving DecidableEq, Repr

/-- One piece of a read. -/
def readPiece (place : Nat) (tag : W16) (va n : Nat) (s : State) : Got × State :=
  match reach place tag va .read s with
  | (.loc mem off, s1) =>
    (match locRead tag mem off n s1 with
      | (.ok bs, s2) => (.ok bs, s2)
      | (.refused, s2) => (.refused va .access, s2)
      | (.error d p, s2) => (.error d p, s2)
      | (.wait, s2) => (.wait, s2))
  | (.win .., s1) => (.remote va, s1)
  | (.fault k l, s1) => (.fault va k l, s1)
  | (.refused k, s1) => (.refused va k, s1)
  | (.error p, s1) => (.error 0x43 p, s1)
  | (.wait, s1) => (.wait, s1)

/-- One piece of a write. -/
def writePiece (place : Nat) (tag : W16) (va : Nat) (bs : List Byte) (s : State) : Got × State :=
  match reach place tag va .write s with
  | (.loc mem off, s1) =>
    (match locWrite tag mem off bs s1 with
      | (.ok _, s2) => (.ok [], s2)
      | (.refused, s2) => (.refused va .access, s2)
      | (.error d p, s2) => (.error d p, s2)
      | (.wait, s2) => (.wait, s2))
  | (.win .., s1) => (.remote va, s1)
  | (.fault k l, s1) => (.fault va k l, s1)
  | (.refused k, s1) => (.refused va k, s1)
  | (.error p, s1) => (.error 0x43 p, s1)
  | (.wait, s1) => (.wait, s1)

/-- Read the pieces of a range in ascending order, stopping at the first that does not answer. -/
def readPieces (place : Nat) (tag : W16) : List (Nat × Nat) → List Byte → State → Got × State
  | [], acc, s => (.ok acc, s)
  | (va, n) :: rest, acc, s =>
    match readPiece place tag va n s with
    | (.ok bs, s1) => readPieces place tag rest (acc ++ bs) s1
    | r => r

/-- Read a range. -/
def readRange (place : Nat) (tag : W16) (va n : Nat) (s : State) : Got × State := readPieces place tag (pagesOf va n) [] s

/-- Go on reading pieces for a command: what has come is kept in `got` while the rest waits. -/
def readOn (uid place : Nat) (tag : W16) : List (Nat × Nat) → State → Got × State
  | [], s => (.ok (match cmdAt s uid with | some c => c.got | none => []), modCmd s uid fun c => { c with got := [] })
  | (va, n) :: rest, s =>
    match readPiece place tag va n s with
    | (.ok bs, s1) => readOn uid place tag rest (modCmd s1 uid fun c => { c with got := c.got ++ bs })
    | r => r

/-- Read a range for a command, going on where it was made to wait. -/
def readFor (uid place : Nat) (tag : W16) (va n : Nat) (s : State) : Got × State :=
  let k := match cmdAt s uid with | some c => min n c.got.length | none => 0
  readOn uid place tag (cutAt 256 (n / 256 + 2) (va + k) (n - k)) s

/-- Requests of a command whose responses have not returned. -/
def reqsOut (s : State) (uid : Nat) : Bool := s.xlate.reqs.any fun r => r.uid == uid && !r.abandoned

/-- Write the pieces of a range in ascending order; what was written before a stop stays written. -/
def writePieces (place : Nat) (tag : W16) : List (Nat × Nat) → List Byte → State → Got × State
  | [], _, s => (.ok [], s)
  | (va, n) :: rest, bs, s =>
    match writePiece place tag va (bs.take n) s with
    | (.ok _, s1) => writePieces place tag rest (bs.drop n) s1
    | r => r

def writeRange (place : Nat) (tag : W16) (va : Nat) (bs : List Byte) (s : State) : Got × State :=
  writePieces place tag (pagesOf va bs.length) bs s

/-- A class A record for an uncorrectable error (R169, R170). -/
def raiseData (detail pa : Nat) (master tag : W16) (s : State) : State :=
  raiseFault { cls := 0, detail := detail, master := master, tag := tag, address := pa,
               fold := if tag = 0 then none else some (tagFold tag) } s

/-- A class D record of a task or launch. -/
def raiseEngine (detail : Nat) (master tag : W16) (s : State) : State :=
  raiseFault { cls := 3, detail := detail, master := master, tag := tag,
               fold := if tag = 0 then none else some (tagFold tag) } s

/-- A command's access failed for good: its record, and the status it completes with (R155, R163, R169). -/
def failAccess (g : Got) (tag master : W16) (a : AccessKind) (s : State) : Byte × State :=
  match g with
  | .refused va k => (stTranslation, raiseAccess va tag master a k s)
  | .error d p => (stDataError, raiseData d p master tag s)
  | _ => (stTranslation, s)

/-- A command waits on a page fault: its phase names the pending entry, or says that it is parked (R163). -/
def faultCmd (uid : Nat) (tag : W16) (va : Nat) (k : FaultKind) (a : AccessKind) (master : W16) (level : Nat)
    (req : Requester) (s : State) : State :=
  match onFault tag va k a master level (some req) s with
  | (some i, s1) => setPhase s1 uid (.faulted i)
  | (none, s1) => setPhase s1 uid .parked

end Sys2Proof.Machine
end

