-- ==== Sys2Proof/Machine/Queues.lean ====
section
/-! DEFINITION. Queues: when a descriptor is read, the checks of acceptance (R176-R178, R512, R513), the fence slot and the
evaluation of waits (R185), and which accepted command may start (R87, R110, R185, R205, R511). -/

namespace Sys2Proof.Machine

/-! ### Fences (R185) -/

def fsValue (f : BitVec 128) : Nat := field f 0 64
def fsReason (f : BitVec 128) : Nat := field f 96 8
def fsState (f : BitVec 128) : Nat := field f 104 8
def fsOwner (f : BitVec 128) : Nat := field f 112 16

/-- The host port's master identity (R26), of commands that a unit of no paddock carries out. -/
def hostMaster : W16 := 0x5F00

/-- What the fence slot says of a wait for a target. -/
inductive Verdict where
  | done (st : Byte)
  | keep
  deriving DecidableEq, Repr

/-- The rule of R185 on the slot's value and state. -/
def judgeFence (slot : BitVec 128) (target : W64) : Verdict :=
  if target.toNat ≤ fsValue slot then .done stSuccess
  else if fsState slot = 1 then .done stFenceAbandoned else .keep

/-- Answer a descriptor that is not accepted: its record, no journal entry (R177). -/
def refuseDesc (q : Nat) (d : BitVec 512) (st : Byte) (s : State) : State :=
  putRecord q (completionRecord { Done.plain st with digest := markDigest d 0 } (now s) (seqOf d) q (opcodeOf d)) s

/-- Does the command hold a wait slot (R185)? -/
def holdsSlot (c : Cmd) : Bool :=
  opcodeOf c.desc == 5 &&
    (match c.phase with | .waitFence .. => true | .reading b => b | .faulted _ => true | .parked => true | _ => false)

/-- Wait slots in use, and those of one fold (R30, R31). -/
def slotsUsed (s : State) : Nat := (s.cmds.filter holdsSlot).length
def foldSlotsUsed (s : State) (n : Nat) : Nat :=
  (s.cmds.filter fun c => holdsSlot c && tagFold c.tag == n && c.tag != 0).length
def slotFree (s : State) (tag : W16) : Bool :=
  let quota := (foldAt s (tagFold tag)).live.waitQuota.toNat
  decide (slotsUsed s < 8192) && (tag == 0 || quota == 0 || decide (foldSlotsUsed s (tagFold tag) < quota))

/-- SQ_HEAD steps back onto the entry and the queue stops with a cause (R185). -/
def stopQueue (q : Nat) (st : QState) (s : State) : State :=
  modQueue s q fun x => { x with state := st, sqHead := x.sqHead - 1, batch := 0 }

/-- The FENCE_WAIT at a queue's head finds no wait slot: it is not accepted, SQ_HEAD steps back onto it, and its queue stops
with cause WAIT_SLOTS (R185). -/
def turnAway (c : Cmd) (s : State) : State :=
  let s1 := modQueue (dropCmd s c.uid) c.q fun x => { x with nextSeq := x.nextSeq - 1 }
  let s2 := if c.journalled then s1
    else { s1 with journal := { s1.journal with unjournalled := s1.journal.unjournalled - 1 } }
  stopQueue c.q .waitSlots (refuseDesc c.q c.desc stSlots s2)

/-- A FENCE_WAIT that is not satisfied goes on waiting as given; at its acceptance it needs a wait slot (R177 check 6). -/
def holdWait (c : Cmd) (k : State → State) (s : State) : State :=
  if c.phase = .reading false ∧ !slotFree s c.tag then turnAway c s else k s

/-- The read of the fence has not gone out, or has not come back: a wait at its acceptance has no slot yet (R185). -/
def waitRead (c : Cmd) (s : State) : State := if c.phase = .reading false then s else setPhase s c.uid (.reading true)

/-- Evaluate the FENCE_WAIT of a command: complete it, or let it hold its wait slot at the fence's physical place; a fence behind
a remote window is read across it. -/
def readFence (uid : Nat) (s : State) : State :=
  match cmdAt s uid with
  | none => s
  | some c =>
    let a := (operand0 c.desc).toNat
    let target := operand1 c.desc
    match reach 8 c.tag a .read s with
    | (.loc mem off, s1) =>
      (match locRead c.tag mem off 16 s1 with
        | (.ok bs, s2) =>
          (match judgeFence (BitVec.ofNat 128 (ofLe bs)) target with
            | .done st => complete uid (.plain st) s2
            | .keep => holdWait c (fun s => setPhase s uid (.waitFence (BitVec.ofNat 64 (paOf s2 mem off)) target)) s2)
        | (.wait, s2) => waitRead c s2
        | (.refused, s2) =>
          raiseAccess a c.tag hostMaster .read .access (complete uid (.plain stTranslation) s2)
        | (.error d p, s2) => raiseData d p hostMaster c.tag (complete uid (.plain stDataError) s2))
    | (.win node tag va ver, s1) =>
      let k := { blankPacket s1 with
        destNode := node, destTag := tag, address := BitVec.ofNat 64 va, mapVersion := ver, ptype := 1,
        payload := leBytes 8 16 }
      if mayReach s1 (tagFold c.tag) node then
        sendRequest (tagFold c.tag) uid (.piece 0 16) hostMaster a (ctxAt s1 (tagSlot c.tag)).lc k
          (if c.phase = .reading false then s1 else setPhase s1 uid (.waitFence (BitVec.ofNat 64 (2 ^ 63)) target))
      else waitRead c (holdRemote c.tag node s1)
    | (.fault k l, s1) => holdWait c (faultCmd uid c.tag a k .read hostMaster l (.fence uid)) s1
    | (.refused k, s1) => raiseAccess a c.tag hostMaster .read k (complete uid (.plain stTranslation) s1)
    | (.error p, s1) => raiseData 0x43 p hostMaster c.tag (complete uid (.plain stDataError) s1)
    | (.wait, s1) => waitRead c s1

/-- Evaluate a FENCE_WAIT; the read of its fence is its own request (R252, R257). -/
def evalWait (uid : Nat) (s : State) : State := doFor uid hostMaster (readFence uid) s

/-- A read across a window is outstanding for a command. -/
def readOut (s : State) (c : Cmd) : Bool := (foldAt s (tagFold c.tag)).unacked.any fun e => e.uid == c.uid

/-- The reads of fences that are due go out as soon as they can. -/
def readsDue (s : State) : State :=
  forEach (cmdsWhere s fun c => match c.phase with | .reading _ => !readOut s c | _ => false) evalWait s

/-- The command waits on a fence at a physical place. -/
def waitsAt (pa : W64) (c : Cmd) : Bool :=
  match c.phase with
  | .waitFence a _ => a == pa
  | _ => false

/-- Evaluate the waits on a physical place (R185). -/
def wakeWaits (pa : W64) (s : State) : State := forEach (cmdsWhere s (waitsAt pa)) evalWait s

/-- Evaluate every wait, as each boundary does (R185). -/
def wakeAll (s : State) : State :=
  forEach (cmdsWhere s fun c => match c.phase with | .waitFence .. => true | .reading true => true | _ => false) evalWait s

/-- The signal step at the unit that owns the slot: status, and the slot's new value when it is written. -/
def fenceStep (slot : BitVec 128) (v : W64) : Byte × Option W64 :=
  if fsState slot = 1 then (stFenceAbandoned, none)
  else if v.toNat < fsValue slot then (stFenceRegression, none)
  else (stSuccess, some v)

/-! ### Reading a descriptor (R177, R512) -/

/-- The acceptance of a queue's FENCE_WAIT waits for the read of its fence (R177 check 6). -/
def waitAtHead (c : Cmd) : Bool := c.phase == .reading false

/-- Commands of a queue accepted and not completed: IN_FLIGHT (R178). -/
def inFlight (s : State) (q : Nat) : Nat := ((cmdsOf s q).filter fun c => !waitAtHead c).length

/-- How many more completion records the ring can answer: neither written and not freed, nor owed to a command read, nor held
back (R177, R193). -/
def answerable (s : State) (q : Nat) : Nat :=
  let x := queueAt s q
  ringEntries x - ((x.cqTail - x.cqHead).toNat + (cmdsOf s q).length + recordsHeld s q)

/-- Acceptance is stopped for a queue while the journal ring is full (R193) or its rings cannot be written (R483). -/
def acceptanceOpen (s : State) (q : Nat) : Bool :=
  linkUp s && (q == 0 || !s.journal.enabled || !journalFull s)

/-- A frozen or freezing fold reads no descriptor and dispatches nothing (R241). -/
def foldStill (s : State) (n : Nat) : Bool := (foldAt s n).state == .frozen || (foldAt s n).freezing.isSome

/-- Twin queues read no descriptor while 1,024 own digests await the partner's (R307). -/
def twinHolds (s : State) (tag : W16) : Bool :=
  (s.twin.state == 1 || s.twin.state == 2) && tag == s.twin.tag && decide (1024 ≤ s.twin.own.length)

/-- The block reads the descriptor at SQ_HEAD (R177, R178). -/
def mayRead (s : State) (q : Nat) : Bool :=
  let x := queueAt s q
  (x.state == .active || x.state == .fenced) && !x.destroying && x.sqHead != x.sqTail &&
    !(cmdsOf s q).any waitAtHead &&
    decide (0 < answerable s q) && acceptanceOpen s q &&
    (q == 0 || !(foldStill s (hqiAt s x.hqi).fold || twinHolds s x.tag))

/-- A fold whose sluice is closed (R233). -/
def foldClosed (s : State) (n : Nat) : Bool :=
  match (foldAt s n).state with
  | .closing => true
  | .disabled => true
  | .scrubbing => true
  | .resetting => true
  | _ => false

/-- A sluice over the queue is closed (R177 check 1, R421). -/
def queueClosed (s : State) (q : Nat) : Bool :=
  let x := queueAt s q
  x.state == .fenced ||
    (q != 0 && ((hqiAt s x.hqi).closed || !tagOpen s x.tag || (ctxAt s (tagSlot x.tag)).sluiceClosed ||
      foldClosed s (hqiAt s x.hqi).fold || s.faults.sluiceClosed))

/-- The queue is a flock queue of a member that its flock has excluded (R289). -/
def flockClosed (s : State) (tag : W16) : Bool :=
  let m := (foldAt s (tagFold tag)).member
  m.state == 4 && meTag (mapEntry s (tagFold tag) m.memberNo.toNat) == tag

/-- The opcode is accepted on the queue; COLLECTIVE and RESV_OP only on flock queues (R175, R298, R319). -/
def opcodeAccepted (s : State) (q op : Nat) : Bool :=
  if q = 0 then op == 4 || op == 5 || op == 0x0C || (decide (0x10 ≤ op) && decide (op ≤ 0x19))
  else decide (1 ≤ op) && decide (op ≤ 0x0C) && ((op != 8 && op != 0x0B) || flockContext s (queueAt s q).tag)

/-- Count a spoofed descriptor against the queue's HQI. -/
def countSpoof (h : Nat) (s : State) : State := modHqi s h fun x => { x with spoof := satAdd x.spoof 1 }

/-- A queue may accept commands: the journal ring is enabled and the timebase has left UNSET (R178, R192, R360). -/
def queuesReady (s : State) : Bool := s.journal.enabled && s.tb.state != .unset

/-- The state of a queue that is made: ACTIVE, or STOPPED with cause NOT_READY (R178). -/
def madeState (s : State) : QState := if queuesReady s then .active else .notReady

/-- The record of an accepted command (R177). -/
def newCmd (s : State) (q : Nat) (d : BitVec 512) : Cmd :=
  { uid := s.nextUid, q := q, desc := d, tag := (queueAt s q).tag, acceptTime := now s, digest := crc64 (bytesOf 64 d),
    journalled := s.journal.enabled, phase := .accepted, boosted := false, judged := false, moved := 0,
    launch := Launch.reset, coll := CollState.reset, carriedIn := none, readyAt := 0, startAt := 0, pages := [],
    mover := (Config.freeValue 64 s.free).toNat % 16, asked := 0, opnd := [], seg := 0, out := [], got := [], setting := none }

/-- Put an accepted command on the list; NEXT_SEQ advances; an unjournalled one is counted (R177, R192). -/
def admitCmd (q : Nat) (d : BitVec 512) (s : State) : State :=
  let c := newCmd s q d
  let s1 := modQueue s q fun x => { x with nextSeq := x.nextSeq + 1 }
  { s1 with
    cmds := s1.cmds ++ [c], nextUid := s1.nextUid + 1, free := s1.free + 1,
    journal := if s1.journal.enabled then s1.journal
               else { s1.journal with unjournalled := s1.journal.unjournalled + 1 } }

/-- A FENCE_WAIT at acceptance (R177 check 6, R185): a misaligned one completes with RANGE; one that is not satisfied needs
a wait slot, or it is not accepted and its queue stops with cause WAIT_SLOTS. Its queue reads no further descriptor until the
read of the fence has come back. -/
def acceptWait (q : Nat) (d : BitVec 512) (s : State) : State :=
  let s1 := admitCmd q d s
  let uid := s.nextUid
  if (operand0 d).toNat % 16 ≠ 0 then complete uid (.plain stRange) s1
  else evalWait uid (setPhase s1 uid (.reading false))

/-- Check 2 of R177: the descriptor names the queue's binding, or the binding the queue had before an import (R247). -/
def bindingOk (x : Queue) (q : Nat) (d : BitVec 512) : Bool :=
  (field d 24 8 == x.hqi && field d 12 12 == q && bitsAt d 32 16 == x.tag) ||
    (match x.orig with
      | none => false
      | some (h, p, t) => field d 24 8 == h.toNat && field d 12 12 == p.toNat && bitsAt d 32 16 == t)

/-- One descriptor at SQ_HEAD: SQ_HEAD advances and is written back, then the checks of R177 in order. -/
def acceptOne (q : Nat) (d : BitVec 512) (s : State) : State :=
  if !mayRead s q then s else
  let x := queueAt s q
  let s1 := setQueue s q { x with sqHead := x.sqHead + 1, batch := x.batch - 1 }
  let s2 := if x.headWb = 0 then s1 else hostWrite x.headWb.toNat (leBytes 8 (x.sqHead + 1).toNat) s1
  if flockClosed s x.tag ∧ q ≠ 0 then refuseDesc q d stFenced s2
  else if queueClosed s q then modQueue (refuseDesc q d stFenced s2) q fun y => { y with state := .fenced }
  else if !bindingOk x q d then
    countSpoof x.hqi (refuseDesc q d stSpoof s2)
  else if privileged (opcodeOf d) ∧ q ≠ 0 then countSpoof x.hqi (refuseDesc q d stSpoof s2)
  else if !opcodeAccepted s q (opcodeOf d) then refuseDesc q d stRange s2
  else
    let dist := (x.nextSeq - seqOf d).toNat
    if dist ≠ 0 then
      if dist ≤ 65536 then refuseDesc q d stDuplicate s2
      else modQueue (refuseDesc q d stRange s2) q fun y => { y with state := .seqGap, batch := 0 }
    else if opcodeOf d = 5 then acceptWait q d s2
    else admitCmd q d s2

/-- A failed read of the ring (R513); a FENCED queue is left by QUEUE_DESTROY alone (R178). -/
def readFailed (q : Nat) (s : State) : State :=
  let x := queueAt s q
  let a := x.ring.toNat + (x.sqHead.toNat % ringEntries x) * 64
  let s1 := putRecord q (completionRecord (.plain stDataError) (now s) 0 q 0) s
  let s2 := raiseData 0x43 a hostMaster x.tag s1
  modQueue s2 q fun y => { y with state := if y.state = .fenced then .fenced else .readError, batch := 0 }

/-- The descriptor the ring holds at SQ_HEAD (R176). -/
def ringDesc (s : State) (q : Nat) : BitVec 512 :=
  let x := queueAt s q
  BitVec.ofNat 512 (ofLe (hostRead s (x.ring.toNat + (x.sqHead.toNat % ringEntries x) * 64) 64))

/-! ### Which accepted command may start -/

/-- Opcodes that define bit 65 as no_wait (R82, R107, R185, R190, R217, R298, R319); MODEL_EVICT defines none (R217). -/
def definesNoWait (op : Nat) : Bool := decide (1 ≤ op) && decide (op ≤ 0x0C) && op != 0x0A

def runsAhead (c : Cmd) : Bool := definesNoWait (opcodeOf c.desc) && noWait c.desc

/-- Commands of the same queue accepted before a command and not completed. -/
def earlier (s : State) (c : Cmd) : List Cmd := (cmdsOf s c.q).takeWhile fun x => x.uid != c.uid

/-- A privileged command that no longer holds the kernel queue (R426, R511). -/
def released (c : Cmd) : Bool :=
  match c.phase with
  | .draining _ => true
  | .teardown _ => true
  | _ => decide (0x17 ≤ opcodeOf c.desc)

/-- Kernel-queue order (R511). -/
def kernelMay (s : State) (c : Cmd) : Bool :=
  let op := opcodeOf c.desc
  if 0x17 ≤ op then true
  else if privileged op then
    (earlier s c).all fun x => privileged (opcodeOf x.desc) && released x
  else noWait c.desc || (earlier s c).isEmpty

/-- A held or reviewed task stops the queues of its context (R427). -/
def ctxHeld (s : State) (tag : W16) : Bool :=
  s.cmds.any fun c => c.tag == tag && (match c.phase with | .held .. => true | .rerun .. => true | _ => false)

/-- Queue order on a context queue: no_wait = 0 waits for every earlier command; a task with no_wait = 1 still waits for
earlier waits and acquires that carry no_wait = 0 (R87, R110, R185, R188, R205; log entry 27). -/
def orderMay (s : State) (c : Cmd) : Bool :=
  if runsAhead c then
    (2 < opcodeOf c.desc) || (earlier s c).all fun x =>
      !((opcodeOf x.desc == 5 || opcodeOf x.desc == 6) && !noWait x.desc)
  else (earlier s c).isEmpty

/-- The queue found no wait slot: it dispatches nothing further until it is resumed (R30). -/
def queueStopped (s : State) (c : Cmd) : Bool := (queueAt s c.q).state == .waitSlots

/-- An accepted command may start now; a FROZEN or freezing fold dispatches nothing (R233, R241), nor does a queue stopped for
want of a wait slot (R30). -/
def mayStart (s : State) (c : Cmd) : Bool :=
  c.phase == .accepted && !queueStopped s c &&
    (if c.q = 0 then kernelMay s c
     else (c.carriedIn.isSome || orderMay s c) && (foldAt s (tagFold c.tag)).state == .active && (foldAt s (tagFold c.tag)).freezing.isNone &&
       !ctxHeld s c.tag)

end Sys2Proof.Machine
end

