-- ==== Sys2Proof/Machine/Sync.lean ====
section
/-! DEFINITION. Starting FENCE_SIGNAL (R185, R482), SEM_ACQUIRE and SEM_RELEASE (R187-R189), MARK (R191), and the class boost
of R212. -/

namespace Sys2Proof.Machine

/-! ### FENCE_SIGNAL -/

/-- A free tag for a non-posted host request: of none outstanding, and none that timed out in the last 100 ms (R482). -/
def freeHostTag (s : State) : Nat :=
  let p := s.hostPort
  match lowest (p.out.length + p.heldTags.length + 1) (fun t =>
      p.out.all (fun r => r.tag != t) && p.heldTags.all fun h => h.1 != t || decide (h.2 ≤ s.tb.cycle)) with
  | some t => t
  | none => p.out.length

/-- Send a non-posted host request. -/
def hostRequest (use : HostUse) (tag : W16) (s : State) : State :=
  let hqi := match use with | .batch q => (queueAt s q).hqi | .fence uid => hqiOf s uid | .packet _ => 0
  let r : HostReq := { tag := freeHostTag s, use := use, tagOf := tag, hqi := hqi, since := s.tb.cycle }
  { s with hostPort := { s.hostPort with out := s.hostPort.out ++ [r] } }

/-- The signal step at a slot of a memory: what is stored, the waits it wakes, and the status (R185). -/
def signalAt (mem off : Nat) (v : W64) (s : State) : Byte × State :=
  let (bs, s1) := memBytes mem off 16 s
  match fenceStep (BitVec.ofNat 128 (ofLe bs)) v with
  | (st, none) => (st, s1)
  | (st, some w) => (st, wakeWaits (BitVec.ofNat 64 (paOf s1 mem off)) (memStore mem off (leBytes 8 w.toNat) s1))

/-- The signal step at a place of this instance (R185): the weir of its unit admits it like any request (R252). -/
def signalHere (tag : W16) (mem off : Nat) (v : W64) (s : State) : Access × Byte × State :=
  if !landOk s tag mem off then (.refused, 0, s)
  else if !reachable s tag mem off 16 then (.wait, 0, holdAccess tag mem off 16 s)
  else if poisoned s mem off 16 then (.error 0x42 (paOf s mem (badUnit s mem off 16)), 0, s)
  else
    let (st, s1) := signalAt mem off v s
    (.ok [], st, charge tag mem off 16 true s1)

/-- What a FENCE_SIGNAL does (R185, R482); one that its weir does not admit, or whose unit is not ready, waits. -/
def signalFor (c : Cmd) (s : State) : State :=
  let a := (operand0 c.desc).toNat
  let v := operand1 c.desc
  if a % 16 ≠ 0 then complete c.uid (.plain stRange) s else
  match reach 8 c.tag a .write s with
  | (.loc mem off, s1) =>
    if mem = 3 ∧ landOk s1 c.tag 3 off then
      (if !s1.hostPort.atomicOk then complete c.uid (.plain stRange) s1
       else if !reachable s1 c.tag 3 off 8 then holdAccess c.tag 3 off 8 s1
       else hostRequest (.fence c.uid) c.tag (setPhase (unhold 3 0 (weirCharge c.tag 3 8 s1)) c.uid .busy))
    else
      (match signalHere c.tag mem off v s1 with
        | (.ok _, st, s2) => complete c.uid (.plain st) s2
        | (.refused, _, s2) => raiseAccess a c.tag hostMaster .write .access (complete c.uid (.plain stTranslation) s2)
        | (.error d p, _, s2) => raiseData d p hostMaster c.tag (complete c.uid (.plain stDataError) s2)
        | (.wait, _, s2) => s2)
  | (.win node tag va ver, s1) =>
    let k := { blankPacket s1 with
      destNode := node, destTag := tag, address := BitVec.ofNat 64 va, mapVersion := ver, ptype := 5,
      payload := leBytes 8 v.toNat }
    if mayReach s1 (tagFold c.tag) node then
      sendRequest (tagFold c.tag) c.uid .none hostMaster a (cmdLc s1 c) k (setPhase s1 c.uid .busy)
    else holdRemote c.tag node s1
  | (.fault k l, s1) => faultCmd c.uid c.tag a k .write hostMaster l (.fence c.uid) s1
  | (.refused k, s1) => raiseAccess a c.tag hostMaster .write k (complete c.uid (.plain stTranslation) s1)
  | (.error p, s1) => raiseData 0x43 p hostMaster c.tag (complete c.uid (.plain stDataError) s1)
  | (.wait, s1) => s1

/-- Start a FENCE_SIGNAL; the request to its slot is its own (R252, R257). -/
def startSignal (c : Cmd) (s : State) : State := doFor c.uid hostMaster (signalFor c) s

/-! ### Semaphores -/

/-- Units a context holds of a semaphore. -/
def heldBy (x : Sem) (tag : W16) : Nat :=
  match x.holders.find? fun h => h.1 == tag with
  | some h => h.2
  | none => 0

/-- Add units to a context's holder entry. -/
def addHeld (tag : W16) (u : Nat) (l : List (W16 × Nat)) : List (W16 × Nat) :=
  if l.any (fun h => h.1 == tag) then l.map fun h => if h.1 == tag then (h.1, h.2 + u) else h else l ++ [(tag, u)]

/-- Take units from a context's holder entry; an empty entry is freed. -/
def subHeld (tag : W16) (u : Nat) (l : List (W16 × Nat)) : List (W16 × Nat) :=
  (l.map fun h => if h.1 == tag then (h.1, h.2 - u) else h).filter fun h => h.2 != 0

/-- Units a SEM_ACQUIRE or SEM_RELEASE names (R185). -/
def unitsOf (d : BitVec 512) : Nat := field d 384 32

/-- An acquire of u units can be satisfied (R188). -/
def semFits (x : Sem) (tag : W16) (u : Nat) : Bool :=
  decide (u ≤ x.count.toNat) && (x.holders.any (fun h => h.1 == tag) || decide (x.holders.length < 8))

/-- The waiters of a semaphore, latency-critical first, each class in acceptance order (R188). -/
def semOrder (s : State) (x : Sem) : List Cmd :=
  let ws := s.cmds.filter fun c => x.waiters.contains c.uid
  (ws.filter fun c => cmdLc s c) ++ (ws.filter fun c => !cmdLc s c)

/-- Grant a waiter its units and complete it. -/
def semGrant (i : Nat) (c : Cmd) (s : State) : State :=
  let x := semAt s i
  let u := unitsOf c.desc
  complete c.uid (.plain stSuccess)
    (setSem s i { x with count := x.count - BitVec.ofNat 32 u, holders := addHeld c.tag u x.holders,
                         waiters := x.waiters.filter fun w => w != c.uid })

/-- Serve waiters from the front of the order while they fit. -/
def serveSem (i : Nat) : Nat → State → State
  | 0, s => s
  | fuel + 1, s =>
    match semOrder s (semAt s i) with
    | [] => s
    | c :: _ => if semFits (semAt s i) c.tag (unitsOf c.desc) then serveSem i fuel (semGrant i c s) else s

def serve (i : Nat) (s : State) : State := serveSem i (semAt s i).waiters.length s

/-! ### Boosts (R212, R213) -/

/-- Best-effort holders of a semaphore. -/
def beHolders (s : State) (x : Sem) : List W16 :=
  (x.holders.map fun h => h.1).filter fun t => !(ctxAt s (tagSlot t)).lc

/-- A context waits on a semaphore. -/
def waitsOn (s : State) (x : Sem) (t : W16) : Bool := s.cmds.any fun c => x.waiters.contains c.uid && c.tag == t

/-- Contexts boosted through at most k + 1 links. -/
def boostLinks (s : State) : Nat → List W16
  | 0 =>
    (s.sems.filter fun p => s.cmds.any fun c => p.2.waiters.contains c.uid && (ctxAt s (tagSlot c.tag)).lc).flatMap
      fun p => beHolders s p.2
  | k + 1 =>
    let l := boostLinks s k
    l ++ (s.sems.filter fun p => l.any fun t => waitsOn s p.2 t).flatMap fun p => beHolders s p.2

/-- Tasks and launches that have not begun: a launch begins with its first gang. -/
def notBegun (c : Cmd) : Bool :=
  (opcodeOf c.desc == 1 || opcodeOf c.desc == 2) &&
    (match c.phase with | .accepted => true | .ready => true | .queued _ => true | .faulted _ => true
                        | .parked => true | .launched => c.launch.next == 0 | _ => false)

/-- A boost of a context begins, and is counted in its fold's entry, or ends (R213, R216). -/
def boostCtx (tags : List W16) (slot : Nat) (s : State) : State :=
  let x := ctxAt s slot
  let on := tags.contains (mkTag x.fold slot x.gen)
  if on = x.boosted then s
  else
    let s1 := setCtx s slot { x with boosted := on }
    if on then modFold s1 x.fold fun f => { f with sched := { f.sched with boosts := f.sched.boosts + 1 } } else s1

/-- Begin or end boosts (R212, R213): every task of a boosted context that has not begun is scheduled as latency-critical. -/
def refreshBoosts (s : State) : State :=
  let tags := boostLinks s 3
  forEach ((s.ctxs.filter fun p => p.2.state != .free).map fun p => p.1) (boostCtx tags)
    { s with cmds := s.cmds.map fun c => if notBegun c then { c with boosted := tags.contains c.tag } else c }

/-- The semaphore a command names, when it is one of the context's fold (R187). -/
def semOf (s : State) (c : Cmd) : Option Nat :=
  let i := field c.desc 448 10
  if 1 ≤ unitsOf c.desc ∧ (semAt s i).created ∧ (semAt s i).fold = tagFold c.tag then some i else none

/-- Start a SEM_ACQUIRE: it joins the waiters and is served in its turn. -/
def startAcquire (c : Cmd) (s : State) : State :=
  match semOf s c with
  | none => complete c.uid (.plain stRange) s
  | some i =>
    let x := semAt s i
    let s1 := setPhase (setSem s i { x with waiters := x.waiters ++ [c.uid] }) c.uid (.waitSem i (unitsOf c.desc))
    refreshBoosts (serve i s1)

/-- Return units (R189): refused when the context holds fewer or the count would pass the maximum. -/
def releaseUnits (i : Nat) (tag : W16) (u : Nat) (s : State) : Option State :=
  let x := semAt s i
  if heldBy x tag < u ∨ x.max.toNat < x.count.toNat + u then none
  else
    some (refreshBoosts (serve i
      (setSem s i { x with count := x.count + BitVec.ofNat 32 u, holders := subHeld tag u x.holders })))

/-- Start a SEM_RELEASE. -/
def startRelease (c : Cmd) (s : State) : State :=
  match semOf s c with
  | none => complete c.uid (.plain stRange) s
  | some i =>
    match releaseUnits i c.tag (unitsOf c.desc) s with
    | none => complete c.uid (.plain stRange) s
    | some s1 => complete c.uid (.plain stSuccess) s1

/-- Return every unit a context holds, as teardown does (R189). -/
def returnUnits (tag : W16) (s : State) : State :=
  forEach (s.sems.map fun p => p.1) (fun i s =>
    let u := heldBy (semAt s i) tag
    if u = 0 then s else (releaseUnits i tag u s).getD s) s

/-- Start a MARK: its marker is the digest of its record, partial = 1 (R191, R373). -/
def startMark (c : Cmd) (s : State) : State :=
  complete c.uid { status := stSuccess, digest := operand0 c.desc, failed := false, part := true, result := 0 } s

end Sys2Proof.Machine
end

