-- ==== Sys2Proof/Machine/Move.lean ====
section
/-! DEFINITION. MOVE (R190): its checks, copying, filling and reduce-on-write (R55, R149), pieces that cross a remote
window, its stop on a fault (R164) or an uncorrectable error (R169), and its completion (R373). -/

namespace Sys2Proof.Machine

def mvOp (d : BitVec 512) : Nat := field d 70 2
def mvSrc (d : BitVec 512) : Nat := field d 448 64
def mvDst (d : BitVec 512) : Nat := field d 384 64
def mvLen (d : BitVec 512) : Nat := field d 344 40

/-- The arguments of a MOVE are valid (R190): op_flags reserve every bit but [72], [71:70] and [65]. -/
def moveOk (d : BitVec 512) : Bool :=
  let op := mvOp d
  op != 3 && (field d 64 32 &&& 0xFFFFFE3D) == 0 && field d 128 216 == 0 && mvLen d != 0 &&
    (op != 1 || (mvDst d % 8 == 0 && mvLen d % 8 == 0)) &&
    (op != 2 || (mvSrc d % 32 == 0 && mvDst d % 32 == 0 && mvLen d % 32 == 0))

/-- The mover's paddock and master identity (R26). -/
def moverPlace (c : Cmd) : Nat := c.mover / 2
def moverMaster (c : Cmd) : W16 := BitVec.ofNat 16 (0x3000 + c.mover / 2 * 256 + c.mover % 2)

/-- Add containers to those at a place of a memory, one after the other (R54, R55). -/
def reduceAt (mem : Nat) : Nat → List (List Byte) → State → State
  | _, [], s => s
  | off, bs :: rest, s =>
    let (old, s1) := memBytes mem off 32 s
    reduceAt mem (off + 32) rest (memStore mem off (Ledger.add (ledgerOfBytes old) (ledgerOfBytes bs)).bytes s1)

/-- Reduce-on-write of whole containers within one page (R55, R149, R169): host memory has no such unit. -/
def locReduce (tag : W16) (mem off : Nat) (bs : List Byte) (s : State) : Access × State :=
  if mem = 3 ∨ !landOk s tag mem off then (.refused, s)
  else if !reachable s tag mem off bs.length then (.wait, holdAccess tag mem off bs.length s)
  else if poisoned s mem off bs.length then (.error 0x42 (paOf s mem (badUnit s mem off bs.length)), s)
  else (.ok [], charge tag mem off bs.length true (reduceAt mem off (chunksOf 32 (bs.length / 32) bs) s))

/-- A packet of a command toward a window's target. -/
def windowPacket (s : State) (node : BitVec 18) (tag : W16) (va : Nat) (ver : W32) (ptype op : Byte)
    (payload : List Byte) : Packet :=
  { blankPacket s with destNode := node, destTag := tag, address := BitVec.ofNat 64 va, mapVersion := ver,
                       ptype := ptype, op := op, payload := payload }

/-- Put one piece of a MOVE's data at its destination (op 00, 01: write; op 10: reduce). -/
def movePut (c : Cmd) (dst : Nat) (bs : List Byte) (s : State) : Got × State :=
  let red := mvOp c.desc == 2
  match reach (moverPlace c) c.tag dst (if red then .atomic else .write) s with
  | (.loc mem off, s1) =>
    (match (if red then locReduce c.tag mem off bs s1 else locWrite c.tag mem off bs s1) with
      | (.ok _, s2) => (.ok [], s2)
      | (.refused, s2) => (.refused dst .access, s2)
      | (.error d p, s2) => (.error d p, s2)
      | (.wait, s2) => (.wait, s2))
  | (.win node tag va ver, s1) =>
    if mayReach s1 (tagFold c.tag) node then
      (.ok [], sendRequest (tagFold c.tag) c.uid .none (moverMaster c) dst (cmdLc s1 c)
        (windowPacket s1 node tag va ver (if red then 4 else 2) 0 bs) s1)
    else (.wait, holdRemote c.tag node s1)
  | (.fault k l, s1) => (.fault dst k l, s1)
  | (.refused k, s1) => (.refused dst k, s1)
  | (.error p, s1) => (.error 0x43 p, s1)
  | (.wait, s1) => (.wait, s1)

/-- The 64-bit pattern repeated from the destination (op 01). -/
def pattern (v : W64) (off n : Nat) : List Byte :=
  (List.range n).map fun i => BitVec.ofNat 8 (v.toNat >>> (8 * ((off + i) % 8)))

/-- Bytes of the next beat of a MOVE (R267): up to the next multiple of 256 of its destination, within one page of its source. -/
def pieceLen (src dst left : Nat) : Nat := min left (min (4096 - src % 4096) (256 - dst % 256))

/-- What stops a MOVE between pieces. -/
def moveStop (c : Cmd) (a : AccessKind) (g : Got) (s : State) : State :=
  match g with
  | .fault va k l => faultCmd c.uid c.tag va k a (moverMaster c) l (.move c.uid) s
  | .refused va k => raiseAccess va c.tag (moverMaster c) a k (complete c.uid (.broken stTranslation) s)
  | .error d p => raiseData d p (moverMaster c) c.tag (complete c.uid (.broken stDataError) s)
  | _ => s

/-- The ranges of a copy overlap: its destination bytes are undefined (R190). -/
def moveOverlaps (d : BitVec 512) : Bool :=
  mvOp d == 0 && decide (mvSrc d < mvDst d + mvLen d) && decide (mvDst d < mvSrc d + mvLen d)

/-- The bytes a MOVE puts for those it read: free bytes when its ranges overlap (log entry 1). -/
def moveData (c : Cmd) (bs : List Byte) (s : State) : List Byte × State :=
  if moveOverlaps c.desc then
    ((List.range bs.length).map fun i => Config.freeValue 8 (s.free + i), { s with free := s.free + bs.length })
  else (bs, s)

/-- Put bytes of a MOVE at an offset of its destination; true when they are placed. -/
def placeMoved (c : Cmd) (off : Nat) (bs : List Byte) (s : State) : Bool × State :=
  match movePut c (mvDst c.desc + off) bs s with
  | (.ok _, s1) => (true, modCmd s1 c.uid fun x => { x with opnd := x.opnd ++ [(off, bs)] })
  | (g, s1) => (false, moveStop c (if mvOp c.desc = 2 then .atomic else .write) g s1)

/-- The bytes of a local source range before its first uncorrectable error, which ends the MOVE there (R169). -/
def goodBytes (s : State) (mem off n : Nat) : Nat :=
  if poisoned s mem off n then min n (badUnit s mem off n - off) else n

/-- One beat of a MOVE from its source at its offset: true when it went on. -/
def movePiece (c : Cmd) (off n : Nat) (s : State) : Bool × State :=
  let src := mvSrc c.desc + off
  let went := fun (k : Nat) (s : State) => modCmd s c.uid fun x => { x with moved := off + k }
  let put := fun (bs : List Byte) (s : State) =>
    match placeMoved c off bs s with
    | (true, s1) => (true, went bs.length s1)
    | r => r
  if mvOp c.desc = 1 then put (pattern (bitsAt c.desc 448 64) off n) s else
  match reach (moverPlace c) c.tag src .read s with
  | (.loc mem o, s1) =>
    let k := goodBytes s1 mem o n
    (match locRead c.tag mem o (if k = 0 then n else k) s1 with
      | (.ok bs, s2) => let (bs', s3) := moveData c bs s2; put bs' s3
      | (.refused, s2) => (false, moveStop c .read (.refused src .access) s2)
      | (.error d p, s2) => (false, moveStop c .read (.error d p) s2)
      | (.wait, s2) => (false, s2))
  | (.win node tag va ver, s1) =>
    if mayReach s1 (tagFold c.tag) node then
      (true, went n (sendRequest (tagFold c.tag) c.uid (.piece off n) (moverMaster c) src (cmdLc s1 c)
        (windowPacket s1 node tag va ver 1 0 (leBytes 8 n)) s1))
    else (false, holdRemote c.tag node s1)
  | (.fault k l, s1) => (false, moveStop c .read (.fault src k l) s1)
  | (.refused k, s1) => (false, moveStop c .read (.refused src k) s1)
  | (.error p, s1) => (false, moveStop c .read (.error 0x43 p) s1)
  | (.wait, s1) => (false, s1)

/-- Requests of a command not yet acknowledged (R351). -/
def unackedOf (s : State) (n uid : Nat) : Nat := ((foldAt s n).unacked.filter fun e => e.uid == uid && !e.abandoned).length

/-- No request of a command is outstanding, in the instance or on a link. -/
def settled (s : State) (c : Cmd) : Bool := !reqsOut s c.uid && unackedOf s (tagFold c.tag) c.uid == 0

/-- Bytes kept by offset, in ascending order. -/
def inOrder (l : List (Nat × List Byte)) : List Byte := (l.insertionSort fun a b => a.1 ≤ b.1).flatMap fun x => x.2

/-- The digest of a MOVE (R190, R373): over the bytes put at its destination, in address order. -/
def moveDigest (c : Cmd) : Done := if mvOp c.desc = 2 then .plain stSuccess else .withDigest (crc64 (inOrder c.opnd))

/-- A MOVE ends once every byte is placed and every request it made is answered (R160). -/
def moveFinish (uid : Nat) (s : State) : State :=
  match cmdAt s uid with
  | none => s
  | some c =>
    if opcodeOf c.desc = 3 ∧ c.phase = .busy ∧ c.moved = mvLen c.desc ∧ c.out = [] ∧ settled s c then complete uid (moveDigest c) s else s

/-- A MOVE's turn at its mover (R267): one beat of up to 256 bytes, of what has come from a remote source first; true when it went
on. Its requests are its own (R160). -/
def moveBeat (c : Cmd) (s0 : State) : Bool × State :=
  let s := onBehalf c.uid (moverMaster c) s0
  let r := match c.out with
    | (off, bs) :: rest =>
      let n := min bs.length (256 - (mvDst c.desc + off) % 256)
      (match placeMoved c off (bs.take n) s with
        | (true, s1) => (true, modCmd s1 c.uid fun x => { x with out :=
            if n < bs.length then (off + n, bs.drop n) :: rest else rest })
        | r => r)
    | [] =>
      if mvLen c.desc ≤ c.moved then (false, s)
      else movePiece c c.moved
        (pieceLen (if mvOp c.desc = 1 then 0 else mvSrc c.desc + c.moved) (mvDst c.desc + c.moved) (mvLen c.desc - c.moved)) s
  (r.1, onBehalfOfNone r.2)

/-- Start or resume a MOVE: it joins its mover's queue of its fold (R267). -/
def resumeMove (c : Cmd) (s : State) : State := moveFinish c.uid (setPhase s c.uid .busy)

def startMove (c : Cmd) (s : State) : State :=
  if moveOk c.desc then resumeMove c s else complete c.uid (.plain stRange) s

/-- Bytes of a remote source have come for an offset of a MOVE (READ_DATA): its mover places them. -/
def moveArrive (c : Cmd) (off : Nat) (got : List Byte) (s0 : State) : State :=
  let (bs, s) := moveData c got s0
  modCmd s c.uid fun x => { x with out := x.out ++ [(off, bs)] }

/-! ### Fetching a range for a command, across windows too (R156, R351) -/

/-- Bytes a command has already fetched for a range. -/
def partAt (c : Cmd) (va n : Nat) : Option (List Byte) :=
  (c.coll.parts.find? fun p => p.1 == va && p.2.length == n).map fun p => p.2

/-- Bytes a command asked for have come, kept by the address or offset it asked under. -/
def keepPart (uid off : Nat) (bs : List Byte) (s : State) : State :=
  modCmd s uid fun c => { c with coll := { c.coll with parts := c.coll.parts ++ [(off, bs)] } }

/-- A READ of a range is under way for a command. -/
def reading (s : State) (c : Cmd) (va n : Nat) : Bool :=
  (foldAt s (tagFold c.tag)).unacked.any fun e => e.uid == c.uid && e.use == .piece va n

/-- Ask the target of a window for a range; a request the weir does not admit is held. -/
def askRead (c : Cmd) (master : W16) (va n : Nat) (node : BitVec 18) (tag : W16) (a : Nat) (ver : W32) (s : State) : State :=
  if reading s c va n then s
  else if mayReach s (tagFold c.tag) node then
    sendRequest (tagFold c.tag) c.uid (.piece va n) master va (cmdLc s c) (windowPacket s node tag a ver 1 0 (leBytes 8 n)) s
  else holdRemote c.tag node s

/-- Where an address of a command lands: by the translations it holds, or by a new lookup. -/
def cmdReach (c : Cmd) (place va : Nat) (a : AccessKind) (s : State) : Spot × State :=
  match c.pages.find? fun e => decide (e.va ≤ va) && decide (va < e.va + e.size) with
  | some e => (spotOfPa s (tagFold c.tag) (e.pa + (va - e.va)) a, s)
  | none => reach place c.tag va a s

/-- Fetch one piece of a range: kept in `coll.parts` until the range is whole. -/
def fetchPiece (c : Cmd) (place : Nat) (master : W16) (va n : Nat) (s : State) : Got × State :=
  match cmdReach c place va .read s with
  | (.loc mem off, s1) =>
    (match locRead c.tag mem off n s1 with
      | (.ok bs, s2) => (.ok bs, keepPart c.uid va bs s2)
      | (.refused, s2) => (.refused va .access, s2)
      | (.error d p, s2) => (.error d p, s2)
      | (.wait, s2) => (.wait, s2))
  | (.win node tag a ver, s1) => (.remote va, askRead c master va n node tag a ver s1)
  | (.fault k l, s1) => (.fault va k l, s1)
  | (.refused k, s1) => (.refused va k, s1)
  | (.error p, s1) => (.error 0x43 p, s1)
  | (.wait, s1) => (.wait, s1)

/-- Fetch the pieces of a range in ascending order. The pieces behind windows are asked for (DESIGN CHOICE for a tile's operands: R17
names pond, tarn and far memory as sources and does not say that a window is none; log entry 117), and the whole waits until they have
come; what has come is kept, so that a range goes on where a weir or a link made it wait. -/
def fetchPieces (uid place : Nat) (master : W16) : List (Nat × Nat) → List Byte → Bool → State → Got × State
  | [], acc, waits, s => (if waits then .wait else .ok acc, s)
  | (va, n) :: rest, acc, waits, s =>
    match cmdAt s uid with
    | none => (.wait, s)
    | some c =>
      match partAt c va n with
      | some bs => fetchPieces uid place master rest (acc ++ bs) waits s
      | none =>
        match fetchPiece c place master va n s with
        | (.ok bs, s1) => fetchPieces uid place master rest (acc ++ bs) waits s1
        | (.remote _, s1) => fetchPieces uid place master rest acc true s1
        | r => r

/-- Fetch ranges on behalf of a command, one after the other; when all have come they are given up to the asker. -/
def fetchAll (c : Cmd) (place : Nat) (master : W16) (rs : List (Nat × Nat)) (s : State) : Got × State :=
  match fetchPieces c.uid place master (rs.flatMap fun r => beatsAt r.1 r.2) [] false (onBehalf c.uid master s) with
  | (.ok bs, s1) => (.ok bs, onBehalfOfNone (modCmd s1 c.uid fun x => { x with coll := { x.coll with parts := [] } }))
  | (g, s1) => (g, onBehalfOfNone s1)

/-- Fetch a range on behalf of a command in beats of up to 256 bytes; a whole range is given up to the asker. -/
def fetchRange (c : Cmd) (place : Nat) (master : W16) (va n : Nat) (s : State) : Got × State :=
  match fetchPieces c.uid place master (beatsAt va n) [] false (onBehalf c.uid master s) with
  | (.ok bs, s1) =>
    (.ok bs, onBehalfOfNone (modCmd s1 c.uid fun x => { x with coll := { x.coll with parts := x.coll.parts.filter fun p =>
      !(decide (va ≤ p.1) && decide (p.1 < va + n)) } }))
  | (g, s1) => (g, onBehalfOfNone s1)

end Sys2Proof.Machine
end

