-- ==== Sys2Proof/Machine/Herd.lean ====
section
/-! DEFINITION. Herd cores: launches, gangs and groups (R101-R111), registers and guards (R136), issue of one instruction
for one thread group, traps (R138-R139), and the end of gangs and launches (R111, R141). -/

namespace Sys2Proof.Machine

/-! ### The HERD_LAUNCH descriptor (R107) -/

def hlOutBase (d : BitVec 512) : Nat := field d 448 64
def hlOutLen (d : BitVec 512) : Nat := field d 416 32
def hlCtrBase (d : BitVec 512) : W32 := bitsAt d 384 32
def hlKey0 (d : BitVec 512) : W32 := bitsAt d 320 32
def hlKey1 (d : BitVec 512) : W32 := bitsAt d 352 32
def hlArgLen (d : BitVec 512) : Nat := field d 299 9 * 16
def hlLocal (d : BitVec 512) : Nat := field d 290 9 * 512
def hlRegs (d : BitVec 512) : Nat := 8 * (field d 285 5 + 1)
def hlGroups (d : BitVec 512) : Nat := field d 280 5 + 1
def hlGangs (d : BitVec 512) : Nat := field d 256 24 + 1
def hlArgBase (d : BitVec 512) : Nat := field d 192 64
def hlCode (d : BitVec 512) : W64 := bitsAt d 128 64
def hlMask (d : BitVec 512) : W16 := bitsAt d 80 16
def inPlace (d : BitVec 512) : Bool := bitAt d 72

/-- The half-groups a launch selects: the whole list when the mask is 0. -/
def launchHalves (s : State) (n : Nat) (m : W16) : List Nat :=
  let hs := foldHalves s n
  if m = 0 then hs else (List.range hs.length).filterMap fun i => if bitAt m i then hs[i]? else none

/-- A half-group is vacant: a core of it, its paddock's router or both its movers are out of use (R399, R403). -/
def halfVacant (s : State) (h : Nat) : Bool := paddockOut s (h / 2) || (List.range 8).any fun c => coreUnusable s (8 * h + c)

/-- The first launch check of R108 that fails, in the order of its table (DESIGN CHOICE: the rule gives no order; log entry 123). -/
def launchCheck (s : State) (c : Cmd) : Option Nat :=
  let d := c.desc
  let hs := foldHalves s (tagFold c.tag)
  if (hlCode d).toNat % 64 ≠ 0 ∨ hlArgBase d % 16 ≠ 0 then some 0x11
  else if hlLocal d < hlArgLen d then some 0x12
  else if 32768 < hlGroups d * 16 * hlRegs d then some 0x13
  else if 256 * 512 < hlLocal d then some 0x14
  else if hs.isEmpty ∨ (bitList 16 (hlMask d)).any (fun i => decide (hs.length ≤ i)) then some 0x15
  else if field d 308 12 ≠ 0 ∨ field d 73 7 ≠ 0 ∨ field d 66 6 ≠ 0 ∨ field d 64 1 ≠ 0 ∨ field d 0 12 ≠ 0 then some 0x16
  else none

/-- The master identity of a core (R26): core is 16 × paddock + number. -/
def coreMaster (core : Nat) : W16 := BitVec.ofNat 16 (0x2000 + core / 16 * 256 + core % 16)

/-- Start a HERD_LAUNCH: the checks at dispatch (R108, R141); its gangs are then placed. -/
def startLaunch (c : Cmd) (s : State) : State :=
  match launchCheck s c with
  | some detail => raiseEngine detail hostMaster c.tag (complete c.uid (.broken stRange) s)
  | none =>
    if (launchHalves s (tagFold c.tag) (hlMask c.desc)).all (halfVacant s) then
      complete c.uid (.broken stUnitRetired) s
    else modCmd s c.uid fun x => { x with phase := .launched, readyAt := now s }

/-! ### Gangs and groups -/

def isGang (l g : Nat) (x : Gang) : Bool := x.launch == l && x.gang == g
def gangAt (s : State) (l g : Nat) : Option Gang := s.herd.gangs.find? (isGang l g)
def setGang (x : Gang) (s : State) : State :=
  { s with herd := { s.herd with gangs := s.herd.gangs.map fun y => if isGang x.launch x.gang y then x else y } }

def groupAt (s : State) (t : GroupRef) : Option Group :=
  match gangAt s t.launch t.gang with
  | none => none
  | some x => x.groups[t.group]?

/-- Store a group. -/
def setGroup (t : GroupRef) (g : Group) (s : State) : State :=
  match gangAt s t.launch t.gang with
  | none => s
  | some x => setGang { x with groups := listSet x.groups t.group g } s

/-- Global thread index (R102). -/
def tidOf (d : BitVec 512) (t : GroupRef) (lane : Nat) : Nat := (t.gang * hlGroups d + t.group) * 16 + lane

/-! ### Registers, flags, lanes (R101, R136) -/

def getReg (g : Group) (lane r : Nat) : W32 := Tab.get 0 g.regs (lane * 256 + r)
def setReg (g : Group) (lane r : Nat) (v : W32) : Group := { g with regs := Tab.set 0 g.regs (lane * 256 + r) v }
/-- The 64-bit value in a register pair (log entry 18). -/
def getPair (g : Group) (lane r : Nat) : Nat := (getReg g lane r).toNat + (getReg g lane (r + 1)).toNat * 2 ^ 32
def flagsOf (g : Group) (lane : Nat) : BitVec 7 := Tab.get 0 g.flags lane

/-- Write consecutive registers of a lane from bytes, four bytes a register. -/
def setRegs (g : Group) (lane r : Nat) (bs : List Byte) : Group :=
  (List.range (ceilDiv bs.length 4)).foldl
    (fun g i => setReg g lane (r + i) (BitVec.ofNat 32 (ofLe ((bs.drop (4 * i)).take 4)))) g

/-- Bytes of consecutive registers. -/
def regBytes (g : Group) (lane r n : Nat) : List Byte :=
  ((List.range (ceilDiv n 4)).flatMap fun i => leBytes 4 (getReg g lane (r + i)).toNat).take n

/-- A ledger register Lj is the container in r(8j) to r(8j + 7) (R125). -/
def getLedger (g : Group) (lane j : Nat) : Ledger := ledgerOfBytes (regBytes g lane (8 * j) 32)
def setLedger (g : Group) (lane j : Nat) (l : Ledger) : Group := setRegs g lane (8 * j) l.bytes

/-- A guard selects a lane (R136). -/
def guardHolds (guard : BitVec 4) (g : Group) (lane : Nat) : Bool :=
  let k := field guard 0 3
  if k = 0 then true else (flagsOf g lane).getLsbD (k - 1) != bitAt guard 3

/-- The active lanes a guard selects, ascending. -/
def guarded (guard : BitVec 4) (g : Group) : List Nat := (bitList 16 g.active).filter (guardHolds guard g)

def laneMask (l : List Nat) : W16 := l.foldl (fun m i => setBit m i) 0

/-- Do something to each lane of a list. -/
def eachLane (l : List Nat) (f : Nat → Group → Group) (g : Group) : Group := l.foldl (fun g i => f i g) g

def nextPc (g : Group) : Group := { g with pc := g.pc + 8 }

/-! ### Traps (R138, R139) -/

def trIllegal : Nat := 0x20
def trMisaligned : Nat := 0x21
def trAccess : Nat := 0x22
def trTranslation : Nat := 0x23
def trNotReproducible : Nat := 0x24
def trStack : Nat := 0x25
def trAtomicTarget : Nat := 0x26
def trSoftware : Nat := 0x27
def trLocalBounds : Nat := 0x28
def trDataError : Nat := 0x29

/-- The trap a record describes: the earliest, and among those of one time the one of the lowest global thread index (R102, R139). -/
def firstTrap (old : Option Trap) (tr : Trap) : Trap :=
  match old with
  | none => tr
  | some o =>
    if tr.time = o.time ∧ (tr.gang < o.gang ∨ (tr.gang = o.gang ∧ tr.group < o.group)) then tr else o

/-- A launch has a trap: no gang of it is placed any more and its other groups stop; the record describes the first trap and counts
them all (R138, R139, R141). -/
def noteTrap (uid : Nat) (tr : Trap) (s : State) : State :=
  modCmd s uid fun c =>
    { c with launch := { c.launch with
        trap := some (firstTrap c.launch.trap tr), traps := c.launch.traps + 1, stopped := true,
        dataError := c.launch.dataError || tr.detail == trDataError } }

/-- A group traps at its instruction, and stops. -/
def trapGroup (t : GroupRef) (detail imm : Nat) (s : State) : State :=
  match groupAt s t, gangAt s t.launch t.gang with
  | some g, some x =>
    noteTrap t.launch {
      detail := detail, pc := g.pc, gang := t.gang, group := t.group, lanes := g.active,
      imm := BitVec.ofNat 16 imm, master := coreMaster x.core, time := now s } (setGroup t { g with wait := .trapped } s)
  | _, _ => s

/-- A group traps at an instruction it issued earlier: a request of that instruction has failed. The trap stands though the group
or its gang has ended since (R110, R138). -/
def trapLate (t : GroupRef) (pc : W64) (master : W16) (detail : Nat) (s : State) : State :=
  let lanes := match groupAt s t with | some g => g.active | none => 0
  let s1 := match groupAt s t with | some g => setGroup t { g with wait := .trapped } s | none => s
  noteTrap t.launch {
    detail := detail, pc := pc, gang := t.gang, group := t.group, lanes := lanes, imm := 0, master := master, time := now s } s1

/-- The launch status of a trap (R138); a trap 0x29 of the launch stands above every other (R141). -/
def trapStatus (dataError : Bool) (detail : Nat) : Byte :=
  if dataError then stDataError else
  match detail with
  | 0x22 => stTranslation
  | 0x23 => stTranslation
  | 0x24 => stNotReproducible
  | 0x29 => stDataError
  | _ => stRange

/-! ### Ends of gangs and launches -/

/-- Remove the gangs of a launch. -/
def dropGangs (uid : Nat) (s : State) : State :=
  { s with herd := { s.herd with gangs := s.herd.gangs.filter fun x => x.launch != uid } }

/-- End a launch with a status and a failed digest (R141). -/
def abortLaunch (uid : Nat) (st : Byte) (s : State) : State := complete uid (.broken st) (dropGangs uid s)

/-- The status of a launch whose every gang has exited (R127, R141). -/
def exitStatus (c : Cmd) : Byte := if c.launch.range then stRange else stSuccess

/-- The end of a launch whose every gang has exited and whose writes are visible: the digest of its output range is read first, by
its mover (R111; log entry 28). A range that a weir, a link or a page fault makes wait is read on later; one that cannot be
read ends the launch as R169 and R155 say. -/
def launchDone (c : Cmd) (s : State) : State :=
  if hlOutLen c.desc = 0 then complete c.uid { Done.plain (exitStatus c) with part := true } s
  else
    match fetchRange c (moverPlace c) (moverMaster c) (hlOutBase c.desc) (hlOutLen c.desc) s with
    | (.ok bs, s1) => complete c.uid { Done.withDigest (crc64 bs) with status := exitStatus c } s1
    | (.fault va k l, s1) => faultCmd c.uid c.tag va k .read (moverMaster c) l (.move c.uid) s1
    | (.wait, s1) => s1
    | (g, s1) =>
      let (st, s2) := failAccess g c.tag (moverMaster c) .read s1
      complete c.uid (.broken st) s2

/-- A launch whose last gang has exited completes after the release of R110: every request of it is answered. -/
def launchFinish (uid : Nat) (s : State) : State :=
  match cmdAt s uid with
  | none => s
  | some c =>
    if c.launch.exited = hlGangs c.desc ∧ settled s c ∧ !c.launch.stopped then launchDone c s else s

/-- A gang whose every group has exited ends (R141). -/
def gangEnd (l g : Nat) (s : State) : State :=
  match gangAt s l g with
  | none => s
  | some x =>
    if x.groups.all fun y => y.wait == .exited then
      let s1 := { s with herd := { s.herd with gangs := s.herd.gangs.filter fun y => !isGang l g y } }
      launchFinish l (modCmd s1 l fun c => { c with launch := { c.launch with exited := c.launch.exited + 1 } })
    else s

/-! ### Issue -/

/-- What an instruction sees when it issues. -/
structure Issue where
  cmd : Cmd
  gang : Gang
  grp : Group
  lanes : List Nat
  free : Nat
  repro : Bool
  deriving DecidableEq, Repr

def Issue.place (i : Issue) : Nat := i.gang.core / 16
def Issue.master (i : Issue) : W16 := coreMaster i.gang.core
def Issue.desc (i : Issue) : BitVec 512 := i.cmd.desc

/-- Herd cores issue nothing in brownout hold (R106, R389). -/
def brownedOut (s : State) : Bool := s.power.brownout

/-- The group can issue: its launch runs, nothing has stopped it, and it waits for nothing. -/
def issueOf (t : GroupRef) (guard : BitVec 4) (s : State) : Option Issue :=
  match cmdAt s t.launch, gangAt s t.launch t.gang, groupAt s t with
  | some c, some x, some g =>
    let runs := match c.phase with | .launched => true | .rerun .. => true | _ => false
    if runs && !c.launch.stopped && g.wait == .none && !brownedOut s then
      some { cmd := c, gang := x, grp := g, lanes := guarded guard g, free := s.free,
             repro := (ctxAt s (tagSlot c.tag)).reproducible }
    else none
  | _, _, _ => none

/-- A group waits on a page fault of its own (R140, R163). -/
def faultGroup (t : GroupRef) (i : Issue) (va : Nat) (k : FaultKind) (a : AccessKind) (level : Nat) (s : State) : State :=
  match onFault i.cmd.tag va k a i.master level (some (.group t)) s with
  | (some e, s1) => setGroup t { i.grp with wait := .fault e } s1
  | (none, s1) => setGroup t { i.grp with wait := .parked } s1

/-- What refuses a group's access for good: its records and its trap (R155, R169). -/
def refuseGroup (t : GroupRef) (i : Issue) (va : Nat) (a : AccessKind) (k : FaultKind) (s : State) : State :=
  trapGroup t trAccess 0 (raiseAccess va i.cmd.tag i.master a k s)

def errorGroup (t : GroupRef) (i : Issue) (detail pa : Nat) (s : State) : State :=
  trapGroup t trDataError 0 (raiseData detail pa i.master i.cmd.tag s)

/-! ### Instruction words (R136, R137) -/

def wordOp (w : W64) : Nat := field w 56 8
def wordGuard (w : W64) : BitVec 4 := bitsAt w 52 4
def wordMod (w : W64) : Nat := field w 48 4
/-- rd, and in the R format ra, rb, rc; in the M format ra and rb. -/
def wordRd (w : W64) : Byte := bitsAt w 40 8
def wordRa (w : W64) : Byte := bitsAt w 32 8
def wordRb (w : W64) : Byte := bitsAt w 24 8
def wordRc (w : W64) : Byte := bitsAt w 16 8
/-- imm32 of the I format, and the signed offset, in instructions, of the B format. -/
def wordImm (w : W64) : W32 := bitsAt w 0 32
/-- The memory modifier and the signed byte offset of the M format. -/
def wordScope (w : W64) : BitVec 2 := bitsAt w 21 2
def wordOrder (w : W64) : BitVec 2 := bitsAt w 19 2
def wordType (w : W64) : BitVec 3 := bitsAt w 16 3
def wordOff (w : W64) : W16 := bitsAt w 0 16

/-- The opcodes there are: control, integer, bitwise and move, FP32, conversion, functions, ledger, random, memory, atomics and
fences (R137). -/
def opcodeExists (o : Nat) : Bool :=
  let within := fun a b => decide (a ≤ o) && decide (o ≤ b)
  within 0x00 0x0B || within 0x10 0x19 || within 0x20 0x2D || within 0x30 0x36 || o == 0x40 || within 0x50 0x54 ||
    within 0x58 0x5B || within 0x60 0x66 || within 0x70 0x71 || within 0x80 0x84 || within 0x90 0x93

/-- Opcodes of the M format: LLD, LST, the memory group, and atomics and fences. -/
def memoryFormat (o : Nat) : Bool :=
  o == 0x65 || o == 0x66 || (decide (0x80 ≤ o) && decide (o ≤ 0x84)) || (decide (0x90 ≤ o) && decide (o ≤ 0x93))

/-- A word names no instruction: another opcode, guard 0x8, or a reserved value of a modifier whose place the formats give (R136,
R137). -/
def wordReserved (w : W64) : Bool :=
  let o := wordOp w
  !opcodeExists o || wordGuard w == 8 || (memoryFormat o && bitAt w 23) ||
    ((o == 0x90 || (decide (0x80 ≤ o) && decide (o ≤ 0x83))) && decide (6 ≤ (wordType w).toNat)) ||
    (o == 0x90 && decide (9 ≤ wordMod w))

/-- A group's core has an uncorrectable error in its register file or local store (R169; log entry 94): memory 6 of `poison` is the
core's number. -/
def coreError (s : State) (core : Nat) : Bool := s.poison.any fun p => p.1 == 6 && p.2 == core

/-- What an instruction does once its word has been fetched: an error of the core's own storage traps, a reserved word or operand
raises ILLEGAL, and the instruction takes its effect otherwise. -/
def issueWord (t : GroupRef) (guard : BitVec 4) (legal : Issue → Bool) (run : Issue → State → State) (i : Issue) (w : W64)
    (s : State) : State :=
  if coreError s i.gang.core then trapGroup t trDataError 0 s
  else if wordReserved w || guard == 8 || !legal i then trapGroup t trIllegal 0 s
  else run { i with free := s.free } s

/-- Issue one instruction of a group: its fetch (R140, R149, R252), the checks that raise ILLEGAL (R137, R138), then its
effect. The row that issues names the instruction that stands there (log entry 11). A pc that a branch or a return left unaligned is
issued at without a check (DESIGN CHOICE: the manual is silent; log entry 125). A group that cannot issue is left as it stands. -/
def issue (t : GroupRef) (guard : BitVec 4) (legal : Issue → Bool) (run : Issue → State → State) (s : State) : State :=
  match issueOf t guard s with
  | none => s
  | some i =>
    let pc := i.grp.pc.toNat
    match reach i.place i.cmd.tag pc .fetch s with
    | (.loc mem off, s1) =>
      let (g, s2) := locRead i.cmd.tag mem off 8 (onBehalfAt i.cmd.uid i.master (some t) i.grp.pc s1)
      let s3 := onBehalfOfNone s2
      (match g with
        | .ok bs => issueWord t guard legal run i (BitVec.ofNat 64 (ofLe bs)) s3
        | .refused => refuseGroup t i pc .fetch .access s3
        | .error d p => errorGroup t i d p s3
        | .wait => s3)
    | (.win .., s1) => faultGroup t i pc .windowInvalid .fetch 0 s1
    | (.fault k l, s1) => faultGroup t i pc k .fetch l s1
    | (.refused k, s1) => refuseGroup t i pc .fetch k s1
    | (.error p, s1) => errorGroup t i 0x43 p s1
    | (.wait, s1) => s1

/-- Every register named lies in the allocation (R125, R138). -/
def regsOk (rs : List Nat) (i : Issue) : Bool := rs.all fun r => decide (r < hlRegs i.desc)

/-- An instruction that only changes its group: the guarded lanes see the group as it stood at issue. -/
def alu (t : GroupRef) (guard : BitVec 4) (rs : List Nat) (f : Issue → Nat → Group → Group) (s : State) : State :=
  issue t guard (regsOk rs) (fun i s => setGroup t (nextPc (eachLane i.lanes (f i) i.grp)) s) s

/-- The free value of a lane. -/
def laneFree (i : Issue) (lane : Nat) : W32 := Config.freeValue 32 (i.free + lane)

/-- An instruction that writes one register from the registers of its lane (R136). -/
def alu1 (t : GroupRef) (guard : BitVec 4) (rd : Byte) (rs : List Byte) (f : Issue → Nat → W32) (s : State) : State :=
  alu t guard ((rd :: rs).map BitVec.toNat) (fun i lane g => setReg g lane rd.toNat (f i lane)) s

end Sys2Proof.Machine
end

