-- ==== Sys2Proof/Machine/HerdAlu.lean ====
section
/-! DEFINITION. Herd instructions on registers (R137): integer, bitwise and move, FP32 (R130), conversion (R131), functions
(R128, R129), ledger (R126), random numbers (R132), and the lane instructions VOTE, SHFL and S2R. The manual names the
integer and bitwise instructions without stating their results; log entry 14 says how they are read. -/

namespace Sys2Proof.Machine

/-- The operand registers of a lane. -/
def opA (i : Issue) (f : RFmt) (lane : Nat) : W32 := getReg i.grp lane f.ra.toNat
def opB (i : Issue) (f : RFmt) (lane : Nat) : W32 := getReg i.grp lane f.rb.toNat
def opC (i : Issue) (f : RFmt) (lane : Nat) : W32 := getReg i.grp lane f.rc.toNat

/-- A two-operand instruction on registers. -/
def alu2 (t : GroupRef) (f : RFmt) (op : W32 → W32 → W32) (s : State) : State :=
  alu1 t f.guard f.rd [f.ra, f.rb] (fun i lane => op (opA i f lane) (opB i f lane)) s

/-- A three-operand instruction on registers. -/
def alu3 (t : GroupRef) (f : RFmt) (op : W32 → W32 → W32 → W32) (s : State) : State :=
  alu1 t f.guard f.rd [f.ra, f.rb, f.rc] (fun i lane => op (opA i f lane) (opB i f lane) (opC i f lane)) s

/-- A one-operand instruction on registers. -/
def aluU (t : GroupRef) (f : RFmt) (op : W32 → W32) (s : State) : State :=
  alu1 t f.guard f.rd [f.ra] (fun i lane => op (opA i f lane)) s

/-- A shift of ra by rb: amounts of 32 and above have no stated result (log entry 14). -/
def aluShift (t : GroupRef) (f : RFmt) (code : Nat) (op : W32 → Nat → W32) (s : State) : State :=
  alu2 t f (fun a b => if b.toNat < 32 then op a b.toNat else Config.openResult code a b 0) s

/-! ### Integer -/

def idivOp (sg : Bool) (a b : W32) : W32 :=
  if b = 0 then 0xFFFFFFFF
  else if sg then BitVec.ofInt 32 (a.toInt.tdiv b.toInt) else BitVec.ofNat 32 (a.toNat / b.toNat)

def iremOp (sg : Bool) (a b : W32) : W32 :=
  if b = 0 then a
  else if sg then BitVec.ofInt 32 (a.toInt.tmod b.toInt) else BitVec.ofNat 32 (a.toNat % b.toNat)

def intLt (sg : Bool) (a b : W32) : Bool := if sg then decide (a.toInt < b.toInt) else decide (a.toNat < b.toNat)

/-- Comparisons of ISETP; integers are never unordered, so that comparison is a reserved modifier. -/
def intCompare (c : CmpOp) (sg : Bool) (a b : W32) : Bool :=
  match c with
  | .eq => a == b
  | .ne => a != b
  | .lt => intLt sg a b
  | .le => !intLt sg b a
  | .gt => intLt sg b a
  | .ge => !intLt sg a b
  | .unordered => false

/-- Write flag k, 1 to 7, of a lane (R136). -/
def setFlag (g : Group) (lane k : Nat) (b : Bool) : Group :=
  let v := if b then setBit (flagsOf g lane) (k - 1) else clearBit (flagsOf g lane) (k - 1)
  { g with flags := Tab.set 0 g.flags lane v }

/-- A comparison that writes the flag rd names, 1 to 7 (log entry 16). -/
def setp (t : GroupRef) (f : RFmt) (legal : Bool) (p : Issue → Nat → Bool) (s : State) : State :=
  issue t f.guard
    (fun i => legal && decide (1 ≤ f.rd.toNat) && decide (f.rd.toNat ≤ 7) && regsOk [f.ra.toNat, f.rb.toNat] i)
    (fun i s => setGroup t (nextPc (eachLane i.lanes (fun lane g => setFlag g lane f.rd.toNat (p i lane)) i.grp)) s) s

def execIadd (t : GroupRef) (f : RFmt) (s : State) : Out := .next (alu2 t f (fun a b => a + b) s)
def execIsub (t : GroupRef) (f : RFmt) (s : State) : Out := .next (alu2 t f (fun a b => a - b) s)
def execImul (t : GroupRef) (f : RFmt) (s : State) : Out := .next (alu2 t f (fun a b => a * b) s)
def execImad (t : GroupRef) (f : RFmt) (s : State) : Out := .next (alu3 t f (fun a b c => a * b + c) s)
/-- Division by zero traps nothing (R130). -/
def execIdiv (t : GroupRef) (f : RFmt) (sg : Bool) (s : State) : Out := .next (alu2 t f (idivOp sg) s)
/-- The remainder of a division by zero is the dividend (R130). -/
def execIrem (t : GroupRef) (f : RFmt) (sg : Bool) (s : State) : Out := .next (alu2 t f (iremOp sg) s)
def execImin (t : GroupRef) (f : RFmt) (sg : Bool) (s : State) : Out :=
  .next (alu2 t f (fun a b => if intLt sg b a then b else a) s)
def execImax (t : GroupRef) (f : RFmt) (sg : Bool) (s : State) : Out :=
  .next (alu2 t f (fun a b => if intLt sg a b then b else a) s)
def execIsetp (t : GroupRef) (f : RFmt) (c : CmpOp) (sg : Bool) (s : State) : Out :=
  .next (setp t f (c != .unordered) (fun i lane => intCompare c sg (opA i f lane) (opB i f lane)) s)
def execIaddi (t : GroupRef) (f : IFmt) (s : State) : Out :=
  .next (alu1 t f.guard f.rd [f.ra] (fun i lane => getReg i.grp lane f.ra.toNat + f.imm) s)

/-! ### Bitwise and move -/

def execAnd (t : GroupRef) (f : RFmt) (s : State) : Out := .next (alu2 t f (fun a b => a &&& b) s)
def execOr (t : GroupRef) (f : RFmt) (s : State) : Out := .next (alu2 t f (fun a b => a ||| b) s)
def execXor (t : GroupRef) (f : RFmt) (s : State) : Out := .next (alu2 t f (fun a b => a ^^^ b) s)
def execNot (t : GroupRef) (f : RFmt) (s : State) : Out := .next (aluU t f (fun a => ~~~ a) s)
def execShl (t : GroupRef) (f : RFmt) (s : State) : Out := .next (aluShift t f 0x24 (fun a n => a <<< n) s)
def execShr (t : GroupRef) (f : RFmt) (s : State) : Out := .next (aluShift t f 0x25 (fun a n => a >>> n) s)
def execSar (t : GroupRef) (f : RFmt) (s : State) : Out := .next (aluShift t f 0x26 (fun a n => a.sshiftRight n) s)
def execPopc (t : GroupRef) (f : RFmt) (s : State) : Out :=
  .next (aluU t f (fun a => BitVec.ofNat 32 (countBits 32 a)) s)
/-- Leading zeros of a word; 32 for zero. -/
def clzOp (a : W32) : W32 := if a = 0 then 32 else BitVec.ofNat 32 (31 - Nat.log2 a.toNat)
def execClz (t : GroupRef) (f : RFmt) (s : State) : Out := .next (aluU t f clzOp s)
/-- Bit field of a register: position rb[7:0], width rb[15:8], when it lies in the word (log entry 14). -/
def fieldFits (b : W32) : Bool := decide (0 < field b 8 8) && decide (field b 0 8 + field b 8 8 ≤ 32)
/-- The field of a word; outside the word its result is not stated (log entry 14). -/
def bfeOp (a b : W32) : W32 :=
  if fieldFits b then BitVec.ofNat 32 (field a (field b 0 8) (field b 8 8)) else Config.openResult 0x29 a b 0
def execBfe (t : GroupRef) (f : RFmt) (s : State) : Out := .next (alu2 t f bfeOp s)
/-- Insert the low bits of ra into rc at a field; outside the word the result is not stated (log entry 14). -/
def bfiOp (a b c : W32) : W32 :=
  let m : W32 := place (2 ^ 32 - 1) (field b 0 8) (field b 8 8)
  if fieldFits b then (c &&& ~~~ m) ||| place a.toNat (field b 0 8) (field b 8 8) else Config.openResult 0x2A a b c
def execBfi (t : GroupRef) (f : RFmt) (s : State) : Out := .next (alu3 t f bfiOp s)
def execMovi (t : GroupRef) (f : IFmt) (s : State) : Out := .next (alu1 t f.guard f.rd [] (fun _ _ => f.imm) s)
/-- SEL takes ra where the flag operand, coded as a guard, holds, and rb elsewhere; flag code 8 is reserved. -/
def execSel (t : GroupRef) (f : RFmt) (flag : BitVec 4) (s : State) : Out :=
  .next (issue t f.guard (fun i => flag != 8 && regsOk [f.rd.toNat, f.ra.toNat, f.rb.toNat] i)
    (fun i s => setGroup t (nextPc (eachLane i.lanes (fun lane g =>
      setReg g lane f.rd.toNat (if guardHolds flag i.grp lane then opA i f lane else opB i f lane)) i.grp)) s) s)
def execMov (t : GroupRef) (f : RFmt) (s : State) : Out := .next (aluU t f (fun a => a) s)

/-! ### Lane instructions -/

/-- The value of a special register for a lane; 64-bit registers give their low word (R137; log entry 15). -/
def specialReg (sr : SpecialReg) (t : GroupRef) (i : Issue) (lane : Nat) (s : State) : W32 :=
  match sr with
  | .tid => BitVec.ofNat 32 (tidOf i.desc t lane)
  | .gang => BitVec.ofNat 32 t.gang
  | .group => BitVec.ofNat 32 t.group
  | .lane => BitVec.ofNat 32 lane
  | .ngang => BitVec.ofNat 32 (hlGangs i.desc)
  | .core => i.master.setWidth 32
  | .clock => bitsAt s.herd.cycles 0 32
  | .time => bitsAt s.tb.time 0 32

def execS2r (t : GroupRef) (f : RFmt) (sr : SpecialReg) (s : State) : Out :=
  .next (alu1 t f.guard f.rd [] (fun i lane => specialReg sr t i lane s) s)

/-- The lanes that vote true: active, selected, and with the flag operand holding; every other lane votes false (R137). -/
def votes (i : Issue) (flag : BitVec 4) : W16 := laneMask (i.lanes.filter fun lane => guardHolds flag i.grp lane)

def voteResult (op : VoteOp) (v : W16) : W32 :=
  match op with
  | .ballot => v.setWidth 32
  | .any => if v = 0 then 0 else 1
  | .all => if v = 0xFFFF then 1 else 0

def execVote (t : GroupRef) (f : RFmt) (op : VoteOp) (flag : BitVec 4) (s : State) : Out :=
  .next (issue t f.guard (fun i => flag != 8 && regsOk [f.rd.toNat] i)
    (fun i s => setGroup t (nextPc (eachLane i.lanes (fun lane g =>
      setReg g lane f.rd.toNat (voteResult op (votes i flag))) i.grp)) s) s)

/-- SHFL reads ra of the lane rb names; an inactive lane gives 0 (R137). -/
def execShfl (t : GroupRef) (f : RFmt) (s : State) : Out :=
  .next (alu1 t f.guard f.rd [f.ra, f.rb] (fun i lane =>
    let src := (opB i f lane).toNat
    if src < 16 then (if i.lanes.contains src then opA i f src else 0)
    else Config.openResult 0x0B (opA i f lane) (opB i f lane) 0) s)

/-! ### FP32 (R130) -/

/-- Absolute value, then negation, of an operand's sign. -/
def signMod (ab ng : Bool) (x : W32) : W32 :=
  let y := if ab then clearBit x 31 else x
  if ng then y ^^^ (1 <<< 31) else y

def fpA (i : Issue) (f : RFmt) (sg : SignMods) (lane : Nat) : W32 := signMod sg.absA sg.negA (opA i f lane)
def fpB (i : Issue) (f : RFmt) (sg : SignMods) (lane : Nat) : W32 := signMod sg.absB sg.negB (opB i f lane)
def fpC (i : Issue) (f : RFmt) (sg : SignMods) (lane : Nat) : W32 := signMod sg.absC sg.negC (opC i f lane)

/-- A two-operand FP32 instruction. -/
def fpu2 (t : GroupRef) (f : RFmt) (sg : SignMods) (op : W32 → W32 → W32) (s : State) : State :=
  alu1 t f.guard f.rd [f.ra, f.rb] (fun i lane => op (fpA i f sg lane) (fpB i f sg lane)) s

def execFadd (t : GroupRef) (f : RFmt) (sg : SignMods) (s : State) : Out :=
  .next (fpu2 t f sg (fun a b => fp32Add (ofFp32 a) (ofFp32 b)) s)
def execFsub (t : GroupRef) (f : RFmt) (sg : SignMods) (s : State) : Out :=
  .next (fpu2 t f sg (fun a b => fp32Add (ofFp32 a) (Val.neg (ofFp32 b))) s)
def execFmul (t : GroupRef) (f : RFmt) (sg : SignMods) (s : State) : Out :=
  .next (fpu2 t f sg (fun a b => fp32Mul (ofFp32 a) (ofFp32 b)) s)
def execFfma (t : GroupRef) (f : RFmt) (sg : SignMods) (s : State) : Out :=
  .next (alu1 t f.guard f.rd [f.ra, f.rb, f.rc]
    (fun i lane => fp32Fma (ofFp32 (fpA i f sg lane)) (ofFp32 (fpB i f sg lane)) (ofFp32 (fpC i f sg lane))) s)
def execFmin (t : GroupRef) (f : RFmt) (sg : SignMods) (s : State) : Out := .next (fpu2 t f sg (fp32MinMax false) s)
def execFmax (t : GroupRef) (f : RFmt) (sg : SignMods) (s : State) : Out := .next (fpu2 t f sg (fp32MinMax true) s)
def execFsetp (t : GroupRef) (f : RFmt) (c : CmpOp) (sg : SignMods) (s : State) : Out :=
  .next (setp t f true (fun i lane => fp32Compare c (ofFp32 (fpA i f sg lane)) (ofFp32 (fpB i f sg lane))) s)

/-- CVT of the element in the low bits of ra; the result stands in the low bits of rd and its other bits are zero, as R126 says of LFIN
(DESIGN CHOICE: R131 does not say where a narrow operand stands; log entry 108). -/
def cvtOp (src dst : CvtFmt) (rnd : Rounding) (sat : Bool) (x : W32) : W32 :=
  BitVec.ofNat 32 (cvt dst rnd sat (cvtDecode src (x.toNat % 2 ^ cvtBits src)))
def execCvt (t : GroupRef) (f : RFmt) (src dst : CvtFmt) (rnd : Rounding) (sat : Bool) (s : State) : Out :=
  .next (aluU t f (cvtOp src dst rnd sat) s)

/-! ### Functions (R128, R129, R134) -/

def execRcp (t : GroupRef) (f : RFmt) (s : State) : Out := .next (aluU t f (fun a => rcp (ofFp32 a)) s)
def execSqrt (t : GroupRef) (f : RFmt) (s : State) : Out := .next (aluU t f (fun a => sqrt32 (ofFp32 a)) s)
def execRsq (t : GroupRef) (f : RFmt) (s : State) : Out := .next (aluU t f (fun a => rsq32 (ofFp32 a)) s)
def execEx2 (t : GroupRef) (f : RFmt) (s : State) : Out := .next (aluU t f (fun a => ex2 (ofFp32 a)) s)
def execLg2 (t : GroupRef) (f : RFmt) (s : State) : Out := .next (aluU t f (fun a => lg2 (ofFp32 a)) s)

/-- An approximation: NOT_REPRODUCIBLE in a reproducible context; otherwise any value within the bound of R129. -/
def aluApprox (t : GroupRef) (f : RFmt) (op : Val → W32) (s : State) : State :=
  issue t f.guard (regsOk [f.rd.toNat, f.ra.toNat]) (fun i s =>
    if i.repro then trapGroup t trNotReproducible 0 s
    else
      let s1 := setGroup t (nextPc (eachLane i.lanes (fun lane g =>
        setReg g lane f.rd.toNat (approx (op (ofFp32 (opA i f lane))) (laneFree i lane))) i.grp)) s
      { s1 with free := s1.free + 16 }) s

def execRcpA (t : GroupRef) (f : RFmt) (s : State) : Out := .next (aluApprox t f rcp s)
def execRsqA (t : GroupRef) (f : RFmt) (s : State) : Out := .next (aluApprox t f rsq32 s)
def execEx2A (t : GroupRef) (f : RFmt) (s : State) : Out := .next (aluApprox t f ex2 s)
def execLg2A (t : GroupRef) (f : RFmt) (s : State) : Out := .next (aluApprox t f lg2 s)

/-! ### Ledger instructions (R125-R127) -/

/-- Ledger registers named lie in the allocation. -/
def ledgersOk (js : List Nat) (i : Issue) : Bool := js.all fun j => decide (8 * j + 8 ≤ hlRegs i.desc)

/-- An instruction on one destination ledger. -/
def aluLedger (t : GroupRef) (guard : BitVec 4) (js rs : List Nat) (d : Nat) (f : Issue → Nat → Ledger → Ledger)
    (s : State) : State :=
  issue t guard (fun i => ledgersOk (d :: js) i && regsOk rs i) (fun i s =>
    setGroup t (nextPc (eachLane i.lanes (fun lane g =>
      setLedger g lane d (f i lane (getLedger i.grp lane d))) i.grp)) s) s

def execLclr (t : GroupRef) (f : IFmt) (s : State) : Out :=
  .next (aluLedger t f.guard [] [] f.rd.toNat (fun _ _ _ => Ledger.empty (signed 10 (field f.imm 0 10))) s)
def execLacc (t : GroupRef) (f : RFmt) (isInt : Bool) (s : State) : Out :=
  .next (aluLedger t f.guard [] [f.ra.toNat] f.rd.toNat (fun i lane l =>
    l.accumulate (if isInt then cvtDecode .int32 (opA i f lane).toNat else ofFp32 (opA i f lane))) s)
def execLmul (t : GroupRef) (f : RFmt) (s : State) : Out :=
  .next (aluLedger t f.guard [] [f.ra.toNat, f.rb.toNat] f.rd.toNat (fun i lane l =>
    l.accumulate (Val.mul (ofFp32 (opA i f lane)) (ofFp32 (opB i f lane)))) s)
def execLadd (t : GroupRef) (f : RFmt) (s : State) : Out :=
  .next (aluLedger t f.guard [f.ra.toNat] [] f.rd.toNat (fun i lane l => l.add (getLedger i.grp lane f.ra.toNat)) s)

/-- The formats of LFIN (R126). -/
def lfinFormat (d : CvtFmt) : Bool :=
  match d with
  | .fp32 => true
  | .bf16 => true
  | .fp16 => true
  | .e4m3 => true
  | .e5m2 => true
  | .int8 => true
  | .int32 => true
  | _ => false

/-- LFIN of one lane: the result's bits, whether RANGE is indicated, and the bound contribution (R64, R126, R127, R509). -/
def lfin1 (dst : CvtFmt) (l : Ledger) (scale : W32) : Nat × Bool × W32 :=
  let (v, r) := l.condition
  let (bits, first, _) := convertOut dst (Val.mul v (ofFp32 scale))
  let b := match cvtDecode dst bits with
    | .fin neg m e => (Val.log2Succ (.fin neg m e)).getD (-512)
    | _ => 511
  (bits, first || r, BitVec.ofInt 32 b)

def execLfin (t : GroupRef) (f : RFmt) (dst : CvtFmt) (bound : Bool) (s : State) : Out :=
  .next (issue t f.guard
    (fun i => lfinFormat dst && ledgersOk [f.ra.toNat] i &&
      regsOk (if bound then [f.rd.toNat, f.rd.toNat + 1, f.rb.toNat] else [f.rd.toNat, f.rb.toNat]) i)
    (fun i s =>
      let res := fun lane => lfin1 dst (getLedger i.grp lane f.ra.toNat) (opB i f lane)
      let s1 := setGroup t (nextPc (eachLane i.lanes (fun lane g =>
        let g1 := setReg g lane f.rd.toNat (BitVec.ofNat 32 (res lane).1)
        if bound then setReg g1 lane (f.rd.toNat + 1) (res lane).2.2 else g1) i.grp)) s
      if i.lanes.any fun lane => (res lane).2.1 then
        modCmd s1 t.launch fun c => { c with launch := { c.launch with range := true } }
      else s1) s)

/-! ### Random numbers (R132) -/

/-- Write the four words of the generator. -/
def setFour (g : Group) (lane rd : Nat) (w : W32 × W32 × W32 × W32) : Group :=
  setReg (setReg (setReg (setReg g lane rd w.1) lane (rd + 1) w.2.1) lane (rd + 2) w.2.2.1) lane (rd + 3) w.2.2.2

def execPhilox (t : GroupRef) (f : RFmt) (s : State) : Out :=
  .next (alu t f.guard [f.rd.toNat + 3, f.ra.toNat + 3, f.rb.toNat + 1] (fun i lane g =>
    let r := fun k => getReg i.grp lane k
    let a := f.ra.toNat
    setFour g lane f.rd.toNat
      (philox (r a) (r (a + 1)) (r (a + 2)) (r (a + 3)) (r f.rb.toNat) (r (f.rb.toNat + 1)))) s)

/-- RNG counts the thread's draws. -/
def execRng (t : GroupRef) (f : RFmt) (s : State) : Out :=
  .next (alu t f.guard [f.rd.toNat + 3] (fun i lane g =>
    let tid := tidOf i.desc t lane
    let draws := Tab.get 0 i.grp.draws lane
    let w := philox draws (BitVec.ofNat 32 tid) (BitVec.ofNat 32 (tid / 2 ^ 32)) (hlCtrBase i.desc)
      (hlKey0 i.desc) (hlKey1 i.desc)
    let g1 := setFour g lane f.rd.toNat w
    { g1 with draws := Tab.set 0 g1.draws lane (draws + 1) }) s)

end Sys2Proof.Machine
end

