-- ==== Sys2Proof/Machine/HerdMem.lean ====
section
/-! DEFINITION. Herd memory instructions: local store (R113), loads and stores with the data cache (R114-R118), atomics
(R120-R124), ledger loads and stores (R126), fences (R117). All lanes of an instruction are resolved first; when one
faults or is refused, no lane has any effect (log entry 26). -/

namespace Sys2Proof.Machine

/-! ### The data cache (R118) -/

def cacheKey (tag : W16) (va : Nat) : Nat := tag.toNat * 2 ^ 57 + va
def coreCache (s : State) (core : Nat) : Tab Nat := Tab.get [] s.herd.caches core

/-- The bytes a core's cache holds for a range, when it holds all of them. -/
def cached (c : Tab Nat) (k n : Nat) : Option (List Byte) :=
  let vs := (List.range n).map fun i => Tab.get 0 c (k + i)
  if vs.all fun v => v != 0 then some (vs.map fun v => BitVec.ofNat 8 (v - 1)) else none

def setCache (core : Nat) (c : Tab Nat) (s : State) : State :=
  { s with herd := { s.herd with caches := Tab.set [] s.herd.caches core c } }

/-- One byte leaves a full cache, a free choice: the manual gives no order of replacement (R101; log entry 110). -/
def cacheEvict (core : Nat) (s : State) : State :=
  let c := coreCache s core
  let (i, s1) := drawBelow c.length s
  setCache core (c.eraseIdx i) s1

/-- Remember bytes in a core's cache, which holds 64 KiB (R101). -/
def cacheFill (core k : Nat) (bs : List Byte) (s : State) : State :=
  let c := (List.range bs.length).foldl (fun c i => Tab.set 0 c (k + i) ((bs.getD i 0).toNat + 1)) (coreCache s core)
  forEach (List.range (c.length - 65536)) (fun _ s => cacheEvict core s) (setCache core c s)

/-- Drop the cached bytes of a range: an atomic changes them at the unit that owns them (R116, R120). -/
def cacheDrop (core k n : Nat) (s : State) : State :=
  setCache core ((List.range n).foldl (fun c i => Tab.set 0 c (k + i) 0) (coreCache s core)) s

/-- An acquire at instance or system scope invalidates the core's cached lines (R118). -/
def cacheClear (core : Nat) (s : State) : State := setCache core [] s

/-! ### Order and scope -/

def acquires (f : MFmt) : Bool := bitAt f.order 0
def releases (f : MFmt) : Bool := bitAt f.order 1
/-- An acquire at instance or system scope (R117, R118). -/
def acquiresWide (f : MFmt) : Bool := acquires f && decide (2 ≤ f.scope.toNat)
/-- The acquire's effect on the cache. -/
def acquireEffect (f : MFmt) (core : Nat) (s : State) : State := if acquiresWide f then cacheClear core s else s
/-- Stores of a group that have not been accepted by their destination unit: they wait for credits of the stack port (R118, R472). -/
def storesWait (s : State) (t : GroupRef) : Bool :=
  s.stack.waiting.any fun x => x.write && s.xlate.reqs.any fun r => r.id == x.req && r.grp == some t
/-- A release at any scope waits until the group's earlier stores have been accepted; one at system scope also for the
acknowledgements of the launch's remote writes (R118). -/
def releaseWaits (s : State) (f : MFmt) (t : GroupRef) (i : Issue) : Bool :=
  releases f && (storesWait s t || (f.scope == 3 && decide (0 < unackedOf s (tagFold i.cmd.tag) i.cmd.uid)))

/-! ### Local store -/

/-- The signed byte offset of the M format. -/
def offOf (f : MFmt) : Int := signed 16 f.off.toNat

/-- A lane's local address. -/
def localAddr (i : Issue) (f : MFmt) (lane : Nat) : Int := ((getReg i.grp lane f.ra.toNat).toNat : Int) + offOf f

/-- Store a group and its gang's local store. -/
def setBoth (t : GroupRef) (g : Group) (m : Mem) (s : State) : State :=
  match gangAt s t.launch t.gang with
  | none => s
  | some x => setGang { x with groups := listSet x.groups t.group g, store := m } s

/-- A local access of n bytes by every guarded lane, in lane order, on the group and the local store. One that is misaligned and
beyond the allocation raises MISALIGNED (DESIGN CHOICE: the manual gives no order of the two; log entry 124). -/
def localOp (t : GroupRef) (f : MFmt) (n : Nat) (legal : Issue → Bool) (repro : Bool)
    (op : Issue → Nat → Nat → Group × Mem → Group × Mem) (s : State) : State :=
  issue t f.guard legal (fun i s =>
    if repro && i.repro then trapGroup t trNotReproducible 0 s
    else if i.lanes.any fun lane => decide (localAddr i f lane % n ≠ 0) then trapGroup t trMisaligned 0 s
    else if i.lanes.any fun lane => decide (localAddr i f lane < 0) ||
        decide ((hlLocal i.desc : Int) < localAddr i f lane + n) then trapGroup t trLocalBounds 0 s
    else
      let r := i.lanes.foldl (fun gm lane => op i lane (localAddr i f lane).toNat gm) (i.grp, i.gang.store)
      setBoth t (nextPc r.1) r.2 s) s

/-- Bytes of a load or store type (R136). -/
def accBytes (f : MFmt) : Nat := 2 ^ f.ty.toNat
/-- Registers that many bytes fill. -/
def regSpan (r : Byte) (n : Nat) : List Nat := [r.toNat + ceilDiv n 4 - 1]
def accLegal (f : MFmt) (i : Issue) : Bool :=
  decide (f.ty.toNat ≤ 5) && regsOk (f.ra.toNat :: regSpan f.rd (accBytes f)) i

def execLdl (t : GroupRef) (f : MFmt) (s : State) : Out :=
  .next (localOp t f (accBytes f) (accLegal f) false
    (fun _ lane a gm => (setRegs gm.1 lane f.rd.toNat (memRead gm.2 a (accBytes f)), gm.2)) s)
def execStl (t : GroupRef) (f : MFmt) (s : State) : Out :=
  .next (localOp t f (accBytes f) (accLegal f) false
    (fun i lane a gm => (gm.1, memWrite gm.2 a (regBytes i.grp lane f.rd.toNat (accBytes f)))) s)

/-! ### Global accesses -/

/-- A lane's global address: the pair in ra plus the offset (log entry 18). -/
def globalAddr (i : Issue) (f : MFmt) (lane : Nat) : Nat :=
  wrapInt 64 ((getPair i.grp lane f.ra.toNat : Int) + offOf f)

/-- Where each lane's access lands, at a displacement from its address. -/
def resolveLanes (i : Issue) (f : MFmt) (disp : Nat) (a : AccessKind) : List Nat → State → List (Nat × Nat × Spot) × State
  | [], s => ([], s)
  | lane :: rest, s =>
    let va := (globalAddr i f lane + disp) % 2 ^ 64
    let (sp, s1) := reach i.place i.cmd.tag va a s
    let (l, s2) := resolveLanes i f disp a rest s1
    ((lane, va, sp) :: l, s2)

/-- Why a resolved access cannot be carried out. -/
inductive Stop where
  | fault (va : Nat) (k : FaultKind) (level : Nat)
  | refused (va : Nat) (k : FaultKind)
  | target
  | error (detail pa : Nat)
  | hold (mem off : Nat)
  | holdWin (node : BitVec 18)
  | walk
  deriving DecidableEq, Repr

/-- What stops one lane's access of n bytes. -/
def laneStop (s : State) (i : Issue) (a : AccessKind) (n : Nat) (x : Nat × Nat × Spot) : Option Stop :=
  match x.2.2 with
  | .fault k l => some (.fault x.2.1 k l)
  | .refused k => some (.refused x.2.1 k)
  | .error p => some (.error 0x43 p)
  | .wait => some .walk
  | .win node .. => if mayReach s (tagFold i.cmd.tag) node then none else some (.holdWin node)
  | .loc mem off =>
    if a = .atomic ∧ mem = 3 then some .target
    else if !landOk s i.cmd.tag mem off then some (.refused x.2.1 .access)
    else if !reachable s i.cmd.tag mem off n then some (.hold mem off)
    else if a = .read ∨ a = .atomic then
      (if readFails s i.cmd.tag mem off n then some (.error (if mem = 3 then 0x43 else 0x42) (paOf s mem (badUnit s mem off n))) else none)
    else if mergeFails s mem off n then some (.error 0x42 (paOf s mem (badUnit s mem off n)))
    else none

/-- Act on a stop of an access of n bytes: a fault waits, a refusal or an error traps, a held request leaves the group as it
stands. -/
def stopGroup (t : GroupRef) (i : Issue) (a : AccessKind) (n : Nat) (x : Stop) (s : State) : State :=
  match x with
  | .fault va k l => faultGroup t i va k a l s
  | .refused va k => refuseGroup t i va a k s
  | .target => trapGroup t trAtomicTarget 0 s
  | .error d p => errorGroup t i d p s
  | .hold mem off => holdAccess i.cmd.tag mem off n s
  | .holdWin node => holdRemote i.cmd.tag node s
  | .walk => s

/-- A lane's local access to pond leaves the core: its weir regulates it not, and its response ends it (R160, R251). -/
def pondReq (t : GroupRef) (i : Issue) (mem off n : Nat) (s : State) : State :=
  if mem = 0 then issueReq i.cmd.tag 9 i.cmd.uid i.master off n none (some t) i.grp.pc s else s

/-- The request of one lane's atomic leaves the core (R160). -/
def laneReq (t : GroupRef) (i : Issue) (mem off n : Nat) (s : State) : State :=
  pondReq t i mem off n (charge i.cmd.tag mem off n false s)

/-- How the group goes on after an access: it waits for the answers of its remote lanes, of which the last ends an acquire (R118). -/
def laneWait (f : MFmt) (waits : Bool) (wins : Nat) : Wait :=
  if waits && decide (0 < wins) then .remote wins (acquiresWide f) else .none

/-- The effect of an access whose every lane may be carried out, lane by lane on the group and the state. -/
def laneEffects (t : GroupRef) (f : MFmt) (waits : Bool) (op : Issue → Nat → Nat → Spot → Group × State → Group × State)
    (i : Issue) (xs : List (Nat × Nat × Spot)) (s : State) : State :=
  let r := xs.foldl (fun gs x => op i x.1 x.2.1 x.2.2 gs) (i.grp, acquireEffect f i.gang.core s)
  let wins := (xs.filter fun x => match x.2.2 with | .win .. => true | _ => false).length
  setGroup t { nextPc r.1 with wait := laneWait f waits wins } r.2

/-- Access of n bytes by every guarded lane at a displacement from its aligned address: checks in order, then the effect;
`remote` lanes make the group wait for their answers when `waits` holds. The accesses are the group's own (R160). -/
def globalOp (t : GroupRef) (f : MFmt) (n align disp : Nat) (a : AccessKind) (legal : Issue → Bool) (repro waits : Bool)
    (op : Issue → Nat → Nat → Spot → Group × State → Group × State) (s : State) : State :=
  issue t f.guard legal (fun i s =>
    if repro && i.repro then trapGroup t trNotReproducible 0 s
    else if i.lanes.any fun lane => decide (globalAddr i f lane % align ≠ 0) then trapGroup t trMisaligned 0 s
    else if releaseWaits s f t i then s
    else
      let (xs, s1) := resolveLanes i f disp a i.lanes (onBehalfAt i.cmd.uid i.master (some t) i.grp.pc s)
      onBehalfOfNone (match xs.findSome? (laneStop s1 i a n) with
        | some x => stopGroup t i a n x s1
        | none => laneEffects t f waits op i xs s1)) s

/-- Send a lane's packet. -/
def laneSend (i : Issue) (use : E2EUse) (va : Nat) (node : BitVec 18) (tag : W16) (a : Nat) (ver : W32) (ptype op : Byte)
    (payload : List Byte) (s : State) : State :=
  sendRequest (tagFold i.cmd.tag) i.cmd.uid use i.master va (cmdLc s i.cmd) (windowPacket s node tag a ver ptype op payload) s

/-- The bytes a load returns: from the cache by a free choice when the load is relaxed and the cache holds them, else from
memory by a request, which then fills the cache (R118). -/
def loadBytes (t : GroupRef) (i : Issue) (f : MFmt) (va mem off n : Nat) (s : State) : List Byte × State :=
  let k := cacheKey i.cmd.tag va
  let (hit, s1) := drawChoice s
  match (if f.order = 0 && hit then cached (coreCache s1 i.gang.core) k n else none) with
  | some bs => (bs, s1)
  | none =>
    let (bs, s2) := getBytes i.cmd.tag mem off n s1
    (bs, cacheFill i.gang.core k bs (pondReq t i mem off n s2))

/-- A load of n bytes into registers from rd. -/
def loadLane (t : GroupRef) (f : MFmt) (n rd ty : Nat) (i : Issue) (lane va : Nat) (sp : Spot) (gs : Group × State) :
    Group × State :=
  match sp with
  | .loc mem off =>
    let (bs, s1) := loadBytes t i f va mem off n gs.2
    (setRegs gs.1 lane rd bs, s1)
  | .win node tag a ver => (gs.1, laneSend i (.lane t lane rd ty) va node tag a ver 1 0 (leBytes 8 n) gs.2)
  | _ => gs

/-- A store of bytes: written through to memory; the core's own cache sees it (R116, R118). -/
def storeLane (t : GroupRef) (i : Issue) (lane va : Nat) (bs : List Byte) (sp : Spot) (gs : Group × State) : Group × State :=
  match sp with
  | .loc mem off =>
    (gs.1, pondReq t i mem off bs.length (cacheFill i.gang.core (cacheKey i.cmd.tag va) bs (putBytes i.cmd.tag mem off bs gs.2)))
  | .win node tag a ver => (gs.1, laneSend i (.lane t lane 0 8) va node tag a ver 2 0 bs gs.2)
  | _ => gs

def pairLegal (f : MFmt) (i : Issue) : Bool := regsOk [f.ra.toNat + 1] i

def execLd (t : GroupRef) (f : MFmt) (s : State) : Out :=
  .next (globalOp t f (accBytes f) (accBytes f) 0 .read (fun i => accLegal f i && pairLegal f i) false true
    (loadLane t f (accBytes f) f.rd.toNat f.ty.toNat) s)
def execSt (t : GroupRef) (f : MFmt) (s : State) : Out :=
  .next (globalOp t f (accBytes f) (accBytes f) 0 .write (fun i => accLegal f i && pairLegal f i) false false
    (fun i lane va sp gs => storeLane t i lane va (regBytes i.grp lane f.rd.toNat (accBytes f)) sp gs) s)
/-- PREF only advances: the cache may be filled at any time without a program's knowing (R118). -/
def execPref (t : GroupRef) (f : MFmt) (s : State) : Out :=
  .next (issue t f.guard (pairLegal f) (fun i s => setGroup t (nextPc i.grp) s) s)

/-- Ledger number rd, its container's registers allocated (R125). -/
def ledgerLegal (f : MFmt) (i : Issue) : Bool := ledgersOk [f.rd.toNat] i

def execLld (t : GroupRef) (f : MFmt) (isLocal : Bool) (s : State) : Out :=
  .next (if isLocal then
      localOp t f 32 (fun i => ledgerLegal f i && regsOk [f.ra.toNat] i) false
        (fun _ lane a gm => (setRegs gm.1 lane (8 * f.rd.toNat) (memRead gm.2 a 32), gm.2)) s
    else globalOp t f 32 32 0 .read (fun i => ledgerLegal f i && pairLegal f i) false true
      (loadLane t f 32 (8 * f.rd.toNat) 5) s)
def execLst (t : GroupRef) (f : MFmt) (isLocal : Bool) (s : State) : Out :=
  .next (if isLocal then
      localOp t f 32 (fun i => ledgerLegal f i && regsOk [f.ra.toNat] i) false
        (fun i lane a gm => (gm.1, memWrite gm.2 a (regBytes i.grp lane (8 * f.rd.toNat) 32))) s
    else globalOp t f 32 32 0 .write (fun i => ledgerLegal f i && pairLegal f i) false false
      (fun i lane va sp gs => storeLane t i lane va (regBytes i.grp lane (8 * f.rd.toNat) 32) sp gs) s)

/-! ### Atomics (R120) -/

/-- The operations of ATOM, in the order of their modifier (R136). -/
inductive AtomOp where
  | add | and | or | xor | min | max | xchg | cas | fadd
  deriving DecidableEq, Repr

def atomCode : AtomOp → Nat
  | .add => 0 | .and => 1 | .or => 2 | .xor => 3 | .min => 4 | .max => 5 | .xchg => 6 | .cas => 7 | .fadd => 8

/-- The types an operation admits: 0 u32, 1 s32, 2 u64, 3 s64, 4 f32 (R120, R136). -/
def atomTyped (op : AtomOp) (ty : Nat) : Bool :=
  match op with
  | .min => decide (ty ≤ 3)
  | .max => decide (ty ≤ 3)
  | .xchg => ty == 0 || ty == 2 || ty == 4
  | .cas => ty == 0 || ty == 2 || ty == 4
  | .fadd => ty == 4
  | _ => ty == 0 || ty == 2

def atomBytes (ty : Nat) : Nat := if ty = 2 ∨ ty = 3 then 8 else 4

/-- Signed or unsigned reading of a value of a type. -/
def atomInt (ty v : Nat) : Int := if ty = 1 then signed 32 v else if ty = 3 then signed 64 v else v

/-- The value an atomic leaves at the location (R120); `x` operand, `y` compare value. -/
def atomNew (op : AtomOp) (ty old x y : Nat) : Nat :=
  match op with
  | .add => (old + x) % 2 ^ (8 * atomBytes ty)
  | .and => old &&& x
  | .or => old ||| x
  | .xor => old ^^^ x
  | .min => if atomInt ty x < atomInt ty old then x else old
  | .max => if atomInt ty old < atomInt ty x then x else old
  | .xchg => x
  | .cas => if old = y then x else old
  | .fadd => (fp32Add (ofFp32 (BitVec.ofNat 32 old)) (ofFp32 (BitVec.ofNat 32 x))).toNat

/-- The one-term container of an FP32 value at an anchor (R122). -/
def oneTerm (a : Int) (x : W32) : Ledger := (Ledger.empty a).accumulate (ofFp32 x)

/-- FADD in a reproducible context: one term placed at the container's own anchor (R122). -/
def faddLedger (bs : List Byte) (x : W32) : List Byte :=
  let l := ledgerOfBytes bs
  (l.add (oneTerm l.a x)).bytes

/-- An operand value of an atomic, from a register or a pair. -/
def atomArg (g : Group) (lane r ty : Nat) : Nat := ofLe (regBytes g lane r (atomBytes ty))

/-- The operand and the compare value: CAS takes its new value from rd and compares with rb (log entry 18). -/
def atomArgs (op : AtomOp) (f : MFmt) (g : Group) (lane : Nat) : Nat × Nat :=
  if op = .cas then (atomArg g lane f.rd.toNat f.ty.toNat, atomArg g lane f.rb.toNat f.ty.toNat)
  else (atomArg g lane f.rb.toNat f.ty.toNat, 0)

/-- Legal registers and type of an ATOM form. -/
def atomLegal (op : AtomOp) (f : MFmt) (isLocal : Bool) (i : Issue) : Bool :=
  let n := atomBytes f.ty.toNat
  let a := f.ra.toNat + (if isLocal then 0 else 1)
  atomTyped op f.ty.toNat && regsOk (a :: (regSpan f.rd n ++ regSpan f.rb n)) i

/-- The reproducible FADD works on a container, returns 0 and needs 32-byte alignment (R122). -/
def atomWide (op : AtomOp) (s : State) (t : GroupRef) : Bool :=
  op == .fadd &&
    (match cmdAt s t.launch with | some c => (ctxAt s (tagSlot c.tag)).reproducible | none => false)

/-- The op byte of an ATOMIC packet: operation and type in the encoding of R136; bit 3 tells the destination that the FADD comes from
a reproducible context (R122, R347; log entry 109). -/
def atomOp (op : AtomOp) (ty : Nat) (wide : Bool) : Byte := BitVec.ofNat 8 (atomCode op * 16 + ty + (if wide then 8 else 0))

/-- One lane's atomic on bytes: what is stored, and what the thread gets back. -/
def atomStep (op : AtomOp) (wide : Bool) (ty : Nat) (old : List Byte) (x y : Nat) : List Byte × List Byte :=
  if wide then (faddLedger old (BitVec.ofNat 32 x), leBytes 4 0)
  else (leBytes (atomBytes ty) (atomNew op ty (ofLe old) x y), old)

/-- An ATOM instruction, local or global (R120-R124, R134). -/
def atom (op : AtomOp) (t : GroupRef) (f : MFmt) (isLocal : Bool) (s : State) : State :=
  let wide := atomWide op s t
  let ty := f.ty.toNat
  let n := if wide then 32 else atomBytes ty
  let repro := (op == .xchg || op == .cas) && ty == 4
  if isLocal then
    localOp t f n (atomLegal op f true) repro (fun i lane a gm =>
      let (x, y) := atomArgs op f i.grp lane
      let (new, old) := atomStep op wide ty (memRead gm.2 a n) x y
      (setRegs gm.1 lane f.rd.toNat old, memWrite gm.2 a new)) s
  else
    globalOp t f n n 0 .atomic (atomLegal op f false) repro true (fun i lane va sp gs =>
      let (x, y) := atomArgs op f i.grp lane
      match sp with
      | .loc mem off =>
        let (bs, s1) := memBytes mem off n gs.2
        let (new, old) := atomStep op wide ty bs x y
        (setRegs gs.1 lane f.rd.toNat old, cacheDrop i.gang.core (cacheKey i.cmd.tag va) n
          (laneReq t i mem off n (memStore mem off new s1)))
      | .win node tag a ver =>
        let m := atomBytes ty
        (gs.1, laneSend i (.lane t lane f.rd.toNat (if m = 8 then 3 else 2)) va node tag a ver 3
          (atomOp op ty wide) (leBytes m x ++ (if op = .cas then leBytes m y else [])) gs.2)
      | _ => gs) s

def execAtomAdd (t : GroupRef) (f : MFmt) (l : Bool) (s : State) : Out := .next (atom .add t f l s)
def execAtomAnd (t : GroupRef) (f : MFmt) (l : Bool) (s : State) : Out := .next (atom .and t f l s)
def execAtomOr (t : GroupRef) (f : MFmt) (l : Bool) (s : State) : Out := .next (atom .or t f l s)
def execAtomXor (t : GroupRef) (f : MFmt) (l : Bool) (s : State) : Out := .next (atom .xor t f l s)
def execAtomMin (t : GroupRef) (f : MFmt) (l : Bool) (s : State) : Out := .next (atom .min t f l s)
def execAtomMax (t : GroupRef) (f : MFmt) (l : Bool) (s : State) : Out := .next (atom .max t f l s)
def execAtomXchg (t : GroupRef) (f : MFmt) (l : Bool) (s : State) : Out := .next (atom .xchg t f l s)
def execAtomCas (t : GroupRef) (f : MFmt) (l : Bool) (s : State) : Out := .next (atom .cas t f l s)
def execAtomFadd (t : GroupRef) (f : MFmt) (l : Bool) (s : State) : Out := .next (atom .fadd t f l s)

/-- LADD to memory: the container in rb to rb + 7 added at the location (R123; log entry 18). -/
def execLaddToMemory (t : GroupRef) (f : MFmt) (s : State) : Out :=
  .next (globalOp t f 32 32 0 .atomic (fun i => regsOk [f.rb.toNat + 7, f.ra.toNat + 1] i) false false
    (fun i lane va sp gs =>
      let bs := regBytes i.grp lane f.rb.toNat 32
      match sp with
      | .loc mem off => (gs.1, cacheDrop i.gang.core (cacheKey i.cmd.tag va) 32
          (laneReq t i mem off 32 (reduceAt mem off [bs] gs.2)))
      | .win node tag a ver => (gs.1, laneSend i (.lane t lane 0 8) va node tag a ver 4 0 bs gs.2)
      | _ => gs) s)

/-- BNDMAX merges a signed bound into bits [319:288] of a header, 64-byte aligned, by maximum (R78, R123). -/
def execBndmax (t : GroupRef) (f : MFmt) (s : State) : Out :=
  .next (globalOp t f 4 64 36 .atomic (fun i => regsOk [f.rb.toNat, f.ra.toNat + 1] i) false false
    (fun i lane va sp gs =>
      let x := (getReg i.grp lane f.rb.toNat).toNat
      match sp with
      | .loc mem off =>
        let (bs, s1) := memBytes mem off 4 gs.2
        (gs.1, cacheDrop i.gang.core (cacheKey i.cmd.tag va) 4
          (laneReq t i mem off 4 (memStore mem off (leBytes 4 (atomNew .max 1 (ofLe bs) x 0)) s1)))
      | .win node tag a ver =>
        (gs.1, laneSend i (.lane t lane 0 8) va node tag a ver 3 (BitVec.ofNat 8 (5 * 16 + 1)) (leBytes 4 x) gs.2)
      | _ => gs) s)

/-- FENCE: a release waits for the launch's remote writes at system scope; an acquire empties the core's cache at instance
or system scope (R117, R118). -/
def execFence (t : GroupRef) (f : MFmt) (s : State) : Out :=
  .next (issue t f.guard (fun _ => true) (fun i s =>
    if releaseWaits s f t i then s else setGroup t (nextPc i.grp) (acquireEffect f i.gang.core s)) s)

end Sys2Proof.Machine
end

