-- ==== Sys2Proof/Machine/HerdCtl.lean ====
section
/-! DEFINITION. Herd control flow: divergence and its stack, calls, the barrier, exits, the TRAP instruction (R105, R118,
R136-R138, R141). Offsets count from the next instruction; which path of a divergence runs first is a free choice
(log entry 17). -/

namespace Sys2Proof.Machine

/-- The address a branch offset names (log entry 17). -/
def branchPc (pc : W64) (off : W32) : W64 := BitVec.ofNat 64 (wrapInt 64 ((pc.toNat : Int) + 8 + 8 * signed 32 off.toNat))

/-- Lanes of a mask that are not in a list. -/
def maskOut (m : W16) (l : List Nat) : W16 := m &&& ~~~ laneMask l

/-- Split a group: the lanes of `l` go to `a`, the others to `b`; `first` says that the lanes of `l` run first. The
reconvergence point is pushed (R105). -/
def splitGroup (g : Group) (l : List Nat) (a b : W64) (first : Bool) : Group :=
  let other := maskOut g.active l
  if first then
    { g with pc := a, active := laneMask l, recon := { join := 0, mask := g.active, elsePc := b, elseMask := other } :: g.recon }
  else
    { g with pc := b, active := other,
             recon := { join := 0, mask := g.active, elsePc := a, elseMask := laneMask l } :: g.recon }

/-- A branch of the lanes of `l` to `a`, the rest to `b`: no lane, every lane, or a divergence, which traps when the stack
of 16 is full. -/
def branchTo (t : GroupRef) (g : Group) (l : List Nat) (a b : W64) (first : Bool) (s : State) : State :=
  if l.isEmpty then setGroup t { g with pc := b } s
  else if maskOut g.active l = 0 then setGroup t { g with pc := a } s
  else if 16 ≤ g.recon.length then trapGroup t trStack 0 s
  else setGroup t (splitGroup g l a b first) s

def execNop (t : GroupRef) (f : BFmt) (s : State) : Out :=
  .next (issue t f.guard (fun _ => true) (fun i s => setGroup t (nextPc i.grp) s) s)

def execBra (t : GroupRef) (f : BFmt) (s : State) : Out :=
  .next (issue t f.guard (fun _ => true) (fun i s =>
    let (first, s1) := drawChoice s
    branchTo t i.grp i.lanes (branchPc i.grp.pc f.off) (i.grp.pc + 8) first s1) s)

/-- BRX: the target in the pair at ra; one that is not 8-byte aligned is taken as it stands (log entry 125). Lanes whose target
differs from the chosen lane's run the BRX again as the other path. -/
def execBrx (t : GroupRef) (f : BFmt) (s : State) : Out :=
  .next (issue t f.guard (regsOk [f.ra.toNat + 1]) (fun i s =>
    let (first, s1) := drawChoice s
    let (k, s2) := drawBelow i.lanes.length s1
    let target := fun lane => getPair i.grp lane f.ra.toNat
    let a := target (i.lanes.getD k 0)
    let l := i.lanes.filter fun lane => target lane == a
    branchTo t i.grp l (BitVec.ofNat 64 a) (if l.length = i.lanes.length then i.grp.pc + 8 else i.grp.pc) first s2) s)

/-- CALL pushes the address of the next instruction; the lanes that call run first. -/
def execCall (t : GroupRef) (f : BFmt) (s : State) : Out :=
  .next (issue t f.guard (fun _ => true) (fun i s =>
    if i.lanes.isEmpty then setGroup t (nextPc i.grp) s
    else if 16 ≤ i.grp.rets.length then trapGroup t trStack 0 s
    else branchTo t { i.grp with rets := (i.grp.pc + 8) :: i.grp.rets } i.lanes (branchPc i.grp.pc f.off)
      (i.grp.pc + 8) true s) s)

/-- RET pops the return stack; on an empty stack it raises the STACK trap (log entry 19). -/
def execRet (t : GroupRef) (f : BFmt) (s : State) : Out :=
  .next (issue t f.guard (fun _ => true) (fun i s =>
    if i.lanes.isEmpty then setGroup t (nextPc i.grp) s
    else match i.grp.rets with
      | [] => trapGroup t trStack 0 s
      | a :: rest => branchTo t { i.grp with rets := rest } i.lanes a (i.grp.pc + 8) true s) s)

/-- JOIN (R105): the path that comes first waits there while the other runs; the second pops the stack and the lanes
reunite. -/
def joinGroup (g : Group) : Group :=
  match g.recon with
  | [] => nextPc g
  | e :: rest =>
    if e.elseMask &&& g.alive = 0 then { nextPc g with active := e.mask &&& g.alive, recon := rest }
    else { g with pc := e.elsePc, active := e.elseMask &&& g.alive, recon := { e with join := g.pc, elseMask := 0 } :: rest }

def execJoin (t : GroupRef) (f : BFmt) (s : State) : Out :=
  .next (issue t f.guard (fun _ => true) (fun i s =>
    setGroup t (if i.lanes.isEmpty then nextPc i.grp else joinGroup i.grp) s) s)

/-- Every group of the gang has reached the barrier: all go on (R118). -/
def barrierRelease (l g : Nat) (s : State) : State :=
  match gangAt s l g with
  | none => s
  | some x =>
    if x.groups.all fun y => y.wait == .barrier then
      setGang { x with groups := x.groups.map fun y => { nextPc y with wait := .none } } s
    else s

def execBar (t : GroupRef) (f : BFmt) (s : State) : Out :=
  .next (issue t f.guard (fun _ => true) (fun i s =>
    if i.lanes.isEmpty then setGroup t (nextPc i.grp) s
    else barrierRelease t.launch t.gang (setGroup t { i.grp with wait := .barrier } s)) s)

/-- The lanes that run when every active lane has exited: the other path, or the lanes that wait at a JOIN. -/
def afterExit (g : Group) : List Recon → Group
  | [] => { g with recon := [], wait := .exited }
  | e :: rest =>
    if e.elseMask &&& g.alive ≠ 0 then
      { g with pc := e.elsePc, active := e.elseMask &&& g.alive, recon := { e with elseMask := 0 } :: rest }
    else if e.mask &&& g.alive ≠ 0 then { g with pc := e.join + 8, active := e.mask &&& g.alive, recon := rest }
    else afterExit g rest

/-- EXIT ends the guarded lanes of a group. -/
def exitGroup (g : Group) (lanes : List Nat) : Group :=
  let g' := { g with alive := maskOut g.alive lanes, active := maskOut g.active lanes }
  if g'.active ≠ 0 then nextPc g' else afterExit g' g'.recon

/-- EXIT, and the end of the gang when every group has exited (R141). -/
def exitLanes (t : GroupRef) (f : BFmt) (s : State) : State :=
  issue t f.guard (fun _ => true) (fun i s =>
    if i.lanes.isEmpty then setGroup t (nextPc i.grp) s
    else gangEnd t.launch t.gang (setGroup t (exitGroup i.grp i.lanes) s)) s

/-- TRAP: the SOFTWARE trap, its 16-bit immediate recorded (R138). -/
def execTrap (t : GroupRef) (f : IFmt) (s : State) : Out :=
  .next (issue t f.guard (fun _ => true) (fun i s =>
    if i.lanes.isEmpty then setGroup t (nextPc i.grp) s else trapGroup t trSoftware (field f.imm 0 16) s) s)

end Sys2Proof.Machine
end

