-- ==== Sys2Proof/Machine/Kernel.lean ====
section
/-! DEFINITION. Commands of the kernel queue on translation and contexts: MAP_UPDATE (R158, R510), INVALIDATE (R159-R161),
the resolution of page faults (R163-R165), CONTEXT_CREATE and CONTEXT_TEARDOWN (R181-R183, R186), and the end of work at
the drain limit (R422). -/

namespace Sys2Proof.Machine

/-- target_tag of MAP_UPDATE, INVALIDATE and CONTEXT_TEARDOWN. -/
def targetTag (d : BitVec 512) : W16 := bitsAt d 144 16
def arg0 (d : BitVec 512) : W64 := bitsAt d 448 64
def arg1 (d : BitVec 512) : W64 := bitsAt d 384 64
def arg2 (d : BitVec 512) : W64 := bitsAt d 320 64
def mapFunc (d : BitVec 512) : Nat := field d 128 4

/-- The positions of the present, writable and leaf flags are configured (R144). -/
def flagsPlaced (s : State) : Bool := [0x23, 0x24, 0x25].all fun i => Tab.get 0xFF s.xlate.pteBits i != 0xFF

/-- Decoded as host memory (R143). -/
def isHostPa (s : State) (a : Nat) : Bool :=
  match decodePa s a with
  | .loc 3 _ => true
  | _ => false

/-! ### SET_ROOT, FRAME_OWN -/

def rangeEnd (c : Cmd) (s : State) : State := complete c.uid (.plain stRange) s
def success (c : Cmd) (s : State) : State := complete c.uid (.plain stSuccess) s

def startSetRoot (c : Cmd) (s : State) : State :=
  let t := targetTag c.desc
  let root := arg0 c.desc
  if !flagsPlaced s then rangeEnd c s
  else if !tagLive s t || root.toNat % 4096 != 0 || !isHostPa s root.toNat then rangeEnd c s
  else
    success c (purgeSlot (tagSlot t) (modCtx s (tagSlot t) fun x =>
      { x with root := some root, pasid := bitsAt (arg1 c.desc) 0 20 }))

/-- The frames FRAME_OWN names: the first and how many. -/
def frameFirst (s : State) (d : BitVec 512) : Nat := ((arg0 d).toNat - s.xlate.localBase.toNat) / 2 ^ 21
def frameCount (d : BitVec 512) : Nat := field d 384 32

/-- The arguments of FRAME_OWN are valid (R510); the owner must be a fold that exists when valid is set (log entry 32). -/
def frameArgsOk (s : State) (d : BitVec 512) : Bool :=
  let a := (arg0 d).toNat
  let b := s.xlate.localBase.toNat
  a % 2 ^ 21 == 0 && frameCount d != 0 && decide (b ≤ a) && decide (a + 2 ^ 21 * frameCount d ≤ b + s.xlate.farSize) &&
    (!bitAt (arg2 d) 8 || foldExists s (field (arg2 d) 0 4))

/-- Requests the guard accepted for a range of frames and that are still outstanding. -/
def frameReqs (s : State) (first n : Nat) : List Nat :=
  (s.xlate.reqs.filter fun r => match r.frame with
    | some f => decide (first ≤ f) && decide (f < first + n)
    | none => false).map fun r => r.id

def startFrameOwn (c : Cmd) (s : State) : State :=
  if !frameArgsOk s c.desc then rangeEnd c s
  else
    let first := frameFirst s c.desc
    let n := frameCount c.desc
    let e : Byte := place (field (arg2 c.desc) 0 4) 0 4 ||| place (if bitAt (arg2 c.desc) 8 then 1 else 0) 7 1
    let s1 := dropFarLines (fun l => decide (first ≤ l.line / 8192) && decide (l.line / 8192 < first + n)) { s with
      xlate := { s.xlate with frames := (List.range n).foldl (fun t i => Tab.set 0 t (first + i) e) s.xlate.frames } }
    if (frameReqs s first n).isEmpty then success c s1 else setPhase s1 c.uid (.frameWait (frameReqs s first n))

/-! ### The invalidation protocol (R161) -/

/-- Epochs t_old - 2 to t_old have drained. -/
def drainedTo (s : State) (t : Nat) : Bool := epochDrained s (t - 2) && epochDrained s (t - 1) && epochDrained s t

/-- The epoch up to which a command's invalidation drains. -/
def drainsTo (c : Cmd) : Option Nat :=
  match c.phase with
  | .draining t => some t
  | _ => none

/-- A draining invalidation completes once its epochs have drained. -/
def drainOne (uid : Nat) (s : State) : State :=
  match cmdAt s uid with
  | none => s
  | some c =>
    match drainsTo c with
    | some t => if drainedTo s t then success c s else s
    | none => s

/-- The invalidations that drain to an epoch or to an earlier one, in the order of their epochs. -/
def drainOrder (s : State) (t : Nat) : List Nat :=
  let l := s.cmds.filter fun c => match drainsTo c with | some u => decide (u ≤ t) | none => false
  (l.insertionSort fun a b => (drainsTo a).getD 0 ≤ (drainsTo b).getD 0).map fun c => c.uid

/-- A draining invalidation completes once its epochs have drained, after those of earlier epochs (R161). -/
def invalDone (uid : Nat) (s : State) : State :=
  match (cmdAt s uid).bind drainsTo with
  | some t => forEach (drainOrder s t) drainOne s
  | none => s

/-- The first step waits for the counter of the next epoch; then the purge, and t advances. -/
def invalRun (c : Cmd) (effect : State → State) (s : State) : State :=
  if outstanding s (s.xlate.epoch + 1) ≠ 0 then setPhase s c.uid .invalWait
  else
    let t := s.xlate.epoch
    let s1 := effect s
    invalDone c.uid (setPhase { s1 with xlate := { s1.xlate with epoch := t + 1 } } c.uid (.draining t))

/-- Two ranges share a byte. -/
def overlap (a n b m : Nat) : Bool := decide (a < b + m) && decide (b < a + n)

/-- A context slot that an INVALIDATE covers. -/
def invalSlot (s : State) (d : BitVec 512) (slot : Nat) : Bool :=
  match field d 128 2 with
  | 3 => true
  | 2 => (ctxAt s slot).fold == tagFold (targetTag d)
  | _ => slot == tagSlot (targetTag d)

/-- The entries an INVALIDATE purges; a leaf that overlaps the range in any byte goes whole (R159). -/
def invalPurge (d : BitVec 512) (s : State) : State :=
  let inRange := fun (va n : Nat) => field d 128 2 != 0 || overlap va n (field d 448 64) (4096 * field d 416 32)
  purge (fun e => invalSlot s d e.slot && inRange e.va e.size)
    (fun w => invalSlot s d w.slot && inRange w.va (2 ^ (12 + 9 * (w.level - 1)))) s

/-- The arguments of INVALIDATE are valid (R159). -/
def invalOk (s : State) (d : BitVec 512) : Bool :=
  match field d 128 2 with
  | 0 => tagLive s (targetTag d) && field d 448 64 % 4096 == 0 && field d 416 32 != 0
  | 1 => tagLive s (targetTag d)
  | 2 => foldExists s (tagFold (targetTag d))
  | _ => true

def startInvalidate (c : Cmd) (s : State) : State :=
  if !invalOk s c.desc then rangeEnd c s else invalRun c (invalPurge c.desc) s

/-- MAP_UPDATE WINDOW replaces the entry where an invalidation purges. -/
def windowReplace (d : BitVec 512) (s : State) : State :=
  modFold s (tagFold (targetTag d)) fun f => { f with windows := Tab.set 0 f.windows (field d 448 11) (arg1 d) }

def startWindow (c : Cmd) (s : State) : State :=
  if !foldExists s (tagFold (targetTag c.desc)) then rangeEnd c s else invalRun c (windowReplace c.desc) s

/-! ### Resolving page faults (R163) -/

/-- A command was switched out on a page fault or parked. A tile that stalls on a segment was not (R151). -/
def waitsOnFault (c : Cmd) : Bool :=
  match c.phase with
  | .faulted _ => true
  | .parked => true
  | _ => false

/-- Look a requester up again: a task is pre-translated anew, ahead of its class (R164), or its engine goes on; a group issues its instruction
again; a MOVE goes on at its page, and so does the reading of a launch's output; a fence or reservoir command is tried again. -/
def lookupAgain (r : Requester) (s : State) : State :=
  match r with
  | .task uid => modCmd s uid fun c => if waitsOnFault c then { c with phase := .accepted, moved := 1 } else c
  | .group t =>
    (match groupAt s t with
      | some g => (match g.wait with
        | .fault _ => setGroup t { g with wait := .none } s
        | .parked => setGroup t { g with wait := .none } s
        | _ => s)
      | none => s)
  | .move uid =>
    (match cmdAt s uid with
      | some c =>
        if opcodeOf c.desc = 2 then launchFinish uid (setPhase s uid .launched)
        else if opcodeOf c.desc = 3 then resumeMove c s
        else setPhase s uid .busy
      | none => s)
  | .fence uid =>
    match cmdAt s uid with
    | some c => if opcodeOf c.desc = 5 then evalWait uid s else setPhase s uid .accepted
    | none => s

/-- A gang that cannot read its argument block has no program counter of its own yet: its launch traps at the first
instruction (R109, R138; log entry 60). -/
def argTrap (core gang detail : Nat) (c : Cmd) (s : State) : State :=
  noteTrap c.uid {
    detail := detail, pc := hlCode c.desc, gang := gang, group := 0, lanes := 0, imm := 0, master := coreMaster core,
    time := now s } s

/-- A group that the driver fails traps; one whose gang is not placed stands on the first core its launch may use. -/
def failGroup (t : GroupRef) (s : State) : State :=
  match gangAt s t.launch t.gang, cmdAt s t.launch with
  | some _, _ => trapGroup t trTranslation 0 s
  | none, some c =>
    argTrap (8 * (launchHalves s (tagFold c.tag) (hlMask c.desc)).headD 0) t.gang trTranslation c s
  | none, none => s

/-- End a requester that the driver fails. -/
def failWaiter (r : Requester) (s : State) : State :=
  match r with
  | .task uid => complete uid (.broken stTranslation) (endHolder (.task uid) s)
  | .group t => failGroup t s
  | .move uid => complete uid (.broken stTranslation) s
  | .fence uid => complete uid (.plain stTranslation) s

/-- Parked requesters are looked up again when an entry frees. -/
def retryParked (s : State) : State :=
  forEach (s.xlate.parked.map fun p => p.1) lookupAgain { s with xlate := { s.xlate with parked := [] } }

/-- RESOLVE (R163): a stale identifier has no effect. -/
def resolveFault (id : Nat) (fail : Bool) (s : State) : State :=
  match s.xlate.pending.find? fun e => e.idx == id % 256 && e.seq.toNat == id / 256 with
  | none => s
  | some e => retryParked (forEach e.waiters (if fail then failWaiter else lookupAgain) (freePending e.idx s))

def startResolve (c : Cmd) (s : State) : State :=
  success c (resolveFault (field c.desc 448 16) (bitAt (arg1 c.desc) 0) s)

/-- MAP_UPDATE by its function; one not listed completes with RANGE (R158). -/
def startMapUpdate (c : Cmd) (s : State) : State :=
  match mapFunc c.desc with
  | 1 => startSetRoot c s
  | 2 => startFrameOwn c s
  | 3 => startWindow c s
  | 4 => startResolve c s
  | _ => rangeEnd c s

/-! ### Ending work (R165, R422) -/

/-- The digest flags of a command ended without its output: fences, semaphores and MARK have none (R373, R374). -/
def endedDone (c : Cmd) (st : Byte) : Done :=
  let op := opcodeOf c.desc
  if op = 4 ∨ op = 5 ∨ op = 6 ∨ op = 7 ∨ op = 0x0C then .plain st else .broken st

/-- One request more of a slot and generation is abandoned (R183). -/
def countAbandoned (t : W16) (s : State) : State :=
  modCtx s (tagSlot t) fun c =>
    { c with abandoned := Tab.set 0 c.abandoned (tagGen t) (Tab.get 0 c.abandoned (tagGen t) + 1) }

/-- Mark the requests of commands to this instance's memories as abandoned (R183, R432). -/
def abandonLocal (uids : List Nat) (s : State) : State :=
  let hit := fun (r : Req) => uids.contains r.uid && !r.abandoned
  forEach (s.xlate.reqs.filter hit) (fun r s => countAbandoned r.tag s)
    { s with xlate := { s.xlate with reqs := s.xlate.reqs.map fun r => if hit r then { r with abandoned := true } else r } }

/-- Remote requests of commands are no longer resent and release their hold (R183, R422, R432). -/
def abandonRemote (uids : List Nat) (s : State) : State :=
  forEach (List.range 16) (fun n s =>
    let far := fun (e : E2E) => uids.contains e.uid && !e.abandoned
    let es := (foldAt s n).unacked.filter far
    let s2 := forEach es (fun e s => endHolder (.remote n e.seq) (countAbandoned e.tag s)) s
    if es.isEmpty then s2
    else
      let drop := fun (e : E2E) => if far e then { e with abandoned := true, sentAt := now s } else e
      modFold s2 n fun f => { f with unacked := f.unacked.map drop }) s

/-- Mark the requests of commands as abandoned, counted against their slot and generation (R183, R422). -/
def abandonRequests (uids : List Nat) (s : State) : State := abandonRemote uids (abandonLocal uids s)

/-- The half-groups that a launch's gangs stand on may need a reset when a drain limit stops them (R422). -/
def markHalves (uid : Nat) (s : State) : State :=
  forEach ((s.herd.gangs.filter fun g => g.launch == uid).map fun g => g.core / 8).dedup
    (fun h s => setHalf s h { halfAt s h with abandoned := true, resetAt := now s }) s

/-- End one command with a status: a tile in an array is abandoned and its engine awaits a reset; a launch's gangs stop. -/
def endCmd (st : Byte) (uid : Nat) (s : State) : State :=
  match cmdAt s uid with
  | none => s
  | some c =>
    let s0 := match s.engines.find? fun p => p.2.tile == some uid with
      | some p => modEngine s p.1 fun x => { x with tile := none, blocked := true, abandoned := true, resetAt := now s }
      | none => dropGangs uid (markHalves uid s)
    complete uid (endedDone c st) (endHolder (.task uid) s0)

/-- What the drain limit does to the work of a sluice (R422). -/
def abortWork (uids : List Nat) (s : State) : State :=
  refreshBoosts (forEach uids (endCmd stAborted) (abandonRequests uids s))

/-- How a requester ends when its context is torn down (R165). -/
def tornWaiter (r : Requester) (s : State) : State :=
  match r with
  | .task uid => complete uid (.broken stFenced) s
  | .group t => abortLaunch t.launch stAborted s
  | .move uid => complete uid (.broken stAborted) s
  | .fence uid => complete uid (.plain stFenced) s

/-- The context of a requester's command. -/
def requesterTag (s : State) (r : Requester) : W16 :=
  match r with
  | .task uid => tagOfCmd s uid
  | .group t => tagOfCmd s t.launch
  | .move uid => tagOfCmd s uid
  | .fence uid => tagOfCmd s uid

/-- Close the pending faults of a context without a new record; a record not yet written keeps its place in line. -/
def closeFaults (tag : W16) (s : State) : State :=
  let mine := s.xlate.pending.filter fun e => e.tag == tag
  let s1 := forEach mine (fun e s =>
    let s0 := freePending e.idx s
    if e.written then s0
    else
      { s0 with faults := { s0.faults with
          waitingB := s0.faults.waitingB ++ [recordOf e],
          unacked := movePlace (.pendingEntry e.idx) .waitingB s0.faults.unacked } }) s
  let gone := s1.xlate.parked.filter fun p => requesterTag s1 p.1 == tag
  let s2 := { s1 with xlate := { s1.xlate with parked := s1.xlate.parked.filter fun p => requesterTag s1 p.1 != tag } }
  let s3 := forEach (mine.flatMap fun e => e.waiters) tornWaiter s2
  let s4 := forEach (gone.map fun p => p.1) tornWaiter s3
  if mine.isEmpty then s4 else retryParked s4

/-! ### Contexts -/

/-- Contexts of a fold that are not FREE. -/
def ctxCount (s : State) (n : Nat) : Nat := (s.ctxs.filter fun p => p.2.state != .free && p.2.fold == n).length

/-- A slot that a create may take: FREE, and no abandoned request of its generation left (R183). -/
def slotReady (s : State) (i : Nat) : Bool :=
  (ctxAt s i).state == .free && Tab.get 0 (ctxAt s i).abandoned (ctxAt s i).gen == 0

/-- CONTEXT_CREATE (R181). -/
def startCreate (c : Cmd) (s : State) : State :=
  let d := c.desc
  let n := field d 400 4
  let any := bitAt d 406
  let want := field d 407 9
  if !foldExists s n || (foldAt s n).live.role == 1 || field d 448 64 % 8 != 0 ||
      (!any && (ctxAt s want).state != .free) then rangeEnd c s
  else if (foldAt s n).live.ctxQuota ≠ 0 ∧ (foldAt s n).live.ctxQuota.toNat ≤ ctxCount s n then
    complete c.uid (.plain stSlots) s
  else
    match (if any then lowest 512 (slotReady s) else if slotReady s want then some want else none) with
    | none => complete c.uid (.plain stSlots) s
    | some i =>
      let x := ctxAt s i
      let s1 := setCtx s i { x with
        state := .live, fold := n, lc := bitAt d 404, reproducible := bitAt d 405, root := none, pasid := 0,
        fenceList := bitsAt d 448 64, fenceLen := bitsAt d 416 32, model := none, lastDispatch := 0, sluiceClosed := false,
        drainUntil := none, boosted := false }
      complete c.uid { Done.plain stSuccess with result := BitVec.ofNat 32 (mkTag n i x.gen).toNat }
        (modFold s1 n fun f => { f with scrubbed := false })

/-- Abandon one entry of an owned-fence list (R186). -/
def abandonFence (tag : W16) (reason : Byte) (a : Nat) (s : State) : State :=
  if poisoned s 3 a 8 then raiseData 0x43 a hostMaster tag s
  else
    let pa := ofLe (hostRead s a 8)
    if pa = 0 then s
    else
      match decodePa s pa with
      | .loc mem off =>
        if poisoned s mem off 16 then raiseData (if mem = 3 then 0x43 else 0x42) pa hostMaster tag s
        else
          let (bs, s1) := memBytes mem off 16 s
          if fsOwner (BitVec.ofNat 128 (ofLe bs)) = tag.toNat then
            wakeWaits (BitVec.ofNat 64 pa) (memStore mem (off + 12) [reason, 1] s1)
          else s1
      | _ => s

/-- The next generation of a slot: slot 0 never takes 0 (R182). -/
def nextGen (slot gen : Nat) : Nat := if slot = 0 ∧ gen = 7 then 1 else (gen + 1) % 8

/-- Steps 3 to 5 of teardown (R183): units return, fences are abandoned, the generation advances, the slot is FREE. -/
def freeCtx (slot : Nat) (reason : Byte) (s : State) : State :=
  let c := ctxAt s slot
  let tag := mkTag c.fold slot c.gen
  let s1 := returnUnits tag s
  let s2 := if c.fenceList = 0 then s1
    else forEach (List.range c.fenceLen.toNat) (fun i s => abandonFence tag reason (c.fenceList.toNat + 8 * i) s) s1
  let x := ctxAt s2 slot
  purgeSlot slot (setCtx s2 slot { Ctx.reset with gen := nextGen slot c.gen, abandoned := x.abandoned })

/-- A holder counts as work: it is no request that was abandoned at the drain limit (R183). -/
def holderWorks (s : State) (h : Holder) : Bool :=
  match h.owner with
  | .request id => s.xlate.reqs.any fun r => r.id == id && !r.abandoned
  | _ => true

/-- Work of a context is left: commands, translation holds, or requests not yet answered (R183, step 2). -/
def ctxBusy (s : State) (tag : W16) : Bool :=
  s.cmds.any (fun c => c.tag == tag) || s.xlate.holders.any fun h => h.tag == tag && holderWorks s h

/-- A held task of a torn-down context completes with ABORTED_DRAIN (R427). -/
def endHeld (tag : W16) (s : State) : State :=
  forEach (cmdsWhere s fun c => c.tag == tag && (match c.phase with | .held .. => true | _ => false))
    (endCmd stAborted) s

/-- CONTEXT_TEARDOWN, step 1 (R183); steps 3 to 5 follow when the context has drained. -/
def startTeardown (c : Cmd) (s : State) : State :=
  let t := targetTag c.desc
  if !tagOpen s t then rangeEnd c s
  else
    let slot := tagSlot t
    let s1 := modCtx (closeCtx slot stFenced s) slot fun x => { x with state := .closing }
    setPhase (endHeld t (closeFaults t s1)) c.uid (.teardown slot)

/-- The CONTEXT_TEARDOWN of a slot. -/
def teardownOf (s : State) (slot : Nat) : Option Cmd := s.cmds.find? fun c => c.phase == .teardown slot

/-- The context has drained: teardown goes on (R183). A fence list in host memory needs the link. -/
def teardownEnd (slot : Nat) (s : State) : State :=
  let x := ctxAt s slot
  match teardownOf s slot with
  | none => s
  | some c =>
    if x.state = .closing ∧ !ctxBusy s (mkTag x.fold slot x.gen) ∧ (x.fenceLen = 0 ∨ linkUp s) then
      success c (freeCtx slot 1 s)
    else s

end Sys2Proof.Machine
end

