-- ==== Sys2Proof/Machine/TileMath.lean ====
section
/-! DEFINITION. The arithmetic of a tile task: its descriptor (R82), tensor headers and layouts (R75-R81, R39), the checks of
R84, products and accumulation (R43-R51, R58-R62, R72), and the epilogue up to the bytes written (R63-R65, R88-R91, R509). -/

namespace Sys2Proof.Machine

/-! ### The TILE_TASK descriptor (R82) -/

def tlM (d : BitVec 512) : Nat := 128 * field d 500 12
def tlN (d : BitVec 512) : Nat := 128 * field d 488 12
def tlK0 (d : BitVec 512) : Nat := 32 * field d 469 19
def tlSlice (d : BitVec 512) : Nat := 32 * (field d 450 19 + 1)
def tlScale (d : BitVec 512) : W32 := bitsAt d 416 32
def tlClampLo (d : BitVec 512) : Nat := field d 400 16
def tlClampHi (d : BitVec 512) : Nat := field d 384 16
def tlFmtA (d : BitVec 512) : Nat := field d 379 5
def tlFmtB (d : BitVec 512) : Nat := field d 374 5
def tlFmtOut (d : BitVec 512) : Nat := field d 369 5
def tlFixed (d : BitVec 512) : Int := signed 10 (field d 359 10)
def tlKTotal (d : BitVec 512) : Nat := field d 335 24 + 1
def tlHdrC (d : BitVec 512) : Nat := field d 256 64
def tlHdrB (d : BitVec 512) : Nat := field d 192 64
def tlHdrA (d : BitVec 512) : Nat := field d 128 64
def tlEngine (d : BitVec 512) : Nat := field d 76 20
def tlRepro (d : BitVec 512) : Bool := bitAt d 75
def tlHeaderMode (d : BitVec 512) : Bool := bitAt d 74
def tlAccIn (d : BitVec 512) : Bool := bitAt d 73
def tlBiasEn (d : BitVec 512) : Bool := bitAt d 71
def tlClampEn (d : BitVec 512) : Bool := bitAt d 70
def tlBiasFmt (d : BitVec 512) : Nat := field d 68 2
def tlReduce (d : BitVec 512) : Bool := bitAt d 67
def tlFin (d : BitVec 512) : Bool := bitAt d 66

/-- The scheduler chooses (R207). -/
def anyEngine : Nat := 0xFFFFF

/-- The task modifies memory it also reads (R83, R112, R190). -/
def isInPlace (d : BitVec 512) : Bool :=
  bitAt d 72 || (opcodeOf d == 1 && (tlAccIn d || tlReduce d)) || (opcodeOf d == 3 && mvOp d == 2)

/-! ### Formats (R75-R77) -/

/-- Code of the ledger container. -/
def fmtContainer : Nat := 0x0B

/-- The element format of a code; none for the container and for reserved codes. -/
def tileFmt (code : Nat) : Option CvtFmt :=
  match code with
  | 0x00 => some .fp32 | 0x01 => some .bf16 | 0x02 => some .fp16 | 0x03 => some .e4m3 | 0x04 => some .e5m2
  | 0x05 => some .e2m3 | 0x06 => some .e3m2 | 0x07 => some .e2m1 | 0x08 => some .int8 | 0x09 => some .int4
  | 0x0A => some .int32 | 0x13 => some .e4m3 | 0x14 => some .e5m2 | 0x15 => some .e2m3 | 0x16 => some .e3m2
  | 0x17 => some .e2m1 | _ => none

def isMx (code : Nat) : Bool := decide (0x13 ≤ code)

/-- Bits of an element in memory (R79). -/
def codeBits (code : Nat) : Nat := if code = fmtContainer then 256 else match tileFmt code with | some f => cvtBits f | none => 8

def smallFp (code : Nat) : Bool := (decide (3 ≤ code) && decide (code ≤ 7)) || (decide (0x13 ≤ code) && decide (code ≤ 0x17))
def smallInt (code : Nat) : Bool := code == 8 || code == 9

/-- The pairings of R76. -/
def pairing (a b : Nat) : Bool :=
  (a == 1 && b == 1) || (a == 2 && b == 2) || (smallFp a && smallFp b) || (smallInt a && smallInt b)

def outputOk (code : Nat) : Bool := code == fmtContainer || (code != 9 && (tileFmt code).isSome)

/-- An integer task (R62). -/
def tlInteger (d : BitVec 512) : Bool := !tlFin d && smallInt (tlFmtA d) && smallInt (tlFmtB d)
/-- Floating-point operands in fast mode (R44). -/
def tlFast (d : BitVec 512) : Bool := !tlFin d && !tlRepro d && !tlInteger d

/-- Beats of a tile (R72): elements per beat are 2, 1, 1/2 or 1/4. -/
def tlBeats (d : BitVec 512) (k : Nat) : Nat :=
  if tlFin d then 0
  else
    let nibble := fun c => c == 7 || c == 0x17 || c == 9
    if nibble (tlFmtA d) && nibble (tlFmtB d) then ceilDiv k 2
    else if tlFmtA d = 1 ∨ tlFmtA d = 2 then (if tlRepro d then 4 * k else 2 * k)
    else k

/-- Licences a task needs (R77, R451). -/
def licenceOk (s : State) (d : BitVec 512) : Bool :=
  let fp4 := fun c => c == 7 || c == 0x17
  (!(fp4 (tlFmtA d) || (!tlFin d && fp4 (tlFmtB d)) || fp4 (tlFmtOut d)) || bitAt s.ident.features 0) &&
    (!(tlRepro d && !tlFin d && (tlFmtA d == 1 || tlFmtA d == 2)) || bitAt s.ident.features 1)

/-! ### Tensor headers (R78) -/

def thData (h : BitVec 512) : Nat := field h 0 64
def thScaleBase (h : BitVec 512) : Nat := field h 64 64
def thCols (h : BitVec 512) : Nat := field h 128 32
def thRows (h : BitVec 512) : Nat := field h 160 32
def thScaleStride (h : BitVec 512) : Nat := field h 192 32
def thStride (h : BitVec 512) : Nat := field h 224 32
def thBound (h : BitVec 512) : Int := signed 32 (field h 288 32)
def thBias (h : BitVec 512) : Nat := field h 320 64

/-- Headers of A, B and C. -/
structure Headers where
  a : BitVec 512
  b : BitVec 512
  c : BitVec 512
  deriving DecidableEq, Repr

/-- The first element past the K slice (R82). -/
def sliceEnd (d : BitVec 512) (h : Headers) : Nat := min (tlK0 d + tlSlice d) (thCols h.a)
def sliceLen (d : BitVec 512) (h : Headers) : Nat := sliceEnd d h - tlK0 d

/-- Rows and columns of the tile (R71). -/
def tileRows (d : BitVec 512) (h : Headers) : Nat := min 128 (thRows h.c - tlM d)
def tileCols (d : BitVec 512) (h : Headers) : Nat := min 128 (thCols h.c - tlN d)

/-- Layout fields of one header obey R78. -/
def layoutOk (h : BitVec 512) (code : Nat) : Bool :=
  thData h % 256 == 0 && thStride h % 64 == 0 &&
    (if isMx code then thScaleBase h % 64 == 0 && thScaleStride h % 64 == 0
     else thScaleBase h == 0 && thScaleStride h == 0)

def boundOk (h : BitVec 512) : Bool := decide (-512 ≤ thBound h) && decide (thBound h ≤ 511)

/-- The header bounds are judged against the elements loaded, whatever the anchor mode (R59); an integer task and a
finalisation read none (R62, R90). -/
def judgesBounds (d : BitVec 512) : Bool := !tlFin d && !tlInteger d

/-- The header bounds give the anchor: header mode (R58). -/
def readsBounds (d : BitVec 512) : Bool := tlHeaderMode d && judgesBounds d

/-- BF16 clamp bounds in order and not NaN. -/
def clampOk (d : BitVec 512) : Bool :=
  let lo := FpFmt.bf16.decode (tlClampLo d)
  let hi := FpFmt.bf16.decode (tlClampHi d)
  !lo.isNan && !hi.isNan && Val.cmp lo hi != .gt

/-- The checks of R84 that need no header: 0x01 in part, 0x02, 0x05, 0x06, 0x08, judged in this order and before those on the headers
(DESIGN CHOICE: the manual gives no order; log entry 112). acc_in with an FP32 output counts as fast mode only with products: with
fin_only = 1 it fails 0x06 (DESIGN CHOICE; log entry 113). -/
def descCheck (d : BitVec 512) : Option Nat :=
  let out := tlFmtOut d
  if tlHdrA d % 64 ≠ 0 ∨ tlHdrC d % 64 ≠ 0 ∨ (!tlFin d ∧ tlHdrB d % 64 ≠ 0) then some 0x01
  else if !outputOk out || (if tlFin d then tlFmtA d != fmtContainer else !pairing (tlFmtA d) (tlFmtB d)) then some 0x02
  else if (out == fmtContainer && !((tlInteger d || tlRepro d) && tlScale d == 0x3F800000 && !tlClampEn d)) ||
      (isMx out && tlClampEn d) || (tlClampEn d && !clampOk d) then some 0x05
  else if ((tlAccIn d || tlReduce d) && out != fmtContainer && !(tlAccIn d && !tlReduce d && out == 0 && tlFast d)) ||
      (tlAccIn d && tlReduce d) then some 0x06
  else if bitAt d 64 || field d 448 2 != 0 || field d 320 15 != 0 || field d 0 12 != 0 || tlBiasFmt d == 3 then some 0x08
  else none

/-- The checks of R84 on the headers: 0x01, 0x03, 0x04 (in this order: log entry 112). -/
def headerCheck (d : BitVec 512) (h : Headers) : Option Nat :=
  let fin := tlFin d
  if !layoutOk h.a (tlFmtA d) || (!fin && !layoutOk h.b (tlFmtB d)) || !layoutOk h.c (tlFmtOut d) ||
      (tlBiasEn d && thBias h.c % 64 != 0) || (readsBounds d && !(boundOk h.a && boundOk h.b)) then some 0x01
  else if thRows h.c ≠ thRows h.a ∨ thRows h.c ≤ tlM d ∨ thCols h.c ≤ tlN d ∨
      (if fin then thCols h.c ≠ thCols h.a else thCols h.a ≠ thCols h.b ∨ thCols h.c ≠ thRows h.b ∨ thCols h.a ≤ tlK0 d) ∨
      (isMx (tlFmtA d) ∧ thCols h.a % 32 ≠ 0) ∨ (!fin ∧ isMx (tlFmtB d) ∧ thCols h.b % 32 ≠ 0) ∨
      (isMx (tlFmtOut d) ∧ thCols h.c % 32 ≠ 0) then some 0x03
  else if tlHeaderMode d && !fin && decide (tlKTotal d < sliceEnd d h) then some 0x04
  else none

/-! ### Where the bytes lie (R79) -/

/-- Bytes of n elements. -/
def spanBytes (code n : Nat) : Nat := ceilDiv (n * codeBits code) 8

/-- Address of element c of row r. -/
def elemAddr (h : BitVec 512) (code r c : Nat) : Nat := thData h + r * thStride h + c * codeBits code / 8

/-- Address of the scale of the block that holds element c of row r. -/
def scaleAddr (h : BitVec 512) (r c : Nat) : Nat := thScaleBase h + r * thScaleStride h + c / 32

/-- Data and scale ranges of elements [c, c + n) of row r. -/
def rowRanges (h : BitVec 512) (code r c n : Nat) : List (Nat × Nat) :=
  (elemAddr h code r c, spanBytes code n) :: (if isMx code then [(scaleAddr h r c, ceilDiv n 32)] else [])

/-- K elements of a segment, by the wider operand format (R86). -/
def segElems (d : BitVec 512) : Nat :=
  match max (codeBits (tlFmtA d)) (codeBits (tlFmtB d)) with
  | 16 => 1024
  | 4 => 4096
  | _ => 2048

/-- Segments of a task's operands; the containers that a finalisation reads fill one half of the buffer (R86, R90). -/
def segCount (d : BitVec 512) (h : Headers) : Nat := if tlFin d then 1 else max 1 (ceilDiv (sliceLen d h) (segElems d))

/-- The ranges of segment j: rows of A, rows of B and their scales over its run of K (R86). -/
def segRanges (d : BitVec 512) (h : Headers) (j : Nat) : List (Nat × Nat) :=
  let rows := List.range (tileRows d h)
  let k0 := tlK0 d + j * segElems d
  let k := min (segElems d) (sliceEnd d h - k0)
  if tlFin d then rows.flatMap fun i => rowRanges h.a fmtContainer (tlM d + i) (tlN d) (tileCols d h)
  else (rows.flatMap fun i => rowRanges h.a (tlFmtA d) (tlM d + i) k0 k) ++
    (List.range (tileCols d h)).flatMap fun i => rowRanges h.b (tlFmtB d) (tlN d + i) k0 k

/-- What the epilogue reads: the bias, which a task with bias_en reads in whichever slice (log entry 111), and C when it is accumulated
(R88, R91). -/
def epiRanges (d : BitVec 512) (h : Headers) : List (Nat × Nat) :=
  (if tlBiasEn d then [(thBias h.c + tlN d * (if tlBiasFmt d = 0 then 4 else 2),
      tileCols d h * (if tlBiasFmt d = 0 then 4 else 2))] else []) ++
  (if tlAccIn d then (List.range (tileRows d h)).flatMap fun i =>
      rowRanges h.c (tlFmtOut d) (tlM d + i) (tlN d) (tileCols d h) else [])

/-- The parts of a task's reading: its segments in order, and as the last part what its epilogue reads. -/
def partRanges (d : BitVec 512) (h : Headers) (j : Nat) : List (Nat × Nat) :=
  if j < segCount d h then segRanges d h j else epiRanges d h

/-- The pieces of a part, in the order the movers fetch them (R267). -/
def partPieces (d : BitVec 512) (h : Headers) (j : Nat) : List (Nat × Nat) :=
  (partRanges d h j).flatMap fun r => beatsAt r.1 r.2

/-- The pieces of the parts before one. -/
def piecesTo (d : BitVec 512) (h : Headers) (j : Nat) : List (Nat × Nat) := (List.range j).flatMap (partPieces d h)

/-- Cut the bytes of pieces into ranges. -/
def takeRanges : List (Nat × Nat) → List (List Byte) → List (List Byte)
  | [], _ => []
  | r :: rest, ps =>
    let k := (beatsAt r.1 r.2).length
    (ps.take k).flatten :: takeRanges rest (ps.drop k)

/-- The bytes of the ranges of each part, from all pieces in order. -/
def partBufs (d : BitVec 512) (h : Headers) : List Nat → List (List Byte) → List (List (List Byte))
  | [], _ => []
  | j :: rest, ps =>
    let k := (partPieces d h j).length
    takeRanges (partRanges d h j) (ps.take k) :: partBufs d h rest (ps.drop k)

/-- The operand rows over the whole slice, and after them what the epilogue read: range r of every segment, joined. -/
def joinBufs (d : BitVec 512) (h : Headers) (ps : List (List Byte)) : List (List Byte) :=
  let n := segCount d h
  let parts := partBufs d h (List.range (n + 1)) ps
  let segs := parts.take n
  ((List.range (segRanges d h 0).length).map fun r => segs.flatMap fun x => x.getD r []) ++ parts.getD n []

/-- Rows of A, rows of B, the bias, and C when it is accumulated, as ranges. With bias_en the bias is read whichever slice of k the
task computes (DESIGN CHOICE: R91 is silent on a slice without k = 0; log entry 111). -/
def readRanges (d : BitVec 512) (h : Headers) : List (Nat × Nat) := (List.range (segCount d h + 1)).flatMap (partRanges d h)

/-- What the task writes: C's rows, and the bound and sat_count words of C's header. -/
def writeRanges (d : BitVec 512) (h : Headers) : List (Nat × Nat) :=
  ((List.range (tileRows d h)).flatMap fun i => rowRanges h.c (tlFmtOut d) (tlM d + i) (tlN d) (tileCols d h)) ++
    (if tlFmtOut d = fmtContainer then [] else [(tlHdrC d + 32, 8)])

/-! ### Elements -/

/-- The n elements of a byte string, packed as R39 and R79 say. -/
def unpackRow (code n : Nat) (bs : List Byte) : List Nat :=
  let w := codeBits code
  let v := ofLe bs
  (List.range n).map fun i => (v >>> (w * i)) % 2 ^ w

/-- The bytes of packed elements. -/
def packRow (code : Nat) (xs : List Nat) : List Byte :=
  let w := codeBits code
  leBytes (spanBytes code xs.length) (xs.zipIdx.foldl (fun a x => a + (x.1 % 2 ^ w) <<< (w * x.2)) 0)

/-- Values of a row slice that starts at element c. -/
def rowVals (code c n : Nat) (data scales : List Byte) : List Val :=
  match tileFmt code with
  | none => []
  | some f =>
    (unpackRow code n data).zipIdx.map fun x =>
      let v := cvtDecode f x.1
      if isMx code then mxValue (scales.getD ((c + x.2) / 32 - c / 32) 0) v else v

/-! ### Accumulation -/

/-- Add values one by one in FP32, in an order and grouping the draws choose (R44). -/
def fastSum (draw : Nat → Nat) : Nat → List Val → Val
  | 0, l => l.getD 0 (.fin false 0 0)
  | n + 1, l =>
    if l.length ≤ 1 then l.getD 0 (.fin false 0 0)
    else
      let i := draw (2 * n) % l.length
      let l1 := l.eraseIdx i
      let j := draw (2 * n + 1) % l1.length
      fastSum draw n (fastAdd (l.getD i .nan) (l1.getD j .nan) :: l1.eraseIdx j)

/-- An accumulator: a ledger, or an FP32 value in fast mode. -/
inductive Acc where
  | led (l : Ledger)
  | fp (v : Val)
  deriving DecidableEq, Repr

/-- The anchor of a task, and RANGE from its clamp (R57, R58, R61, R62). -/
def tileAnchor (d : BitVec 512) (h : Headers) : Int × Bool :=
  if tlInteger d then (96, false)
  else if tlHeaderMode d then headerAnchor (thBound h.a) (thBound h.b) (tlKTotal d)
  else (tlFixed d, false)

/-- The ledger of one element: every product placed, bounds judged (R48, R59). -/
def tileLedger (d : BitVec 512) (h : Headers) (xs ys : List Val) : Ledger :=
  let (a, clamped) := tileAnchor d h
  let l := (List.zipWith Val.mul xs ys).foldl Ledger.accumulate (Ledger.empty a)
  let broken := judgesBounds d &&
    (xs.any (fun v => breaksBound v (thBound h.a)) || ys.any fun v => breaksBound v (thBound h.b))
  if clamped || broken then l.raise flRange else l

/-- One element's accumulator after its products. -/
def tileAcc (d : BitVec 512) (h : Headers) (draw : Nat → Nat) (xs ys : List Val) : Acc :=
  if tlFast d then .fp (fastSum draw xs.length (.fin false 0 0 :: List.zipWith Val.mul xs ys))
  else .led (tileLedger d h xs ys)

/-- Step 1 of R91: the contents of C (R88). -/
def accumulateIn (old : List Byte) : Acc → Acc
  | .led l => .led (l.add (ledgerOfBytes old))
  | .fp v => .fp (fastAdd v (ofFp32 (BitVec.ofNat 32 (ofLe old))))

/-- Step 2 of R91: one bias term; an integer task sets no TRUNC (R62). -/
def addBias (integer : Bool) (b : Val) : Acc → Acc
  | .led l =>
    let l1 := l.accumulate b
    .led (if integer then { l1 with flags := if l.has flTrunc then l1.flags else clearBit l1.flags flTrunc } else l1)
  | .fp v => .fp (fastAdd v b)

def biasVal (fmt : Nat) (bs : List Byte) (j : Nat) : Val :=
  match fmt with
  | 0 => ofFp32 (BitVec.ofNat 32 (ofLe ((bs.drop (4 * j)).take 4)))
  | 1 => FpFmt.bf16.decode (ofLe ((bs.drop (2 * j)).take 2))
  | _ => FpFmt.fp16.decode (ofLe ((bs.drop (2 * j)).take 2))

/-- The bias enters here (R91): at finalisation, or in the slice that holds k = 0. -/
def biasHere (d : BitVec 512) : Bool := tlBiasEn d && (tlFin d || tlK0 d == 0)

/-- The condition of an accumulator times the scale, and RANGE already set (R64, R509). -/
def scaledCondition (scale : W32) : Acc → Val × Bool
  | .led l => ((Val.mul l.condition.1 (ofFp32 scale)), l.condition.2)
  | .fp v => (Val.mul v (ofFp32 scale), false)

/-- One element as written: its bits, whether its task completes with RANGE, whether it counts as saturated. -/
structure OutElem where
  bits : Nat
  range : Bool
  sat : Bool
  deriving DecidableEq, Repr

/-- Step 4 of R91. A bound that is -0 or rounds to zero keeps its sign (DESIGN CHOICE: the step is silent on it; log entry 114). -/
def clampElem (f : CvtFmt) (lo hi : Nat) (x : OutElem) : OutElem :=
  let v := cvtDecode f x.bits
  let l := FpFmt.bf16.decode lo
  let u := FpFmt.bf16.decode hi
  if v.isNan then x
  else if Val.cmp v l = .lt then { x with bits := cvt f .nearest true l, sat := false }
  else if Val.cmp v u = .gt then { x with bits := cvt f .nearest true u, sat := false }
  else x

/-- Steps 3 and 4 of R91 for a plain format. -/
def plainElem (d : BitVec 512) (f : CvtFmt) (a : Acc) : OutElem :=
  let (v, r) := scaledCondition (tlScale d) a
  let (b, first, sat) := convertOut f v
  let x : OutElem := { bits := b, range := r || first, sat := sat }
  if tlClampEn d then clampElem f (tlClampLo d) (tlClampHi d) x else x

/-- One row as written: data bytes, scale bytes, RANGE, saturated elements, largest bound. -/
structure OutRow where
  data : List Byte
  scales : List Byte
  range : Bool
  sat : Nat
  bound : Option Int
  deriving DecidableEq, Repr

/-- The larger of two bounds. -/
def maxBound : Option Int → Option Int → Option Int
  | none, b => b
  | a, none => a
  | some a, some b => some (max a b)

def boundsOf (vs : List Val) : Option Int := vs.foldl (fun b v => maxBound b (boundOf v)) none

/-- Convert one row of accumulators (R64, R65, R81). -/
def tileOutRow (d : BitVec 512) (as : List Acc) : OutRow :=
  let code := tlFmtOut d
  match tileFmt code with
  | none =>
    { data := as.flatMap fun a => match a with | .led l => l.bytes | .fp _ => (Ledger.empty 0).bytes,
      scales := [], range := false, sat := 0, bound := none }
  | some f =>
    if isMx code then
      let cs := as.map (scaledCondition (tlScale d))
      let blocks := (List.range (ceilDiv as.length 32)).map fun i => mxBlock f (((cs.drop (32 * i)).take 32).map fun x => x.1)
      let vals := blocks.flatMap fun b => b.2.1.map fun x => mxValue b.1 (cvtDecode f x)
      { data := packRow code (blocks.flatMap fun b => b.2.1), scales := blocks.map fun b => b.1,
        range := cs.any fun x => x.2 || x.1.isNan, sat := (blocks.map fun b => b.2.2).sum, bound := boundsOf vals }
    else
      let es := as.map (plainElem d f)
      { data := packRow code (es.map fun e => e.bits), scales := [], range := es.any fun e => e.range,
        sat := (es.filter fun e => e.sat).length, bound := boundsOf (es.map fun e => cvtDecode f e.bits) }

end Sys2Proof.Machine
end

