-- ==== Sys2Proof/Machine/Models.lean ====
section
/-! DEFINITION. The model cache: MODEL_LOAD, MODEL_EVICT,
eviction, parking and reload (R216-R222). -/

namespace Sys2Proof.Machine

/-! ### The directory -/

def modelsOf (s : State) (n : Nat) : List Model := (foldAt s n).sched.models
def setModels (n : Nat) (ms : List Model) (s : State) : State :=
  modFold s n fun f => { f with sched := { f.sched with models := ms } }
def modelAt (s : State) (n : Nat) (id : W64) : Option Model := (modelsOf s n).find? fun m => m.id == id
def modModel (n : Nat) (id : W64) (g : Model → Model) (s : State) : State :=
  setModels n ((modelsOf s n).map fun m => if m.id == id then g m else m) s

/-- Slots of a fold's contexts bound to a model. -/
def boundTo (s : State) (n : Nat) (id : W64) : List Nat :=
  (s.ctxs.filter fun p => p.2.state != .free && p.2.fold == n && p.2.model == some id).map fun p => p.1

/-- A context has an accepted, incomplete command. -/
def ctxWorks (s : State) (slot : Nat) : Bool :=
  let x := ctxAt s slot
  s.cmds.any fun c => c.q != 0 && c.tag == mkTag x.fold slot x.gen

/-- A model is in use (R218). -/
def modelInUse (s : State) (n : Nat) (id : W64) : Bool := (boundTo s n id).any (ctxWorks s)

/-- Two homes share image bytes or pond units. -/
def homesOverlap (a b : BitVec 256) : Bool :=
  overlap (homeBase a) (homeLen a) (homeBase b) (homeLen b) || overlap (homePond a) (homePondLen a) (homePond b) (homePondLen b)

/-- Models that occupy a home overlapping a given one, other than the model being loaded there; a resident one of the same id is
what a load of another length replaces (R218). -/
def overlapping (s : State) (n h : Nat) (self : W64) : List Model :=
  let f := foldAt s n
  f.sched.models.filter fun m =>
    (m.state == 2 || (m.state == 1 && m.id != self)) && homesOverlap (homeOf f m.home) (homeOf f h)

/-- Evict a model: image and pond part are discarded (R219). -/
def evictModel (n : Nat) (id : W64) (s : State) : State :=
  modFold s n fun f => { f with sched := { f.sched with
    models := f.sched.models.filter fun m => m.id != id, evictions := f.sched.evictions + 1 } }

/-- The least recently dispatched model of a list. -/
def oldestModel (ms : List Model) : Option Model :=
  ms.foldl (fun o m => match o with
    | none => some m
    | some x => if m.lastDispatch.toNat < x.lastDispatch.toNat then some m else some x) none

/-- Is a context's bound model, if any, resident (R205, R218)? -/
def residencyOk (s : State) (tag : W16) : Bool :=
  match (ctxAt s (tagSlot tag)).model with
  | none => true
  | some id => match modelAt s (tagFold tag) id with
    | some m => m.state == 2
    | none => false

/-- A task of a context is dispatched: its context's and its model's last dispatch (R216, R220). -/
def noteDispatch (tag : W16) (s : State) : State :=
  let s1 := modCtx s (tagSlot tag) fun x => { x with lastDispatch := now s }
  match (ctxAt s (tagSlot tag)).model with
  | none => s1
  | some id => modModel (tagFold tag) id (fun m => { m with lastDispatch := now s }) s1

/-! ### Loading -/

def mlId (d : BitVec 512) : W64 := bitsAt d 448 64
def mlSrc (d : BitVec 512) : W64 := bitsAt d 384 64
def mlLen (d : BitVec 512) : Nat := field d 344 40
def mlHome (d : BitVec 512) : Nat := field d 338 6
def mlBind (d : BitVec 512) : Bool := bitAt d 337

/-- Write bytes at a physical address for a context, page by page. -/
def writePa (tag : W16) (pa : Nat) : List (Nat × Nat) → List Byte → State → Access × State
  | [], _, s => (.ok [], s)
  | (a, n) :: rest, bs, s =>
    match decodePa s a with
    | .loc mem off =>
      (match locWrite tag mem off (bs.take n) s with
        | (.ok _, s1) => writePa tag pa rest (bs.drop n) s1
        | r => r)
    | _ => (.refused, s)

def zeroPond (h : BitVec 256) (s : State) : State :=
  { s with pond := memZero s.pond (homePond h) (homePondLen h),
           poison := s.poison.filter fun p => !(p.1 == 0 && overlap (p.2 * 64) 64 (homePond h) (homePondLen h)) }

/-- Restore the lines ever written back from the pond backing (R221). -/
def restoreLines (tag : W16) (h : BitVec 256) (ls : List Nat) (s : State) : State :=
  forEach ls (fun l s =>
    match decodePa s (homePondBack h + l * 4096) with
    | .loc mem off =>
      let (bs, s1) := memBytes mem off 4096 s
      charge tag mem off 4096 false { s1 with pond := memWrite s1.pond (homePond h + l * 4096) bs }
    | _ => s) s

/-- Bind a context to a model. -/
def bindModel (tag : W16) (id : W64) (s : State) : State := modCtx s (tagSlot tag) fun x => { x with model := some id }

/-- What copying an image into a home comes to. -/
inductive Copied where
  | ok (digest : W64)
  | failed (st : Byte)
  | wait
  deriving DecidableEq, Repr

/-- One beat of an image: read from its source, written to its home; the digest's bytes are kept in `got`. -/
def copyBeat (c : Cmd) (src home k : Nat) (s : State) : Copied × State :=
  let at' := c.got.length
  let back := fun (bs : List Byte) (s : State) => forEach (beatsAt (src + at') k) (fun b s =>
    keepPart c.uid b.1 ((bs.drop (b.1 - (src + at'))).take b.2) s) s
  match fetchRange c (moverPlace c) (moverMaster c) (src + at') k s with
  | (.ok bs, s1) =>
    (match writePa c.tag (home + at') (pagesOf (home + at') k) bs (onBehalf c.uid (moverMaster c) s1) with
      | (.ok _, s2) => (.ok 0, onBehalfOfNone (modCmd s2 c.uid fun x => { x with got := x.got ++ bs }))
      | (.wait, s2) => (.wait, onBehalfOfNone (back bs s2))
      | (.refused, s2) =>
        (.failed stTranslation, raiseAccess (home + at') c.tag (moverMaster c) .write .access (onBehalfOfNone s2))
      | (.error d p, s2) => (.failed stDataError, raiseData d p (moverMaster c) c.tag (onBehalfOfNone s2)))
  | (.fault va k l, s1) => (.failed stTranslation, (onFault c.tag va k .read (moverMaster c) l none s1).2)
  | (.refused va k, s1) => (.failed stTranslation, raiseAccess va c.tag (moverMaster c) .read k s1)
  | (.error d p, s1) => (.failed stDataError, raiseData d p (moverMaster c) c.tag s1)
  | (_, s1) => (.wait, s1)

/-- Copy an image beat by beat, going on where a weir or a link made it wait. -/
def copyBeats (uid src len home : Nat) : Nat → State → Copied × State
  | 0, s => (.wait, s)
  | fuel + 1, s =>
    match cmdAt s uid with
    | none => (.wait, s)
    | some c =>
      if len ≤ c.got.length then (.ok (crc64 c.got), modCmd s uid fun x => { x with got := [] })
      else
        match copyBeat c src home (min (len - c.got.length) (256 - (home + c.got.length) % 256)) s with
        | (.ok _, s1) => copyBeats uid src len home fuel s1
        | r => r

/-- Copy an image from its source in the context's space to the home, and set the pond part (R218 step 5, R221). -/
def copyImage (c : Cmd) (n : Nat) (src : W64) (len h : Nat) (lines : List Nat) (s : State) : Copied × State :=
  let home := homeOf (foldAt s n) h
  match copyBeats c.uid src.toNat len (homeBase home) (len + 2) s with
  | (.ok dg, s1) => (.ok dg, restoreLines c.tag home lines (zeroPond home s1))
  | r => r

/-- A directory entry for a load: a free one, or that of an evicted model; none while every model not in use is loading (R219). A model
that no task has been dispatched for shows last_dispatch 0. -/
def takeEntry (c : Cmd) (s : State) : Option State :=
  let n := tagFold c.tag
  let m : Model := { id := mlId c.desc, home := mlHome c.desc, state := 1, length := mlLen c.desc, digest := 0,
                     src := mlSrc c.desc, loader := c.tag, lastDispatch := 0, written := [], saved := [] }
  let put := fun (s : State) => setModels n (modelsOf s n ++ [m]) s
  if (modelsOf s n).length < 64 then some (put s)
  else
    match oldestModel ((modelsOf s n).filter fun x => !modelInUse s n x.id && x.state != 1) with
    | none => none
    | some x => some (put (evictModel n x.id s))

/-- Models in use, or being loaded, that keep a home from a load or a reload. -/
def homeHeld (s : State) (n h : Nat) (self : W64) : Bool :=
  (overlapping s n h self).any fun m => modelInUse s n m.id || m.state == 1

/-- Steps 4 to 6 of R218. -/
def loadInto (c : Cmd) (s : State) : State :=
  let n := tagFold c.tag
  let id := mlId c.desc
  if homeHeld s n (mlHome c.desc) id then setPhase s c.uid .residency
  else
    let s1 := forEach ((overlapping s n (mlHome c.desc) id).map fun m => m.id) (evictModel n) s
    match copyImage c n (mlSrc c.desc) (mlLen c.desc) (mlHome c.desc) [] s1 with
    | (.ok dg, s2) =>
      let s3 := modModel n id (fun m => { m with state := 2, digest := dg }) s2
      complete c.uid (Done.withDigest dg) (if mlBind c.desc then bindModel c.tag id s3 else s3)
    | (.failed st, s2) =>
      complete c.uid (.broken st) (setModels n ((modelsOf s2 n).filter fun m => m.id != id) s2)
    | (.wait, s2) => setPhase s2 c.uid .residency

/-- The home and the length a MODEL_LOAD names are valid (log entry 33). -/
def loadArgsOk (s : State) (c : Cmd) : Bool :=
  let h := homeOf (foldAt s (tagFold c.tag)) (mlHome c.desc)
  homeValid h && mlLen c.desc != 0 && decide (mlLen c.desc ≤ homeLen h)

/-- A load takes its directory entry and goes on; with all 64 in use it completes with SLOTS_EXHAUSTED, and it waits while one is only
loading (R218 step 3, R219). -/
def loadNew (c : Cmd) (s : State) : State :=
  let n := tagFold c.tag
  match takeEntry c s with
  | some s1 => loadInto c s1
  | none =>
    if (modelsOf s n).all fun x => modelInUse s n x.id then complete c.uid (.plain stSlots) s
    else setPhase s c.uid .residency

/-- Start or retry a MODEL_LOAD (R218). -/
def startLoad (c : Cmd) (s : State) : State :=
  let n := tagFold c.tag
  let id := mlId c.desc
  if !loadArgsOk s c then rangeEnd c s else
  match modelAt s n id with
  | none => loadNew c s
  | some m =>
    if m.state = 1 ∧ m.loader = c.tag ∧ m.home = mlHome c.desc ∧ c.phase = .residency then loadInto c s
    else if m.home ≠ mlHome c.desc then rangeEnd c s
    else if m.state = 2 ∧ m.length = mlLen c.desc then
      let s1 := modFold s n fun f => { f with sched := { f.sched with hits := f.sched.hits + 1 } }
      complete c.uid (Done.withDigest m.digest) (if mlBind c.desc then bindModel c.tag id s1 else s1)
    else if m.state = 1 ∨ (m.state = 2 ∧ modelInUse (dropCmd s c.uid) n id) then setPhase s c.uid .residency
    else if m.state = 2 then loadNew c (evictModel n id s)
    else loadNew c (setModels n ((modelsOf s n).filter fun x => x.id != id) s)

/-- MODEL_EVICT (R222). -/
def startEvict (c : Cmd) (s : State) : State :=
  let n := tagFold c.tag
  let id := mlId c.desc
  match modelAt s n id with
  | none => success c s
  | some _ =>
    if (boundTo s n id).any fun i => i != tagSlot c.tag && ctxWorks s i then rangeEnd c s
    else
      let s1 := forEach (boundTo s n id) (fun i s => modCtx s i fun x => { x with model := none }) s
      success c (setModels n ((modelsOf s1 n).filter fun m => m.id != id) s1)

/-! ### Parking and reload (R220, R221) -/

/-- A command waits on a fence, a semaphore, a page fault or residency (R220); a load that copies waits on nothing of the kind. -/
def cmdWaits (s : State) (c : Cmd) : Bool :=
  match c.phase with
  | .waitFence .. => true
  | .reading true => true
  | .waitSem .. => true
  | .faulted _ => true
  | .parked => true
  | .residency => homeHeld s (tagFold c.tag) (mlHome c.desc) (mlId c.desc) ||
      (match modelAt s (tagFold c.tag) (mlId c.desc) with
        | some m => m.state == 1 && m.loader != c.tag
        | none => true)
  | .accepted => mayStart s c && !residencyOk s c.tag && (opcodeOf c.desc == 1 || opcodeOf c.desc == 2)
  | _ => false

/-- A command waits, or stands behind a wait in its queue. -/
def cmdBlocked (s : State) (c : Cmd) : Bool :=
  cmdWaits s c || (c.phase == .accepted && !mayStart s c &&
    s.cmds.any fun x => x.q == c.q && decide (x.uid < c.uid) && cmdWaits s x)

/-- A context is blocked (R220). -/
def ctxBlocked (s : State) (slot : Nat) : Bool :=
  let x := ctxAt s slot
  (s.cmds.filter fun c => c.q != 0 && c.tag == mkTag x.fold slot x.gen).all (cmdBlocked s)

/-- The home a waiting command needs: its own for a MODEL_LOAD, that of its context's parked model for a task. -/
def wantedHome (s : State) (c : Cmd) : Option (Nat × W64) :=
  if opcodeOf c.desc = 9 ∧ c.phase = .residency then some (mlHome c.desc, mlId c.desc)
  else
    match (ctxAt s (tagSlot c.tag)).model with
    | none => none
    | some id => match modelAt s (tagFold c.tag) id with
      | some m => if m.state = 3 then some (m.home, id) else none
      | none => none

/-- Write the written pond lines of a model to its backing, and mark it parked. -/
def parkModel (n : Nat) (id : W64) (s : State) : State :=
  match modelAt s n id with
  | none => s
  | some m =>
    let h := homeOf (foldAt s n) m.home
    let s1 := forEach m.written (fun l s =>
      match decodePa s (homePondBack h + l * 4096) with
      | .loc mem off => charge m.loader mem off 4096 true (memStore mem off (memRead s.pond (homePond h + l * 4096) 4096) s)
      | _ => s) s
    let s2 := modModel n id (fun x => { x with
      state := 3, saved := x.saved ++ x.written.filter fun l => !x.saved.contains l, written := [] }) s1
    modFold s2 n fun f => { f with sched := { f.sched with parks := f.sched.parks + 1 } }

/-- Contexts that use one of a list of models. -/
def usersOf (s : State) (n : Nat) (ms : List Model) : List Nat :=
  (ms.flatMap fun m => (boundTo s n m.id).filter (ctxWorks s)).dedup

/-- The context of a list whose latest dispatch is oldest. -/
def oldestCtx (s : State) (l : List Nat) : Option Nat :=
  l.foldl (fun o i => match o with
    | none => some i
    | some j => if (ctxAt s i).lastDispatch.toNat < (ctxAt s j).lastDispatch.toNat then some i else some j) none

/-- Steps 1 to 4 of R220. -/
def parkAll (n h : Nat) (self : W64) : Nat → State → State
  | 0, s => s
  | fuel + 1, s =>
    let used := (overlapping s n h self).filter fun m => modelInUse s n m.id
    match oldestCtx s (usersOf s n used) with
    | none => s
    | some i =>
      parkAll n h self fuel
        (forEach ((used.filter fun m => (ctxAt s i).model == some m.id).map fun m => m.id) (parkModel n) s)

/-- The condition of R220 holds for a waiting command. -/
def parkDue (s : State) (n h : Nat) (self : W64) : Bool :=
  let used := (overlapping s n h self).filter fun m => modelInUse s n m.id
  !used.isEmpty && (usersOf s n used).all (ctxBlocked s)

/-- Reload the parked model of a context that has a task ready apart from residency (R221). -/
def reloadFor (c : Cmd) (s : State) : State :=
  let n := tagFold c.tag
  match (ctxAt s (tagSlot c.tag)).model with
  | none => s
  | some id =>
    match modelAt s n id with
    | none => s
    | some m =>
      if m.state ≠ 3 then s else
      if homeHeld s n m.home id then s
      else
        let s1 := forEach ((overlapping s n m.home id).map fun x => x.id) (evictModel n) s
        match copyImage c n m.src m.length m.home m.saved s1 with
        | (.ok dg, s2) => modModel n id (fun x => { x with state := 2, digest := dg, written := [] }) s2
        | (.failed st, s2) =>
          complete c.uid (.broken st) (setModels n ((modelsOf s2 n).filter fun x => x.id != id) s2)
        | (.wait, s2) => s2

/-- A task or launch that would start but for residency. -/
def residencyWaits (s : State) (c : Cmd) : Bool :=
  (opcodeOf c.desc == 1 || opcodeOf c.desc == 2) && mayStart s c && !residencyOk s c.tag

/-- The event of MODEL_PARK for a command: park, then carry out the waiting load or reload. -/
def parkFor (n uid : Nat) (s : State) : State :=
  match cmdAt s uid with
  | none => s
  | some c =>
    if tagFold c.tag ≠ n then s else
    match wantedHome s c with
    | none => s
    | some (h, id) =>
      if !parkDue s n h id || (opcodeOf c.desc != 9 && !residencyWaits s c) then s
      else
        let s1 := parkAll n h id 512 s
        if opcodeOf c.desc = 9 then startLoad c s1 else reloadFor c s1

end Sys2Proof.Machine
end

