-- ==== Sys2Proof/Machine/Tile.lean ====
section
/-! DEFINITION. Tile tasks from readiness to completion: licences and checks (R77, R84, R85), the choice of an engine and its
dispatch queue (R95, R201, R204-R208), pre-translation (R86, R151, R164), the operand buffer and the movers that fill it (R17,
R86, R96), the start in the array, and the epilogue's writes, bound, count and digest (R88-R93, R98). -/

namespace Sys2Proof.Machine

/-! ### Engines (R400, R73, R206) -/

def mapOf (s : State) (e : Nat) : W16 := Tab.get 0 s.lmap.map e
def engineBound (s : State) (e : Nat) : Bool := bitAt (mapOf s e) 15
def enginePhys (s : State) (e : Nat) : Nat := field (mapOf s e) 0 5
def enginePlace (s : State) (e : Nat) : Nat := enginePhys s e / 4
/-- Master identity of an engine (R26). -/
def engineMaster (s : State) (e : Nat) : W16 := BitVec.ofNat 16 (0x1000 + enginePhys s e / 4 * 256 + enginePhys s e % 4)

/-- A fold's own engines, ascending: fold logical number i is element i. -/
def foldEngines (s : State) (n : Nat) : List Nat := bitList 32 (foldAt s n).live.engines

/-- The engine belongs to a fold. -/
def engineHeld (s : State) (e : Nat) : Bool :=
  (List.range 16).any fun n => foldExists s n && (foldAt s n).live.engines.getLsbD e

/-- The fold holds a latency-critical context (R95). -/
def holdsLc (s : State) (n : Nat) : Bool := s.ctxs.any fun p => p.2.state != .free && p.2.fold == n && p.2.lc

/-- The headers a task has read. -/
def hdrsOf (c : Cmd) : Headers :=
  { a := BitVec.ofNat 512 (ofLe (c.coll.acc.take 64)), b := BitVec.ofNat 512 (ofLe ((c.coll.acc.drop 64).take 64)),
    c := BitVec.ofNat 512 (ofLe ((c.coll.acc.drop 128).take 64)) }

def beatsOf (c : Cmd) : Nat := tlBeats c.desc (sliceLen c.desc (hdrsOf c))

/-- A best-effort tile deeper than the cap of R95; a boosted one is not subject to it (R212). -/
def beyondCap (s : State) (c : Cmd) : Bool := !cmdLc s c && holdsLc s (tagFold c.tag) && decide (256 < beatsOf c)

/-! ### Grazing windows (R198-R201) -/

def planCount (s : State) : Nat := if s.graze.activeBank = 0 then s.graze.count0.toNat else s.graze.count1.toNat
def planWindow (s : State) (w : Nat) : W64 := Tab.get 0 (if s.graze.activeBank = 0 then s.graze.bank0 else s.graze.bank1) w

/-- Start of a window in nanoseconds from the boundary, by the L in force (R197). -/
def windowStart (s : State) (w : Nat) : Nat := field (planWindow s w) 0 16 * s.tb.len.toNat / 65536

/-- Nanoseconds since the boundary. -/
def sinceBoundary (s : State) : Nat := (s.tb.cycle - s.tb.boundaryCycle) * 10

/-- End of a window: the start of the next. The last ends at the predicted boundary, and once that has passed at the latest time
that R364 leaves the boundary, L/8 later (R197; log entry 115). -/
def windowEnd (s : State) (w : Nat) : Nat :=
  if w + 1 < planCount s then windowStart s (w + 1)
  else if sinceBoundary s ≤ s.tb.len.toNat then s.tb.len.toNat else s.tb.len.toNat + s.tb.len.toNat / 8

/-- Cycles a tile occupies an engine for the fit of R201. -/
def fitCycles (c : Cmd) : Nat := beatsOf c + 254 + (if tlFmtOut c.desc = fmtContainer then 512 else 128)

/-- A tile fits between two times of the epoch (R201): cycles at CLK_ARR, plus 200 ns. -/
def fitsIn (s : State) (c : Cmd) (t0 t1 : Nat) : Bool :=
  decide (t0 * s.power.clkArr + fitCycles c * 1000 + 200 * s.power.clkArr ≤ t1 * s.power.clkArr)

/-- A window grants a fold a commons engine (R199, R201). -/
def granted (s : State) (w e n : Nat) : Bool :=
  !engineHeld s e && decide (e < s.lmap.licensed) && engineBound s e && !(foldAt s n).live.sealed &&
    bitAt (planWindow s w) (32 + e) && bitAt (planWindow s w) (16 + n)

/-- A commons engine may start a best-effort task now. -/
def commonsMay (s : State) (e : Nat) (c : Cmd) : Bool :=
  !cmdLc s c && tlEngine c.desc == anyEngine && granted s s.graze.window e (tagFold c.tag) &&
    fitsIn s c (sinceBoundary s) (windowEnd s s.graze.window)

/-! ### Placement (R206, R207) -/

/-- Engines that may take a task now; `named` is its fold logical number. -/
def eligible (s : State) (c : Cmd) (named : Option Nat) : List Nat :=
  let own := ((match named with
    | some i => ((foldEngines s (tagFold c.tag))[i]?).toList
    | none => foldEngines s (tagFold c.tag)).filter fun e => engineBound s e && !(engineAt s e).blocked)
  (if beyondCap s c then [] else own) ++
    (if named.isNone then (List.range 32).filter fun e => commonsMay s e c && !(engineAt s e).blocked else [])

/-- Entries of a dispatch queue of a class. -/
def lcEntries (s : State) (e : Nat) : Nat :=
  ((engineAt s e).queue.filter fun u => match cmdAt s u with | some c => cmdLc s c | none => false).length

/-- A free entry of the task's class: 8 in all, best-effort at most 6. -/
def entryFree (s : State) (e : Nat) (lc : Bool) : Bool :=
  let q := (engineAt s e).queue.length
  decide (q < 8) && (lc || decide (q - lcEntries s e < 6))

/-- Entries of the task's class or higher. -/
def entriesFor (s : State) (e : Nat) (lc : Bool) : Nat := if lc then lcEntries s e else (engineAt s e).queue.length

/-- The engine with the fewest such entries, ties to the lowest number. -/
def bestEngine (s : State) (lc : Bool) (l : List Nat) : Option Nat :=
  l.foldl (fun o e => match o with
    | none => some e
    | some x => if entriesFor s e lc < entriesFor s x lc then some e else if entriesFor s e lc = entriesFor s x lc ∧ e < x
      then some e else some x) none

/-- Put a task into a dispatch queue: latency-critical ahead of best-effort, in order of placement; a retried task ahead of
its class (R164, R206). -/
def enqueue (s : State) (c : Cmd) (e : Nat) : List Nat :=
  let q := (engineAt s e).queue
  let k := lcEntries s e
  if cmdLc s c then (if c.moved = 1 then c.uid :: q else q.take k ++ [c.uid] ++ q.drop k)
  else if c.moved = 1 then q.take k ++ [c.uid] ++ q.drop k
  else q ++ [c.uid]

/-- The fold logical number a task names: kept in `launch.next` plus 1 once it is resolved; 0 for none. -/
def namedOf (c : Cmd) : Option Nat := if c.launch.next = 0 then none else some (c.launch.next - 1)

/-- The engine a ready task goes to: of those that may take it the one with the fewest entries of its class or higher, if that has an
entry free (R206, R207). -/
def engineFor (s : State) (c : Cmd) : Option Nat :=
  (bestEngine s (cmdLc s c) (eligible s c (namedOf c))).filter fun e => entryFree s e (cmdLc s c)

/-- Place a ready task, if its engine has a free entry for it. -/
def placeTask (uid : Nat) (s : State) : State :=
  match cmdAt s uid with
  | none => s
  | some c =>
    if c.phase ≠ .ready then s else
    match engineFor s c with
    | none => s
    | some e => setPhase (modEngine s e fun x => { x with queue := enqueue s c e }) uid (.queued e)

/-- A list turned so that it begins after the element served last, kept as that element plus 1; ascending otherwise. -/
def turned (last : Nat) (l : List Nat) : List Nat :=
  let a := l.insertionSort fun x y => x ≤ y
  (a.filter fun x => last ≤ x) ++ a.filter fun x => x < last

/-- Ready tasks of a fold and class in the order in which they are taken: retried ones first (R164), then one per context in rotation,
within a context one per queue in rotation, within a queue in acceptance order (R207). -/
def readyOrder (s : State) (n : Nat) (lc : Bool) : List Cmd :=
  let rs := s.cmds.filter fun c => c.phase == .ready && tagFold c.tag == n && cmdLc s c == lc
  let t := (foldAt s n).sched.turns
  let k := if lc then 0 else 1
  let heads := (turned (Tab.get 0 t k) (rs.map fun c => tagSlot c.tag).dedup).flatMap fun slot =>
    (turned (Tab.get 0 t (2 + 2 * slot + k)) ((rs.filter fun c => tagSlot c.tag == slot).map fun c => c.q).dedup).filterMap fun q =>
      rs.find? fun c => tagSlot c.tag == slot && c.q == q
  (rs.filter fun c => c.moved == 1) ++ heads.filter fun c => c.moved != 1

/-- The rotation of R207 goes on after a task. -/
def noteTurn (c : Cmd) (lc : Bool) (s : State) : State :=
  let k := if lc then 0 else 1
  let slot := tagSlot c.tag
  let next := fun (t : Tab Nat) => Tab.set 0 (Tab.set 0 t k (slot + 1)) (2 + 2 * slot + k) (c.q + 1)
  modFold s (tagFold c.tag) fun f => { f with sched := { f.sched with turns := next f.sched.turns } }

/-- Place the ready tasks of a fold and class one after the other while their engines have entries free (R207). -/
def placeFold (n : Nat) (lc : Bool) : Nat → State → State
  | 0, s => s
  | fuel + 1, s =>
    match (readyOrder s n lc).find? fun c => (engineFor s c).isSome with
    | none => s
    | some c => placeFold n lc fuel (placeTask c.uid (noteTurn c lc s))

/-- Place ready tasks: every fold's latency-critical ones, then its best-effort ones; folds take turns in ascending order (log
entry 35). -/
def placeReady (lc : Bool) (fuel : Nat) (s : State) : State :=
  forEach (List.range 16) (fun n s => placeFold n lc fuel s) s

/-- What a task has fetched is discarded; its segments are fetched again later (R87). -/
def discardOperands (uid : Nat) (s : State) : State := modCmd s uid fun c => { c with asked := 0, opnd := [], seg := 0 }

/-- Withdraw a task from its dispatch queue to the ready list (R203, R212, R427). -/
def withdraw (uid : Nat) (s : State) : State :=
  match cmdAt s uid with
  | none => s
  | some c => match c.phase with
    | .queued e => discardOperands uid (setPhase (modEngine s e fun x => { x with
        queue := x.queue.filter fun u => u != uid, buf := x.buf.filter fun b => b.1 != uid }) uid .ready)
    | _ => s

/-! ### Becoming ready -/

/-- A task ends without having written anything. -/
def tileFail (c : Cmd) (st : Byte) (s : State) : State := complete c.uid (.broken st) (endHolder (.task c.uid) s)

/-- A task ends with RANGE and its class D record (R84, R208). -/
def tileRange (c : Cmd) (detail : Nat) (master : W16) (s : State) : State :=
  raiseEngine detail master c.tag (tileFail c stRange s)

/-- The mover of a paddock that serves a task: which of the two is free, unless one is out of use (R86, R399). -/
def paddockMover (s : State) (p : Nat) (c : Cmd) : Nat :=
  let m := c.mover % 2
  if unitOut s (336 + 2 * p + m) then 1 - m else m

/-- The mover that translates and fetches for an engine (R86). -/
def tileMover (s : State) (e : Nat) (c : Cmd) : W16 :=
  BitVec.ofNat 16 (0x3000 + enginePlace s e * 256 + paddockMover s (enginePlace s e) c)

/-- Translate the pages of ranges; the leaves held, at most 1,024 (R151), or what stopped it. Host memory is refused (R149). -/
def preTranslate (c : Cmd) (place : Nat) (a : AccessKind) : List (Nat × Nat) → List TlbEntry → State →
    Got × List TlbEntry × State
  | [], held, s => (.ok [], held, s)
  | (va, _) :: rest, held, s =>
    match translate place c.tag va a s with
    | (.pa p, s1) =>
      (match spotOfPa s1 (tagFold c.tag) p a with
        | .fault k _ => (.fault va k s1.xlate.walked, held, s1)
        | .refused k => (.refused va k, held, s1)
        | .loc 3 _ => (.refused va .access, held, s1)
        | _ =>
          let leaf := tlbHit s1 place (tagSlot c.tag) (ctxAt s1 (tagSlot c.tag)).gen va
          let more := leaf.toList.filter fun e => decide (held.length < 1024) && !held.contains e
          preTranslate c place a rest (held ++ more) s1)
    | (.fault k l, s1) => (.fault va k l, held, s1)
    | (.error p, s1) => (.error 0x43 p, held, s1)
    | (.wait, s1) => (.wait, held, s1)

/-- What a stopped access does to a task: it waits on the fault, stays as it is, or fails. -/
def tileStop (c : Cmd) (g : Got) (a : AccessKind) (master : W16) (s : State) : State :=
  match g with
  | .fault va k l => endHolder (.task c.uid) (faultCmd c.uid c.tag va k a master l (.task c.uid) s)
  | .refused va k => raiseAccess va c.tag master a k (tileFail c stTranslation s)
  | .error d p => raiseData d p master c.tag (tileFail c stDataError s)
  | _ => s

/-- The three headers, fetched; B's is not read when fin_only = 1 (R90). -/
def headerRanges (d : BitVec 512) : List (Nat × Nat) :=
  [(tlHdrA d, 64), (if tlFin d then tlHdrA d else tlHdrB d, 64), (tlHdrC d, 64)]

/-- Access kind of C's pages. -/
def outAccess (d : BitVec 512) : AccessKind := if tlReduce d then .atomic else .write

/-- The first failing check of R84 and R208 for a task whose headers are read; 0x07 for a task of a sealed fold. -/
def readyCheck (s : State) (c : Cmd) : Option Nat :=
  match headerCheck c.desc (hdrsOf c) with
  | some x => some x
  | none => if (foldAt s (tagFold c.tag)).live.sealed && beyondCap s c then some 0x07 else none

/-- The paddock whose movers pre-translate: that of the engine the task would take, else of the fold's first engine. -/
def readyEngine (s : State) (c : Cmd) (named : Option Nat) : Nat :=
  match bestEngine s (cmdLc s c) (eligible s c named) with
  | some e => e
  | none => (foldEngines s (tagFold c.tag)).headD 0

/-- The pages of ranges. -/
def pagesOfAll (l : List (Nat × Nat)) : List (Nat × Nat) := l.flatMap fun r => pagesOf r.1 r.2

/-- The headers of a task have been read: its checks (R84, R208), the pre-translation of its whole footprint (R86), and its place
on the ready list; it holds the translation epoch from then on (R160). -/
def judgeTask (c : Cmd) (named : Option Nat) (s : State) : State :=
  let d := c.desc
  let e := readyEngine s c named
  let place' := enginePlace s e
  let mover := tileMover s e c
  match readyCheck s c with
  | some x => tileRange c x (engineMaster s e) s
  | none =>
    match preTranslate c place' .read (pagesOfAll (headerRanges d ++ readRanges d (hdrsOf c))) [] s with
    | (.ok _, held, s1) =>
      (match preTranslate c place' (outAccess d) (pagesOfAll (writeRanges d (hdrsOf c))) held s1 with
        | (.ok _, held', s2) =>
          let h : Holder := { epoch := s2.xlate.epoch, tag := c.tag, owner := .task c.uid }
          modCmd { s2 with xlate := { s2.xlate with holders := s2.xlate.holders ++ [h] } } c.uid fun x => { x with
            phase := .ready, pages := held', coll := { x.coll with acc := c.coll.acc }, launch := c.launch, readyAt := now s2,
            judged := false, asked := 0, opnd := [], seg := 0, out := [], setting := none }
        | (g, _, s2) => tileStop c g (outAccess d) mover s2)
    | (g, _, s1) => tileStop c g .read mover s1

/-- A task becomes ready (R205): the descriptor's checks, then licence and reproducibility in the order of R98's table, then its
headers, read once and here: R84's checks at dispatch are the start of the task that R80 speaks of (log entry 116). `named` is
the fold logical number of its engine. -/
def makeReady (c0 : Cmd) (named : Option Nat) (s : State) : State :=
  let d := c0.desc
  let e0 := readyEngine s c0 named
  let master := engineMaster s e0
  match descCheck d with
  | some x => tileRange c0 x master s
  | none =>
    if !licenceOk s d then tileFail c0 stLicence s
    else if (ctxAt s (tagSlot c0.tag)).reproducible && tlFast d then tileFail c0 stNotReproducible s
    else
      match preTranslate c0 (enginePlace s e0) .read (pagesOfAll (headerRanges d)) [] s with
      | (.ok _, _, s0) =>
        (match fetchAll { c0 with pages := [] } (enginePlace s e0) master (headerRanges d) s0 with
          | (.ok bs, s1) =>
            judgeTask { c0 with
              coll := { c0.coll with acc := bs, parts := [] }
              launch := { c0.launch with next := match named with | some i => i + 1 | none => 0 } } named s1
          | (g, s1) => tileStop c0 g .read master s1)
      | (g, _, s1) => tileStop c0 g .read (tileMover s e0 c0) s1

/-- A task that names a fold logical engine (R208, R98): outside the fold's numbering RANGE, vacant UNIT_RETIRED. -/
def readyNamed (c : Cmd) (i : Nat) (s : State) : State :=
  match (foldEngines s (tagFold c.tag))[i]? with
  | none => tileRange c 0x0A hostMaster s
  | some e => if engineBound s e then makeReady c (some i) s else tileFail c stUnitRetired s

/-- Some engine can take a ready task, now or in a window it fits whole (R208). -/
def canEverRun (s : State) (c : Cmd) : Bool :=
  let own := match namedOf c with
    | some i => ((foldEngines s (tagFold c.tag))[i]?).toList
    | none => foldEngines s (tagFold c.tag)
  (!beyondCap s c && own.any (engineBound s)) ||
    ((namedOf c).isNone && !cmdLc s c && (List.range (planCount s)).any fun w => (List.range 32).any fun e =>
      granted s w e (tagFold c.tag) && fitsIn s c (windowStart s w) (windowEnd s w))

/-- The judgement of R208 at a boundary. -/
def judgeReady (s : State) : State :=
  forEach (cmdsWhere s fun c => c.phase == .ready) (fun u s =>
    match cmdAt s u with
    | none => s
    | some c => if canEverRun s c then modCmd s u fun x => { x with judged := true } else tileRange c 0x09 hostMaster s) s

/-! ### In the array -/

/-- The command an engine starts: on a fold's engine the head of its queue; on a commons engine one task of the fold next
after the one served last, which must fit (R201). -/
def nextTask (s : State) (e : Nat) : Option Nat :=
  let q := (engineAt s e).queue
  if engineHeld s e then q.head?
  else
    let fits := q.filter fun u => match cmdAt s u with | some c => commonsMay s e c | none => false
    let foldOfU := fun u => tagFold (tagOfCmd s u)
    let order := (List.range 16).map fun k => ((engineAt s e).lastFold + 1 + k) % 16
    order.findSome? fun n => fits.find? fun u => foldOfU u == n

/-- A sluice over a context is closed: its own, its fold's or the instance's; a task reaching dispatch under it ends (R421, R422). -/
def tagClosed (s : State) (t : W16) : Bool :=
  !tagOpen s t || (ctxAt s (tagSlot t)).sluiceClosed || foldClosed s (tagFold t) || s.faults.sluiceClosed

/-- The engine's power domain is in service (R34, R384). -/
def enginePowered (s : State) (e : Nat) : Bool := !bitAt s.power.down (9 * enginePlace s e + enginePhys s e % 4)

/-! ### The operand buffer (R17, R86, R87, R96) -/

/-- The suspect that a review re-runs on an engine (R429). -/
def rerunOn (s : State) (e : Nat) : Option Nat :=
  (s.cmds.find? fun c => c.phase == .rerun false e).map fun c => c.uid

/-- A suspect's re-run whose headers have been read. -/
def rerunReady (s : State) (e : Nat) : Option Nat :=
  (rerunOn s e).filter fun u => match cmdAt s u with | some c => !c.coll.acc.isEmpty | none => false

/-- The task whose first segment the engine's movers fetch next. -/
def upNext (s : State) (e : Nat) : Option Nat :=
  if (engineAt s e).tile.isSome then nextTask s e
  else (rerunReady s e).orElse fun _ => if (engineAt s e).blocked then none else nextTask s e

/-- Parts of a task that may be asked for: of the tile in the array the segment in use and what follows it, of the next task its
first segment once the tile's last is in use. -/
def mayAsk (s : State) (e : Nat) (c : Cmd) : Option Nat :=
  match (engineAt s e).tile with
  | some u =>
    if u = c.uid then some (min (c.seg + 1) (segCount c.desc (hdrsOf c)))
    else if upNext s e = some c.uid then
      (match cmdAt s u with
        | some t => if segCount t.desc (hdrsOf t) ≤ t.seg + 1 then some 0 else none
        | none => some 0)
    else none
  | none => if upNext s e = some c.uid then some 0 else none

/-- The next piece of a task to ask for, in a part that may be asked for: its part, address and length. -/
def nextPiece (c : Cmd) (upto : Nat) : Option (Nat × Nat × Nat) :=
  let h := hdrsOf c
  match (piecesTo c.desc h (upto + 1))[c.asked]? with
  | none => none
  | some (va, n) =>
    let before := fun j => decide ((piecesTo c.desc h (j + 1)).length ≤ c.asked)
    some (((List.range (upto + 1)).filter before).length, va, n)

/-- A task waits on a pending fault, or is parked for one: its engine stalls (R151). -/
def stalled (s : State) (uid : Nat) : Bool :=
  s.xlate.pending.any (fun p => p.waiters.contains (.task uid)) || s.xlate.parked.any fun p => p.1 == .task uid

/-- A half of an engine's buffer that has served its task: a segment used, or prefetched for a task that is no longer next. -/
def halfSpent (s : State) (e : Nat) (b : Nat × Nat) : Bool :=
  match cmdAt s b.1 with
  | none => true
  | some c =>
    if (engineAt s e).tile = some b.1 then decide (b.2 < c.seg) else upNext s e != some b.1

/-- Halves free up: a prefetched segment of a task that another displaced is discarded, and fetched again later (R87, R96). -/
def claimHalves (e : Nat) (s : State) : State :=
  let spent := (engineAt s e).buf.filter (halfSpent s e)
  let s1 := forEach (spent.filter fun b => (engineAt s e).tile != some b.1) (fun b s => discardOperands b.1 s) s
  modEngine s1 e fun x => { x with buf := x.buf.filter fun b => !spent.contains b }

/-- A half of the buffer takes a segment; what the epilogue reads goes to the output path and takes none. -/
def takeHalf (e : Nat) (c : Cmd) (j : Nat) (s : State) : State :=
  if segCount c.desc (hdrsOf c) ≤ j ∨ (engineAt s e).buf.contains (c.uid, j) then s
  else modEngine s e fun x => { x with buf := x.buf ++ [(c.uid, j)] }

/-- A half is free for a segment, or holds it. -/
def halfFor (s : State) (e : Nat) (c : Cmd) (j : Nat) : Bool :=
  decide (segCount c.desc (hdrsOf c) ≤ j) || (engineAt s e).buf.contains (c.uid, j) || decide ((engineAt s e).buf.length < 2)

/-- An access of a task that has been dispatched fails: an unforeseen page fault stalls its engine (R151), a refusal or an error ends
the task and frees its engine. -/
def dispatchedStop (c : Cmd) (g : Got) (a : AccessKind) (master : W16) (s : State) : State :=
  match g with
  | .fault va k l => (onFault c.tag va k a master l (some (.task c.uid)) s).2
  | _ => tileStop c g a master s

/-- One piece of a task's operands, of up to 256 bytes, fetched by a mover of the engine's paddock. R17 names pond, tarn and far memory
as its sources and R78 also remote windows: a piece behind a window is asked for there and kept in the buffer like any other
(DESIGN CHOICE; log entry 117). Host memory is refused (R149). -/
def fetchOperand (e : Nat) (c : Cmd) (va n : Nat) (s : State) : Bool × State :=
  let m := tileMover s e c
  let id := c.asked
  match cmdReach c (enginePlace s e) va .read s with
  | (.loc 3 _, s1) => (false, dispatchedStop c (.refused va .access) .read m s1)
  | (.loc mem off, s1) =>
    (match locRead c.tag mem off n s1 with
      | (.ok bs, s2) => (true, modCmd s2 c.uid fun x => { x with asked := id + 1, opnd := x.opnd ++ [(id, bs)] })
      | (.refused, s2) => (false, dispatchedStop c (.refused va .access) .read m s2)
      | (.error d p, s2) => (false, dispatchedStop c (.error d p) .read m s2)
      | (.wait, s2) => (false, s2))
  | (.win node tag a ver, s1) =>
    if mayReach s1 (tagFold c.tag) node then
      (true, modCmd (sendRequest (tagFold c.tag) c.uid (.piece id n) m va (cmdLc s1 c)
        (windowPacket s1 node tag a ver 1 0 (leBytes 8 n)) s1) c.uid fun x => { x with asked := id + 1 })
    else (false, holdRemote c.tag node s1)
  | (.fault k l, s1) => (false, dispatchedStop c (.fault va k l) .read m s1)
  | (.refused k, s1) => (false, dispatchedStop c (.refused va k) .read m s1)
  | (.error p, s1) => (false, dispatchedStop c (.error 0x43 p) .read m s1)
  | (.wait, s1) => (false, s1)

/-- A piece asked for across a window has come. -/
def operandArrive (c : Cmd) (id : Nat) (bs : List Byte) (s : State) : State :=
  if c.asked ≤ id ∨ c.opnd.any (fun p => p.1 == id) then s
  else modCmd s c.uid fun x => { x with opnd := x.opnd ++ [(id, bs)] }

/-- Every piece of a task's parts up to one is in the buffer, and nothing asked for is still outstanding. -/
def partsHere (s : State) (c : Cmd) (upto : Nat) : Bool :=
  c.asked == (piecesTo c.desc (hdrsOf c) (upto + 1)).length && c.opnd.length == c.asked && settled s c

/-- The array goes on to the next segment once that is in the buffer. -/
def advanceSeg (uid : Nat) (s : State) : State :=
  match cmdAt s uid with
  | none => s
  | some c =>
    if c.seg + 1 < segCount c.desc (hdrsOf c) ∧ partsHere s c (c.seg + 1) then modCmd s uid fun x => { x with seg := x.seg + 1 } else s

/-- One beat that a mover of an engine's paddock carries for a task of the engine (R86, R267): true when it went on. -/
def operandBeat (e : Nat) (c : Cmd) (s0 : State) : Bool × State :=
  let s := claimHalves e s0
  match (if stalled s c.uid then none else (mayAsk s e c).bind (nextPiece c)) with
  | none => (false, advanceSeg c.uid s)
  | some (j, va, n) =>
    if halfFor s e c j then
      let r := fetchOperand e c va n (onBehalf c.uid (tileMover s e c) (takeHalf e c j s))
      (r.1, advanceSeg c.uid (onBehalfOfNone r.2))
    else (false, s)

/-! ### In the array -/

/-- The tile may begin: its first segment is in the buffer. On an engine that the cap governs the whole slice of a best-effort tile is
one segment, so that it never stalls (R95, R96). -/
def firstHere (s : State) (c : Cmd) : Bool := partsHere s c 0

/-- A task stands in an engine's array, under what its fold holds now (R14, R32). -/
def enterArray (e : Nat) (c : Cmd) (s : State) : State :=
  modCmd (modEngine s e fun y => { y with tile := some c.uid, entered := 0, lastFold := tagFold c.tag }) c.uid fun z => { z with
    setting := some (foldAt s (tagFold c.tag)).live, launch := { z.launch with cores := [e] } }

/-- TILE_START: the engine takes its next task (R206); issue pauses in a brownout hold (R97). -/
def tileStartOn (e : Nat) (s : State) : State :=
  let x := engineAt s e
  if x.tile.isSome || x.blocked || s.power.brownout || !engineBound s e || !enginePowered s e then s else
  match nextTask s e with
  | none => s
  | some u =>
    match cmdAt s u with
    | none => s
    | some c =>
      let s1 := modEngine s e fun y => { y with queue := y.queue.filter fun v => v != u }
      if tagClosed s c.tag then tileFail c stFenced s1
      else if !firstHere s c then s
      else noteDispatch c.tag (modCmd (enterArray e c s1) u fun z => { z with phase := .tile e, startAt := now s })

/-! ### The epilogue -/

/-- The data and scale bytes of row i of a list of fetched ranges. -/
def rowBuf (bufs : List (List Byte)) (mx : Bool) (i : Nat) : List Byte × List Byte :=
  if mx then (bufs.getD (2 * i) [], bufs.getD (2 * i + 1) []) else (bufs.getD i [], [])

/-- The rows of the tile as written, from its fetched operands (R71, R91). -/
def tileRowsOut (d : BitVec 512) (h : Headers) (free : Nat) (bufs : List (List Byte)) : List OutRow :=
  let rows := tileRows d h
  let cols := tileCols d h
  let k := sliceLen d h
  let na := rows * (if isMx (tlFmtA d) then 2 else 1)
  let nb := if tlFin d then 0 else cols * (if isMx (tlFmtB d) then 2 else 1)
  let bias := bufs.getD (na + nb) []
  let olds := bufs.drop (na + nb + (if tlBiasEn d then 1 else 0))
  let ys := (List.range cols).map fun j =>
    let r := rowBuf (bufs.drop na) (isMx (tlFmtB d)) j
    rowVals (tlFmtB d) (tlK0 d) k r.1 r.2
  (List.range rows).map fun i =>
    let r := rowBuf bufs (isMx (tlFmtA d)) i
    let xs := rowVals (tlFmtA d) (tlK0 d) k r.1 r.2
    let accs := (List.range cols).map fun j =>
      let a0 := if tlFin d then Acc.led (ledgerOfBytes ((r.1.drop (32 * j)).take 32))
        else tileAcc d h (fun q => (Config.freeValue 64 (free + (i * cols + j) * (2 * k + 2) + q)).toNat) xs (ys.getD j [])
      let w := codeBits (tlFmtOut d) / 8
      let a1 := if tlAccIn d then accumulateIn (((olds.getD i []).drop (w * j)).take w) a0 else a0
      if biasHere d then addBias (tlInteger d) (biasVal (tlBiasFmt d) bias j) a1 else a1
    tileOutRow d accs

/-- What a tile writes to C's data and scale areas, in row order (R91 step 5, R93). -/
def tileSegments (d : BitVec 512) (h : Headers) (rows : List OutRow) : List (Nat × List Byte) :=
  rows.zipIdx.flatMap fun x =>
    (elemAddr h.c (tlFmtOut d) (tlM d + x.2) (tlN d), x.1.data) ::
      (if isMx (tlFmtOut d) then [(scaleAddr h.c (tlM d + x.2) (tlN d), x.1.scales)] else [])

/-- The digest of a tile: over every byte it writes, in ascending address order (R91 step 7). -/
def tileDigest (segs : List (Nat × List Byte)) : W64 :=
  crc64 ((segs.insertionSort fun a b => a.1 ≤ b.1).flatMap fun x => x.2)

/-- How a tile ends when all it writes has been accepted (R92, R98). -/
def tileOutcome (d : BitVec 512) (rows : List OutRow) (segs : List (Nat × List Byte)) : Done :=
  if tlFmtOut d = fmtContainer then Done.plain stSuccess
  else { Done.withDigest (tileDigest segs) with status := if rows.any fun r => r.range then stRange else stSuccess }

/-- Writes cut into beats of up to 256 bytes, in their order. -/
def cutBeats (l : List (Nat × List Byte)) : List (Nat × List Byte) :=
  l.flatMap fun x => (beatsAt x.1 x.2.length).map fun p => (p.1, (x.2.drop (p.1 - x.1)).take p.2)

/-- What a task keeps while its writes go out: how it ends, its count of saturated elements and its bound. -/
def keptBytes (r : Done) (sat : Nat) (bound : Option Int) : List Byte :=
  taskResultBytes r ++ leBytes 8 sat ++ leBytes 8 (match bound with | none => 2 ^ 32 | some x => wrapInt 32 x)

/-- The outcome kept. -/
def keptDone (c : Cmd) : Done :=
  { status := c.coll.acc.getD 0 0, digest := BitVec.ofNat 64 (ofLe ((c.coll.acc.drop 8).take 8)),
    part := bitAt (c.coll.acc.getD 1 0) 0, failed := bitAt (c.coll.acc.getD 1 0) 1, result := 0 }
def keptSat (c : Cmd) : Nat := ofLe ((c.coll.acc.drop 16).take 8)
def keptBound (c : Cmd) : Option Int :=
  let v := ofLe ((c.coll.acc.drop 24).take 8)
  if v = 2 ^ 32 then none else some (signed 32 v)

/-- The engine a task ran on. -/
def ranOn (c : Cmd) : Nat := c.launch.cores.headD 0

/-- C's address lies in the pond of the engine's own paddock, which the engine writes itself (R17); reduce-on-write is always the
movers' (R89). -/
def ownPond (s : State) (c : Cmd) (mem off : Nat) : Bool :=
  mem == 0 && off / 2 ^ 23 == enginePlace s (ranOn c) && !tlReduce c.desc

/-- The next write lies in the pond of the engine's own paddock. -/
def writesOwnPond (s : State) (c : Cmd) : Bool :=
  match c.out with
  | [] => false
  | (va, _) :: _ =>
    match (cmdReach c (enginePlace s (ranOn c)) va (outAccess c.desc) s).1 with
    | .loc mem off => ownPond s c mem off
    | _ => false

/-- One beat of what a tile writes, the first of those left (R93): by the engine to its own paddock's pond, by a mover anywhere else,
another paddock's pond among them (R17; log entry 118); true when it went on. -/
def outBeat (c : Cmd) (s0 : State) : Bool × State :=
  let e := ranOn c
  let m := if writesOwnPond s0 c then engineMaster s0 e else tileMover s0 e c
  let s := onBehalf c.uid m s0
  let wrote := fun (s : State) => onBehalfOfNone (modCmd s c.uid fun x => { x with out := x.out.drop 1 })
  match (if stalled s c.uid then none else c.out.head?) with
  | none => (false, s0)
  | some (va, bs) =>
    let stop := fun (g : Got) (s : State) => (false, onBehalfOfNone (dispatchedStop c g (outAccess c.desc) m s))
    match cmdReach c (enginePlace s e) va (outAccess c.desc) s with
    | (.loc 3 _, s1) => stop (.refused va .access) s1
    | (.loc mem off, s1) =>
      (match (if tlReduce c.desc then locReduce c.tag mem off bs s1 else locWrite c.tag mem off bs s1) with
        | (.ok _, s2) => (true, wrote s2)
        | (.refused, s2) => stop (.refused va .access) s2
        | (.error d p, s2) => stop (.error d p) s2
        | (.wait, s2) => (false, onBehalfOfNone s2))
    | (.win node tag a ver, s1) =>
      if mayReach s1 (tagFold c.tag) node then
        (true, wrote (sendRequest (tagFold c.tag) c.uid .none m va (cmdLc s1 c)
          (windowPacket s1 node tag a ver (if tlReduce c.desc then 4 else 2) 0 bs) s1))
      else (false, onBehalfOfNone (holdRemote c.tag node s1))
    | (.fault k l, s1) => stop (.fault va k l) s1
    | (.refused k, s1) => stop (.refused va k) s1
    | (.error p, s1) => stop (.error 0x43 p) s1
    | (.wait, s1) => (false, onBehalfOfNone s1)

/-- Change n bytes of a memory in one operation at the unit that owns them; answers what stood there (R120, R153, R169). -/
def locUpdate (tag : W16) (mem off n : Nat) (f : List Byte → List Byte) (s : State) : Access × State :=
  if mem = 3 ∨ !landOk s tag mem off then (.refused, s)
  else if !reachable s tag mem off n then (.wait, holdAccess tag mem off n s)
  else if poisoned s mem off n then (.error 0x42 (paOf s mem (badUnit s mem off n)), s)
  else
    let (bs, s1) := memBytes mem off n s
    (.ok bs, charge tag mem off n true (memStore mem off (f bs) s1))

/-- sat_count and bound of a header after a task: the count saturates, the bound is merged by maximum (R60, R78). -/
def headerWords (sat : Nat) (bound : Option Int) (bs : List Byte) : List Byte :=
  leBytes 4 (min 0xFFFFFFFF (ofLe (bs.take 4) + sat)) ++
    (match bound with
      | none => bs.drop 4
      | some x => leBytes 4 (wrapInt 32 (max x (signed 32 (ofLe (bs.drop 4))))))

/-- Merge the bound and add the count of saturated elements in C's header (R60, R91 step 6). Across a window the count goes as an
ATOMIC ADD whose op has bit 3 set, which tells the destination that it saturates (R78; log entry 109). True when done. -/
def mergeHeader (c : Cmd) (s0 : State) : Bool × State :=
  let e := ranOn c
  let m := engineMaster s0 e
  let va := tlHdrC c.desc + 32
  let n := tagFold c.tag
  let s := onBehalf c.uid m s0
  let stop := fun (g : Got) (s : State) => (false, onBehalfOfNone (dispatchedStop c g .atomic m s))
  let send := fun (node : BitVec 18) (tag : W16) (a : Nat) (ver : W32) (op v : Nat) (s : State) =>
    sendRequest n c.uid .none m va (cmdLc s c) (windowPacket s node tag a ver 3 (BitVec.ofNat 8 op) (leBytes 4 v)) s
  match cmdReach c (enginePlace s e) va .write s with
  | (.loc mem off, s1) =>
    (match locUpdate c.tag mem off 8 (headerWords (keptSat c) (keptBound c)) s1 with
      | (.ok _, s2) => (true, onBehalfOfNone s2)
      | (.refused, s2) => stop (.refused va .access) s2
      | (.error d p, s2) => stop (.error d p) s2
      | (.wait, s2) => (false, onBehalfOfNone s2))
  | (.win node tag a ver, s1) =>
    if mayReach s1 n node && decide ((foldAt s1 n).unacked.length < 1023) then
      let s2 := if keptSat c = 0 then s1 else send node tag a ver 0x08 (keptSat c) s1
      (true, onBehalfOfNone (match keptBound c with
        | none => s2
        | some x => send node tag (a + 4) ver 0x51 (wrapInt 32 x) s2))
    else (false, onBehalfOfNone (holdRemote c.tag node s1))
  | (.fault k l, s1) => stop (.fault va k l) s1
  | (.refused k, s1) => stop (.refused va k) s1
  | (.error p, s1) => stop (.error 0x43 p) s1
  | (.wait, s1) => (false, onBehalfOfNone s1)

/-- A task that has left its array goes on: when its writes are accepted its header is merged, which `moved` 2 notes, and when that
is accepted too it ends (R91, R160). -/
def tileSettle (uid : Nat) (s : State) : State :=
  match cmdAt s uid with
  | none => s
  | some c =>
    if opcodeOf c.desc ≠ 1 ∨ c.phase ≠ .busy ∨ !c.out.isEmpty ∨ !settled s c ∨ stalled s uid then s
    else if c.moved = 2 ∨ tlFmtOut c.desc = fmtContainer then complete uid (keptDone c) (endHolder (.task uid) s)
    else
      match mergeHeader c s with
      | (false, s1) => s1
      | (true, s1) =>
        match cmdAt s1 uid with
        | none => s1
        | some c1 =>
          if settled s1 c1 then complete uid (keptDone c1) (endHolder (.task uid) s1)
          else modCmd s1 uid fun x => { x with moved := 2 }

/-- The engine writes to its own pond until what comes next lies elsewhere; then the task settles if it can. -/
def engineWrites (uid : Nat) : Nat → State → State
  | 0, s => tileSettle uid s
  | fuel + 1, s =>
    match cmdAt s uid with
    | none => s
    | some c =>
      if writesOwnPond s c then
        (match outBeat c s with
          | (true, s1) => engineWrites uid fuel s1
          | (false, s1) => s1)
      else tileSettle uid s

/-- Thousandths of beats that enter an array in a time (R72, R270). -/
def beatsIn (s : State) (ns : Nat) : Nat := ns * s.power.clkArr

/-- Rows × columns of a task's tile. -/
def tileArea (c : Cmd) : Nat := tileRows c.desc (hdrsOf c) * tileCols c.desc (hdrsOf c)

/-- Beats of the tile in an array have entered it up to a count of thousandths: their work counts for the ceiling ratio (R270). -/
def enterTo (e : Nat) (c : Cmd) (to' : Nat) (s : State) : State :=
  let x := engineAt s e
  let k := min (1000 * beatsOf c) to'
  let w := tileArea c * (k / 1000 - x.entered / 1000)
  modFold (modEngine s e fun y => { y with entered := max y.entered k }) (tagFold c.tag) fun f =>
    { f with stmt := { f.stmt with beatWork := f.stmt.beatWork + w } }

/-- The engine is free again. -/
def freeEngine (e : Nat) (s : State) : State := modEngine s e fun x => { x with tile := none, entered := 0 }

/-- An uncorrectable error in an engine's operand buffer or accumulators (R98, R169; log entry 94): memories 4 and 5 of `poison`, by
logical engine. -/
def engineError (s : State) (e : Nat) : Bool := s.poison.any fun p => (p.1 == 4 || p.1 == 5) && p.2 == e

/-- The tile in an engine's array completes once its operands are all there: the arithmetic, and what it writes, in row order; the
engine is free for the next (R73, R91, R93, R98). -/
def tileFinish (e : Nat) (s : State) : State :=
  match (engineAt s e).tile with
  | none => s
  | some u =>
    match cmdAt s u with
    | none => freeEngine e s
    | some c =>
      let d := c.desc
      let h := hdrsOf c
      if !partsHere s c (segCount d h) then s
      else if engineError s e then raiseData 0x42 0 (engineMaster s e) c.tag (freeEngine e (tileFail c stDataError s))
      else
        let rows := tileRowsOut d h s.free (joinBufs d h ((c.opnd.insertionSort fun a b => a.1 ≤ b.1).map fun x => x.2))
        let segs := tileSegments d h rows
        let s1 := enterTo e c (1000 * beatsOf c) { s with free := s.free + rows.length * 128 * (2 * sliceLen d h + 2) }
        let kept := keptBytes (tileOutcome d rows segs) (rows.map fun r => r.sat).sum
          (rows.foldl (fun b r => maxBound b r.bound) none)
        engineWrites u (cutBeats segs).length (freeEngine e (modCmd s1 u fun x => { x with
          phase := .busy, opnd := [], asked := 0, moved := 0, out := cutBeats segs, coll := { x.coll with acc := kept } }))

/-! ### A re-run (R429) -/

/-- A suspect's re-run goes on at its engine: its headers are read anew, its first segment is fetched, and it enters the array; issue
pauses in a brownout hold (R80, R97). -/
def rerunGo (e : Nat) (s : State) : State :=
  match (rerunOn s e).bind (cmdAt s) with
  | none => s
  | some c =>
    if (engineAt s e).tile.isSome ∨ (engineAt s e).resetting then s
    else if c.coll.acc.isEmpty then
      (match fetchAll c (enginePlace s e) (engineMaster s e) (headerRanges c.desc) s with
        | (.ok bs, s1) => modCmd s1 c.uid fun x => { x with coll := { x.coll with acc := bs } }
        | (g, s1) => if stalled s c.uid then s else dispatchedStop c g .read (engineMaster s e) s1)
    else if s.power.brownout ∨ !firstHere s c then s
    else enterArray e c s

/-! ### Figures (R202, R223, R270) -/

/-- A commons tile that stands in an array when its window ends is counted: it runs past the end (R202). -/
def noteOverruns (s : State) : State :=
  let began := s.tb.lastBoundary.toNat + windowStart s s.graze.window
  forEach ((s.engines.filter fun p => p.2.tile.isSome && !engineHeld s p.1).map fun p => p.1) (fun e s =>
    match (engineAt s e).tile.bind (cmdAt s) with
    | none => s
    | some c =>
      if began ≤ c.startAt.toNat then { s with graze := { s.graze with overruns := s.graze.overruns + 1 } } else s) s

/-- A best-effort task waits, in R201's sense, for a commons engine that runs another fold's tile (R223): it is ready or in that engine's
queue, the window in force grants its fold the engine and the task fits; and it waits for no other engine that is free. -/
def waitsForCommons (s : State) (c : Cmd) : Bool :=
  let n := tagFold c.tag
  let open' := (List.range 32).filter fun e => commonsMay s e c &&
    (c.phase == .ready || c.phase == .queued e)
  (c.phase == .ready || (match c.phase with | .queued e => !engineHeld s e | _ => false)) &&
    open'.any (fun e => match (engineAt s e).tile with
      | some u => tagFold (tagOfCmd s u) != n
      | none => false) &&
    open'.all fun e => (engineAt s e).tile.isSome

/-- What a time of `ns` nanoseconds adds to a fold's figures: ready time of its tasks and launches, the engine part of its interference
(R223, R224). -/
def accrueFold (ns n : Nat) (s : State) : State :=
  let mine := s.cmds.filter fun c => tagFold c.tag == n && c.tag != 0
  let ready := (mine.filter counted).length
  let waits := (mine.filter (waitsForCommons s)).length
  if ready = 0 then s else
  modFold s n fun f => { f with sched := { f.sched with
    readyTime := f.sched.readyTime + ns * ready, interference := f.sched.interference + ns * waits } }

/-- A held request waits only because other folds occupy entries of the shared pool: it is within ceiling, and its unit would have an
entry for it if the fold alone stood there (R271). -/
def keptOut (s : State) (n : Nat) (h : Held) : Bool :=
  let f := foldAt s n
  withinCeiling f h.key && !f.live.sealed && !entryFor s n h.key h.unit &&
    decide (0 < poolLeft s h.key h.unit fun m => m == n)

/-- The oldest request held for a task. -/
def oldestHeld (l : List Held) (uid : Nat) : Option Held :=
  (l.filter fun h => h.uid == uid).foldl (fun o h => match o with
    | none => some h
    | some x => if h.since.toNat < x.since.toNat then some h else some x) none

/-- What a time adds for the requests held at a fold's weirs: the held time of each class's window (R262), and the memory part of its
interference, task by task (R223, R271). -/
def accrueHeld (ns n : Nat) (s : State) : State :=
  let l := s.xlate.held.filter fun h => tagFold h.tag == n && h.tag != 0 && heldLives s h
  let mine := (s.cmds.filter fun c => tagFold c.tag == n && counted c).filter fun c =>
    match oldestHeld l c.uid with
    | none => false
    | some h => keptOut s n h
  let part := ns * mine.length
  let partLc := ns * (mine.filter (cmdLc s)).length
  let s1 := forEach (l.map fun h => h.key).dedup (fun k s => modMeter n k (fun m => { m with winHeld := m.winHeld + ns }) s) s
  if part = 0 then s1 else
  modFold s1 n fun f => { f with sched := { f.sched with
    interference := f.sched.interference + part, interferenceLc := f.sched.interferenceLc + partLc } }

/-- A time passes: figures of every fold, and the beats that enter the arrays (R223, R262, R270, R271). -/
def accrue (ns : Nat) (s : State) : State :=
  let folds := (s.cmds.map (fun c => tagFold c.tag) ++ s.xlate.held.map fun h => tagFold h.tag).dedup
  let s1 := forEach folds (fun n s => accrueHeld ns n (accrueFold ns n s)) s
  forEach ((s.engines.filter fun p => p.2.tile.isSome).map fun p => p.1) (fun e s =>
    match (engineAt s e).tile.bind (cmdAt s) with
    | none => s
    | some c => enterTo e c ((engineAt s e).entered + beatsIn s ns) s) s1

end Sys2Proof.Machine
end

