-- ==== Sys2Proof/Machine/Folds.lean ====
section
/-! DEFINITION. Folds: admission of a COMMIT (R227, R264), its effect and that of an armed DELETE at their boundary (R228,
R229, R235), CANCEL, DISABLE and its drain (R234), ENABLE, SCRUB (R236), zero fills (R228), FOLD_FREEZE (R241), and the
statement page (R249, R250). -/

namespace Sys2Proof.Machine

/-! ### Predicted boundaries (R225, R367) -/

/-- Length of epoch e in ns: the length in force, or the one armed for it (R367). -/
def lenOf (s : State) (e : Nat) : Nat :=
  if s.tb.lenSwitch ≠ 0 ∧ s.tb.lenSwitch.toNat ≤ e then s.tb.lenNext.toNat else s.tb.len.toNat

/-- The first epoch whose boundary lies at least `need` ns after the last boundary; `off` is the boundary of epoch e. -/
def epochFrom (s : State) (need : Nat) : Nat → Nat → Nat → Nat
  | 0, e, _ => e
  | fuel + 1, e, off => if need ≤ off then e else epochFrom s need fuel (e + 1) (off + lenOf s e)

/-- The epoch that a commit_epoch of 0 selects: its boundary is predicted at least 20 µs after the write (R225). -/
def autoEpoch (s : State) : W64 :=
  let need := sinceBoundary s + 20000
  BitVec.ofNat 64 (epochFrom s need (need / 8000 + 2) (s.tb.epoch.toNat + 1) (lenOf s s.tb.epoch.toNat))

/-- The epoch a COMMIT or DELETE is armed for. -/
def armEpoch (s : State) (n : Nat) : W64 :=
  if (foldAt s n).commitEpoch = 0 then autoEpoch s else (foldAt s n).commitEpoch

/-- commit_epoch is 0 or lies ahead (check 2 of R227, R235). -/
def epochOk (s : State) (n : Nat) : Bool :=
  (foldAt s n).commitEpoch == 0 || decide (s.tb.epoch.toNat < (foldAt s n).commitEpoch.toNat)

/-! ### What folds hold and claim -/

/-- The values a fold holds: nothing before it exists. -/
def heldRes (s : State) (n : Nat) : FoldRes := if foldExists s n then (foldAt s n).live else FoldRes.reset

/-- The values an armed commit claims: the staged ones. -/
def claimRes (s : State) (n : Nat) : Option FoldRes :=
  (foldAt s n).armed.map fun _ => (foldAt s n).staged

/-- A fold's armed commit, for epoch e or earlier, releases a unit: `has` tells whether values hold it. -/
def releases' (s : State) (m : Nat) (e : W64) (has : FoldRes → Bool) : Bool :=
  match (foldAt s m).armed with
  | none => false
  | some a => decide (a.toNat ≤ e.toNat) && !has (foldAt s m).staged

/-- A unit the commit of fold n adds is free for it at epoch e (check 4 of R227). -/
def unitFree (s : State) (n : Nat) (e : W64) (has : FoldRes → Bool) : Bool :=
  (List.range 16).all fun m => m == n ||
    ((!has (heldRes s m) || releases' s m e has) &&
      (match claimRes s m with | none => true | some r => has (heldRes s m) || !has r))

/-- A half-group with no unusable core, in a paddock that is in use. -/
def halfUsable (s : State) (h : Nat) : Bool :=
  !halfVacant s h

/-- A usable pond unit, in a paddock that is in use (R399); units are numbered 32 × paddock + unit. -/
def pondUsable (s : State) (u : Nat) : Bool := !paddockOut s (u / 32) && !unitOut s (352 + u)

/-- Check 4 of R227. -/
def unitsOk (s : State) (n : Nat) (e : W64) : Bool :=
  let f := foldAt s n
  let old := heldRes s n
  let new := f.staged
  ((bitList 32 (new.engines &&& ~~~ old.engines)).all fun i => unitFree s n e fun r => r.engines.getLsbD i) &&
  ((bitList 16 (new.halfGroups &&& ~~~ old.halfGroups)).all fun i =>
    unitFree s n e (fun r => r.halfGroups.getLsbD i) && halfUsable s i) &&
  ((bitList 256 (new.pondUnits &&& ~~~ old.pondUnits)).all fun i =>
    unitFree s n e (fun r => r.pondUnits.getLsbD i) && pondUsable s i) &&
  ((bitList 512 (new.tarnUnits &&& ~~~ old.tarnUnits)).all fun i =>
    unitFree s n e (fun r => r.tarnUnits.getLsbD i) && decide (i + s.weirG.cacheUnits.toNat < 512))

/-! ### The other checks of R227 -/

/-- Some fold of the instance is FREE. -/
def someFree (s : State) : Bool := (List.range 16).any fun n => (foldAt s n).state == .free

/-- Check 3. -/
def shapeOk (s : State) (n : Nat) : Bool :=
  let f := foldAt s n
  let r := f.staged
  decide (r.role.toNat ≤ 1) && (!r.padded || r.sealed) && decide (r.engines.toNat < 2 ^ s.lmap.licensed) &&
    (r.role != 1 || (heldRes s n).role == 1 ||
      !s.ctxs.any fun p => p.2.state == .live && p.2.fold == n) &&
    (r.role != 1 || f.resv.valid) && (r.role != 0 || r.pondUnits != 0 || r.tarnUnits != 0 || r.engines != 0 || r.halfGroups != 0)

/-- Licences of R451: fold count, reservoir, twin, second link port. -/
def licFolds (s : State) : Bool := bitAt s.ident.features 2
def licResv (s : State) : Bool := bitAt s.ident.features 3
def licTwin (s : State) : Bool := bitAt s.ident.features 4
def licPort1 (s : State) : Bool := bitAt s.ident.features 5

/-- Check 6. -/
def licencesOk (s : State) (n : Nat) : Bool :=
  let f := foldAt s n
  (f.state != .free || licFolds s ||
      decide (((List.range 16).filter fun m => (foldAt s m).state != .free).length < 4)) &&
    (f.staged.role != 1 || licResv s)

/-- Key slots that no fold holds or has reserved. -/
def freeKeys (s : State) : List Nat := (List.range 32).filter fun k => Tab.get 0 s.xlate.keySlots k == 0

/-- A fold's guarantee in a class for admission: the larger of the live one and the one armed (R264). -/
def admitted (s : State) (m c : Nat) : Nat :=
  let g := fun (r : FoldRes) => (Tab.get WeirSet.reset r.weirs c).guarantee.toNat
  max (g (heldRes s m)) (match claimRes s m with | none => 0 | some r => g r)

/-- The sum of R264 for fold n's staged value. -/
def admitSum (s : State) (n c : Nat) : Nat :=
  (Tab.get WeirSet.reset (foldAt s n).staged.weirs c).guarantee.toNat +
    (((List.range 16).filter fun m => m != n).map fun m => admitted s m c).sum

/-- The cache ways of fold n's staged values clash with no fold's (R264). -/
def waysOk (s : State) (n : Nat) : Bool :=
  let r := (foldAt s n).staged
  s.weirG.cacheUnits == 0 || (List.range 16).all fun m => m == n ||
    ((heldRes s m :: (claimRes s m).toList).all fun x =>
      !(r.sealed || x.sealed) || (r.cacheWays &&& x.cacheWays) == 0)

/-- Check 8 (R264). -/
def sharesOk (s : State) (n : Nat) : Bool :=
  let d := s.weirG.derate.toNat
  let a := admitSum s n
  decide (a 0 * 1000 ≤ d * s.weirG.stackCapNow.toNat) && decide (a 1 * 1000 ≤ d * s.weirG.farCapNow.toNat) &&
    decide ((a 0 + a 1) * 1000 ≤ d * s.weirG.stackCapNow.toNat) && decide (a 2 * 1000 ≤ d * 200000) &&
    decide (a 3 * 1000 ≤ d * s.weirG.hostCapNow.toNat) && waysOk s n

/-- The first check of R227 that fails gives the outcome; none fails: no value. Check 5 cannot fail: no fold holds a
mailbox master (R453). -/
def commitCheck (s : State) (n : Nat) : Option Byte :=
  let f := foldAt s n
  if !(f.state == .free || (f.state == .active && f.armed.isNone)) then some (if someFree s then stRange else stSlots)
  else if !epochOk s n then some stRange
  else if !shapeOk s n then some stRange
  else if !unitsOk s n (armEpoch s n) then some stRange
  else if !licencesOk s n then some stLicence
  else if f.state == .free && f.staged.keyed && (freeKeys s).isEmpty then some stSlots
  else if !sharesOk s n then some stOvercommit
  else none

def setOutcome (n : Nat) (st : Byte) (s : State) : State := modFold s n fun f => { f with ctlOutcome := st }

/-- Reserve a free key slot for a fold; which one is a free choice (R227). -/
def reserveKey (n : Nat) (s : State) : State :=
  let (i, s1) := drawBelow (freeKeys s).length s
  match (freeKeys s)[i]? with
  | none => s1
  | some k =>
    modFold { s1 with xlate := { s1.xlate with keySlots := Tab.set 0 s1.xlate.keySlots k (n + 1) } } n
      fun f => { f with keySlot := BitVec.ofNat 8 k }

/-- Free a fold's key slot and destroy its key. -/
def releaseKey (n : Nat) (s : State) : State :=
  let k := (foldAt s n).keySlot.toNat
  let s1 := modFold s n fun f => { f with keySlot := 0xFF, keyId := 0 }
  { s1 with xlate := { s1.xlate with keySlots := Tab.set 0 s1.xlate.keySlots k 0 } }

/-- Load a fold's slot with a key drawn from the random source: keys are numbered, and no number comes twice (R228). -/
def freshKey (n : Nat) (s : State) : State :=
  let s1 := { s with xlate := { s.xlate with nextKey := s.xlate.nextKey + 1 } }
  modFold s1 n fun f => { f with keyId := s.xlate.nextKey + 1 }

/-- COMMIT (R227). -/
def foldCommit (n : Nat) (s : State) : State :=
  match commitCheck s n with
  | some st => setOutcome n st s
  | none =>
    let f := foldAt s n
    let s1 := modFold s n fun f => { f with
      ctlOutcome := stSuccess, armed := some (armEpoch s n) }
    if f.state = .free then
      let s2 := setFoldState s1 n .pending
      if f.staged.keyed then reserveKey n s2 else s2
    else s1

/-- CANCEL (R227): PENDING, ACTIVE and DISABLED folds admit it (R233). -/
def foldCancel (n : Nat) (s : State) : State :=
  let f := foldAt s n
  if f.state ≠ .pending ∧ f.state ≠ .active ∧ f.state ≠ .disabled then setOutcome n stRange s
  else
    let s1 := modFold s n fun f => { f with
      ctlOutcome := stSuccess, armed := none, deleting := none,
      commitEpoch := if f.armed.isSome || f.deleting.isSome then 0 else f.commitEpoch }
    if f.state = .pending then
      let s2 := setFoldState s1 n .free
      if f.keySlot = 0xFF then s2 else releaseKey n s2
    else s1

/-- DISABLE (R233, R234). -/
def foldDisable (n : Nat) (s : State) : State :=
  let f := foldAt s n
  if f.state = .active ∨ f.state = .frozen then disableFold n s else setOutcome n stRange s

/-- ENABLE (R235). -/
def foldEnable (n : Nat) (s : State) : State :=
  let f := foldAt s n
  if f.state ≠ .disabled then setOutcome n stRange s
  else
    let s1 := if f.live.keyed ∧ f.keyId = 0 then freshKey n s else s
    setFoldState (modFold s1 n fun f => { f with ctlOutcome := stSuccess, drainUntil := none }) n .active

/-- An HQI is bound to a fold. -/
def hqiBound (s : State) (n : Nat) : Bool := s.hqis.any fun p => p.2.created && p.2.fold == n

/-- DELETE (R235): armed for its boundary. -/
def foldDelete (n : Nat) (s : State) : State :=
  let f := foldAt s n
  if f.state ≠ .disabled || hqiBound s n || f.deleting.isSome || !epochOk s n then setOutcome n stRange s
  else modFold s n fun f => { f with ctlOutcome := stSuccess, deleting := some (armEpoch s n) }

/-! ### Draining a disabled fold (R234) -/

/-- Work of a fold is left: commands of its contexts, or counted requests. -/
def foldBusy (s : State) (n : Nat) : Bool :=
  s.cmds.any (fun c => c.tag != 0 && tagFold c.tag == n) ||
    s.xlate.holders.any fun h => h.tag != 0 && tagFold h.tag == n && holderWorks s h

/-- Slots of a fold's contexts that are not FREE. -/
def foldSlots (s : State) (n : Nat) : List Nat :=
  (s.ctxs.filter fun p => p.2.state != .free && p.2.fold == n).map fun p => p.1

/-- Steps 3 to 5 of R183 for one context of a fold; a CONTEXT_TEARDOWN under way for it ends with them. -/
def endCtx (reason : Byte) (slot : Nat) (s : State) : State :=
  match teardownOf s slot with
  | none => freeCtx slot reason s
  | some c => success c (freeCtx slot reason s)

/-- The owned-fence lists of a fold's contexts can be read: they stand in host memory (R483). -/
def fencesReach (s : State) (n : Nat) : Bool := linkUp s || (foldSlots s n).all fun i => (ctxAt s i).fenceLen == 0

/-- Steps 2 to 4 of R234: the fold has drained. -/
def disableEnd (n : Nat) (s : State) : State :=
  if (foldAt s n).state = .closing ∧ !foldBusy s n ∧ fencesReach s n then
    let s1 := forEach (foldSlots s n) (endCtx 1) s
    setFoldState (modFold s1 n fun f => { f with ctlOutcome := stSuccess, drainUntil := none }) n .disabled
  else s

/-! ### Scrub (R236) and zero fills (R228) -/

/-- SCRUB: a DISABLED fold begins to scrub. -/
def foldScrub (n : Nat) (s : State) : State :=
  if (foldAt s n).state ≠ .disabled then setOutcome n stRange s
  else setFoldState (setOutcome n 0 s) n .scrubbing

/-- Zero a pond unit (32 × paddock + unit) or a tarn unit. -/
def zeroPondUnit (u : Nat) (s : State) : State :=
  { s with pond := memZero s.pond (u * 2 ^ 18) (2 ^ 18),
           poison := s.poison.filter fun p => !(p.1 == 0 && p.2 / 2 ^ 12 == u) }
def zeroTarnUnit (u : Nat) (s : State) : State :=
  { s with tarn := memZero s.tarn (u * 2 ^ 20) (2 ^ 20),
           poison := s.poison.filter fun p => !(p.1 == 1 && p.2 / 2 ^ 14 == u) }

/-- Every frame of a fold returns to the driver: valid = 0 (R154, R235, R236); cached lines of them are invalid (R261). -/
def dropFrames (n : Nat) (s0 : State) : State :=
  let s := dropFarLines (fun l => l.fold == n) s0
  { s with xlate := { s.xlate with frames := s.xlate.frames.filter fun p => !(bitAt p.2 7 && field p.2 0 4 == n) } }

/-- Clear a fold's gauges and its ceiling ratio (R269). -/
def clearFoldGauges (n : Nat) (s : State) : State :=
  let s1 := { s with gauges := { s.gauges with folds := s.gauges.folds.filter fun p => p.1 / 8 != n } }
  modFold s1 n fun f => { f with stmt := { f.stmt with ceilingRatio := 0 } }

/-- Every scrub action has ended. -/
def scrubEnd (n : Nat) (s : State) : State :=
  let f := foldAt s n
  if f.state ≠ .scrubbing then s
  else
    let s1 := forEach (bitList 512 f.live.tarnUnits) zeroTarnUnit (forEach (bitList 256 f.live.pondUnits) zeroPondUnit s)
    let s2 := clearFoldGauges n (dropFrames n s1)
    let s3 := modFold s2 n fun f => { f with
      keyId := 0, windows := [], sched := { f.sched with models := [], homes := [] }, scrubbed := true,
      ctlOutcome := stSuccess }
    setFoldState s3 n .disabled

/-- A zero fill ends: the unit's owner may use it (R228). -/
def fillEnd (u : FillUnit) (s : State) : State :=
  if u ∈ s.xlate.filling then
    let s1 := match u with
      | .pond p i => zeroPondUnit (32 * p + i) s
      | .tarn i => zeroTarnUnit i s
    { s1 with xlate := { s1.xlate with filling := s1.xlate.filling.filter fun x => x != u } }
  else s

/-- The units a fold gains are filled before its first access (R228). -/
def fillGained (old new : FoldRes) (s : State) : State :=
  let ps := (bitList 256 (new.pondUnits &&& ~~~ old.pondUnits)).map fun u => FillUnit.pond (u / 32) (u % 32)
  let ts := (bitList 512 (new.tarnUnits &&& ~~~ old.tarnUnits)).map FillUnit.tarn
  { s with xlate := { s.xlate with filling := s.xlate.filling ++ (ps ++ ts).filter fun u => !s.xlate.filling.contains u } }

/-! ### Armed changes at their boundary (R196 step 1, R228, R235) -/

/-- A fold that leaves the reservoir role keeps role 1 until its hand-over ends (R232, R327). -/
def commitLeaves (f : Fold) : Bool := f.state != .pending && f.live.role == 1 && f.staged.role == 0

/-- Role 1 takes effect: the index is empty, every slot free, the counters 0 (R314). -/
def resvStart (r : Resv) : Resv :=
  { Resv.reset with pageBase := r.pageBase, indexBase := r.indexBase, slotCount := r.slotCount, valid := r.valid, gens := r.gens }

/-- The armed commit of a fold takes effect. -/
def applyCommit (n : Nat) (a : W64) (s : State) : State :=
  let f := foldAt s n
  let old := heldRes s n
  let leaves := commitLeaves f
  let lost := old.cacheWays &&& ~~~ f.staged.cacheWays
  let s1 := modFold (dropFarLines (fun l => l.fold == n && bitAt lost l.way) s) n fun f => { f with
    live := { f.staged with role := if leaves then 1 else f.staged.role },
    armed := none, commitEpoch := 0,
    resv := if leaves then { f.resv with
        leaving := true, handover := some (a + BitVec.ofNat 64 s.resvG.handoverEpochs.toNat) }
      else if f.staged.role = 1 ∧ old.role ≠ 1 then resvStart f.resv else f.resv }
  let s2 := fillGained old f.staged s1
  if f.state = .pending then
    let s3 := clearFoldGauges n (modFold s2 n fun f => { f with
      serial := f.serial + 1, scrubbed := true, drainUntil := none, meters := [], stmt := Statement.reset })
    setFoldState (if f.staged.keyed then freshKey n s3 else s3) n .active
  else s2

/-- The armed DELETE of a fold takes effect: it is FREE, its staged entries at their defaults. -/
def applyDelete (n : Nat) (s : State) : State :=
  let s1 := dropFrames n (if (foldAt s n).keySlot = 0xFF then s else releaseKey n s)
  let f := foldAt s1 n
  setFoldState (setFold s1 n { Fold.reset with
    serial := f.serial, ctlOutcome := f.ctlOutcome, missVector := f.missVector, dumpBase := f.dumpBase,
    dumpLen := f.dumpLen, dumpNext := f.dumpNext, nextSeq := f.nextSeq, unacked := f.unacked, member := f.member,
    stmt := f.stmt }) n .free

/-- An armed change is due at the boundary that begins an epoch. -/
def dueAt (e : W64) (armed : Option W64) : Option W64 := armed.filter fun a => decide (a.toNat ≤ e.toNat)

/-- An armed DELETE is due: a DISABLED fold becomes FREE; in any other state the fold is not left by DELETE (R233), and the
DELETE is armed no longer (log entry 107). -/
def deleteDue (n : Nat) (s : State) : State :=
  if (foldAt s n).state = .disabled then applyDelete n s else modFold s n fun f => { f with deleting := none }

/-- The fold that owns an engine; none for the commons. -/
def engineOwner (s : State) (e : Nat) : Option Nat :=
  (List.range 16).find? fun n => foldExists s n && (foldAt s n).live.engines.getLsbD e

/-- Deletions and commits of one boundary; engines that change owner give their waiting tasks back (R32). -/
def applyArmed (e : W64) (s : State) : State :=
  let s1 := forEach (List.range 16) (fun n s =>
    if (dueAt e (foldAt s n).deleting).isSome then deleteDue n s else s) s
  let s2 := forEach (List.range 16) (fun n s' => match dueAt e (foldAt s' n).armed with
    | some a => applyCommit n a s'
    | none => s') s1
  forEach ((List.range 32).filter fun i => engineOwner s i != engineOwner s2 i)
    (fun i s => forEach (engineAt s i).queue withdraw s) s2

/-! ### Freezing (R241) -/

/-- A command that has not been dispatched, or that waits on a fence or a semaphore. -/
def stillOk (c : Cmd) : Bool :=
  match c.phase with
  | .accepted => true
  | .reading slot => slot
  | .waitFence .. => true
  | .waitSem .. => true
  | .residency => true
  | .faulted _ => opcodeOf c.desc == 1 || opcodeOf c.desc == 5
  | .parked => opcodeOf c.desc == 1 || opcodeOf c.desc == 5
  | _ => false

/-- A task that has begun no beat, or a launch that has placed no gang, is undispatched again and gives back the
translations it holds (R241; log entry 37). -/
def undispatch (uid : Nat) (s : State) : State :=
  match cmdAt s uid with
  | none => s
  | some c =>
    match c.phase with
    | .ready => endHolder (.task uid) (discardOperands uid (setPhase s uid .accepted))
    | .queued _ => endHolder (.task uid) (setPhase (withdraw uid s) uid .accepted)
    | .launched => if c.launch.next = 0 then setPhase s uid .accepted else s
    | _ => s

/-- Nothing of the fold runs and no counter of its contexts is above zero. -/
def foldQuiet (s : State) (n : Nat) : Bool :=
  (s.cmds.all fun c => c.tag == 0 || tagFold c.tag != n || stillOk c) &&
    s.xlate.holders.all fun h => h.tag == 0 || tagFold h.tag != n

/-- FOLD_FREEZE and FOLD_THAW: argument fields. -/
def fzFold (d : BitVec 512) : Nat := field d 128 4
def fzThaw (d : BitVec 512) : Bool := bitAt d 132

/-- The freeze ends: everything of the fold has ended (R241). -/
def freezeEnd (n : Nat) (s : State) : State :=
  match (foldAt s n).freezing with
  | none => s
  | some u =>
    if foldQuiet s n then
      let s1 := modFold s n fun f => { f with freezing := none, drainUntil := none, frozenTime := now s }
      complete u (.plain stSuccess) (setFoldState s1 n .frozen)
    else s

/-- FOLD_FREEZE, thaw = 0. -/
def startFreeze (c : Cmd) (s : State) : State :=
  let n := fzFold c.desc
  let f := foldAt s n
  if f.state ≠ .active ∨ f.armed.isSome ∨ f.freezing.isSome then rangeEnd c s
  else
    let s1 := modFold s n fun f => { f with freezing := some c.uid, drainUntil := some (drainDeadline s) }
    forEach (cmdsWhere s1 fun x => x.tag != 0 && tagFold x.tag == n) undispatch (setPhase s1 c.uid .freezing)

/-- FOLD_FREEZE, thaw = 1: reading and dispatch resume. -/
def startThaw (c : Cmd) (s : State) : State :=
  let n := fzFold c.desc
  if (foldAt s n).state = .frozen then success c (setFoldState s n .active) else rangeEnd c s

/-- The drain limit runs out under a freeze: the fold is ACTIVE again with nothing lost (R241). -/
def freezeExpire (n : Nat) (s : State) : State :=
  match (foldAt s n).freezing with
  | none => s
  | some u =>
    complete u (.plain stAborted) (modFold s n fun f => { f with freezing := none, drainUntil := none })

end Sys2Proof.Machine
end

