-- ==== Sys2Proof/Machine/Flocks.lean ====
section
/-! DEFINITION. Flocks: proposals and their checks (R281, R282), PREPARE, ACK, NAK, ABORT, SNAPSHOT and EXCLUDE (R280,
R283-R291), versions in force at their boundary (R286, R287, R289), the judgement of a request's version (R288), and the
tasks carried to other members (R276, R293-R295, R297). -/

namespace Sys2Proof.Machine

/-! ### Names of folds (R238, R280) -/

def peerOf (node : BitVec 18) (fold : Nat) : W32 := BitVec.ofNat 32 (2 ^ 31 + node.toNat * 16 + fold % 16)
def peerNode (p : W32) : BitVec 18 := bitsAt p 4 18
def peerFold (p : W32) : Nat := field p 0 4
def peerValid (p : W32) : Bool := bitAt p 31
def myPeer (s : State) (n : Nat) : W32 := peerOf (myNode s) n
/-- The fold a map entry names, in the peer layout. -/
def mePeer (e : BitVec 128) : W32 := peerOf (meNode e) (field e 96 4)
def senderOf (h : MsgHdr) : W32 := peerOf h.senderNode h.senderFold.toNat

/-- Post a message of fold n to a fold in the peer layout. -/
def tell (n : Nat) (p : W32) (t : Nat) (h : MsgHdr) (count : Nat) (payload : List Byte) (s : State) : State :=
  if peerValid p then
    postMsg { hdr := { h with epoch := s.tb.epoch, senderNode := myNode s, senderFold := BitVec.ofNat 4 n },
              mtype := t, node := peerNode p, fold := peerFold p, count := count, payload := payload, vc := 33 } s
  else s

/-- The rank a fold sends with: that of its own flock's header. -/
def rankOf (s : State) (n : Nat) : BitVec 2 :=
  let m := (foldAt s n).member
  if m.bellwether = myPeer s n then 0 else if m.replica1 = myPeer s n then 1 else if m.replica2 = myPeer s n then 2 else 3

/-- A header of fold n for its own flock and a version. -/
def flockHdr (s : State) (n : Nat) (flock version : W32) (rank : BitVec 2) (detail : Byte) : MsgHdr :=
  { epoch := s.tb.epoch, version := version, flockId := flock, senderNode := myNode s,
    senderFold := BitVec.ofNat 4 n, senderRank := rank, detail := detail }

/-! ### New maps -/

/-- Entry m of a map with changes put over the map of fold n. -/
def newEntry (s : State) (n : Nat) (recs : List ChangeRec) (m : Nat) : BitVec 128 :=
  match recs.find? fun r => r.member.toNat == m with
  | some r => r.entry
  | none =>
    let x := (foldAt s n).member
    if x.state = 0 ∨ x.lastMember.toNat < m then 0 else mapEntry s n m

/-- The valid entries of the new map, ascending. -/
def newValid (s : State) (n : Nat) (recs : List ChangeRec) (last : Nat) : List (Nat × BitVec 128) :=
  ((List.range (last + 1)).map fun m => (m, newEntry s n recs m)).filter fun p => meValid p.2

/-- The valid entries of the map in force. -/
def oldValid (s : State) (n : Nat) : List (Nat × BitVec 128) := (mapMembers s n).map fun m => (m, mapEntry s n m)

/-- Folds that join: a valid new entry names them and no valid, non-excluded old entry does (R282). -/
def joiners (s : State) (n : Nat) (new : List (Nat × BitVec 128)) : List W32 :=
  ((new.map fun p => mePeer p.2).filter fun x => !((oldValid s n).any fun q => mePeer q.2 == x && !meExcluded q.2)).dedup

/-- Everyone a PREPARE goes to: the folds of the old map and of the new one (R280, R282). -/
def recipients (s : State) (n : Nat) (new : List (Nat × BitVec 128)) : List W32 :=
  ((oldValid s n ++ new).map fun p => mePeer p.2).dedup

/-! ### Proposals (R281, R282) -/

/-- A proposal as read. -/
structure Proposal where
  flock : W32
  base : W32
  count : Nat
  hdr : MapHdr
  recs : List ChangeRec
  clean : Bool
  deriving DecidableEq, Repr

/-- A change record of R280. -/
def changeOf (bs : List Byte) : ChangeRec :=
  let v := BitVec.ofNat 256 (ofLe bs)
  { member := bitsAt v 128 16, entry := bitsAt v 0 128, reservedZero := field v 144 112 == 0 }

/-- A map header of R280. -/
def mapHdrOf (v : BitVec 256) : MapHdr :=
  { bellwether := bitsAt v 224 32, replica1 := bitsAt v 192 32, replica2 := bitsAt v 160 32,
    lastMember := bitsAt v 144 16, reproducible := bitAt v 143, reservedZero := field v 0 143 == 0 }

def mapHdrBytes (h : MapHdr) : List Byte :=
  leBytes 32 (h.bellwether.toNat * 2 ^ 224 + h.replica1.toNat * 2 ^ 192 + h.replica2.toNat * 2 ^ 160 +
    h.lastMember.toNat * 2 ^ 144 + (if h.reproducible then 2 ^ 143 else 0))

def changeBytes (r : ChangeRec) : List Byte := leBytes 32 (r.entry.toNat + r.member.toNat * 2 ^ 128)

/-- Reserved fields of an entry are 0. -/
def entryClean (e : BitVec 128) : Bool := field e 118 6 == 0 && field e 0 4 == 0

/-- The proposal record from its header and the bytes of its change records. -/
def proposalOf (h : BitVec 512) (bs : List Byte) : Proposal :=
  let recs := (chunksOf 32 (bs.length / 32) bs).map changeOf
  { flock := bitsAt h 480 32, base := bitsAt h 448 32, count := field h 416 32, hdr := mapHdrOf (bitsAt h 160 256),
    recs := recs,
    clean := field h 0 160 == 0 && (mapHdrOf (bitsAt h 160 256)).reservedZero &&
      recs.all fun r => r.reservedZero && entryClean r.entry }

/-- Read the proposal record; none when it cannot be read. -/
def readProposal (s : State) : Got × Option Proposal × State :=
  let a := s.flock.proposeAddr.toNat
  match readRange 8 0 a 64 s with
  | (.ok hb, s1) =>
    let h := BitVec.ofNat 512 (ofLe hb)
    let n := min 4097 (field h 416 32)
    (match readRange 8 0 (a + 64) (32 * n) s1 with
      | (.ok bs, s2) => (.ok [], some (proposalOf h bs), s2)
      | (g, s2) => (g, none, s2))
  | (g, s1) => (g, none, s1)

/-- Check 1. -/
def mayPropose (s : State) (n : Nat) (promote : Bool) (p : Proposal) : Bool :=
  let m := (foldAt s n).member
  if promote then m.lead == 2 && m.flockId == p.flock
  else (m.lead == 1 && m.flockId == p.flock) ||
    (p.base == 0 && m.state == 0 && m.mapValid && m.admitFlock == p.flock)

/-- Check 4: a peer field names a valid, non-excluded fold entry of compute role. -/
def leaderOk (new : List (Nat × BitVec 128)) (p : W32) : Bool :=
  peerValid p && new.any fun e => mePeer e.2 == p && !meSub e.2 && !meExcluded e.2 && !meReservoir e.2

/-- Leaf bases are running sums (check 5). -/
def leavesOk : Nat → List (Nat × BitVec 128) → Bool
  | sum, [] => decide (sum ≤ 2 ^ 20)
  | sum, (_, e) :: rest => meLeafBase e == sum && leavesOk (sum + meLeafCount e) rest

/-- Engine ranges are disjoint and lie below 0xFFFFF (check 5). -/
def enginesOk (new : List (Nat × BitVec 128)) : Bool :=
  let rs := (new.map fun p => (meEngineBase p.2, meEngineCount p.2)).filter fun r => r.2 != 0
  rs.all (fun r => decide (r.1 + r.2 ≤ 0xFFFFF)) &&
    rs.zipIdx.all fun x => rs.zipIdx.all fun y => x.2 == y.2 || !overlap x.1.1 x.1.2 y.1.1 y.1.2

/-- Checks 1 to 6 of R282. -/
def proposalOk (s : State) (n : Nat) (promote : Bool) (p : Proposal) : Bool :=
  let new := newValid s n p.recs p.hdr.lastMember.toNat
  mayPropose s n promote p &&
    p.base == (foldAt s n).member.version &&
    ((List.range 16).all fun k => match (foldAt s k).member.proposed with
      | some h => h.hdr.flockId != p.flock
      | none => true) &&
    decide (p.count ≤ 4096) && (p.recs.map fun r => r.member).Nodup &&
    p.hdr.bellwether == myPeer s n && p.hdr.replica1 != p.hdr.replica2 && p.hdr.bellwether != p.hdr.replica1 &&
    p.hdr.bellwether != p.hdr.replica2 && leaderOk new p.hdr.bellwether && leaderOk new p.hdr.replica1 &&
    leaderOk new p.hdr.replica2 &&
    enginesOk new && leavesOk 0 new &&
    (new.all fun e => (meSub e.2 || meLeafCount e.2 == 1) && (!meReservoir e.2 || meEngineCount e.2 == 0)) && p.clean

/-- The members that had not answered a change in flight, marked excluded (R291). -/
def unanswered (s : State) (n : Nat) (recs : List ChangeRec) (last : Nat) : List ChangeRec :=
  match (foldAt s n).member.held with
  | none => recs
  | some h =>
    let new := newValid s n recs last
    let asked := recipients s n (newValid s n h.recs h.mapHdr.lastMember.toNat)
    let late := new.filter fun p => asked.contains (mePeer p.2) && !h.acks.contains (mePeer p.2).toNat
    (recs.filter fun r => late.all fun p => p.1 != r.member.toNat) ++
      late.map fun p => { member := BitVec.ofNat 16 p.1, entry := setBit p.2 125, reservedZero := true }

/-- SNAPSHOT of a whole new map. -/
def snapshotBytes (s : State) (n : Nat) (recs : List ChangeRec) (last : Nat) : List Byte :=
  leBytes 4 0 ++ (List.range (last + 1)).flatMap fun m => leBytes 16 (newEntry s n recs m).toNat

/-- Set propose_outcome. -/
def setPropose (st : Byte) (s : State) : State := { s with flock := { s.flock with outcome := st } }

/-- PROPOSE and PROMOTE (R282, R290): one whose record cannot be read yet stays in `proposing`. -/
def propose (promote : Bool) (s0 : State) : State :=
  let s := { s0 with flock := { s0.flock with proposing := none } }
  let n := s.flock.proposeFold.toNat
  match readProposal s with
  | (.wait, _, s1) => { s1 with flock := { s1.flock with proposing := some promote } }
  | (_, none, s1) => setPropose stRange s1
  | (_, some p, s1) =>
    if !proposalOk s1 n promote p then setPropose stRange s1
    else
      let last := p.hdr.lastMember.toNat
      let recs := if promote then unanswered s1 n p.recs last else p.recs
      let new := newValid s1 n recs last
      let h := flockHdr s1 n p.flock (p.base + 1) (if promote then rankOf s1 n else 0) 0
      let held : HeldMap := { version := p.base + 1, hdr := h, mapHdr := p.hdr, recs := recs,
                              applyAt := s1.tb.epoch + 2, forParent := false, acks := [] }
      let s2 := modFold s1 n fun f => { f with member := { f.member with proposed := some held, abortNak := false } }
      let s3 := { s2 with flock := { s2.flock with outcome := 0, epoch := s1.tb.epoch + 2 } }
      let body := mapHdrBytes p.hdr ++ recs.flatMap changeBytes
      let s4 := forEach (recipients s1 n new) (fun x s => tell n x 1 h recs.length body s) s3
      forEach (joiners s1 n new) (fun x s =>
        tell n x 6 { h with senderRank := h.senderRank } (last + 1) (snapshotBytes s1 n recs last) s) s4

/-- A proposal whose record could not be read is read again. -/
def proposeAgain (s : State) : State :=
  match s.flock.proposing with
  | none => s
  | some promote => propose promote s

/-! ### Receiving a PREPARE (R283-R285, R290) -/

/-- A fold's values in force at an epoch, counting a commit armed for it (R285). -/
def resAt (s : State) (n : Nat) (e : W64) : FoldRes :=
  match (foldAt s n).armed with
  | some a =>
    if e.toNat < a.toNat then heldRes s n
    else { (foldAt s n).staged with role := if commitLeaves (foldAt s n) then 1 else (foldAt s n).staged.role }
  | none => heldRes s n

/-- R285. -/
def ownEntryOk (s : State) (n : Nat) (e : BitVec 128) (mh : MapHdr) (at' : W64) : Bool :=
  let r := resAt s n at'
  !meSub e && meNode e == myNode s && tagFold (meTag e) == n && meReservoir e == (r.role == 1) &&
    meEngineCount e == countBits 32 r.engines &&
    (if meReservoir e then field (meTag e) 0 12 == 0
     else tagOpen s (meTag e) && (ctxAt s (tagSlot (meTag e))).reproducible == mh.reproducible)

/-- The own map's totals of engines and leaves at an epoch (R284). -/
def totalsAt (s : State) (n : Nat) (e : W64) : Nat × Nat :=
  let m := (foldAt s n).member
  let es := match m.held with
    | some h => if h.applyAt.toNat ≤ e.toNat then newValid s n h.recs h.mapHdr.lastMember.toNat else oldValid s n
    | none => oldValid s n
  ((es.map fun p => meEngineCount p.2).sum, (es.map fun p => meLeafCount p.2).sum)

/-- A fold's new entry among a change's records, or the one it keeps. -/
def ownNew (s : State) (n : Nat) (recs : List ChangeRec) : Option (BitVec 128) :=
  match recs.find? fun r => meValid r.entry && mePeer r.entry == myPeer s n with
  | some r => some r.entry
  | none =>
    let m := (foldAt s n).member
    if m.state = 2 ∧ !recs.any (fun r => r.member == m.memberNo) then some (mapEntry s n m.memberNo.toNat) else none

/-- The message concerns the fold as representative of its flock in a parent: the one it stands in, or one that may admit it (R284). -/
def asParent (s : State) (n : Nat) (h : MsgHdr) : Bool :=
  let m := (foldAt s n).member
  h.flockId != m.flockId &&
    ((m.parentVersion != 0 && h.flockId == m.parentFlock) || (h.flockId == m.admitParent && m.admitParent != 0))

/-- The valid entries of the parent's map in force. -/
def parentValid (s : State) (n : Nat) : List (Nat × BitVec 128) :=
  (foldAt s n).member.parentMap.filter fun p => meValid p.2 && decide (p.1 ≤ (foldAt s n).member.parentHdr.lastMember.toNat)

/-- A fold's own entry in its parent's map. -/
def parentEntry (s : State) (n : Nat) : Option (Nat × BitVec 128) := (parentValid s n).find? fun p => mePeer p.2 == myPeer s n

/-- The fold would join the parent: it stands in no parent's map, or is excluded there. -/
def joinsParent (s : State) (n : Nat) : Bool :=
  (foldAt s n).member.parentVersion == 0 || (match parentEntry s n with | some p => meExcluded p.2 | none => true)

/-- The fold's entry in its parent's new map, or none when that removes it. -/
def parentNew (s : State) (n : Nat) (recs : List ChangeRec) : Option (BitVec 128) :=
  match recs.find? fun r => meValid r.entry && mePeer r.entry == myPeer s n with
  | some r => some r.entry
  | none =>
    match parentEntry s n with
    | some p => if joinsParent s n || recs.any (fun r => r.member.toNat == p.1) then none else some p.2
    | none => none

/-- The first reason for a NAK at the parent's level, or none (R283, R284). -/
def parentNak (s : State) (n : Nat) (h : MsgHdr) (recs : List ChangeRec) : Option Byte :=
  let m := (foldAt s n).member
  let joins := joinsParent s n
  let known := if joins then senderOf h == m.admitParentBell && h.flockId == m.admitParent
    else h.flockId == m.parentFlock && (senderOf h == m.parentHdr.bellwether || senderOf h == m.parentHdr.replica1 ||
      senderOf h == m.parentHdr.replica2)
  let ok := match parentNew s n recs with
    | none => !joins
    | some e => meSub e && totalsAt s n (h.epoch + 2) == (meEngineCount e, meLeafCount e)
  if !joins ∧ h.version ≠ m.parentVersion + 1 then some 1
  else if !known then some 2
  else if !ok then some 3
  else if !m.mapValid then some 5 else none

/-- The fold joins: it is no member in force. -/
def isJoiner (s : State) (n : Nat) : Bool := (foldAt s n).member.state != 2

/-- The first reason for a NAK (R280, R283), or none. -/
def nakReason (s : State) (n : Nat) (h : MsgHdr) (mh : MapHdr) (recs : List ChangeRec) : Option Byte :=
  let m := (foldAt s n).member
  if asParent s n h then parentNak s n h recs
  else
    let joins := isJoiner s n
    let known := if joins then senderOf h == m.admitBell && h.flockId == m.admitFlock && m.admitFlock != 0
      else h.flockId == m.flockId && (senderOf h == m.bellwether || senderOf h == m.replica1 || senderOf h == m.replica2)
    if !joins ∧ h.version ≠ m.version + 1 then some 1
    else if !known then some 2
    else if (match ownNew s n recs with | some e => !ownEntryOk s n e mh (h.epoch + 2) | none => joins) then some 3
    else if !m.mapValid then some 5 else none

/-- Answer the bellwether and both replicas named in a PREPARE. -/
def answer (n : Nat) (h : MsgHdr) (mh : MapHdr) (t : Nat) (detail : Byte) (s : State) : State :=
  let a := flockHdr s n h.flockId h.version (rankOf s n) detail
  forEach [mh.bellwether, mh.replica1, mh.replica2] (fun p s => tell n p t a 0 [] s) s

def countRefused (s : State) : State := { s with flock := { s.flock with msgsRefused := s.flock.msgsRefused + 1 } }

/-- Answer with a NAK. -/
def sayNak (n : Nat) (h : MsgHdr) (mh : MapHdr) (detail : Byte) (s : State) : State := countRefused (answer n h mh 3 detail s)

/-- Change a membership state; its vector is raised when it changes (R278). -/
def setMemberState (n st : Nat) (s : State) : State :=
  let m := (foldAt s n).member
  if m.state = st then s
  else raiseVector m.vector (modFold s n fun f => { f with member := { f.member with state := st } })

/-- What a change is known by: its proposer, flock and version. -/
def msgKey (h : MsgHdr) : W32 × W32 × W32 := (senderOf h, h.flockId, h.version)

/-- The whole SNAPSHOT of a change's new map has come. -/
def snapshotWhole (m : Member) (h : HeldMap) : Bool :=
  m.snapshotOf == some (msgKey h.hdr) && decide (h.mapHdr.lastMember.toNat < m.snapshotCount)

/-- The same at the parent's level. -/
def parentWhole (m : Member) (h : HeldMap) : Bool :=
  m.parentSnapshotOf == some (msgKey h.hdr) && decide (h.mapHdr.lastMember.toNat < m.parentSnapshotCount)

/-- A fold no longer holds a change, nor what it has of the new map. -/
def dropHeld (m : Member) : Member :=
  { m with held := none, answered := none, snapshot := [], snapshotCount := 0, snapshotOf := none }

/-- The same at the parent's level. -/
def dropParent (m : Member) : Member :=
  { m with heldParent := none, parentAnswered := none, parentSnapshot := [], parentSnapshotCount := 0, parentSnapshotOf := none }

/-- A fold is excluded from its flock; a change it held as a member is void (R289). -/
def excludeFold (n : Nat) (s : State) : State :=
  if (foldAt s n).member.state = 2 then setMemberState n 4 (modFold s n fun f => { f with member := dropHeld f.member }) else s

/-- ACK a held change, once; a joiner answers when its SNAPSHOT has come, and its state becomes 1 (R283). A change whose epoch has
begun is answered and no longer held: the fold stays at its old version (R286). -/
def sayAck (n : Nat) (s : State) : State :=
  let m := (foldAt s n).member
  match m.held with
  | none => s
  | some h =>
    if m.answered = some h.version ∨ (isJoiner s n ∧ !snapshotWhole m h) then s
    else
      let s1 := answer n h.hdr h.mapHdr 2 0
        (modFold s n fun f => { f with member := { f.member with answered := some h.version } })
      if h.applyAt.toNat ≤ s.tb.epoch.toNat then modFold s1 n fun f => { f with member := dropHeld f.member }
      else if isJoiner s n then setMemberState n 1 s1 else s1

/-- ACK a change of the parent's map, once; a joiner answers when its SNAPSHOT has come (R284). -/
def sayParentAck (n : Nat) (s : State) : State :=
  let m := (foldAt s n).member
  match m.heldParent with
  | none => s
  | some h =>
    if m.parentAnswered = some h.version ∨ (joinsParent s n ∧ !parentWhole m h) then s
    else
      let s1 := answer n h.hdr h.mapHdr 2 0
        (modFold s n fun f => { f with member := { f.member with parentAnswered := some h.version } })
      if h.applyAt.toNat ≤ s.tb.epoch.toNat then modFold s1 n fun f => { f with member := dropParent f.member } else s1

/-- Hold a change and answer it. -/
def holdMap (n : Nat) (h : MsgHdr) (mh : MapHdr) (recs : List ChangeRec) (s : State) : State :=
  let x : HeldMap := { version := h.version, hdr := h, mapHdr := mh, recs := recs, applyAt := h.epoch + 2,
                       forParent := asParent s n h, acks := [] }
  if asParent s n h then
    sayParentAck n (modFold s n fun f => { f with member := { f.member with heldParent := some x, parentAnswered := none } })
  else
    sayAck n (modFold s n fun f => { f with member := { f.member with held := some x, answered := none } })

/-- A PREPARE of a version already held from another sender: the lower rank is kept (R290). -/
def rivalOf (s : State) (n : Nat) (h : MsgHdr) : Option HeldMap :=
  let m := (foldAt s n).member
  match (if asParent s n h then m.heldParent else m.held) with
  | some x => if x.version = h.version then some x else none
  | none => none

/-- Judge a PREPARE: ACK or NAK (R283). -/
def judgePrepare (n : Nat) (h : MsgHdr) (mh : MapHdr) (recs : List ChangeRec) (s : State) : State :=
  match nakReason s n h mh recs with
  | some r => sayNak n h mh r s
  | none => holdMap n h mh recs s

/-- PREPARE at fold n. -/
def prepareAt (n : Nat) (h : MsgHdr) (mh : MapHdr) (recs : List ChangeRec) (s : State) : State :=
  match rivalOf s n h with
  | none => judgePrepare n h mh recs s
  | some x =>
    if senderOf x.hdr = senderOf h then s
    else if h.senderRank.toNat < x.hdr.senderRank.toNat then
      judgePrepare n h mh recs (sayNak n x.hdr x.mapHdr 4 (modFold s n fun f => { f with member :=
        if x.forParent then { f.member with heldParent := none, parentAnswered := none }
        else { f.member with held := none, answered := none } }))
    else sayNak n h mh 4 s

/-- An ACK adds its sender to the answers that the bellwether and the replicas know (R291). -/
def ackAt (n : Nat) (h : MsgHdr) (s : State) : State :=
  let note := fun (x : Option HeldMap) => match x with
    | none => none
    | some y => if y.version = h.version ∧ y.hdr.flockId = h.flockId then
        some { y with acks := addOnce (senderOf h).toNat y.acks } else some y
  modFold s n fun f => { f with member :=
    { f.member with proposed := note f.member.proposed, held := note f.member.held } }

/-- A NAK: SUPERSEDED makes the proposer abort its change (R290). -/
def nakAt (n : Nat) (h : MsgHdr) (s : State) : State :=
  match (foldAt s n).member.proposed with
  | none => s
  | some p =>
    if p.version ≠ h.version ∨ p.hdr.flockId ≠ h.flockId ∨ h.detail ≠ 4 ∨ (foldAt s n).member.abortNak then s
    else
      let new := newValid s n p.recs p.mapHdr.lastMember.toNat
      let s1 := modFold s n fun f => { f with member := { f.member with abortNak := true } }
      forEach (recipients s n new) (fun x s => tell n x 5 p.hdr 0 [] s) s1

/-- ABORT: the receiver discards the change of that sender and version (R290); a joiner is again what it was, with no flock or excluded
from the one it names. -/
def abortAt (n : Nat) (h : MsgHdr) (s : State) : State :=
  let m := (foldAt s n).member
  let hit := fun (x : Option HeldMap) => match x with
    | some y => y.version == h.version && senderOf y.hdr == senderOf h && y.hdr.flockId == h.flockId
    | none => false
  if hit m.held then
    let s1 := modFold s n fun f => { f with member := dropHeld f.member }
    if m.state = 1 then setMemberState n (if m.flockId = 0 then 0 else 4) s1 else s1
  else if hit m.heldParent then modFold s n fun f => { f with member := dropParent f.member }
  else s

/-- Entries put into a table from a first number on. -/
def putEntries (t : Tab (BitVec 128)) (first : Nat) (es : List (BitVec 128)) : Tab (BitVec 128) :=
  es.zipIdx.foldl (fun t x => Tab.set 0 t (first + x.2) x.1) t

/-- SNAPSHOT: entries of the whole new map of one change, for a joiner, from the bellwether that may admit it; they are kept until the
version is in force. Another change's SNAPSHOT begins anew. -/
def snapshotAt (n : Nat) (h : MsgHdr) (first : Nat) (es : List (BitVec 128)) (s : State) : State :=
  let m := (foldAt s n).member
  if asParent s n h then
    if !joinsParent s n || senderOf h != m.admitParentBell || h.flockId != m.admitParent then countRefused s
    else
      let more := m.parentSnapshotOf == some (msgKey h)
      sayParentAck n (modFold s n fun f => { f with member := { f.member with
        parentSnapshot := putEntries (if more then m.parentSnapshot else []) first es,
        parentSnapshotCount := (if more then m.parentSnapshotCount else 0) + es.length,
        parentSnapshotOf := some (msgKey h) } })
  else if !isJoiner s n || senderOf h != m.admitBell || h.flockId != m.admitFlock || m.admitFlock == 0 then countRefused s
  else
    let more := m.snapshotOf == some (msgKey h)
    sayAck n (modFold s n fun f => { f with member := { f.member with
      snapshot := putEntries (if more then m.snapshot else []) first es,
      snapshotCount := (if more then m.snapshotCount else 0) + es.length, snapshotOf := some (msgKey h) } })

/-- Store entry m of a fold's map copy, as management traffic. -/
def putEntry (n m : Nat) (e : BitVec 128) (s : State) : State :=
  { s with tarn := memWrite s.tarn ((foldAt s n).member.mapUnit.toNat * 2 ^ 20 + 16 * m) (leBytes 16 e.toNat) }

/-- Mark entries excluded; the fold's own makes its state 4 (R289). -/
def excludeAll (n : Nat) (ms : List Nat) (s : State) : State :=
  let s1 := forEach ms (fun m s => if meValid (mapEntry s n m) then putEntry n m (setBit (mapEntry s n m) 125) s else s) s
  if ms.contains (foldAt s n).member.memberNo.toNat then excludeFold n s1 else s1

/-- Mark entries of the parent's map excluded. -/
def excludeParent (n : Nat) (ms : List Nat) (s : State) : State :=
  let mark := fun (p : Nat × BitVec 128) => if ms.contains p.1 ∧ meValid p.2 then (p.1, setBit p.2 125) else p
  modFold s n fun f => { f with member := { f.member with parentMap := f.member.parentMap.map mark } }

/-- EXCLUDE at fold n: only from its bellwether, for its flock and version; one of a later version tells it that it is excluded. -/
def excludeAt (n : Nat) (h : MsgHdr) (ms : List Nat) (s : State) : State :=
  let m := (foldAt s n).member
  if asParent s n h then
    if m.parentVersion ≠ 0 ∧ h.flockId = m.parentFlock ∧ senderOf h = m.parentHdr.bellwether ∧ h.version = m.parentVersion then
      excludeParent n ms s
    else countRefused s
  else if m.state = 0 ∨ m.flockId ≠ h.flockId then countRefused s
  else if senderOf h = m.bellwether ∧ h.version = m.version then excludeAll n ms s
  else if m.state = 2 ∧ m.version.toNat < h.version.toNat then excludeFold n s
  else countRefused s

/-! ### A version comes into force (R286, R287, R289) -/

/-- The lead a header gives a fold. -/
def leadOf (s : State) (n : Nat) (mh : MapHdr) : Nat :=
  if mh.bellwether = myPeer s n then 1 else if mh.replica1 = myPeer s n ∨ mh.replica2 = myPeer s n then 2 else 0

/-- Put a held change into force at fold n. -/
def applyHeld (n : Nat) (h : HeldMap) (s : State) : State :=
  let m := (foldAt s n).member
  let removed := (ownNew s n h.recs).isNone
  let own := ((newValid s n h.recs h.mapHdr.lastMember.toNat).find? fun p => mePeer p.2 == myPeer s n).map fun p => p.1
  let s1 := if m.state = 2 then forEach h.recs (fun r s => putEntry n r.member.toNat r.entry s) s
    else forEach (List.range (h.mapHdr.lastMember.toNat + 1)) (fun i s => putEntry n i (Tab.get 0 m.snapshot i) s) s
  let own' := if m.state = 2 then own
    else (List.range (h.mapHdr.lastMember.toNat + 1)).find? fun i =>
      meValid (Tab.get 0 m.snapshot i) && mePeer (Tab.get 0 m.snapshot i) == myPeer s n
  let s2 := modFold s1 n fun f => { f with member := { f.member with
    flockId := h.hdr.flockId, version := h.version, bellwether := h.mapHdr.bellwether, replica1 := h.mapHdr.replica1,
    replica2 := h.mapHdr.replica2, appliedEpoch := s.tb.epoch,
    memberNo := BitVec.ofNat 16 (own'.getD m.memberNo.toNat), lastMember := h.mapHdr.lastMember,
    lead := leadOf s n h.mapHdr, reproducible := h.mapHdr.reproducible, held := none, answered := none, snapshot := [],
    snapshotCount := 0, snapshotOf := none } }
  setMemberState n (if removed then 3 else 2) s2

/-- A fold represents its flock in no parent any more. -/
def noParent (m : Member) : Member :=
  { m with parentVersion := 0, parentFlock := 0, parentHdr := blankHdr, parentMap := [], parentGone := false }

/-- Put a held change of the parent's map into force at fold n (R284, R286): a joiner takes the SNAPSHOT. -/
def applyParent (n : Nat) (h : HeldMap) (s : State) : State :=
  let m := (foldAt s n).member
  let map := if joinsParent s n then m.parentSnapshot
    else h.recs.foldl (fun t r => Tab.set 0 t r.member.toNat r.entry) m.parentMap
  modFold s n fun f => { f with member := dropParent { f.member with
    parentVersion := h.version, parentFlock := h.hdr.flockId, parentHdr := h.mapHdr, parentMap := map,
    parentApplied := s.tb.epoch, parentGone := (parentNew s n h.recs).isNone } }

/-- A fold leaves its flock for good: it refuses every flock request (R287). -/
def leaveFlock (n : Nat) (s : State) : State :=
  setMemberState n 0 (modFold s n fun f => { f with member := noParent { f.member with
    flockId := 0, version := 0, bellwether := 0, replica1 := 0, replica2 := 0, memberNo := 0, lastMember := 0, lead := 0,
    reproducible := false } })

/-- The bellwether marks who has not answered, and says so (R289). -/
def closeProposal (n : Nat) (p : HeldMap) (s : State) : State :=
  if (foldAt s n).member.abortNak then
    setPropose stRange (modFold s n fun f => { f with member := { f.member with proposed := none, abortNak := false } })
  else
    let late := (oldValid s n).filter fun e => !p.acks.contains (mePeer e.2).toNat
    let ms := late.map fun e => e.1
    let s1 := excludeAll n ms (modFold s n fun f => { f with member := { f.member with proposed := none } })
    let s2 := { s1 with flock := { s1.flock with outcome := stSuccess, excluded := BitVec.ofNat 32 ms.length } }
    if ms.isEmpty then s2
    else
      forEach (((oldValid s2 n).map fun e => mePeer e.2).dedup) (fun x s =>
        tell n x 4 (flockHdr s n p.hdr.flockId p.version 0 0) ms.length (ms.flatMap fun i => leBytes 4 i) s) s2

/-- A fold's own membership at a boundary: one removed an epoch ago leaves (R287); a change it has answered comes into force at its
epoch, and one it has not answered is void (R286). -/
def memberBoundary (n : Nat) (s : State) : State :=
  let e := s.tb.epoch.toNat
  let s1 := if (foldAt s n).member.state = 3 ∧ (foldAt s n).member.appliedEpoch.toNat < e then leaveFlock n s else s
  match (foldAt s1 n).member.held with
  | none => s1
  | some h =>
    if e < h.applyAt.toNat then s1
    else if (foldAt s1 n).member.answered = some h.version then applyHeld n h s1
    else modFold s1 n fun f => { f with member := dropHeld f.member }

/-- The same for its part in a parent flock (R284, R286, R287). -/
def parentBoundary (n : Nat) (s : State) : State :=
  let e := s.tb.epoch.toNat
  let m := (foldAt s n).member
  let s1 := if m.parentGone ∧ m.parentApplied.toNat < e then modFold s n fun f => { f with member := noParent f.member } else s
  match (foldAt s1 n).member.heldParent with
  | none => s1
  | some h =>
    if e < h.applyAt.toNat then s1
    else if (foldAt s1 n).member.parentAnswered = some h.version then applyParent n h s1
    else modFold s1 n fun f => { f with member := dropParent f.member }

/-- The flock part of boundary step 1, for the epoch the timebase now holds. -/
def flockBoundary (s : State) : State :=
  let e := s.tb.epoch.toNat
  forEach (List.range 16) (fun n s =>
    match (foldAt s n).member.proposed with
    | some p => if p.applyAt.toNat ≤ e then closeProposal n p s else s
    | none => s) (forEach (List.range 16) parentBoundary (forEach (List.range 16) memberBoundary s))

/-! ### Versions of requests (R288) -/

/-- What a request's map version comes to. -/
inductive VerJudge where
  | accept | hold | refuse
  deriving DecidableEq, Repr

/-- The rule of R288 at fold n; `parent` for a request at the level of its parent flock. -/
def judgeVersion (s : State) (n : Nat) (parent : Bool) (src : BitVec 18) (srcFold : Nat) (v : W32) : VerJudge :=
  let m := (foldAt s n).member
  let own := if parent then m.parentVersion else m.version
  let from0 := if parent then m.parentApplied else m.appliedEpoch
  let held := if parent then m.heldParent else m.held
  let answered := if parent then m.parentAnswered else m.answered
  let out := if parent then (parentValid s n).any fun p => mePeer p.2 == peerOf src srcFold && meExcluded p.2
    else match memberOf s n src srcFold with
      | some i => meExcluded (mapEntry s n i)
      | none => false
  if (m.state ≠ 2 ∧ m.state ≠ 3) ∨ own = 0 then .refuse
  else if v = own then .accept
  else if v + 1 = own ∧ from0 = s.tb.epoch ∧ !out then .accept
  else if v == own + 1 && (match held with | some h => h.version == v && answered == some v | none => false) then .hold
  else .refuse

/-- Count a stale request; at a fold's own level one of a later version tells it that it is excluded (R288, R289). -/
def refuseVersion (n : Nat) (parent : Bool) (v : W32) (s : State) : State :=
  let s1 := { s with flock := { s.flock with staleRefused := s.flock.staleRefused + 1 } }
  if !parent ∧ (foldAt s n).member.version.toNat < v.toNat then excludeFold n s1 else s1

/-! ### Carried tasks (R276, R293-R295) -/

def hopCount (d : BitVec 512) : Nat := field d 48 8

/-- Where a task's logical engine lies (R293). -/
inductive EngineAt where
  | own (i : Nat)
  | carry (e : BitVec 128) (i : Nat)
  | fenced
  | nowhere
  deriving DecidableEq, Repr

/-- Resolve a flock logical engine in the map of fold n. -/
def resolveEngine (s : State) (n e : Nat) : EngineAt :=
  match (oldValid s n).find? fun p => decide (meEngineBase p.2 ≤ e) && decide (e < meEngineBase p.2 + meEngineCount p.2) with
  | none => .nowhere
  | some (m, x) =>
    if meExcluded x then .fenced
    else if m = (foldAt s n).member.memberNo.toNat then .own (e - meEngineBase x)
    else .carry x (e - meEngineBase x)

/-- The descriptor as carried: engine, tag and hop count rewritten. -/
def carriedDesc (d : BitVec 512) (e : BitVec 128) (i : Nat) : BitVec 512 :=
  (d &&& ~~~ (place 0xFFFFF 76 20 ||| place 0xFFFF 32 16 ||| place 0xFF 48 8)) ||| place i 76 20 |||
    place (meTag e).toNat 32 16 ||| place (hopCount d - 1) 48 8

/-- Carry a task to another member; `tries` carries were made before (R294, R295). -/
def carryTask (c : Cmd) (e : BitVec 128) (i tries : Nat) (s : State) : State :=
  let n := tagFold c.tag
  if hopCount c.desc = 0 then tileRange c 0x0B hostMaster s
  else if !mayReach s n (meNode e) then holdRemote c.tag (meNode e) s
  else
    let k := { blankPacket s with
      destNode := meNode e, destTag := meTag e, mapVersion := (foldAt s n).member.version, ptype := 0x10,
      payload := bytesOf 64 (carriedDesc c.desc e i) }
    sendRequest n c.uid .none 0x7F01 0 (cmdLc s c) k
      (modCmd s c.uid fun x => { x with phase := .carried (tries + 1), readyAt := now s })

/-- A carried task is refused for its version before its first beat: it is resolved and carried once more, and a second
refusal ends it (R295). -/
def recarry (c : Cmd) (tries : Nat) (s : State) : State :=
  if 2 ≤ tries then tileFail c stFenced s
  else
    match resolveEngine s (tagFold c.tag) (tlEngine c.desc) with
    | .carry e i => carryTask c e i tries s
    | .own i => readyNamed c i s
    | .fenced => tileFail c stFenced s
    | .nowhere => tileRange c 0x0A hostMaster s

/-- A task whose queue order is met becomes ready on this instance, or is carried (R205, R293). -/
def dispatchTask (c : Cmd) (s : State) : State :=
  let n := tagFold c.tag
  let e := tlEngine c.desc
  if e = anyEngine then makeReady c none s
  else if !flockContext s c.tag then readyNamed c e s
  else
    match resolveEngine s n e with
    | .own i => readyNamed c i s
    | .carry x i => carryTask c x i 0 s
    | .fenced => tileFail c stFenced s
    | .nowhere => tileRange c 0x0A hostMaster s

end Sys2Proof.Machine
end

