-- ==== Sys2Proof/Machine/Twins.lean ====
section
/-! DEFINITION. Twin flocks (R304-R309): arming, the exchange and comparison of block digests, halts and partner loss. -/

namespace Sys2Proof.Machine

/-- START_EPOCH_WRITE (R304): 0 disarms; refused without the licence, without the lead, or for an epoch not ahead. -/
def twinArm (v : W64) (s : State) : Option State :=
  let t := s.twin
  if v = 0 then some { s with twin := { t with startEpoch := 0, state := 0 } }
  else if !licTwin s || t.fold.toNat ≥ 16 || (foldAt s t.fold.toNat).member.lead != 1 || decide (v.toNat ≤ s.tb.epoch.toNat) then
    none
  else
    some { s with twin := { t with
      startEpoch := v, state := 1, own := [], partnerHeld := [], outgoing := [], done := [], silent := 0, heard := false,
      haltPending := false } }

/-- A message of the twin bellwether to its partner. -/
def tellTwin (t : Nat) (detail : Byte) (count : Nat) (payload : List Byte) (s : State) : State :=
  let n := s.twin.fold.toNat
  let m := (foldAt s n).member
  tell n s.twin.partner t (flockHdr s n m.flockId m.version (rankOf s n) detail) count payload s

/-- The class A record of a twin event (R308, R309). -/
def twinFault (detail : Nat) (s : State) : State :=
  raiseVector s.twin.vector
    (raiseFault { cls := 0, detail := detail, tag := s.twin.tag, fold := some (tagFold s.twin.tag) } s)

/-- A pair of digests differs (R308). -/
def twinMismatch (own other : BitVec 128) (s : State) : State :=
  let w : BitVec 256 := place (field own 0 64) 192 64 ||| place (field other 0 64) 128 64 |||
    place s.tb.epoch.toNat 64 64 ||| place (field own 116 12) 52 12 ||| place (field own 90 26) 26 26
  let s1 := twinFault 0x40 { s with twin := { s.twin with mismatches := s.twin.mismatches + 1, lastMismatch := w } }
  if bitAt s.twin.mode 0 then
    tellTwin 0x11 1 0 [] { s1 with twin := { s1.twin with haltPending := true } }
  else s1

/-- Queue and block of a digest record. -/
def twinKey (d : BitVec 128) : Nat := field d 90 38

/-- Compare one own digest with the partner's of the same block, when it has come. -/
def twinPair (d : BitVec 128) (s : State) : State :=
  match s.twin.partnerHeld.find? fun x => twinKey x == twinKey d with
  | none => s
  | some x =>
    let t := s.twin
    let s1 := { s with twin := { t with
      own := t.own.filter fun y => twinKey y != twinKey d,
      partnerHeld := t.partnerHeld.filter fun y => twinKey y != twinKey d } }
    if field x 0 64 = field d 0 64 then { s1 with twin := { s1.twin with compared := s1.twin.compared + 1 } }
    else twinMismatch d x s1

/-- Compare every pair that is complete, the blocks of each queue in ascending order (R307). -/
def twinCompare (s : State) : State :=
  if s.twin.state = 2 then forEach (s.twin.own.insertionSort fun a b => twinKey a ≤ twinKey b) twinPair s else s

/-- The sender is the partner. -/
def fromPartner (s : State) (h : MsgHdr) : Bool := senderOf h == s.twin.partner && peerValid s.twin.partner

/-- TWIN_DIGEST (R307): from any other node refused and counted. -/
def twinDigestAt (h : MsgHdr) (recs : List (BitVec 128)) (s : State) : State :=
  if !(peerNode s.twin.partner == h.senderNode && peerValid s.twin.partner) then countRefused s
  else
    let e := s.tb.epoch.toNat
    let far := decide (h.epoch.toNat + 1 < e) || decide (e + 1 < h.epoch.toNat)
    twinCompare { s with twin := { s.twin with
      partnerHeld := s.twin.partnerHeld ++ recs, heard := true,
      late := if far then s.twin.late + 1 else s.twin.late } }

/-- TWIN_HALT (R308): the receiver halts at its next boundary; one that is disarmed or has halted has nothing to halt. -/
def twinHaltAt (h : MsgHdr) (s : State) : State :=
  if !fromPartner s h then countRefused s
  else if s.twin.state = 0 ∨ s.twin.state = 3 then s
  else { s with twin := { s.twin with haltPending := true } }

/-- Halt: the twin context's sluice closes, with TWIN_MISMATCH for what was not dispatched (R308). -/
def twinHalt (s : State) : State :=
  closeCtx (tagSlot s.twin.tag) stTwinMismatch { s with twin := { s.twin with haltPending := false, state := 3 } }

/-- Send the digests completed in the epoch just ended, at most 256 in a message, an empty message when there are none. -/
def twinSend (s : State) : State :=
  let ds := s.twin.outgoing
  let n := max 1 (ceilDiv ds.length 256)
  forEach (List.range n) (fun i s =>
    let part := (ds.drop (256 * i)).take 256
    tellTwin 0x10 0 part.length (part.flatMap (bytesOf 16)) s) { s with twin := { s.twin with outgoing := [] } }

/-- No TWIN_DIGEST has come for lost_epochs boundaries (R309). -/
def twinLost (s : State) : State :=
  let s1 := twinFault 0x41 { s with twin := { s.twin with state := 4 } }
  if bitAt s.twin.mode 1 then tellTwin 0x11 2 0 [] { s1 with twin := { s1.twin with haltPending := true } } else s1

/-- The twin's part of a boundary. -/
def twinBoundary (s : State) : State :=
  let s1 := if s.twin.haltPending then twinHalt s else s
  let t := s1.twin
  let begins := t.state == 1 && decide (t.startEpoch.toNat ≤ s1.tb.epoch.toNat)
  if begins then twinSend { s1 with twin := { t with state := 2, silent := 0, heard := false } }
  else if t.state = 2 then
    let silent := if t.heard then 0 else t.silent + 1
    let s2 := twinSend { s1 with twin := { t with silent := silent, heard := false } }
    if t.lostEpochs.toNat ≤ silent then twinLost s2 else s2
  else s1

end Sys2Proof.Machine
end

