-- ==== Sys2Proof/Machine/Packets.lean ====
section
/-! DEFINITION. Packets at a network interface: the windows of sequences (R352), the checks of a remote request (R157,
R288, R297), reads, writes, atomics, reductions and fence signals for other instances (R347), and the answers that come
back to their origin (R155, R170, R295, R351). -/

namespace Sys2Proof.Machine

/-- The place of the network interfaces: they translate through MMU 1 (R157). -/
def niPlace : Nat := 9
/-- The master identity recorded for an access that a network interface carries out: its MMU's (R26). -/
def niMaster : W16 := 0x7F01

/-! ### Arrival -/

/-- A packet leaves the interface's inbox; one that came straight from a port was never in it. -/
def takeIn (k : Packet) (s : State) : State := { s with net := { s.net with inbox := s.net.inbox.erase k } }

/-- A packet that must wait stays in the inbox (R288). -/
def keepIn (k : Packet) (s : State) : State := { s with net := { s.net with inbox := addOnce k s.net.inbox } }

/-! ### Sequence windows (R352) -/

/-- What a window says of a sequence. -/
inductive SeqJudge where
  | fresh
  | dup (status : Byte) (old : W64)
  | stale
  | noWindow
  deriving DecidableEq, Repr

def windowAt (s : State) (k : Packet) : Option Window :=
  s.net.windows.find? fun w => w.node == k.srcNode && w.fold == k.srcFold

/-- A window whose newest entry is older than 2 × coll_timeout, the least recently used of those. -/
def oldWindow (s : State) : Option Window :=
  let old := s.net.windows.filter fun w => decide (w.newest.toNat + 2000 * s.flock.collTimeout.toNat < (now s).toNat)
  old.foldl (fun o w => match o with
    | none => some w
    | some x => if w.newest.toNat < x.newest.toNat then some w else some x) none

/-- Judge a request's sequence. -/
def seqJudge (s : State) (k : Packet) : SeqJudge :=
  match windowAt s k with
  | none => if s.net.windows.length < 512 ∨ (oldWindow s).isSome then .fresh else .noWindow
  | some w =>
    let ahead := (k.seq - w.high).toNat
    let behind := (w.high - k.seq).toNat
    if 1 ≤ ahead ∧ ahead < 2 ^ 31 then .fresh
    else if behind < 1024 then
      (match w.seen.find? fun x => x.1 == k.seq with
        | none => .fresh
        | some x => .dup x.2.1 x.2.2)
    else .stale

/-- A window with a sequence recorded; entries 1,024 or more behind the highest leave it. -/
def noteIn (w : Window) (seq : W32) (st : Byte) (old t : W64) : Window :=
  let ahead := (seq - w.high).toNat
  let h := if 1 ≤ ahead ∧ ahead < 2 ^ 31 then seq else w.high
  { w with high := h, newest := t,
           seen := (w.seen.filter fun x => x.1 != seq && decide ((h - x.1).toNat < 1024)) ++ [(seq, st, old)] }

/-- Record a request as carried out, with its status and old value. -/
def recordSeq (k : Packet) (st : Byte) (old : W64) (s : State) : State :=
  match windowAt s k with
  | some w =>
    let put := fun (x : Window) => if x = w then noteIn w k.seq st old (now s) else x
    { s with net := { s.net with windows := s.net.windows.map put } }
  | none =>
    let kept := if s.net.windows.length < 512 then s.net.windows
      else match oldWindow s with | some w => s.net.windows.erase w | none => s.net.windows
    let fresh : Window := { node := k.srcNode, fold := k.srcFold, high := k.seq, seen := [(k.seq, st, old)], newest := now s }
    { s with net := { s.net with windows := kept ++ [fresh] } }

/-! ### The source's right (R157, R288) -/

/-- The source holds an entry in the map of the parent that the fold stands in (R157). -/
def inParent (s : State) (n : Nat) (k : Packet) : Bool :=
  (foldAt s n).member.parentVersion != 0 && (parentValid s n).any fun p => mePeer p.2 == peerOf k.srcNode k.srcFold.toNat

/-- Both folds belong to one flock: the source holds an entry in the fold's map. -/
def inFlock (s : State) (n : Nat) (k : Packet) : Bool :=
  let m := (foldAt s n).member
  (m.state == 2 || m.state == 3) && (memberOf s n k.srcNode k.srcFold.toNat).isSome

/-- The source stands in the destination fold's peer table (R238). -/
def isPeer (s : State) (n : Nat) (k : Packet) : Bool :=
  foldExists s n && (List.range 16).any fun i =>
    let e := Tab.get 0 (foldAt s n).live.peers i
    bitAt e 31 && peerNode e == k.srcNode && peerFold e == k.srcFold.toNat

/-- What the source's checks come to. -/
inductive Gate where
  | pass
  | refuse (reason : Byte)
  | hold
  deriving DecidableEq, Repr

/-- Version and partnership of a request to fold n; `parent` for one at the level of its parent flock (R284, R288). -/
def gate (s : State) (n : Nat) (parent : Bool) (k : Packet) : Gate :=
  if k.mapVersion ≠ 0 then
    match judgeVersion s n parent k.srcNode k.srcFold.toNat k.mapVersion with
    | .accept => if (if parent then inParent s n k else inFlock s n k) then .pass else .refuse 1
    | .hold => .hold
    | .refuse => .refuse 2
  else if inFlock s n k || inParent s n k || isPeer s n k then .pass else .refuse 1

/-- A memory request passes steps 1 and 2 of R157, and the sluices of its target's context, fold and instance are open; a frozen fold
refuses a logical window's (R297, R421, R422). -/
def memGate (s : State) (k : Packet) : Gate :=
  let n := tagFold k.destTag
  if !tagLive s k.destTag || foldClosed s n || (ctxAt s (tagSlot k.destTag)).sluiceClosed || s.faults.sluiceClosed then .refuse 1
  else if k.mapVersion != 0 && (foldAt s n).state == .frozen then .refuse 1
  else gate s n false k

/-! ### Carrying out a request -/

/-- How a request is answered: data, a status with the old value of an atomic, a refusal, not yet, or later by the host port. -/
inductive Served where
  | data (bs : List Byte)
  | status (st : Byte) (old : Option Nat)
  | refuse (reason : Byte)
  | later
  | none
  deriving DecidableEq, Repr

/-- Bytes of an ACK: the old value of an atomic. -/
def ackBytes (old : Option Nat) : List Byte := match old with | none => [] | some v => leBytes 8 v

/-- The entry of a packet that is being carried out, or waits to be. -/
def servingOf (s : State) (k : Packet) : Option Serving := s.net.serving.find? fun v => v.packet == k

def dropServing (uid : Nat) (s : State) : State :=
  { s with net := { s.net with serving := s.net.serving.filter fun v => v.uid != uid } }

/-- A packet gets the name under which it makes its requests (R160). -/
def beginServing (k : Packet) (s : State) : Nat × State :=
  match servingOf s k with
  | some v => (v.uid, s)
  | none =>
    let v : Serving := { uid := s.nextUid, packet := k, vc := 0, answer := k, status := 0, waits := true }
    (s.nextUid, { s with nextUid := s.nextUid + 1, net := { s.net with serving := s.net.serving ++ [v] } })

/-- Answer a packet, once every request it made has been answered: until then its window shows no result yet (R352). -/
def answerServing (uid : Nat) (k : Packet) (ptype st : Byte) (payload : List Byte) (s : State) : State :=
  if reqsOut s uid then
    let v : Serving := { uid := uid, packet := k, vc := replyVc s k,
                         answer := replyTo s k ptype (if ptype = 9 then st else 0) payload, status := st, waits := false }
    recordSeq k 0 0 { s with net := { s.net with serving := s.net.serving.map fun x => if x.uid = uid then v else x } }
  else
    sendReply k ptype (if ptype = 9 then st else 0) payload (recordSeq k st (BitVec.ofNat 64 (ofLe payload % 2 ^ 64)) (dropServing uid s))

/-- The responses of a packet's requests have returned: its answer goes. -/
def servingEnd (uid : Nat) (s : State) : State :=
  match s.net.serving.find? fun v => v.uid == uid && !v.waits with
  | none => s
  | some v =>
    if reqsOut s uid then s
    else routePacket v.vc v.answer
      (recordSeq v.packet v.status (BitVec.ofNat 64 (ofLe v.answer.payload % 2 ^ 64)) (dropServing uid s))

/-- A request made for a packet has failed: the answer carries DATA_ERROR (R170). -/
def servingFail (uid : Nat) (s : State) : State :=
  let fail := fun (v : Serving) =>
    if v.uid = uid then { v with answer := replyTo s v.packet 9 stDataError [], status := stDataError } else v
  { s with net := { s.net with serving := s.net.serving.map fail } }

/-- Carry a packet out under its own name, and answer it. -/
def serveNow (k : Packet) (act : Packet → State → Served × State) (s0 : State) : State :=
  let (uid, s1) := beginServing k s0
  let (r, s2) := act k (onBehalf uid niMaster s1)
  let s := onBehalfOfNone s2
  match r with
  | .data bs => answerServing uid k 8 stSuccess bs s
  | .status st old => answerServing uid k 9 st (ackBytes old) s
  | .refuse x => sendReply k 0x0A x [] (dropServing uid s)
  | .later => keepIn k s
  | .none => dropServing uid s

/-- A request passes its window, its checks and its meaning, and is answered (R347, R352). Reads are carried out again when
they come twice; what is still being carried out is not begun again. -/
def onRequest (k : Packet) (isRead : Bool) (act : Packet → State → Served × State) (s0 : State) : State :=
  let s := takeIn k s0
  let run := fun (s : State) =>
    match memGate s k with
    | .hold => keepIn k s
    | .refuse r => sendReply k 0x0A r [] (if r = 2 then refuseVersion (tagFold k.destTag) false k.mapVersion s else s)
    | .pass => serveNow k act s
  if (match servingOf s k with | some v => !v.waits | none => false) then s else
  match seqJudge s k with
  | .noWindow => sendReply k 0x0A 4 [] { s with net := { s.net with windowsBusy := s.net.windowsBusy + 1 } }
  | .stale => { s with net := { s.net with duplicates := s.net.duplicates + 1 } }
  | .dup st old => if isRead then run s else if st = 0 then s else sendReply k 9 st (leBytes 8 old.toNat) s
  | .fresh => run s

/-- The destination translates in the destination context; a page fault is recorded for its own driver as NOT_PRESENT, in an entry of
the pending-fault table without waiters, and the request is refused (R157, R163). -/
def remoteSpot (k : Packet) (a : AccessKind) (s : State) : Option (Nat × Nat) × Served × State :=
  let va := k.address.toNat
  match reach niPlace k.destTag va a s with
  | (.loc mem off, s1) => (some (mem, off), .none, s1)
  | (.fault _ level, s1) => (none, .refuse 1, (onFault k.destTag va .notPresent a niMaster level none s1).2)
  | (.win .., s1) => (none, .refuse 1, s1)
  | (.refused _, s1) => (none, .refuse 1, s1)
  | (.error p, s1) => (none, .status stDataError none, raiseData 0x43 p niMaster k.destTag s1)
  | (.wait, s1) => (none, .later, s1)

/-- The bytes of a request lie within one 4 KiB page (R348). -/
def inPage (a n : Nat) : Bool := decide (a % 4096 + n ≤ 4096) && n != 0

/-- Carry a request out where it lands: `act` on the place, `good` how its bytes answer. -/
def serveAt (k : Packet) (a : AccessKind) (act : Nat → Nat → State → Access × State) (good : List Byte → Served) (s : State) :
    Served × State :=
  match remoteSpot k a s with
  | (none, r, s1) => (r, s1)
  | (some (mem, off), _, s1) =>
    match act mem off s1 with
    | (.ok bs, s2) => (good bs, s2)
    | (.refused, s2) => (.refuse 1, s2)
    | (.error d p, s2) => (.status stDataError none, raiseData d p niMaster k.destTag s2)
    | (.wait, s2) => (.later, s2)

/-- READ. -/
def serveRead (k : Packet) (s : State) : Served × State :=
  let n := ofLe k.payload
  if !inPage k.address.toNat n then (.refuse 1, s)
  else serveAt k .read (fun mem off s => locRead k.destTag mem off n s) .data s

/-- WRITE. -/
def serveWrite (k : Packet) (s : State) : Served × State :=
  if !inPage k.address.toNat k.payload.length then (.refuse 1, s)
  else serveAt k .write (fun mem off s => locWrite k.destTag mem off k.payload s) (fun _ => .status stSuccess none) s

/-- REDUCE: reduce-on-write at its target (R55). -/
def serveReduce (k : Packet) (s : State) : Served × State :=
  let n := k.payload.length
  if !inPage k.address.toNat n || n % 32 != 0 || k.address.toNat % 32 != 0 then (.refuse 1, s)
  else serveAt k .atomic (fun mem off s => locReduce k.destTag mem off k.payload s) (fun _ => .status stSuccess none) s

/-- The operation an ATOMIC's op byte names: operation × 16 + type (R136, R347; log entry 18). -/
def atomOf (op : Byte) : Option AtomOp :=
  match op.toNat / 16 with
  | 0 => some .add | 1 => some .and | 2 => some .or | 3 => some .xor | 4 => some .min | 5 => some .max
  | 6 => some .xchg | 7 => some .cas | 8 => some .fadd | _ => none

/-- Bit 3 of an ATOMIC's op byte is set: a FADD of a reproducible launch, which works on a container (R122), or a count of saturated
elements, which stops at 2^32 − 1 (R78); on any other operation it is reserved (log entry 109). -/
def atomFlag (op : Byte) : Bool := bitAt op 3
def atomFlagged (op : AtomOp) (ty : Nat) : Bool := op == .fadd || (op == .add && ty == 0)

/-- One step of an ATOMIC at its target. -/
def atomServe (op : AtomOp) (flag : Bool) (ty : Nat) (x y : Nat) (old : List Byte) : List Byte :=
  if flag ∧ op = .add then leBytes 4 (min 0xFFFFFFFF (ofLe old + x)) else (atomStep op flag ty old x y).1

/-- ATOMIC: one step at its target; its ACK carries the old value, 0 for a FADD on a container (R122). -/
def serveAtomic (k : Packet) (s : State) : Served × State :=
  match atomOf k.op with
  | none => (.refuse 1, s)
  | some op =>
    let ty := k.op.toNat % 8
    let flag := atomFlag k.op
    let wide := flag && op == .fadd
    let m := atomBytes ty
    let n := if wide then 32 else m
    if !atomTyped op ty || (flag && !atomFlagged op ty) || k.address.toNat % n != 0 || k.payload.length < m then (.refuse 1, s)
    else serveAt k .atomic
      (fun mem off s => locUpdate k.destTag mem off n (atomServe op flag ty (ofLe (k.payload.take m)) (ofLe ((k.payload.drop m).take m))) s)
      (fun old => .status stSuccess (some (if wide then 0 else ofLe old))) s

/-- FENCE: the signal step at the unit that owns the slot (R185). A slot in host memory is signalled by an atomic request of
the host port (R482). -/
def serveFence (k : Packet) (s : State) : Served × State :=
  if k.address.toNat % 16 ≠ 0 then (.status stRange none, s) else
  match remoteSpot k .write s with
  | (none, r, s1) => (r, s1)
  | (some (mem, off), _, s1) =>
    if mem = 3 then
      (if !landOk s1 k.destTag mem off then (.refuse 1, s1)
       else if !s1.hostPort.atomicOk then (.status stRange none, s1)
       else if !reachable s1 k.destTag 3 off 8 then (.later, holdAccess k.destTag 3 off 8 s1)
       else (.none, hostRequest (.packet k) k.destTag (recordSeq k 0 0 (unhold 3 0 (weirCharge k.destTag 3 8 s1)))))
    else
      match signalHere k.destTag mem off (BitVec.ofNat 64 (ofLe k.payload)) s1 with
      | (.ok _, st, s2) => (.status st none, s2)
      | (.refused, _, s2) => (.refuse 1, s2)
      | (.error d p, _, s2) => (.status stDataError none, raiseData d p niMaster k.destTag s2)
      | (.wait, _, s2) => (.later, s2)

/-! ### Carried tasks at their destination (R294, R295, R297) -/

/-- The pseudo-queue of tasks carried in: no queue of the instance has this number. -/
def carriedQueue : Nat := 4096

/-- The command of a task carried in. -/
def carriedCmd (s : State) (k : Packet) (tag : W16) (d : BitVec 512) : Cmd :=
  { newCmd s carriedQueue d with tag := tag, journalled := false, carriedIn := some k }

/-- Result of a carried task that does not run. -/
def refuseTask (k : Packet) (st : Byte) (s : State) : State :=
  let r := digestFlags (BitVec.ofNat 512 (ofLe k.payload)) (.broken st)
  sendReply k 0x11 st (taskResultBytes r) (recordSeq k (resultByte r) 0 s)

/-- TASK: placed as a task of member_tag's context, or of the flock context of a sub-flock's bellwether (R293, R294). -/
def taskIn (k : Packet) (s : State) : State :=
  let n := tagFold k.destTag
  let parent := field k.destTag 0 12 == 0
  let d : BitVec 512 := BitVec.ofNat 512 (ofLe k.payload)
  let m := (foldAt s n).member
  let tag := if parent then meTag (mapEntry s n m.memberNo.toNat) else k.destTag
  if !parent && !tagLive s tag then sendReply k 0x0A 1 [] s else
  match gate s n parent k with
  | .hold => keepIn k s
  | .refuse r => sendReply k 0x0A r [] (if r = 2 then refuseVersion n parent k.mapVersion s else s)
  | .pass =>
    if foldClosed s n || (foldAt s n).state == .frozen || (foldAt s n).freezing.isSome || !tagOpen s tag ||
        (ctxAt s (tagSlot tag)).sluiceClosed || s.faults.sluiceClosed then refuseTask k stFenced s
    else
      let s1 := recordSeq k 0 0 s
      { s1 with cmds := s1.cmds ++ [carriedCmd s1 k tag d], nextUid := s1.nextUid + 1, free := s1.free + 1 }

/-- A TASK packet against its window: a duplicate is answered once its result is known. -/
def onTask (k : Packet) (s0 : State) : State :=
  let s := takeIn k s0
  match seqJudge s k with
  | .noWindow => sendReply k 0x0A 4 [] { s with net := { s.net with windowsBusy := s.net.windowsBusy + 1 } }
  | .stale => { s with net := { s.net with duplicates := s.net.duplicates + 1 } }
  | .dup st old =>
    if s.cmds.any fun c => c.carriedIn == some k then s
    else
      let r := resultOf st old
      sendReply k 0x11 r.status (taskResultBytes r) s
  | .fresh => taskIn k s

/-! ### Answers at the origin (R351) -/

/-- The request an answer names. -/
def requestOf (s : State) (k : Packet) : Option E2E :=
  (foldAt s k.srcFold.toNat).unacked.find? fun e => e.seq == k.seq

/-- The weir class that a memory request to another instance is measured in: tarn over the stack port, link over a link port
(R251). -/
def remoteKey (s : State) (k : Packet) : Option Nat :=
  if k.destNode = myNode s ∨ 5 < k.ptype.toNat then none
  else if moduleOf k.destNode = moduleOf (myNode s) then some 0
  else some (if bitAt (Tab.get 0 s.net.route (moduleOf k.destNode)) 4 then 4 else 2)

/-- The latency of the answer to a memory request (R259, R260). -/
def answerLatency (n : Nat) (e : E2E) (s : State) : State :=
  match remoteKey s e.packet with
  | none => s
  | some k => noteLatency n k e.firstAt s

/-- A request is answered: it is numbered no longer, its translation epoch is released, waiting messages go out. -/
def endE2E (n : Nat) (e : E2E) (s : State) : State :=
  let s1 := modFold s n fun f => { f with unacked := f.unacked.filter fun x => x.seq != e.seq }
  let s2 := endHolder (.remote n e.seq) s1
  flushMsgs (if e.abandoned then endAbandoned e.tag s2 else s2)

/-- A request ends by its answer. -/
def endAnswered (n : Nat) (e : E2E) (s : State) : State := endE2E n e (answerLatency n e s)

/-- One answer fewer is awaited by a group; the last one of an acquire at instance or system scope empties the core's cache (R118). -/
def groupAnswered (t : GroupRef) (s : State) : State :=
  match groupAt s t, gangAt s t.launch t.gang with
  | some g, some x =>
    (match g.wait with
      | .remote k acquire =>
        if k ≤ 1 then setGroup t { g with wait := .none } (if acquire then cacheClear x.core s else s)
        else setGroup t { g with wait := .remote (k - 1) acquire } s
      | _ => s)
  | _, _ => s

/-- A lane's register takes the bytes of a load or of an atomic. -/
def laneArrive (t : GroupRef) (lane rd ty : Nat) (bs : List Byte) (s : State) : State :=
  if 8 ≤ ty then s
  else
    groupAnswered t (match groupAt s t with
      | none => s
      | some g => setGroup t (setRegs g lane rd (bs.take (2 ^ ty))) s)

/-- A remote FENCE_WAIT's slot has come (R185): a wait that is not satisfied at its acceptance needs a slot. -/
def fenceArrive (c : Cmd) (bs : List Byte) (s : State) : State :=
  match judgeFence (BitVec.ofNat 128 (ofLe bs)) (operand1 c.desc) with
  | .done st => complete c.uid (.plain st) s
  | .keep => holdWait c (fun s => setPhase s c.uid (.waitFence (BitVec.ofNat 64 (2 ^ 63)) (operand1 c.desc))) s

/-- Delivered bytes of READ_DATA: a tile's operands go to its engine's buffer, but what it asked for before it was dispatched, and
its headers, are kept like a range's pieces. -/
def dataArrive (e : E2E) (bs : List Byte) (s : State) : State :=
  match e.use with
  | .none => s
  | .lane t lane rd ty => laneArrive t lane rd ty bs s
  | .piece off _ =>
    match cmdAt s e.uid with
    | none => s
    | some c =>
      match opcodeOf c.desc with
      | 1 => if off < c.asked then operandArrive c off bs s else keepPart e.uid off bs s
      | 3 => moveArrive c off bs s
      | 5 => fenceArrive c bs s
      | _ => keepPart e.uid off bs s

/-- READ_DATA; an abandoned request's data is dropped (R183). -/
def readDataIn (k : Packet) (s0 : State) : State :=
  let s := takeIn k s0
  match requestOf s k with
  | none => s
  | some e =>
    let s1 := endAnswered k.srcFold.toNat e s
    if e.abandoned then s1 else dataArrive e k.payload s1

/-- A launch's own read across a window has failed: that of an argument block is a trap of its gang (R109, R138), that of its output
ends the launch (R155, R169). -/
def launchReadFailed (c : Cmd) (st : Byte) (trap : Nat) (s : State) : State :=
  if c.launch.next < hlGangs c.desc then
    argTrap (8 * (launchHalves s (tagFold c.tag) (hlMask c.desc)).headD 0) c.launch.next trap c s
  else complete c.uid (.broken st) s

/-- How a command ends whose request failed: `st` its status, `trap` the trap of a launch. A refusal does not end a collective (R303). -/
def stopCmd (c : Cmd) (st : Byte) (trap : Nat) (s : State) : State :=
  match opcodeOf c.desc with
  | 1 => tileFail c st s
  | 2 => launchReadFailed c st trap s
  | 3 => complete c.uid (.broken st) s
  | 4 => complete c.uid (.plain st) s
  | 5 => complete c.uid (.plain st) s
  | 8 => if st = stDataError then
      (match c.coll.origin with
        | none => complete c.uid (.broken st) s
        | some k => dropCmd (sendReply k 0x11 st (taskResultBytes (.broken st)) (recordSeq k st 0 s)) c.uid)
    else s
  | 11 => complete c.uid (.plain st) s
  | 9 => complete c.uid (.broken st)
      (setModels (tagFold c.tag) ((modelsOf s (tagFold c.tag)).filter fun m => m.id != mlId c.desc) s)
  | _ => s

/-- An answer says that an end-to-end request failed: a lane's group traps, any other requester ends. -/
def failRequest (e : E2E) (st : Byte) (trap : Nat) (s : State) : State :=
  match cmdAt s e.uid with
  | none => s
  | some c =>
    match opcodeOf c.desc, e.use with
    | 2, .lane t _ _ _ => trapLate t e.pc e.master trap s
    | _, _ => stopCmd c st trap s

/-- The group of a request that a launch issued no longer waits. -/
def releaseLane (e : E2E) (s : State) : State :=
  match e.use with
  | .lane t _ _ ty => if 8 ≤ ty then s else groupAnswered t s
  | _ => s

/-- A request of a command is done, in this instance or beyond a window: whoever waited for the last of them goes on. -/
def requestDone (uid : Nat) (s : State) : State :=
  match cmdAt s uid with
  | none => servingEnd uid s
  | some c => match opcodeOf c.desc with
    | 1 => tileSettle uid s
    | 2 => launchFinish uid s
    | 3 => moveFinish uid s
    | _ => s

/-- ACK (R170, R347). An uncorrectable error at the far side is recorded here too, with this side's master and address (R170). -/
def ackIn (k : Packet) (s0 : State) : State :=
  let s := takeIn k s0
  match requestOf s k with
  | none => s
  | some e =>
    let s1 := endAnswered k.srcFold.toNat e s
    if e.abandoned then s1
    else if k.op = stDataError then
      raiseData 0x43 e.va e.master e.tag (failRequest e stDataError trDataError (releaseLane e s1))
    else
      match cmdAt s1 e.uid with
      | none => s1
      | some c =>
        if opcodeOf c.desc = 4 then complete c.uid (.plain k.op) s1
        else
          let s2 := match e.use with
            | .lane t lane rd ty => if e.packet.ptype = 3 then laneArrive t lane rd ty k.payload s1 else releaseLane e s1
            | _ => s1
          requestDone e.uid s2

/-- The access kind of a request packet. -/
def packetAccess (t : Byte) : AccessKind :=
  match t.toNat with
  | 1 => .read | 3 => .atomic | 4 => .atomic | _ => .write

/-- REFUSE at the origin (R155, R295, R347, R349): the record names the requester's master and address, and the level at which its
walk stopped (R166). -/
def refuseIn (k : Packet) (s0 : State) : State :=
  let s := takeIn k s0
  match requestOf s k with
  | none => s
  | some e =>
    if k.op = 4 then
      let again := fun (x : E2E) => if x.seq == e.seq then { x with sentAt := now s } else x
      modFold s k.srcFold.toNat fun f => { f with unacked := f.unacked.map again }
    else
      let s1 := endAnswered k.srcFold.toNat e s
      let s2 := if k.op = 3 then raiseFault {
        cls := 2, detail := 0x56, master := e.master, tag := e.tag, fold := some k.srcFold.toNat, address := e.va } s1 else s1
      if e.abandoned || e.packet.ptype == 0x20 || e.packet.ptype == 0x12 then s2
      else
        match cmdAt s2 e.uid with
        | none => s2
        | some c =>
          match c.phase, k.op with
          | .carried tries, 2 => recarry c tries s2
          | _, _ =>
            raiseAccess e.va e.tag e.master (packetAccess e.packet.ptype) .remoteRefused
              (noteWalk e.va e.level (failRequest e stTranslation trAccess (releaseLane e s2)))

/-- TASK_RESULT: the origin writes the completion record and the journal entry (R295). -/
def taskResultIn (k : Packet) (s0 : State) : State :=
  let s := takeIn k s0
  match requestOf s k with
  | none => s
  | some e =>
    let s1 := endAnswered k.srcFold.toNat e s
    if e.abandoned then s1
    else
      match cmdAt s1 e.uid with
      | none => s1
      | some c => match c.phase with
        | .carried _ =>
          complete c.uid { status := k.payload.getD 0 0, digest := BitVec.ofNat 64 (ofLe ((k.payload.drop 8).take 8)),
                           part := bitAt (k.payload.getD 1 0) 0, failed := bitAt (k.payload.getD 1 0) 1, result := 0 } s1
        | _ => s1

/-! ### Resending and timeouts (R295, R351) -/

/-- Send an unacknowledged request again after resend_us (R351). -/
def resend (n : Nat) (seq : W32) (s : State) : State :=
  match (foldAt s n).unacked.find? fun e => e.seq == seq && !e.abandoned with
  | none => s
  | some e =>
    let port := portAt s (field (Tab.get 0 s.net.route (moduleOf e.packet.destNode)) 4 1)
    if (now s).toNat < e.sentAt.toNat + 1000 * port.resendUs.toNat then s
    else
      let again := fun (x : E2E) => if x.seq == seq then { x with sentAt := now s } else x
      moduleCharge e.tag e.packet (routePacket e.vc e.packet (modFold s n fun f => { f with unacked := f.unacked.map again }))

def countTimeout (s : State) : State := { s with flock := { s.flock with peerTimeouts := s.flock.peerTimeouts + 1 } }

/-- A command ends with TIMEOUT_PEER; the coordinator of a part of a larger collective reports it upward (R295, R303, R351). -/
def timeoutCmd (uid : Nat) (s : State) : State :=
  match cmdAt s uid with
  | none => s
  | some c =>
    let s1 := countTimeout s
    match opcodeOf c.desc, c.coll.origin with
    | 2, _ => abortLaunch uid stTimeoutPeer s1
    | 8, some k => dropCmd (sendReply k 0x11 stTimeoutPeer (taskResultBytes (.broken stTimeoutPeer)) (recordSeq k stTimeoutPeer 0 s1)) uid
    | _, _ => complete uid (endedDone c stTimeoutPeer) (endHolder (.task uid) s1)

/-- coll_timeout has passed without an acknowledgement (R351). -/
def e2eTimeout (n : Nat) (seq : W32) (s : State) : State :=
  match (foldAt s n).unacked.find? fun e => e.seq == seq && !e.abandoned with
  | none => s
  | some e =>
    if (now s).toNat < e.firstAt.toNat + 1000 * s.flock.collTimeout.toNat then s
    else timeoutCmd e.uid (endE2E n e s)

/-- No result of a carried task within coll_timeout of the carry (R295). -/
def carriedTimeout (uid : Nat) (s : State) : State :=
  match cmdAt s uid with
  | none => s
  | some c => match c.phase with
    | .carried _ =>
      if (now s).toNat < c.readyAt.toNat + 1000 * s.flock.collTimeout.toNat then s
      else
        let n := tagFold c.tag
        timeoutCmd uid (forEach ((foldAt s n).unacked.filter fun e => e.uid == uid) (endE2E n) s)
    | _ => s

/-! ### Messages (R348) -/

/-- The fragments of the oldest message that came from a node on a virtual channel, up to its last. -/
def fragmentsOf (node : BitVec 18) (vc : Nat) : List (Nat × Packet) → List (Nat × Packet)
  | [] => []
  | x :: rest =>
    if x.1 = vc ∧ x.2.srcNode = node then (if bitAt x.2.address 63 then [x] else x :: fragmentsOf node vc rest)
    else fragmentsOf node vc rest

/-- A fragment leaves its channel's. -/
def takeFragment (x : Nat × Packet) (s : State) : State :=
  { s with net := { s.net with fragments := s.net.fragments.erase x } }

/-- A message has arrived whole on a virtual channel: its fragments are acknowledged, and it acts unless they are duplicates (R323, R348). -/
def onMessage (vc : Nat) (h : MsgHdr) (act : State → State) (s : State) : State :=
  let ks := fragmentsOf h.senderNode vc s.net.fragments
  let fresh := ks.all fun x => seqJudge s x.2 == .fresh
  let s1 := forEach ks (fun x s =>
    let k := x.2
    let s1 := takeFragment x s
    match seqJudge s1 k with
    | .fresh => sendReply k 9 stSuccess [] (recordSeq k stSuccess 0 s1)
    | .dup _ _ => sendReply k 9 stSuccess [] s1
    | .stale => { s1 with net := { s1.net with duplicates := s1.net.duplicates + 1 } }
    | .noWindow => sendReply k 0x0A 4 [] { s1 with net := { s1.net with windowsBusy := s1.net.windowsBusy + 1 } }) s
  if fresh then act s1 else s1

end Sys2Proof.Machine
end

