-- ==== Sys2Proof/Machine/Collect.lean ====
section
/-! DEFINITION. Collectives (R298-R303): checks, the gathering of every leaf's bytes, their combination in order of arrival,
the writes of the result, sub-flocks, and timeouts. The payloads of COLL packets, which the manual does not lay out, are
the 64-byte descriptor and then data at the offset in the address (log entry 40). -/

namespace Sys2Proof.Machine

/-! ### The COLLECTIVE descriptor (R298) -/

def clSrc (d : BitVec 512) : Nat := field d 448 64
def clDst (d : BitVec 512) : Nat := field d 384 64
def clLen (d : BitVec 512) : Nat := field d 344 40
def clOp (d : BitVec 512) : Nat := field d 340 4
def clType (d : BitVec 512) : Nat := field d 338 2
def clFop (d : BitVec 512) : Nat := field d 336 2
def clRoot (d : BitVec 512) : Nat := field d 316 20
/-- ALL_REDUCE and REDUCE combine; BROADCAST and ALL_GATHER copy. -/
def clReduces (d : BitVec 512) : Bool := decide (clOp d ≤ 1)

/-- Bytes of an element. -/
def clElem (d : BitVec 512) : Nat :=
  if clReduces d then (match clType d with | 0 => 32 | 1 => 4 | _ => 2) else 1

/-- Leaves of a fold's flock. -/
def leafCount (s : State) (n : Nat) : Nat := ((oldValid s n).map fun p => meLeafCount p.2).sum

/-- The fields are valid (R299, detail 0x0D); a part of a larger collective names its root relative to its own leaves, or
0xFFFFF for a root elsewhere. Containers at a src or dst that is not 32-byte aligned, on which R53 and R299 are silent, are carried
out where they stand (DESIGN CHOICE; log entry 40). -/
def collFieldsOk (s : State) (n : Nat) (d : BitVec 512) (sub : Bool) : Bool :=
  decide (clOp d ≤ 3) && clLen d != 0 && clLen d % clElem d == 0 && field d 128 188 == 0 &&
    (field d 64 32 &&& 0xFFFFFEFD) == 0 &&
    (!clReduces d || (clFop d != 3 && (clType d != 0 || clFop d == 0))) &&
    (sub || decide (clRoot d < leafCount s n)) &&
    (clOp d != 3 || decide (leafCount s n * clLen d < 2 ^ 40))

/-- The members that take part: every valid entry but reservoir ones. -/
def collMembers (s : State) (n : Nat) : List (Nat × BitVec 128) := (oldValid s n).filter fun p => !meReservoir p.2

/-- A member holds a leaf. -/
def hasLeaf (e : BitVec 128) (leaf : Nat) : Bool :=
  decide (meLeafBase e ≤ leaf) && decide (leaf < meLeafBase e + meLeafCount e)

/-- Members whose bytes are needed. -/
def collSources (s : State) (n : Nat) (d : BitVec 512) : List Nat :=
  ((collMembers s n).filter fun p => clOp d != 2 || hasLeaf p.2 (clRoot d)).map fun p => p.1

/-- Members the result is written to. -/
def collTargets (s : State) (n : Nat) (d : BitVec 512) : List (Nat × BitVec 128) :=
  (collMembers s n).filter fun p => clOp d != 1 || hasLeaf p.2 (clRoot d)

/-! ### Combination (R301) -/

/-- One element of a float reduction: one addition rounded to nearest even, or FMIN or FMAX (R130). -/
def floatStep (ty fop x y : Nat) : Nat :=
  match ty with
  | 1 =>
    let a := BitVec.ofNat 32 x
    let b := BitVec.ofNat 32 y
    if fop = 0 then (fp32Add (ofFp32 a) (ofFp32 b)).toNat else (fp32MinMax (fop == 2) a b).toNat
  | 2 =>
    if fop = 0 then cvt .bf16 .nearest false (Val.add (FpFmt.bf16.decode x) (FpFmt.bf16.decode y))
    else (fp32MinMax (fop == 2) (BitVec.ofNat 32 (x * 2 ^ 16)) (BitVec.ofNat 32 (y * 2 ^ 16))).toNat / 2 ^ 16
  | _ =>
    if fop = 0 then cvt .fp16 .nearest false (Val.add (FpFmt.fp16.decode x) (FpFmt.fp16.decode y))
    else cvt .fp16 .nearest false (ofFp32 (fp32MinMax (fop == 2) (toFp32 (FpFmt.fp16.decode x)) (toFp32 (FpFmt.fp16.decode y))))

/-- Combine two partial results, element by element. -/
def combine (d : BitVec 512) (a b : List Byte) : List Byte :=
  let w := clElem d
  let n := a.length / w
  (List.range n).flatMap fun i =>
    let x := (a.drop (w * i)).take w
    let y := (b.drop (w * i)).take w
    if clType d = 0 then (Ledger.add (ledgerOfBytes x) (ledgerOfBytes y)).bytes
    else leBytes w (floatStep (clType d) (clFop d) (ofLe x) (ofLe y))

/-! ### Gathering (R300) -/

/-- The key under which a member's bytes at an offset are kept; the marker key says that a sub-flock has been asked. -/
def partKey (m off : Nat) : Nat := m * 2 ^ 41 + off
def askedKey (m : Nat) : Nat := m * 2 ^ 41 + 2 ^ 40

def hasPart (c : Cmd) (key : Nat) : Bool := c.coll.parts.any fun p => p.1 == key

/-- Bytes of a member's contribution. -/
def partLen (d : BitVec 512) (e : BitVec 128) : Nat := if clOp d = 3 then meLeafCount e * clLen d else clLen d

/-- The bytes of a member that have come, in ascending order of offset. -/
def partsOf (c : Cmd) (m : Nat) : List Byte :=
  ((c.coll.parts.filter fun p => p.1 / 2 ^ 41 == m && p.1 % 2 ^ 41 < 2 ^ 40).insertionSort
    fun a b => a.1 ≤ b.1).flatMap fun p => p.2

/-- The descriptor a sub-flock's bellwether receives: one hop fewer, the root in its own leaves. -/
def subDesc (d : BitVec 512) (e : BitVec 128) : BitVec 512 :=
  let root := if hasLeaf e (clRoot d) then clRoot d - meLeafBase e else 0xFFFFF
  (d &&& ~~~ (place 0xFFFFF 316 20 ||| place 0xFF 48 8 ||| place 0xFFFF 32 16)) ||| place root 316 20 |||
    place (hopCount d - 1) 48 8 ||| place (meTag e).toNat 32 16

/-- A packet of a collective toward a member. -/
def collPacket (s : State) (n : Nat) (e : BitVec 128) (ptype : Byte) (addr : Nat) (payload : List Byte) : Packet :=
  { blankPacket s with destNode := meNode e, destTag := meTag e, mapVersion := (foldAt s n).member.version,
                       ptype := ptype, address := BitVec.ofNat 64 addr, payload := payload }

/-- Send a collective's request, of the network interface that coordinates it (R300), when sequence room and weir allow. -/
def collSend (c : Cmd) (use : E2EUse) (k : Packet) (s : State) : Option State :=
  if mayReach s (tagFold c.tag) k.destNode then
    some (sendRequest (tagFold c.tag) c.uid use niMaster k.address.toNat (cmdLc s c) k s)
  else none

/-- A READ for a member's bytes is under way. -/
def pieceOut (s : State) (n uid key : Nat) : Bool :=
  (foldAt s n).unacked.any fun e => e.uid == uid && (match e.use with | .piece o _ => o == key | _ => false)

/-- Ask a member for the bytes not yet asked for. -/
def askMember (uid : Nat) (m : Nat) (s : State) : State :=
  match cmdAt s uid with
  | none => s
  | some c =>
    let n := tagFold c.tag
    let e := mapEntry s n m
    if meSub e then
      (if hasPart c (askedKey m) then s
       else
        match collSend c .none (collPacket s n e 0x12 0 (bytesOf 64 (subDesc c.desc e))) s with
        | some s1 => keepPart uid (askedKey m) [] s1
        | none => s)
    else
      forEach (pagesOf (clSrc c.desc) (clLen c.desc)) (fun p s =>
        let key := partKey m (p.1 - clSrc c.desc)
        if hasPart c key || pieceOut s n uid key then s
        else (collSend c (.piece key p.2) (collPacket s n e 1 p.1 (leBytes 8 p.2)) s).getD s) s

/-- Members whose bytes have all come are combined, in the order of their last arrival (R301). -/
def foldMember (uid : Nat) (m : Nat) (s : State) : State :=
  match cmdAt s uid with
  | none => s
  | some c =>
    let e := mapEntry s (tagFold c.tag) m
    let bs := partsOf c m
    if bs.length < partLen c.desc e then s
    else if clReduces c.desc then
      modCmd s uid fun x => { x with coll := { x.coll with
        waiting := x.coll.waiting.filter fun i => i != m,
        acc := if x.coll.acc.isEmpty then bs else combine c.desc x.coll.acc bs,
        parts := x.coll.parts.filter fun p => p.1 / 2 ^ 41 != m || p.1 == askedKey m } }
    else modCmd s uid fun x => { x with coll := { x.coll with waiting := x.coll.waiting.filter fun i => i != m } }

/-- The gathered result of this flock. -/
def gathered (s : State) (c : Cmd) : List Byte :=
  if clReduces c.desc then c.coll.acc
  else (collSources s (tagFold c.tag) c.desc).flatMap fun m => partsOf c m

/-! ### Writing (R300, R302) -/

/-- The requests that write a result to its targets: member, offset, bytes. -/
def writeList (s : State) (c : Cmd) (len : Nat) : List (Nat × Nat × Nat) :=
  (collTargets s (tagFold c.tag) c.desc).flatMap fun p =>
    if meSub p.2 then (List.range (ceilDiv len 4032)).map fun i => (p.1, 4032 * i, min 4032 (len - 4032 * i))
    else (pagesOf (clDst c.desc) len).map fun q => (p.1, q.1 - clDst c.desc, q.2)

/-- The address of a packet that carries n bytes of a result of `len` bytes: their offset, with bit 63 set on the last (log entry 40). -/
def resultAddr (off n len : Nat) : Nat := if off + n < len then off else 2 ^ 63 + off

/-- Send the write number `moved`. -/
def writeOne (c : Cmd) (x : Nat × Nat × Nat) (s : State) : Option State :=
  let n := tagFold c.tag
  let e := mapEntry s n x.1
  let bs := (c.coll.acc.drop x.2.1).take x.2.2
  if meSub e then
    collSend c .none (collPacket s n e 0x12 (resultAddr x.2.1 bs.length c.coll.acc.length) (bytesOf 64 (subDesc c.desc e) ++ bs)) s
  else collSend c .none (collPacket s n e 2 (clDst c.desc + x.2.1) bs) s

/-- Result packets of a sub-flock's part that wait in the inbox for their bytes to be written. -/
def resultPackets (s : State) (c : Cmd) : List Packet :=
  s.net.inbox.filter fun k => k.ptype == 0x12 && decide (64 < k.payload.length) && k.payload.take 64 == bytesOf 64 c.desc

/-- A collective has been written everywhere: the origin completes (R302), a sub-flock's bellwether acknowledges. -/
def collEnd (c : Cmd) (s : State) : State :=
  match c.coll.origin with
  | none =>
    complete c.uid (if clReduces c.desc ∧ clType c.desc = 0 then .plain stSuccess
      else .withDigest (crc64 c.coll.acc)) s
  | some _ =>
    dropCmd (forEach (resultPackets s c) (fun k s => sendReply k 9 stSuccess [] (recordSeq k stSuccess 0 (takeIn k s))) s) c.uid

/-- Go on writing. -/
def collWrite (uid : Nat) : Nat → State → State
  | 0, s => s
  | fuel + 1, s =>
    match cmdAt s uid with
    | none => s
    | some c =>
      let todo := writeList s c c.coll.acc.length
      match todo[c.moved]? with
      | none => if unackedOf s (tagFold c.tag) uid = 0 then collEnd c s else s
      | some x =>
        match writeOne c x s with
        | none => s
        | some s1 => collWrite uid fuel (modCmd s1 uid fun y => { y with moved := y.moved + 1 })

/-- Begin to write a result. -/
def startWrite (uid : Nat) (bs : List Byte) (s : State) : State :=
  let s1 := modCmd s uid fun x => { x with moved := 0, coll := { x.coll with acc := bs, parts := [], writing := true } }
  match cmdAt s1 uid with
  | none => s1
  | some c => collWrite uid ((writeList s1 c bs.length).length + 1) s1

/-- A sub-flock's bellwether sends its gathered part up, `moved` packets of it already sent (R300). -/
def sendUp (uid : Nat) (k : Packet) (bs : List Byte) : Nat → State → State
  | 0, s => s
  | fuel + 1, s =>
    match cmdAt s uid with
    | none => s
    | some c =>
      let off := 4032 * c.moved
      if bs.length ≤ off then
        (if unackedOf s (tagFold c.tag) uid = 0 ∧ !hasPart c (2 ^ 80) then
          keepPart uid (2 ^ 80) [] (sendReply k 0x11 stSuccess (taskResultBytes (.plain stSuccess)) s)
         else s)
      else
        let p := { blankPacket s with
          destNode := k.srcNode, destTag := mkTag k.srcFold.toNat 0 0, mapVersion := (foldAt s (tagFold c.tag)).member.parentVersion,
          ptype := 0x12, address := BitVec.ofNat 64 (resultAddr off ((bs.drop off).take 4032).length bs.length),
          payload := bytesOf 64 c.desc ++ (bs.drop off).take 4032 }
        match collSend c .none p s with
        | none => s
        | some s1 => sendUp uid k bs fuel (modCmd s1 uid fun x => { x with moved := x.moved + 1 })

/-- Carry a collective on: ask, combine, then write or send up. -/
def collRun (uid : Nat) (s : State) : State :=
  match cmdAt s uid with
  | none => s
  | some c =>
    if c.phase ≠ .peers ∨ opcodeOf c.desc ≠ 8 then s
    else if c.coll.writing then collWrite uid ((writeList s c c.coll.acc.length).length + 1) s
    else
      let s1 := forEach c.coll.waiting (fun m s => foldMember uid m s) (forEach c.coll.waiting (askMember uid) s)
      match cmdAt s1 uid with
      | none => s1
      | some x =>
        if !x.coll.waiting.isEmpty then s1
        else
          match x.coll.origin with
          | none => startWrite uid (gathered s1 x) s1
          | some k =>
            let bs := gathered s1 x
            sendUp uid k bs (ceilDiv bs.length 4032 + 1) s1

/-! ### Starting, arriving, ending -/

/-- A sub-flock's report: a TASK_RESULT whose third byte tells the detail of a RANGE (R276, R299; log entry 40). -/
def reportBytes (st : Byte) (detail : Nat) : List Byte :=
  listSet (taskResultBytes (digestFlags 0 (.broken st))) 2 (BitVec.ofNat 8 detail)

/-- A map holds an excluded entry (R299, detail 0x0C). -/
def anyExcluded (s : State) (n : Nat) : Bool := (oldValid s n).any fun p => meExcluded p.2

def collRange (c : Cmd) (detail : Nat) (s : State) : State := raiseEngine detail hostMaster c.tag (complete c.uid (.broken stRange) s)

/-- The check of R276 and R299 that a collective fails, or none; `sub` for a part of a larger one. The manual gives no order when
several fail (DESIGN CHOICE; log entry 40). -/
def collCheck (s : State) (n : Nat) (d : BitVec 512) (sub : Bool) : Option Nat :=
  if anyExcluded s n then some 0x0C
  else if !collFieldsOk s n d sub then some 0x0D
  else if (collMembers s n).any (fun p => meSub p.2) && hopCount d == 0 then some 0x0B
  else none

/-- Start a COLLECTIVE at the issuing fold (R299, R300). -/
def startCollective (c : Cmd) (s : State) : State :=
  let n := tagFold c.tag
  match collCheck s n c.desc false with
  | some detail => collRange c detail s
  | none =>
    collRun c.uid (modCmd s c.uid fun x => { x with
      phase := .peers, startAt := now s, coll := { x.coll with waiting := collSources s n c.desc } })

/-- Map a packet's source to the sub-flock member it stands for. -/
def subMember (s : State) (n : Nat) (k : Packet) : Option Nat :=
  ((oldValid s n).find? fun p => meSub p.2 && mePeer p.2 == peerOf k.srcNode k.srcFold.toNat).map fun p => p.1

/-- The collective at this fold that awaits a part of a sub-flock with this descriptor. -/
def awaiting (s : State) (n m : Nat) (d : BitVec 512) : Option Cmd :=
  s.cmds.find? fun c => opcodeOf c.desc == 8 && c.phase == .peers && tagFold c.tag == n && c.coll.waiting.contains m &&
    subDesc c.desc (mapEntry s n m) == d

/-- The part of a larger collective that this fold carries out. -/
def partHere (s : State) (n : Nat) (d : BitVec 512) : Option Cmd :=
  s.cmds.find? fun c => c.coll.origin.isSome && tagFold c.tag == n && c.desc == d

/-- A request for a part passes the source's checks, and the fold can take it: one that is frozen or behind a closed sluice refuses, so
that the collective runs to its timeout (R297, R303, R421). -/
def collGate (s : State) (n : Nat) (k : Packet) : Gate :=
  if foldClosed s n || (foldAt s n).state == .frozen || s.faults.sluiceClosed then .refuse 1 else gate s n true k

/-- A request for a part: this fold coordinates its own flock (R300). -/
def collRequest (n : Nat) (k : Packet) (d : BitVec 512) (s : State) : State :=
  match collGate s n k with
  | .hold => keepIn k s
  | .refuse r => sendReply k 0x0A r [] (if r = 2 then refuseVersion n true k.mapVersion s else s)
  | .pass =>
    let m := (foldAt s n).member
    let tag := meTag (mapEntry s n m.memberNo.toNat)
    match collCheck s n d true with
    | some detail => sendReply k 0x11 stRange (reportBytes stRange detail) (recordSeq k stRange (BitVec.ofNat 64 detail) s)
    | none =>
      let c := { newCmd s carriedQueue d with
        tag := tag, journalled := false, phase := .peers, startAt := now s,
        coll := { CollState.reset with origin := some k, waiting := collSources s n d } }
      let s1 := recordSeq k 0 0 { s with cmds := s.cmds ++ [c], nextUid := s.nextUid + 1, free := s.free + 1 }
      collRun c.uid s1

/-- Bytes of a part's result as a whole, once its last packet has come. -/
def resultLen (s : State) (c : Cmd) : Option Nat :=
  ((resultPackets s c).find? fun k => bitAt k.address 63).map fun k => field k.address 0 40 + k.payload.length - 64

/-- Every byte of a part's result has come. -/
def resultWhole (s : State) (c : Cmd) : Option (List Byte) :=
  let ks := (resultPackets s c).insertionSort fun a b => field a.address 0 40 ≤ field b.address 0 40
  let bs := ks.flatMap fun k => k.payload.drop 64
  if resultLen s c = some bs.length then some bs else none

/-- COLL (R300): a request, a sub-flock's part, or a result to be written; each carries a map version, which a part from a sub-flock is
judged by at the fold's own level and what comes from the parent at the parent's (R288). -/
def collIn (k : Packet) (s0 : State) : State :=
  let s := takeIn k s0
  let n := tagFold k.destTag
  let d : BitVec 512 := BitVec.ofNat 512 (ofLe (k.payload.take 64))
  match seqJudge s k with
  | .noWindow => sendReply k 0x0A 4 [] { s with net := { s.net with windowsBusy := s.net.windowsBusy + 1 } }
  | .stale => { s with net := { s.net with duplicates := s.net.duplicates + 1 } }
  | .dup st old =>
    if st = 0 then s
    else if k.payload.length = 64 then sendReply k 0x11 st (reportBytes st (old.toNat % 256)) s
    else sendReply k 9 st [] s
  | .fresh =>
    if k.payload.length = 64 then collRequest n k d s
    else
      let parent := (subMember s n k).isNone
      match gate s n parent k with
      | .hold => keepIn k s
      | .refuse r => sendReply k 0x0A r [] (if r = 2 then refuseVersion n parent k.mapVersion s else s)
      | .pass =>
      let part := match subMember s n k with
        | some m => (awaiting s n m d).map fun c => (m, c)
        | none => none
      match part with
      | some (m, c) =>
        collRun c.uid (sendReply k 9 stSuccess []
          (recordSeq k stSuccess 0 (keepPart c.uid (partKey m (field k.address 0 40)) (k.payload.drop 64) s)))
      | none =>
        match partHere s n d with
        | none => sendReply k 9 stSuccess [] (recordSeq k stSuccess 0 s)
        | some c =>
          let s1 := keepIn k s
          match resultWhole s1 c with
          | none => s1
          | some bs => if c.coll.writing then s1 else startWrite c.uid bs s1

/-- A collective ends without its result: at the origin by its status, with the record of a RANGE; at a sub-flock's coordinator by a
report upward (R276, R299, R303). -/
def collFail (c : Cmd) (st : Byte) (detail : Nat) (s : State) : State :=
  match c.coll.origin with
  | some k =>
    dropCmd (sendReply k 0x11 st (reportBytes st detail) (recordSeq k st (BitVec.ofNat 64 detail)
      (if st = stTimeoutPeer then countTimeout s else s))) c.uid
  | none =>
    if st = stRange then collRange c detail s
    else if st = stTimeoutPeer then timeoutCmd c.uid s
    else complete c.uid (.broken st) s

/-- A sub-flock reports how its part has ended (R299, R303). -/
def collReport (c : Cmd) (payload : List Byte) (s : State) : State :=
  let st := payload.getD 0 0
  if st = stSuccess then s else collFail c st (payload.getD 2 0).toNat s

/-- coll_timeout has passed since a coordinator's start (R303). -/
def collTimeout (uid : Nat) (s : State) : State :=
  match cmdAt s uid with
  | none => s
  | some c =>
    if c.phase ≠ .peers ∨ opcodeOf c.desc ≠ 8 ∨ (now s).toNat < c.startAt.toNat + 1000 * s.flock.collTimeout.toNat then s
    else collFail c stTimeoutPeer 0 s

end Sys2Proof.Machine
end

