-- ==== Sys2Proof/Machine/Resv.lean ====
section
/-! DEFINITION. The reservoir (R311-R329): RESV_OP at the client, the index and its operations at a member, leases,
disclaiming and resolution, and hand-over. -/

namespace Sys2Proof.Machine

/-! ### The RESV_OP descriptor (R319) -/

def rvOp (d : BitVec 512) : Nat := field d 92 4
def rvRank (d : BitVec 512) : Nat := field d 91 1
def rvOff (d : BitVec 512) : Nat := field d 84 6
def rvLen (d : BitVec 512) : Nat := field d 78 6
def rvKey (d : BitVec 512) : BitVec 128 := bitsAt d 384 128
def rvBuf (d : BitVec 512) : Nat := field d 320 64
def rvRequest (d : BitVec 512) : W64 := bitsAt d 256 64
def rvToken (d : BitVec 512) : BitVec 128 := bitsAt d 128 128
/-- Bytes that a FILL or READ moves. -/
def rvBytes (d : BitVec 512) : Nat := 256 * (rvLen d + 1)

/-- The fields are valid (R319). -/
def rvFieldsOk (d : BitVec 512) : Bool :=
  decide (rvOp d ≤ 5) && !bitAt d 90 && field d 66 12 == 0 && !bitAt d 64 &&
    (rvOp d == 2 || rvOp d == 3 || rvOp d == 5 || rvToken d == 0) &&
    decide (rvOff d + rvLen d < 64) && (rvOp d != 3 || rvOff d == 0) &&
    (if rvOp d ≤ 1 then rvBuf d % 32 == 0 else if rvOp d = 2 ∨ rvOp d = 4 then rvBuf d % 256 == 0 else true)

/-! ### Ranking (R311, R312) -/

/-- The weight of a member for a key. -/
def rvWeight (k : BitVec 128) (m : Nat) : Nat := (crc64 (bytesOf 16 k ++ leBytes 2 m)).toNat

/-- Members of a fold's map that count as reservoir members. -/
def rvMembers (s : State) (n : Nat) : List Nat :=
  ((oldValid s n).filter fun p => meReservoir p.2 && !meExcluded p.2 && !meSub p.2).map fun p => p.1

/-- The member of highest weight of a list, the higher number where weights are equal. -/
def rvBest (k : BitVec 128) (l : List Nat) : Option Nat :=
  l.foldl (fun o m => match o with
    | none => some m
    | some x => if rvWeight k x < rvWeight k m ∨ (rvWeight k x = rvWeight k m ∧ x < m) then some m else some x) none

/-- The member of rank 0 or 1. -/
def rvRanked (k : BitVec 128) (l : List Nat) : Nat → Option Nat
  | 0 => rvBest k l
  | r + 1 => match rvBest k l with
    | none => none
    | some m => rvRanked k (l.filter fun x => x != m) r

/-! ### Messages -/

/-- The header of a reservoir message of fold n: its map version, and a status in detail. -/
def rvHdr (s : State) (n : Nat) (detail : Byte) : MsgHdr :=
  flockHdr s n (foldAt s n).member.flockId (foldAt s n).member.version (rankOf s n) detail

/-- A reservoir message of fold n to a fold, on channel 33. -/
def rvTell (n : Nat) (p : W32) (t : Nat) (detail : Byte) (count : Nat) (payload : List Byte) (s : State) : State :=
  tell n p t (rvHdr s n detail) count payload s

/-- A message with page bytes, on the channel of the client fold and class (R323). -/
def rvSend (vc n : Nat) (p : W32) (t : Nat) (detail : Byte) (payload : List Byte) (s : State) : State :=
  postMsg { hdr := rvHdr s n detail, mtype := t, node := peerNode p, fold := peerFold p, count := 1, payload := payload, vc := vc } s

/-! ### The client (R319-R321, R325) -/

/-- buf lands in a memory of this instance or behind a window: host memory is refused (R149). -/
def rvTarget (c : Cmd) (va : Nat) (a : AccessKind) (s : State) : Got × State :=
  match reach niPlace c.tag va a s with
  | (.loc mem off, s1) => (if mem = 3 ∨ !landOk s1 c.tag mem off then .refused va .access else .ok [], s1)
  | (.win .., s1) => (.ok [], s1)
  | (.fault k l, s1) => (.fault va k l, s1)
  | (.refused k, s1) => (.refused va k, s1)
  | (.error p, s1) => (.error 0x43 p, s1)
  | (.wait, s1) => (.wait, s1)

/-- The first piece of a range that cannot be reached decides. -/
def rvReach (c : Cmd) (a : AccessKind) : List (Nat × Nat) → State → Got × State
  | [], s => (.ok [], s)
  | (va, _) :: rest, s =>
    match rvTarget c va a s with
    | (.ok _, s1) => rvReach c a rest s1
    | r => r

/-- What a stopped access to buf does: it waits on a fault and goes on from there, waits, or ends the op. -/
def rvStop (c : Cmd) (a : AccessKind) (r : Requester) (g : Got) (s : State) : State :=
  match g with
  | .fault va k l => faultCmd c.uid c.tag va k a niMaster l r s
  | .refused va k => raiseAccess va c.tag niMaster a k (complete c.uid (.plain stTranslation) s)
  | .error d p => raiseData d p niMaster c.tag (complete c.uid (.plain stDataError) s)
  | _ => s

/-- Bytes at buf that the op writes or reads. -/
def rvSpan (d : BitVec 512) : Nat :=
  match rvOp d with
  | 0 => 32 | 1 => 32 | 2 => rvBytes d | 4 => rvBytes d | _ => 0

/-- Send the request to the member that the try selects: the rank named, then the other (R325). The page bytes of a FILL count at the
client's weir (R323); each request's answer is awaited for coll_timeout (R321; log entry 41). -/
def rvAsk (c : Cmd) (bytes : List Byte) (s : State) : State :=
  let n := tagFold c.tag
  match rvRanked (rvKey c.desc) (rvMembers s n) ((rvRank c.desc + c.moved) % 2) with
  | none => rangeEnd c s
  | some m =>
    let p := mePeer (mapEntry s n m)
    let s1 := modCmd s c.uid fun x => { x with phase := .peers, startAt := now s }
    if rvOp c.desc = 2 then
      let s2 := if toModule s (peerNode p) then weirCharge c.tag 0 bytes.length s1 else s1
      rvSend (2 * n + (if cmdLc s c then 0 else 1)) n p 0x20 0 (bytesOf 64 c.desc ++ bytes) s2
    else rvTell n p 0x20 0 1 (bytesOf 64 c.desc) s1

/-- Ask a member, with the bytes of a FILL read from buf first (R319, R321). -/
def rvTry (c : Cmd) (s : State) : State :=
  let a : AccessKind := if rvOp c.desc = 2 then .read else .write
  match rvReach c a (pagesOf (rvBuf c.desc) (rvSpan c.desc)) s with
  | (.ok _, s1) =>
    if rvOp c.desc = 2 then
      (match fetchRange c niPlace niMaster (rvBuf c.desc) (rvBytes c.desc) s1 with
        | (.ok bs, s2) => rvAsk c bs s2
        | (g, s2) => rvStop c .read (.fence c.uid) g s2)
    else rvAsk c [] s1
  | (g, s1) => rvStop c a (.fence c.uid) g s1

/-- Start or restart a RESV_OP: its checks, its buffer, its request. -/
def startResv (c : Cmd) (s : State) : State :=
  let n := tagFold c.tag
  if !rvFieldsOk c.desc || !flockContext s c.tag ||
      (rvRanked (rvKey c.desc) (rvMembers s n) (rvRank c.desc)).isNone then rangeEnd c s
  else rvTry c s

/-- Write one piece of an answer at buf: host memory is refused (R149). -/
def rvPut (c : Cmd) (va : Nat) (bs : List Byte) (s : State) : Got × State :=
  match reach niPlace c.tag va .write s with
  | (.loc 3 _, s1) => (.refused va .access, s1)
  | (.loc mem off, s1) =>
    (match locWrite c.tag mem off bs s1 with
      | (.ok _, s2) => (.ok [], s2)
      | (.refused, s2) => (.refused va .access, s2)
      | (.error d p, s2) => (.error d p, s2)
      | (.wait, s2) => (.wait, s2))
  | (.win node tag a ver, s1) =>
    if mayReach s1 (tagFold c.tag) node then
      (.ok [], sendRequest (tagFold c.tag) c.uid .none niMaster va (cmdLc s1 c) (windowPacket s1 node tag a ver 2 0 bs) s1)
    else (.wait, holdRemote c.tag node s1)
  | (.fault k l, s1) => (.fault va k l, s1)
  | (.refused k, s1) => (.refused va k, s1)
  | (.error p, s1) => (.error 0x43 p, s1)
  | (.wait, s1) => (.wait, s1)

/-- An answered op writes what is left at buf; it ends once every write is acknowledged (R160). -/
def rvWrites (uid : Nat) : Nat → State → State
  | 0, s => s
  | fuel + 1, s =>
    match cmdAt s uid with
    | none => s
    | some c =>
      match c.out with
      | [] => if settled s c then complete uid (keptDone c) s else s
      | (va, bs) :: rest =>
        match rvPut c va bs s with
        | (.ok _, s1) => rvWrites uid fuel (modCmd s1 uid fun x => { x with out := rest })
        | (g, s1) => rvStop c .write (.move uid) g s1

/-- An op that has its answer goes on. -/
def rvSettle (uid : Nat) (s : State) : State :=
  match cmdAt s uid with
  | none => s
  | some c =>
    if opcodeOf c.desc = 11 ∧ c.phase = .busy then doFor uid niMaster (rvWrites uid (c.out.length + 1)) s else s

/-- The op's result when its answer has been stored. -/
def rvDone (d : BitVec 512) (st : Byte) (ans : BitVec 256) (bytes : List Byte) : Done :=
  match rvOp d with
  | 3 => if st = stSuccess ∨ st = stDuplicate then { Done.withDigest (bitsAt ans 64 64) with status := st } else .plain st
  | 4 => if st = stSuccess ∧ !bytes.isEmpty then .withDigest (crc64 bytes) else .plain st
  | _ => .plain st

/-- RESV_ANS (R320, R321, R323): a status, an answer record, and page bytes. -/
def rvAnswer (uid : Nat) (st : Byte) (ans : BitVec 256) (bytes : List Byte) (s : State) : State :=
  match cmdAt s uid with
  | none => s
  | some c =>
    if opcodeOf c.desc ≠ 11 ∨ c.phase ≠ .peers ∨ c.moved = 2 then s
    else
      let out := if st ≠ stSuccess then [] else if rvOp c.desc ≤ 1 then bytesOf 32 ans
        else if rvOp c.desc = 4 then bytes.take (rvBytes c.desc) else []
      rvSettle uid (modCmd s uid fun x => { x with
        phase := .busy, out := cutBeats [(rvBuf c.desc, out)],
        coll := { x.coll with acc := taskResultBytes (rvDone c.desc st ans out) } })

/-- DISCLAIM (R325): the other rank, then the bellwether. -/
def rvDisclaimed (uid : Nat) (s : State) : State :=
  match cmdAt s uid with
  | none => s
  | some c =>
    if opcodeOf c.desc ≠ 11 ∨ c.phase ≠ .peers ∨ !(rvOp c.desc == 2 || rvOp c.desc == 3) then s
    else
      let n := tagFold c.tag
      let other := rvRanked (rvKey c.desc) (rvMembers s n) ((rvRank c.desc + 1) % 2)
      if c.moved = 0 ∧ other.isSome then
        rvTry { c with moved := 1 } (modCmd s uid fun x => { x with phase := .accepted, moved := 1 })
      else
        rvTell n (foldAt s n).member.bellwether 0x23 0 1
          (bytesOf 16 (rvKey c.desc) ++ bytesOf 8 (rvRequest c.desc) ++ bytesOf 16 (rvToken c.desc) ++ List.replicate 8 0)
          (modCmd s uid fun x => { x with moved := 2, startAt := now s })

/-- RESOLVE_ANS: the status in detail, with the winner's digest when there is one (R325). -/
def rvResolved (uid : Nat) (st : Byte) (digest : W64) (s : State) : State :=
  match cmdAt s uid with
  | none => s
  | some c =>
    if opcodeOf c.desc ≠ 11 ∨ c.phase ≠ .peers ∨ c.moved ≠ 2 then s
    else complete uid (if st = stDuplicate then { Done.withDigest digest with status := st } else .plain st) s

/-- coll_timeout has passed since the op began (R321). -/
def rvTimeout (uid : Nat) (s : State) : State :=
  match cmdAt s uid with
  | none => s
  | some c =>
    if opcodeOf c.desc ≠ 11 ∨ c.phase ≠ .peers ∨ (now s).toNat < c.startAt.toNat + 1000 * s.flock.collTimeout.toNat then s
    else complete uid (.plain stTimeoutPeer) (countTimeout s)

/-! ### The index of a member (R314-R318) -/

def resvOf (s : State) (n : Nat) : Resv := (foldAt s n).resv
def modResv (n : Nat) (g : Resv → Resv) (s : State) : State := modFold s n fun f => { f with resv := g f.resv }

/-- Every record of a key: a hand-over can bring a committed one beside a reservation (R328). -/
def recsOf (s : State) (n : Nat) (k : BitVec 128) : List (Nat × ResvSlot) := (resvOf s n).slots.filter fun p => p.2.key == k

/-- The key's committed record, of several the one of the highest token (R316), else its reservation. -/
def recOf (s : State) (n : Nat) (k : BitVec 128) : Option (Nat × ResvSlot) :=
  let best := ((recsOf s n k).filter fun p => p.2.committed).foldl (fun o p => match o with
    | none => some p
    | some q => if field q.2.token 24 104 < field p.2.token 24 104 then some p else some q) none
  best.orElse fun _ => (recsOf s n k).head?

/-- The record of a key that a token matches, its generation included (R321). -/
def matchOf (s : State) (n : Nat) (k token : BitVec 128) : Option (Nat × ResvSlot) := (recsOf s n k).find? fun p => p.2.token == token

def modSlot (n i : Nat) (g : ResvSlot → ResvSlot) (s : State) : State :=
  modResv n (fun r => { r with slots := r.slots.map fun p => if p.1 == i then (i, g p.2) else p }) s

/-- Free a slot: its generation advances (R315). -/
def freeSlot (n i : Nat) (s : State) : State :=
  modResv n (fun r => { r with slots := r.slots.filter fun p => p.1 != i, gens := Tab.set 0 r.gens i (Tab.get 0 r.gens i + 1) }) s

/-- A READ's last byte has not been sent (R318). -/
def readHeld (s : State) (x : ResvSlot) : Bool :=
  x.reads != 0 && !(Tab.get [] (portAt s ((x.reads - 1) / 64)).streams ((x.reads - 1) % 64)).isEmpty

/-- Ways of a key's set. -/
def waysOf (s : State) (n : Nat) (k : BitVec 128) : List Nat :=
  let sets := (resvOf s n).slotCount / 8
  (List.range 8).map fun w => 8 * (field k 0 64 % sets) + w

/-- Offset in far memory of byte b of a slot's page. -/
def pageOff (s : State) (n i b : Nat) : Nat := (resvOf s n).pageBase.toNat - s.xlate.localBase.toNat + 16384 * i + b

/-- The token of a record (R315): greater tokens are those granted later, then of higher member, then of higher slot. -/
def mkToken (epoch : W64) (member : W16) (slot : Nat) (gen : W16) : BitVec 128 :=
  place epoch.toNat 64 64 ||| place member.toNat 48 16 ||| place slot 24 24 ||| place gen.toNat 8 16

def tokenEpoch (t : BitVec 128) : Nat := field t 64 64
/-- R316. -/
def tokenRank (t : BitVec 128) : Nat := field t 24 104

/-- Free slots have fallen below low_water: short_vector, once an epoch (R326). -/
def checkShort (n : Nat) (s : State) : State :=
  let r := resvOf s n
  if (r.slotCount - r.slots.length) * 1000 < s.resvG.lowWater.toNat * r.slotCount ∧ !r.shortRaised then
    raiseVector s.resvG.shortVector (modResv n (fun r => { r with shortRaised := true }) s)
  else s

/-- A way for a new record of a key: a free one, chosen freely, else the committed entry of oldest last use that no READ
holds, evicted (R321, R322). -/
def takeWay (n : Nat) (k : BitVec 128) (s : State) : Option (Nat × State) :=
  let r := resvOf s n
  let open' := (waysOf s n k).filter fun i => r.slots.all fun p => p.1 != i
  if open'.isEmpty then
    let old := r.slots.filter fun p => (waysOf s n k).contains p.1 && p.2.committed && !readHeld s p.2
    match old.foldl (fun o p => match o with
      | none => some p
      | some q => if p.2.lastUse < q.2.lastUse then some p else some q) none with
    | none => none
    | some p => some (p.1, modResv n (fun r => { r with evictions := satAdd r.evictions 1 }) (freeSlot n p.1 s))
  else
    let (j, s1) := drawBelow open'.length s
    some (open'.getD j 0, s1)

/-- Put a record into a way. -/
def putSlot (n i : Nat) (x : ResvSlot) (s : State) : State := checkShort n (modResv n (fun r => { r with slots := r.slots ++ [(i, x)] }) s)

/-- Last use: the order of uses at the member. -/
def touch (n i : Nat) (s : State) : State :=
  let u := (resvOf s n).uses + 1
  modSlot n i (fun x => { x with lastUse := u }) (modResv n (fun r => { r with uses := u }) s)

def countHit (n : Nat) (hit : Bool) (s : State) : State :=
  modResv n (fun r => if hit then { r with hits := satAdd r.hits 1 } else { r with misses := satAdd r.misses 1 }) s

/-- The answer record of R320. -/
def answerRec (s : State) (n : Nat) (token : BitVec 128) (digest : W64) (st len : Nat) : BitVec 256 :=
  place token.toNat 128 128 ||| place digest.toNat 64 64 ||| place (foldAt s n).member.memberNo.toNat 48 16 |||
    place st 40 8 ||| place len 16 16

/-- The answer about a record for a request. -/
def answerOf (s : State) (n : Nat) (x : ResvSlot) (req : W64) : BitVec 256 :=
  if x.committed then answerRec s n x.token x.digest 2 x.length
  else answerRec s n x.token 0 (if x.request = req then 1 else 3) 0

/-- What a member answers. -/
inductive RvReply where
  | ans (st : Byte) (rec : BitVec 256) (bytes : List Byte)
  | disclaim
  | later
  deriving DecidableEq, Repr

/-- The name of a member fold's own requests to its index and pages. -/
def memberTag (n : Nat) : W16 := mkTag n 0 1

/-- Offset in tarn of a slot's index entry. -/
def indexOff (s : State) (n i : Nat) : Nat := (resvOf s n).indexBase.toNat - s.xlate.localBase.toNat - 2 ^ 42 + 64 * i

/-- An op's bytes at a slot pass the member fold's tarn and far-memory weirs (R252, R323). -/
def rvCharge (n i off b : Nat) (write : Bool) (s : State) : State :=
  doFor 0 niMaster (fun s => charge (memberTag n) 2 (pageOff s n i off) b write (charge (memberTag n) 1 (indexOff s n i) 64 write s)) s

def rvLookup (n : Nat) (d : BitVec 512) (s : State) : RvReply × State :=
  match recOf s n (rvKey d) with
  | none => (.ans stSuccess (answerRec s n 0 0 0 0) [], countHit n false s)
  | some (i, x) =>
    (.ans stSuccess (answerOf s n x (rvRequest d)) [], countHit n x.committed (if x.committed then touch n i s else s))

def rvReserve (n : Nat) (d : BitVec 512) (s : State) : RvReply × State :=
  if (resvOf s n).leaving then (.ans stFenced 0 [], s) else
  match recOf s n (rvKey d) with
  | some (_, x) => (.ans stSuccess (answerOf s n x (rvRequest d)) [], s)
  | none =>
    match takeWay n (rvKey d) s with
    | none => (.ans stSlots 0 [], s)
    | some (i, s1) =>
      let t := mkToken s1.tb.epoch (foldAt s1 n).member.memberNo i (Tab.get 0 (resvOf s1 n).gens i)
      let x : ResvSlot := { committed := false, gen := Tab.get 0 (resvOf s1 n).gens i, token := t, key := rvKey d,
                            request := rvRequest d, length := 0, digest := 0, lastUse := 0, reads := 0, dropAt := none,
                            sent := false }
      (.ans stSuccess (answerRec s1 n t 0 1 0) [],
        putSlot n i x (memStore 2 (pageOff s1 n i 0) (List.replicate 16384 0) s1))

def rvFill (n : Nat) (d : BitVec 512) (bytes : List Byte) (s : State) : RvReply × State :=
  match matchOf s n (rvKey d) (rvToken d) with
  | none => (.disclaim, s)
  | some (i, x) =>
    if x.committed then (.ans stDuplicate (answerOf s n x (rvRequest d)) [], s)
    else
      (.ans stSuccess (answerOf s n x (rvRequest d)) [],
        rvCharge n i (256 * rvOff d) (rvBytes d) true (memStore 2 (pageOff s n i (256 * rvOff d)) (bytes.take (rvBytes d)) s))

def rvCommit (n : Nat) (d : BitVec 512) (s : State) : RvReply × State :=
  match matchOf s n (rvKey d) (rvToken d) with
  | none => (.disclaim, s)
  | some (i, x) =>
    if x.committed then (.ans stDuplicate (answerOf s n x (rvRequest d)) [], s)
    else if poisoned s 2 (pageOff s n i 0) (rvBytes d) then
      (.ans stDataError 0 [], raiseData 0x42 (paOf s 2 (badUnit s 2 (pageOff s n i 0) (rvBytes d))) niMaster 0 s)
    else
      let (bs, s1) := memBytes 2 (pageOff s n i 0) (rvBytes d) s
      let y := { x with committed := true, length := rvBytes d, digest := crc64 bs }
      (.ans stSuccess (answerOf s n y (rvRequest d)) [], rvCharge n i 0 (rvBytes d) false (touch n i (modSlot n i (fun _ => y) s1)))

def rvRead (n : Nat) (d : BitVec 512) (s : State) : RvReply × State :=
  match recOf s n (rvKey d) with
  | none => (.ans stSuccess (answerRec s n 0 0 0 0) [], countHit n false s)
  | some (i, x) =>
    if !x.committed then (.ans stSuccess (answerRec s n 0 0 0 0) [], countHit n false s)
    else if poisoned s 2 (pageOff s n i (256 * rvOff d)) (rvBytes d) then
      (.ans stDataError 0 [], raiseData 0x42 (paOf s 2 (badUnit s 2 (pageOff s n i (256 * rvOff d)) (rvBytes d))) niMaster 0 s)
    else
      let (bs, s1) := memBytes 2 (pageOff s n i (256 * rvOff d)) (rvBytes d) s
      (.ans stSuccess (answerOf s n x (rvRequest d)) bs, rvCharge n i (256 * rvOff d) (rvBytes d) false (countHit n true (touch n i s1)))

def rvRelease (n : Nat) (d : BitVec 512) (s : State) : RvReply × State :=
  match matchOf s n (rvKey d) (rvToken d) with
  | none => (.ans stSuccess 0 [], s)
  | some (i, x) => if readHeld s x then (.later, s) else (.ans stSuccess 0 [], freeSlot n i s)

/-- The member's op (R321). -/
def rvOpAt (n : Nat) (d : BitVec 512) (bytes : List Byte) (s : State) : RvReply × State :=
  match rvOp d with
  | 0 => rvLookup n d s
  | 1 => rvReserve n d s
  | 2 => rvFill n d bytes s
  | 3 => rvCommit n d s
  | 4 => rvRead n d s
  | _ => rvRelease n d s

/-- The member answers every op with REFUSED_FENCED (R321, R327, R329). -/
def rvClosed (s : State) (n : Nat) : Bool :=
  let f := foldAt s n
  f.state != .active || f.live.role != 1 || f.resv.filling || f.resv.filled || f.member.state == 4 || s.faults.sluiceClosed

/-- The successor that a leaving fold hands a key to: the highest weight other than its own (R327). -/
def successor (s : State) (n : Nat) (k : BitVec 128) : Option Nat :=
  rvBest k ((rvMembers s n).filter fun m => m != (foldAt s n).member.memberNo.toNat)

/-- Mark of the fragments of a HANDOVER message for a slot, so that its acknowledgement is seen. -/
def handUse (i : Nat) : E2EUse := .piece (2 ^ 32 + i) 16448

def countDropped (n : Nat) (s : State) : State := modResv n (fun r => { r with dropped := satAdd r.dropped 1 }) s

/-- Send one committed record to its successor. A page with an uncorrectable error is not sent on: the error is recorded and the record
dropped (DESIGN CHOICE; log entry 41). -/
def handSend (n : Nat) (p : Nat × ResvSlot) (s : State) : State :=
  if !p.2.committed || p.2.sent || readHeld s p.2 then s else
  match successor s n p.2.key with
  | none => s
  | some m =>
    if poisoned s 2 (pageOff s n p.1 0) 16384 then
      raiseData 0x42 (paOf s 2 (badUnit s 2 (pageOff s n p.1 0) 16384)) niMaster 0 (countDropped n (freeSlot n p.1 s)) else
    let (bs, s1) := memBytes 2 (pageOff s n p.1 0) 16384 s
    let e := mapEntry s n m
    let body := bytesOf 16 p.2.token ++ bytesOf 8 p.2.request ++ leBytes 8 p.2.length ++ bytesOf 8 p.2.digest ++
      bytesOf 16 p.2.key ++ List.replicate 8 0 ++ bs
    let msg : Msg := { hdr := rvHdr s n 0, mtype := 0x28, node := meNode e, fold := meFold e, count := 1, payload := body, vc := 33 }
    if mayPost s msg then modSlot n p.1 (fun x => { x with sent := true }) (sendMsgAs (handUse p.1) msg s1) else s

/-- A record sent is freed once every fragment is acknowledged. -/
def handDone (n : Nat) (p : Nat × ResvSlot) (s : State) : State :=
  if p.2.sent && (foldAt s n).unacked.all (fun e => e.use != handUse p.1) then freeSlot n p.1 s else s

/-- Hand-over holds no record any more, or is past its deadline: the zero fill begins (R329). -/
def handEnd (n : Nat) (s : State) : State :=
  let r := resvOf s n
  if r.leaving && !r.filling && !r.filled && r.slots.isEmpty then modResv n (fun r => { r with filling := true }) s else s

/-- Carry a hand-over on, in ascending slot order. -/
def handRun (n : Nat) (s : State) : State :=
  if !(resvOf s n).leaving then s else
  let sorted := fun (s : State) => (resvOf s n).slots.insertionSort fun a b => a.1 ≤ b.1
  let s1 := forEach (sorted s) (handDone n) s
  handEnd n (forEach (sorted s1) (handSend n) s1)

/-- The channel of a link port that a READ answer leaves on, kept with its slot until its last byte is gone; within the module it is gone
when it is sent. -/
def noteRead (n : Nat) (d : BitVec 512) (node : BitVec 18) (vc : Nat) (s : State) : State :=
  if moduleOf node = moduleOf (myNode s) then s else
  match recOf s n (rvKey d) with
  | none => s
  | some (i, _) => modSlot n i (fun x => { x with reads := 1 + 64 * field (Tab.get 0 s.net.route (moduleOf node)) 4 1 + vc }) s

/-- RESV_REQ at member fold n (R321, R323); `lc` is the class of the client's context, in which READ data travels back. -/
def rvRequestAt (n : Nat) (h : MsgHdr) (d : BitVec 512) (bytes : List Byte) (lc : Bool) (s : State) : State :=
  let p := senderOf h
  let say := fun (st : Byte) (rec : BitVec 256) (bs : List Byte) (s : State) =>
    if bs.isEmpty then rvTell n p 0x21 st 1 (bytesOf 32 rec) s
    else
      let vc := 2 * h.senderFold.toNat + (if lc then 0 else 1)
      noteRead n d h.senderNode vc (rvSend vc n p 0x21 st (bytesOf 32 rec ++ bs) s)
  if judgeVersion s n false h.senderNode h.senderFold.toNat h.version = .refuse then
    say stFenced 0 [] (refuseVersion n false h.version s)
  else if rvClosed s n then say stFenced 0 [] s
  else
    match rvOpAt n d bytes s with
    | (.ans st rec bs, s1) => handRun n (say st rec bs s1)
    | (.disclaim, s1) =>
      rvTell n p 0x22 0 0 [] { s1 with resvG := { s1.resvG with disclaims := satAdd s1.resvG.disclaims 1 } }
    | (.later, s1) => s1

/-- The member fold's weirs do not admit an op yet (R252, R323). -/
def rvHeld (s : State) (n : Nat) (d : BitVec 512) : Bool :=
  match (matchOf s n (rvKey d) (rvToken d)).orElse fun _ => recOf s n (rvKey d) with
  | none => false
  | some (i, _) => !weirAdmits s (memberTag n) 0 (indexOff s n i) 64 ||
      (rvOp d != 0 && !weirAdmits s (memberTag n) 1 (pageOff s n i (256 * rvOff d)) (rvBytes d))

/-- The request must wait: for the version it names, for its weirs, or for a READ that holds the slot it releases. -/
def rvWaits (s : State) (n : Nat) (h : MsgHdr) (d : BitVec 512) : Bool :=
  (!rvClosed s n && rvHeld s n d) ||
  judgeVersion s n false h.senderNode h.senderFold.toNat h.version == .hold ||
    (rvOp d == 5 && !rvClosed s n && (match matchOf s n (rvKey d) (rvToken d) with
      | some (_, x) => readHeld s x
      | none => false))

/-! ### Resolution at the bellwether (R325) -/

/-- Decide a resolution on the answers that have come. -/
def rvDecide (r : Resolution) (s : State) : State :=
  let s0 := { s with resvG := { s.resvG with
    resolutions := s.resvG.resolutions.filter fun x => x != r, resolves := satAdd s.resvG.resolves 1 } }
  let n := r.fold
  let drop := fun (f : ResvFound) (s : State) =>
    rvTell n (mePeer (mapEntry s n f.member.toNat)) 0x27 0 1 (bytesOf 16 r.key ++ bytesOf 16 f.token) s
  let done := r.found.filter fun f => f.committed
  match done.foldl (fun o f => match o with
    | none => some f
    | some x => if tokenRank x.token < tokenRank f.token then some f else some x) (none : Option ResvFound) with
  | some best =>
    let s1 := forEach (done.filter fun f => tokenRank f.token < tokenRank best.token) drop s0
    rvTell n (senderOf r.client) 0x26 stDuplicate 1 (bytesOf 16 best.token ++ bytesOf 8 best.digest) s1
  | none =>
    let s1 := forEach (r.found.filter fun f => f.request == r.request) drop s0
    rvTell n (senderOf r.client) 0x26 stLeaseExpired 0 (List.replicate 24 0) s1

/-- RESOLVE waits for the version it names (R288, R323). -/
def rvResolveWaits (s : State) (n : Nat) (h : MsgHdr) : Bool :=
  judgeVersion s n false h.senderNode h.senderFold.toNat h.version == .hold

/-- RESOLVE at the bellwether fold n: QUERY to every reservoir member of its map; a stale one is refused with REFUSED_FENCED (R323). -/
def rvResolveAt (n : Nat) (h : MsgHdr) (key : BitVec 128) (req : W64) (s : State) : State :=
  if judgeVersion s n false h.senderNode h.senderFold.toNat h.version = .refuse then
    rvTell n (senderOf h) 0x26 stFenced 0 (List.replicate 24 0) (refuseVersion n false h.version s)
  else if (foldAt s n).member.bellwether ≠ myPeer s n then s
  else
    let ms := rvMembers s n
    let r : Resolution := { key := key, request := req, fold := n, client := h, uid := 0, since := now s, waiting := ms, found := [] }
    let s1 := { s with resvG := { s.resvG with resolutions := s.resvG.resolutions ++ [r] } }
    if ms.isEmpty then rvDecide r s1
    else forEach ms (fun m s => rvTell n (mePeer (mapEntry s n m)) 0x24 0 1 (bytesOf 16 key) s) s1

/-- Bytes of one QUERY_ANS record; the state byte says committed, and the digest follows (log entry 41). -/
def foundBytes (f : ResvFound) : List Byte :=
  bytesOf 16 f.token ++ bytesOf 8 f.request ++ [if f.committed then 2 else 1, 0, 0, 0, 0, 0, 0, 0] ++ bytesOf 8 f.digest

/-- QUERY at a member. -/
def rvQueryAt (n : Nat) (h : MsgHdr) (key : BitVec 128) (s : State) : State :=
  let m := (foldAt s n).member.memberNo
  let fs := if (foldAt s n).live.role = 1 then (recsOf s n key).map fun p =>
      { token := p.2.token, request := p.2.request, committed := p.2.committed, digest := p.2.digest, member := m : ResvFound }
    else []
  rvTell n (senderOf h) 0x25 0 fs.length (bytesOf 16 key ++ fs.flatMap foundBytes) s

/-- QUERY_ANS at the bellwether: the last answer decides. -/
def rvFoundAt (n : Nat) (h : MsgHdr) (key : BitVec 128) (recs : List ResvFound) (s : State) : State :=
  match s.resvG.resolutions.find? fun r => r.fold == n && r.key == key, memberOf s n h.senderNode h.senderFold.toNat with
  | some r, some m =>
    if !r.waiting.contains m then s
    else
      let mine := recs.map fun f => { f with member := BitVec.ofNat 16 m }
      let r' := { r with waiting := r.waiting.filter fun x => x != m, found := r.found ++ mine }
      let s1 := { s with resvG := { s.resvG with resolutions := s.resvG.resolutions.map fun x => if x == r then r' else x } }
      if r'.waiting.isEmpty then rvDecide r' s1 else s1
  | _, _ => s

/-- Resolutions that have waited for coll_timeout are decided without the members that did not answer. -/
def rvResolveDue (s : State) : State :=
  forEach (s.resvG.resolutions.filter fun r =>
    decide (r.since.toNat + 1000 * s.flock.collTimeout.toNat ≤ (now s).toNat)) rvDecide s

/-- DROP at a member: a committed record goes at once, a reservation at the boundary lease_epochs after the decision. -/
def rvDropAt (n : Nat) (h : MsgHdr) (key token : BitVec 128) (s : State) : State :=
  match matchOf s n key token with
  | none => s
  | some (i, x) =>
    if x.committed then countDropped n (freeSlot n i s)
    else modSlot n i (fun x => { x with dropAt := some (h.epoch + BitVec.ofNat 64 s.resvG.leaseEpochs.toNat) }) s

/-! ### Hand-over at the successor (R328) -/

/-- Store a record handed over. -/
def handStore (n : Nat) (rec : HandRec) (page : List Byte) (s : State) : State :=
  match takeWay n rec.key s with
  | none => countDropped n s
  | some (i, s1) =>
    let u := (resvOf s1 n).uses + 1
    let x : ResvSlot := { committed := true, gen := Tab.get 0 (resvOf s1 n).gens i, token := rec.token, key := rec.key,
                          request := rec.request, length := rec.length, digest := rec.digest, lastUse := u, reads := 0,
                          dropAt := none, sent := false }
    putSlot n i x (modResv n (fun r => { r with uses := u })
      (memStore 2 (pageOff s1 n i 0) (page.take 16384 ++ List.replicate (16384 - page.length) 0) s1))

/-- HANDOVER at fold n. -/
def handAt (n : Nat) (rec : HandRec) (page : List Byte) (s : State) : State :=
  if rvClosed s n || (resvOf s n).leaving then countDropped n s
  else
    match recOf s n rec.key with
    | none => handStore n rec page s
    | some (i, x) =>
      if !x.committed then handStore n rec page s
      else if tokenRank x.token < tokenRank rec.token then handStore n rec page (freeSlot n i s)
      else s

/-! ### Boundaries and the end of a fill (R317, R326, R329) -/

/-- The reservoir's part of the boundary that begins an epoch: leases and due drops, hand-over's deadline, and role 0 after
its fill. -/
def resvBoundary (s0 : State) : State :=
  let e := s0.tb.epoch.toNat
  forEach (List.range 16) (fun n s =>
    let r := resvOf s n
    if (foldAt s n).live.role ≠ 1 ∨ (r.slots.isEmpty ∧ !r.shortRaised ∧ !r.leaving) then s
    else
      let ended := fun (p : Nat × ResvSlot) => !p.2.committed && decide (tokenEpoch p.2.token + s.resvG.leaseEpochs.toNat ≤ e)
      let due := fun (p : Nat × ResvSlot) => match p.2.dropAt with
        | some t => !p.2.committed && decide (t.toNat ≤ e)
        | none => false
      let s1 := forEach (r.slots.filter ended) (fun p s =>
        modResv n (fun r => { r with expired := satAdd r.expired 1 }) (freeSlot n p.1 s)) s
      let s2 := forEach ((resvOf s1 n).slots.filter due) (fun p s => countDropped n (freeSlot n p.1 s)) s1
      let s3 := modResv n (fun r => { r with shortRaised := false }) s2
      let late := match r.handover with | some t => r.leaving && !r.filling && !r.filled && decide (t.toNat ≤ e) | none => false
      let s4 := if late then forEach (resvOf s3 n).slots (fun p s => countDropped n (freeSlot n p.1 s)) s3 else s3
      let s5 := handRun n s4
      if (resvOf s5 n).filled then
        modFold s5 n fun f => { f with
          live := { f.live with role := 0 },
          resv := { f.resv with leaving := false, filled := false, handover := none } }
      else s5) s0

/-- The zero fill of index and pages ends (R329). -/
def handFillEnd (n : Nat) (s : State) : State :=
  let r := resvOf s n
  if !r.filling then s
  else
    let a := pageOff s n 0 0
    let k := farKey s a
    let units := fun (t : Tab Nat) => t.filter fun p => !(a ≤ p.1 * 64 && p.1 * 64 < a + 16384 * r.slotCount)
    let io := r.indexBase.toNat - s.xlate.localBase.toNat - 2 ^ 42
    let keyed := if k = 0 then units s.xlate.keyOf
      else (List.range (256 * r.slotCount)).foldl (fun t i => Tab.set 0 t (a / 64 + i) k) s.xlate.keyOf
    let s1 := { s with
      far := memZero s.far a (16384 * r.slotCount), tarn := memZero s.tarn io (64 * r.slotCount),
      xlate := { s.xlate with keyOf := keyed },
      poison := s.poison.filter fun p =>
        !(p.1 == 2 && overlap (p.2 * 64) 64 a (16384 * r.slotCount)) && !(p.1 == 1 && overlap (p.2 * 64) 64 io (64 * r.slotCount)) }
    modResv n (fun r => { r with filling := false, filled := true }) s1

end Sys2Proof.Machine
end

