-- ==== Sys2Proof/Machine/Time.lean ====
section
/-! DEFINITION. The timebase and epoch boundaries (R196, R359-R369), the grazing plan (R198-R203), slowdown and ceiling
figures (R223, R224, R270), weir meters and misses (R253, R258, R262, R263), capacities (R254, R265, R266) and gauges
(R268, R269). -/

namespace Sys2Proof.Machine

/-! ### Figures of the epoch -/

/-- Per mille, rounded down, saturating at 65,535; 0 when the divisor is 0. -/
def perMille (a b : Nat) : W16 := if b = 0 then 0 else BitVec.ofNat 16 (min 65535 (1000 * a / b))

/-- CLK_ARR cycles of an epoch that has lasted `ns` nanoseconds. -/
def epochCycles (ns : Nat) (s : State) (f : Fold) : Nat := (((ns * s.power.clkArr : Nat) : Int) + f.stmt.cycles).toNat / 1000

/-- The ceiling ratio of R270. -/
def ceilingRatio (ns : Nat) (s : State) (f : Fold) : W16 :=
  perMille f.stmt.beatWork (16384 * countBits 32 f.live.engines * epochCycles ns s f)

/-- A meter's counts of the epoch begin again. -/
def againMeter (m : Meter) : Meter := { m with bytesLast := BitVec.ofNat 64 m.bytesNow, bytesNow := 0, announced := false }

/-- Step 2 of R196 for one fold: the figures of the epoch that ended, numbered `e` and `ns` nanoseconds long, are latched, its
counters begin again, and its statement page is rewritten (R250). -/
def latchFold (e : W64) (ns n : Nat) (s : State) : State :=
  if (foldAt s n).state = .free then s else
  rewritePage (modFold s n fun f =>
    let x := f.sched
    let slow := perMille x.interference x.readyTime
    { f with
      sched := { x with
        slowLast := slow, slowLcLast := perMille x.interferenceLc x.readyTime,
        history := (x.history ++ [slow.toNat]).drop (x.history.length - 63), readyTime := 0, interference := 0,
        interferenceLc := 0 },
      meters := f.meters.map fun p => (p.1, againMeter p.2),
      stmt := { f.stmt with
        epoch := e, misses := f.stmt.missesNow, missesNow := 0, ceilingRatio := ceilingRatio ns s f, beatWork := 0,
        cycles := 0 } }) n

/-- CLK_ARR changes to a frequency: the cycles of the epoch are corrected (R270). -/
def setClkArr (mhz : Nat) (s : State) : State :=
  if s.power.clkArr = mhz then s else
  let d : Int := (sinceBoundary s : Int) * ((s.power.clkArr : Int) - mhz)
  let s1 := forEach (s.folds.map fun p => p.1) (fun n s =>
    modFold s n fun f => { f with stmt := { f.stmt with cycles := f.stmt.cycles + d } }) s
  { s1 with power := { s1.power with clkArr := mhz },
            gauges := { s1.gauges with clockChanges := s1.gauges.clockChanges + 1 } }

/-! ### Misses (R262, R263) -/

/-- A fold class misses its guarantee in a window of `ns` nanoseconds. -/
def fellShort (f : Fold) (k ns : Nat) : Bool :=
  let g := (weirOf f (classOf k)).guarantee.toNat
  let m := meterOf f k
  g != 0 && decide (m.winBytes * 1000 < g * ns) && decide (ns < 2 * m.winHeld)

/-- The mean latency is above the target at the window's end. -/
def lateNow (f : Fold) (k : Nat) : Bool :=
  (weirOf f (classOf k)).target != 0 && decide ((weirOf f (classOf k)).target.toNat < (meterOf f k).ewma)

/-- Meter keys of a class: the link class has one a port. -/
def keysOf (c : Nat) : List Nat := if c = 2 then [2, 4] else [c]

/-- One class of a fold at the end of a window. -/
def judgeMiss (n ns c : Nat) (s : State) : State :=
  let f := foldAt s n
  let clear := fun (s : State) => forEach (keysOf c) (fun k s => modMeter n k (fun m => { m with winBytes := 0, winHeld := 0 }) s) s
  if (keysOf c).any fun k => fellShort f k ns || lateNow f k then
    let s1 := modMeter n c (fun m => { m with misses := satAdd m.misses 1, announced := true }) (clear s)
    let s2 := modFold s1 n fun f => { f with stmt := { f.stmt with missesNow := satAdd f.stmt.missesNow 1 } }
    if (meterOf f c).announced then s2 else raiseVector f.missVector s2
  else clear s

/-- The window that ends now, `ns` nanoseconds long. -/
def judgeWindow (ns : Nat) (s : State) : State :=
  forEach (List.range 16) (fun n s =>
    if !foldExists s n || (foldAt s n).meters.isEmpty then s
    else forEach [0, 1, 2, 3] (judgeMiss n ns) s) s

/-! ### The grazing plan -/

/-- Commons engines give back what the window in progress does not grant (R203). -/
def ungranted (s : State) : State :=
  forEach (s.engines.map fun p => p.1) (fun e s =>
    if engineHeld s e then s
    else forEach ((engineAt s e).queue.filter fun u => !granted s s.graze.window e (tagFold (tagOfCmd s u))) withdraw s) s

/-- Window 0 of the active plan begins. -/
def windowZero (s : State) : State := ungranted { s with graze := { s.graze with window := 0 } }

/-- The words of the bank that is not active, as many as its count. -/
def inactiveWords (s : State) : Nat × List W64 :=
  let b := s.graze.activeBank = 0
  let n := if b then s.graze.count1.toNat else s.graze.count0.toNat
  (n, (List.range n).map fun i => Tab.get 0 (if b then s.graze.bank1 else s.graze.bank0) i)

/-- Strictly ascending numbers. -/
def ascending : List Nat → Bool
  | [] => true
  | [_] => true
  | a :: b :: rest => decide (a < b) && ascending (b :: rest)

/-- An arming is valid (R200). -/
def planOk (s : State) (v : W64) : Bool :=
  let (n, ws) := inactiveWords s
  decide (s.tb.epoch.toNat < v.toNat) && decide (1 ≤ n) && decide (n ≤ 64) &&
    field (ws.headD 0) 0 16 == 0 && ascending (ws.map fun w => field w 0 16) &&
    ws.all fun w => (bitList 16 (bitsAt w 16 16)).all fun n => foldExists s n && !(foldAt s n).live.sealed

/-- A write of switch_epoch: 0 disarms (R198, R200). -/
def switchWrite (v : W64) (s : State) : State :=
  if v = 0 ∨ planOk s v then { s with graze := { s.graze with switchEpoch := v } }
  else { s with graze := { s.graze with refusals := s.graze.refusals + 1 } }

/-- The bank switch at a boundary. -/
def bankSwitch (s : State) : State :=
  if s.graze.switchEpoch ≠ 0 ∧ s.graze.switchEpoch.toNat ≤ s.tb.epoch.toNat then
    { s with graze := { s.graze with activeBank := 1 - s.graze.activeBank, switchEpoch := 0 } }
  else s

/-- A window after the first begins (R197, R203). -/
def windowStartAt (w : Nat) (s : State) : State :=
  if w = s.graze.window + 1 ∧ w < planCount s ∧ windowStart s w ≤ sinceBoundary s ∧ s.tb.state ≠ .unset then
    let s1 := noteOverruns s
    ungranted { s1 with graze := { s1.graze with window := w } }
  else s

/-! ### A boundary (R196) -/

/-- The settings of the timebase at a boundary that begins epoch e and lies at a cycle. -/
def beginEpoch (e : W64) (cycle : Nat) (s : State) : State :=
  let t := s.tb
  let sw := t.lenSwitch != 0 && decide (t.lenSwitch.toNat ≤ e.toNat)
  { s with tb := { t with
      epoch := e, boundaryCycle := cycle, lastBoundary := t.time, len := if sw then t.lenNext else t.len,
      lenSwitch := if sw then 0 else t.lenSwitch } }

/-- Step 1 of R196: what is scheduled for epoch e takes effect, with what is due for an earlier epoch (R366), and ranks whose
capacity has risen are honoured again (R266). -/
def changesNow (e : W64) (s : State) : State := bankSwitch (restoreRisen (resvBoundary (flockBoundary (applyArmed e s))))

/-- The boundary that begins epoch e, at a REFCLK_100 cycle: the last window of misses is judged, and then the steps of R196. -/
def boundary (e : W64) (cycle : Nat) (s : State) : State :=
  let old := s.tb.epoch
  let ns := sinceBoundary s
  let s1 := judgeWindow (if ns % 10000 = 0 then 10000 else ns % 10000) (noteOverruns s)
  let s2 := changesNow e (beginEpoch e cycle s1)
  let s3 := windowZero (forEach (List.range 16) (latchFold old ns) s2)
  twinBoundary (judgeReady (wakeAll s3))

/-- Cycles of an epoch, and of w = L/8. -/
def lenCycles (s : State) : Nat := s.tb.len.toNat / 10
def syncW (s : State) : Nat := s.tb.len.toNat / 80

/-- A class H record (R369). -/
def raiseH (detail : Nat) (s : State) : State := raiseFault { cls := 7, detail := detail } s

def predictFrom (t : Nat) (s : State) : State := { s with tb := { s.tb with predicted := t + lenCycles s } }

/-- LOCKED or FREE_RUN is left for LOCKED. -/
def lock (s : State) : State :=
  let was := s.tb.state
  let s1 := { s with tb := { s.tb with state := .locked, consecutive := 0, realign := false } }
  if was = .freeRun then raiseH 0x62 s1 else s1

/-- FREE_RUN: the boundary at the predicted cycle. -/
def freeBoundary (s : State) : State :=
  let p := s.tb.predicted
  let s1 := boundary (s.tb.epoch + 1) p s
  predictFrom p { s1 with tb := { s1.tb with realign := true } }

/-- The sync window closes empty, or a free-running boundary is reached (R364). -/
def expiry (s : State) : State :=
  let p := s.tb.predicted
  match s.tb.state with
  | .unset => s
  | .freeRun => if p ≤ s.tb.cycle then freeBoundary s else s
  | .locked =>
    if s.tb.cycle < p + syncW s then s
    else
      let s1 := predictFrom p (boundary (s.tb.epoch + 1) (p + syncW s) s)
      let n := s1.tb.consecutive + 1
      let s2 := raiseH 0x60 { s1 with tb := { s1.tb with slips := s1.tb.slips + 1, consecutive := n } }
      if n = 4 then
        raiseH 0x61 { s2 with tb := { s2.tb with state := .freeRun, freeRunEntries := s2.tb.freeRunEntries + 1, realign := false } }
      else s2

/-! ### Frames (R361, R362) -/

/-- A frame ignored or discarded. -/
def frameError (s : State) : State := raiseH 0x63 { s with tb := { s.tb with frameErrors := s.tb.frameErrors + 1 } }

/-- The type byte of a frame. -/
def frameCode : FrameType → Byte
  | .load => 1 | .check => 2 | .rephase => 3

/-- Bits [175:16] of a frame: preamble, type, time, epoch, reserved. -/
def frameBody (ty : FrameType) (time epoch : W64) : BitVec 160 :=
  ((((0x4D : Byte) ++ frameCode ty) ++ time) ++ epoch) ++ (0 : W16)

/-- The 176 bits of a frame: the CRC covers bits [167:16]. -/
def frameWord (ty : FrameType) (time epoch : W64) : BitVec 176 :=
  frameBody ty time epoch ++ crc16 ((frameBody ty time epoch).setWidth 152)

/-- What the line's 176 bits say: none for a bad preamble, a bad CRC, a reserved type or a reserved field that is not 0. -/
def readFrame (w : BitVec 176) : Option (FrameType × W64 × W64) :=
  if w.extractLsb' 168 8 = 0x4D ∧ w.extractLsb' 16 16 = 0 ∧ w.setWidth 16 = crc16 (w.extractLsb' 16 152) then
    let said := fun (ty : FrameType) => some (ty, w.extractLsb' 96 64, w.extractLsb' 32 64)
    match (w.extractLsb' 160 8).toNat with
    | 1 => said .load
    | 2 => said .check
    | 3 => said .rephase
    | _ => none
  else none

/-- The line has carried 176 bits: a good frame describes the first edge at least 1 µs later, and one that it replaces is
discarded; any other is ignored. -/
def lineIn (w : BitVec 176) (s : State) : State :=
  match readFrame w with
  | none => frameError s
  | some (ty, time, epoch) =>
    let s1 := if s.tb.frame.isSome then frameError s else s
    { s1 with tb := { s1.tb with frame := some (ty, time, epoch, s1.tb.cycle + 100) } }

/-- A frame with a time and an epoch comes over the line. -/
def frameIn (ty : FrameType) (time epoch : W64) (s : State) : State := lineIn (frameWord ty time epoch) s

/-- The signed offset of a time against the timebase. -/
def offsetOf (s : State) (time : W64) : Int := (time.toNat : Int) - s.tb.time.toNat

/-- Correct an offset (R362). -/
def correct (d : Int) (s : State) : State :=
  let sat : Int := max (-2147483648) (min 2147483647 d)
  let s1 := { s with tb := { s.tb with lastOffset := BitVec.ofInt 32 sat, slew := 0 } }
  if -10 ≤ d ∧ d ≤ 10 then s1
  else if 1000000 < d then raiseH 0x65 { s1 with tb := { s1.tb with time := s1.tb.time + BitVec.ofInt 64 d } }
  else
    let s2 := { s1 with tb := { s1.tb with slew := d } }
    if d < -1000000 then raiseH 0x65 s2 else s2

/-- LOAD in UNSET: time and epoch, and the boundary that begins it. -/
def loadFrame (time epoch : W64) (s : State) : State :=
  let s1 := { s with tb := { s.tb with time := time, state := .locked, slew := 0, consecutive := 0 } }
  predictFrom s.tb.cycle (boundary epoch s.tb.cycle s1)

/-- REPHASE at an edge that it may declare a boundary. -/
def rephaseFrame (time epoch : W64) (s : State) : State :=
  let cur := s.tb.epoch.toNat
  let s1 := if epoch.toNat ≤ cur then raiseH 0x64 s
    else { s with tb := { s.tb with skipped := s.tb.skipped + BitVec.ofNat 32 (epoch.toNat - (cur + 1)) } }
  let s2 := lock (correct (offsetOf s1 time) s1)
  predictFrom s.tb.cycle (boundary (BitVec.ofNat 64 (max epoch.toNat (cur + 1))) s.tb.cycle s2)

/-- CHECK at an accepted edge; `e` is the epoch it is compared with. -/
def checkFrame (time epoch e : W64) (s : State) : State :=
  correct (offsetOf s time) (if epoch = e then s else raiseH 0x64 s)

/-- What R364 makes of a pulse. -/
inductive Pulse where
  | boundary | realign | ignored
  deriving DecidableEq, Repr

/-- Judge a pulse at the present cycle. -/
def judgePulse (s : State) : Pulse :=
  let t := s.tb.cycle
  let p := s.tb.predicted
  let w := syncW s
  match s.tb.state with
  | .locked => if p ≤ t + w ∧ t ≤ p + w then .boundary else .ignored
  | .freeRun =>
    if p ≤ t + w ∧ t < p then .boundary
    else if s.tb.realign ∧ s.tb.boundaryCycle ≤ t ∧ t ≤ s.tb.boundaryCycle + w then .realign else .ignored
  | .unset => .ignored

/-- A pulse with the CHECK (or LOAD) frame that describes it, if any. -/
def plainPulse (f : Option (W64 × W64)) (s : State) : State :=
  match judgePulse s with
  | .ignored => raiseH 0x60 (if f.isSome then frameError s else s)
  | .boundary =>
    let s1 := match f with
      | some (t, e) => checkFrame t e (s.tb.epoch + 1) s
      | none => s
    let s2 := lock s1
    predictFrom s.tb.cycle (boundary (s2.tb.epoch + 1) s.tb.cycle s2)
  | .realign =>
    let s1 := match f with
      | some (t, e) => checkFrame t e s.tb.epoch s
      | none => s
    predictFrom s.tb.cycle (lock s1)

/-- A SYNC_IN pulse (R361, R364); in FREE_RUN the boundary at a predicted cycle that has come precedes it. -/
def pulse (s0 : State) : State :=
  let s := if s0.tb.state = .freeRun ∧ s0.tb.predicted ≤ s0.tb.cycle then freeBoundary s0 else s0
  let due := match s.tb.frame with
    | some f => if f.2.2.2 ≤ s.tb.cycle then some f else none
    | none => none
  let s1 := if due.isSome then { s with tb := { s.tb with frame := none } } else s
  match s.tb.state, due with
  | .unset, some (.load, t, e, _) => loadFrame t e s1
  | .unset, some _ => frameError s1
  | .unset, none => s1
  | _, some (.rephase, t, e, _) =>
    if s1.tb.boundaryCycle + lenCycles s1 / 2 ≤ s1.tb.cycle then rephaseFrame t e s1 else plainPulse none (frameError s1)
  | _, some (_, t, e, _) => plainPulse (some (t, e)) s1
  | _, none => plainPulse none s1

/-- A write of len_switch_epoch (R367, R368): 0 disarms; another value must lie ahead. -/
def lenSwitchWrite (v : W64) (s : State) : State :=
  if v = 0 ∨ s.tb.epoch.toNat < v.toNat then { s with tb := { s.tb with lenSwitch := v } } else s

/-! ### Weir meters (R253, R258, R271) -/

/-- One refill of a count: 64 ns of the rate in thousandths of a byte, up to 2 µs of it. -/
def refill (rate : Nat) (t : Int) : Int := min ((2000 * rate : Nat) : Int) (t + (64 * rate : Nat))

/-- Refresh one meter of a fold. -/
def refreshMeter (n k : Nat) (s : State) : State :=
  let f := foldAt s n
  modMeter n k (fun m => { m with
    gTokens := refill (weirOf f (classOf k)).guarantee.toNat m.gTokens,
    cTokens := refill (ceilingOf f (classOf k)) m.cTokens }) s

/-- Every meter is refreshed. -/
def refreshMeters (s : State) : State :=
  forEach (List.range 16) (fun n s =>
    if !foldExists s n then s else forEach [0, 1, 2, 3, 4] (fun k s => refreshMeter n k s) s) s

/-! ### Capacities (R254, R265, R266) -/

/-- Set a capacity in force and let its event follow. -/
def setCapacity (k : Nat) (v : Nat) (s : State) : State :=
  let old := capacityNow s k
  let w := BitVec.ofNat 32 v
  let g := s.weirG
  capacityEvent k old { s with weirG :=
    match k with
    | 0 => { g with stackCapNow := w }
    | 1 => { g with farCapNow := w }
    | 2 => { g with linkCapNow0 := w }
    | 4 => { g with linkCapNow1 := w }
    | _ => { g with hostCapNow := w } }

/-- Units of a range that are in service. -/
def inService (s : State) (lo n : Nat) : Nat := ((List.range n).filter fun i => !unitOut s (lo + i)).length

/-- A write to host_cap (before the lock), which host_cap_now follows, or to host_cap_now (R254). -/
def hostCapSet (nowEntry : Bool) (v : W32) (s : State) : State :=
  if nowEntry then setCapacity 3 v.toNat s
  else if s.boot.locked then s
  else
    let s1 := { s with weirG := { s.weirG with hostCap := v } }
    setCapacity 3 v.toNat s1

/-! ### Gauges (R268, R269) -/

/-- Put a sample into a gauge. -/
def sampleGauge (g : GaugeId) (v : Nat) (s : State) : State :=
  let x := s.gauges
  match g with
  | .clkArr => { s with gauges := { x with clkArr := gaugeAdd s.power.clkArr x.clkArr } }
  | .clkHerd => { s with gauges := { x with clkHerd := gaugeAdd s.power.clkHerd x.clkHerd } }
  | .power => { s with gauges := { x with power := gaugeAdd v x.power } }
  | .temp => { s with gauges := { x with temp := gaugeAdd s.power.tNow.toNat x.temp } }
  | .rail i => { s with gauges := { x with rails := Tab.set Gauge.reset x.rails i (gaugeAdd v (Tab.get Gauge.reset x.rails i)) } }
  | .fold n 6 => foldGauge n 6 (s.cmds.filter fun c => c.phase == .ready && tagFold c.tag == n).length s
  | .fold n 7 => foldGauge n 7 ((List.range 5).map fun k => (heldIn s n k).length).sum s
  | .fold _ _ => s

/-- A write of the clear entry. -/
def clearGauges (v : W32) (s : State) : State :=
  let s1 := forEach (bitList 16 v) clearFoldGauges s
  if bitAt v 16 then { s1 with gauges := { s1.gauges with
      clkArr := Gauge.reset, clkHerd := Gauge.reset, power := Gauge.reset, temp := Gauge.reset, rails := [] } }
  else s1

end Sys2Proof.Machine
end

