-- ==== Sys2Proof/Machine/Migrate.lean ====
section
/-! DEFINITION. FOLD_EXPORT and FOLD_IMPORT (R242-R247) with their fold-transfer sessions (R446, R449, R450). The manual
gives the sections of the save area and not the byte offsets inside the header and the entries; those here are the model's
(log entry 38). -/

namespace Sys2Proof.Machine

/-! ### Arguments -/

def fxFold (d : BitVec 512) : Nat := field d 128 4
def fxSave (d : BitVec 512) : Nat := field d 448 64
def fxImage (d : BitVec 512) : Nat := field d 384 64
def fxFrames (d : BitVec 512) : Nat := field d 320 64
def fxRemap (d : BitVec 512) : Nat := field d 256 64
def fxCount (d : BitVec 512) : Nat := field d 224 32
def fxPeer (d : BitVec 512) : BitVec 18 := bitsAt d 206 18

/-! ### Bytes of the save area (log entry 38) -/

/-- The bytes of a number are padded with zeros to a length. -/
def pad (n : Nat) (bs : List Byte) : List Byte := bs.take n ++ List.replicate (n - bs.length) 0

/-- A number at an offset of a byte string. -/
def numAt (bs : List Byte) (off n : Nat) : Nat := ofLe ((bs.drop off).take n)

def boolByte (b : Bool) : Byte := if b then 1 else 0

/-- A fold's entries. -/
def resBytes (r : FoldRes) : List Byte :=
  [r.role, boolByte r.sealed, boolByte r.padded, boolByte r.keyed] ++ bytesOf 4 r.engines ++ bytesOf 2 r.halfGroups ++
    bytesOf 64 r.tarnUnits ++ bytesOf 32 r.pondUnits ++ bytesOf 2 r.ctxQuota ++ bytesOf 2 r.queueQuota ++
    bytesOf 2 r.semQuota ++ bytesOf 2 r.waitQuota ++ bytesOf 2 r.cacheWays ++
    ((List.range 16).flatMap fun i => bytesOf 4 (Tab.get 0 r.peers i)) ++
    ((List.range 4).flatMap fun c =>
      let w := Tab.get WeirSet.reset r.weirs c
      bytesOf 4 w.guarantee ++ bytesOf 4 w.ceiling ++ bytesOf 4 w.target ++ [w.rank, w.prio])

/-- A model cache directory entry (R216). -/
def modelEntry (m : Model) : BitVec 256 :=
  place m.id.toNat 192 64 ||| place m.lastDispatch.toNat 128 64 ||| place m.length 88 40 ||| place m.loader.toNat 72 16 |||
    place m.home 66 6 ||| place m.state 64 2 ||| place m.digest.toNat 0 64

def modelSection (f : Fold) : List Byte :=
  ((List.range 64).flatMap fun i => match f.sched.models[i]? with
    | some m => bytesOf 32 (modelEntry m)
    | none => List.replicate 32 0) ++
  (List.range 64).flatMap fun h => bytesOf 32 (Tab.get 0 f.sched.homes h)

/-- Number of a model in its fold's directory; 64 for none. -/
def modelNo (f : Fold) (id : Option W64) : Nat :=
  match id with
  | none => 64
  | some x => f.sched.models.findIdx fun m => m.id == x

def ctxEntry (s : State) (i : Nat) : List Byte :=
  let x := ctxAt s i
  pad 32 (bytesOf 2 (mkTag x.fold i x.gen) ++ [boolByte x.lc, boolByte x.reproducible] ++ leBytes 4 x.pasid.toNat ++
    leBytes 8 (match x.root with | some r => r.toNat + 1 | none => 0) ++ bytesOf 8 x.fenceList ++ bytesOf 4 x.fenceLen ++
    leBytes 4 (modelNo (foldAt s x.fold) x.model))

def queueEntry (s : State) (q : Nat) : List Byte :=
  let x := queueAt s q
  pad 64 (leBytes 2 x.hqi ++ leBytes 2 q ++ bytesOf 2 x.tag ++ [BitVec.ofNat 8 x.size, BitVec.ofNat 8 x.loc] ++
    bytesOf 4 x.nextSeq ++ bytesOf 4 x.sqHead ++ bytesOf 4 x.sqTail ++ bytesOf 4 x.cqHead ++ bytesOf 8 x.headWb ++
    bytesOf 8 x.ring ++ bytesOf 8 x.cring ++ bytesOf 2 x.msix ++ bytesOf 2 x.modCount ++ bytesOf 2 x.modTime ++
    leBytes 2 x.hqi ++ leBytes 2 q ++ bytesOf 4 x.cqTail)

def semEntry (i : Nat) (x : Sem) : List Byte :=
  pad 64 (leBytes 2 i ++ [0, 0] ++ bytesOf 4 x.count ++ bytesOf 4 x.max ++ x.holders.flatMap fun h => bytesOf 2 h.1 ++ leBytes 4 h.2)

def cmdEntry (c : Cmd) : List Byte :=
  bytesOf 64 c.desc ++ bytesOf 8 c.acceptTime ++ leBytes 4 c.q ++ leBytes 4 (if holdsSlot c then 1 else 0)

/-- Objects of a fold. -/
def foldQueues (s : State) (n : Nat) : List Nat := queuesWhere s fun x => x.hqi != 0 && (hqiAt s x.hqi).fold == n
def foldSems (s : State) (n : Nat) : List (Nat × Sem) := s.sems.filter fun p => p.2.created && p.2.fold == n
def foldPending (s : State) (n : Nat) : List Cmd :=
  s.cmds.filter fun c => c.tag != 0 && tagFold c.tag == n && c.carriedIn.isNone && stillOk c

/-- Everything after the header. -/
def saveBody (s : State) (n : Nat) : List Byte :=
  let f := foldAt s n
  ((List.range 2048).flatMap fun i => bytesOf 8 (Tab.get 0 f.windows i)) ++ modelSection f ++
    (foldSlots s n).flatMap (ctxEntry s) ++ (foldQueues s n).flatMap (queueEntry s) ++
    ((foldSems s n).flatMap fun p => semEntry p.1 p.2) ++ (foldPending s n).flatMap cmdEntry

/-- The header behind its CRC. -/
def saveHead (s : State) (n : Nat) (serial : W32) (frames : Nat) : List Byte :=
  let f := foldAt s n
  pad 4088 (leBytes 4 (foldSlots s n).length ++ leBytes 4 (foldQueues s n).length ++ leBytes 4 (foldSems s n).length ++
    leBytes 4 (foldPending s n).length ++ leBytes 4 (myNode s).toNat ++ leBytes 4 n ++ bytesOf 8 f.frozenTime ++
    bytesOf 4 serial ++ leBytes 4 frames ++ leBytes 4 (countBits 256 f.live.pondUnits) ++
    leBytes 4 (countBits 512 f.live.tarnUnits) ++ resBytes f.live ++ resBytes f.staged)

def saveArea (s : State) (n : Nat) (serial : W32) (frames : Nat) : List Byte :=
  let rest := saveHead s n serial frames ++ saveBody s n
  bytesOf 8 (crc64 rest) ++ rest

/-- R244. -/
def saveSize (s : State) (n : Nat) : Nat :=
  4096 + 16384 + 4096 + 32 * (foldSlots s n).length + 64 * (foldQueues s n).length + 64 * (foldSems s n).length +
    80 * (foldPending s n).length

/-! ### The image (R242) -/

/-- Frames of the list, as offsets in far memory; none when one is not a frame of the fold. -/
def frameOffs (s : State) (n : Nat) (bs : List Byte) : Option (List Nat) :=
  (chunksOf 8 (bs.length / 8) bs).mapM fun x =>
    let a := ofLe x
    match decodePa s a with
    | .loc 2 off => if a % 2 ^ 21 = 0 ∧ ownedBy s n 2 off then some off else none
    | _ => none

/-- Image ranges of a fold as (memory, offset, bytes). -/
def imageRanges (s : State) (n ponds tarns : Nat) (frames : List Nat) : List (Nat × Nat × Nat) :=
  let f := foldAt s n
  (((bitList 256 f.live.pondUnits).take ponds).map fun u => (0, u * 2 ^ 18, 2 ^ 18)) ++
    (((bitList 512 f.live.tarnUnits).take tarns).map fun u => (1, u * 2 ^ 20, 2 ^ 20)) ++
    frames.map fun o => (2, o, 2 ^ 21)

/-- The bytes of ranges; none when one holds an uncorrectable error, with its place. -/
def gather : List (Nat × Nat × Nat) → List Byte → State → (List Byte ⊕ (Nat × Nat)) × State
  | [], acc, s => (.inl acc, s)
  | (mem, off, n) :: rest, acc, s =>
    if poisoned s mem off n then (.inr (mem, off), s)
    else
      let (bs, s1) := memBytes mem off n s
      gather rest (acc ++ bs) s1

/-- Store an image into ranges. -/
def scatter : List (Nat × Nat × Nat) → List Byte → State → State
  | [], _, s => s
  | (mem, off, n) :: rest, bs, s => scatter rest (bs.drop n) (memStore mem off (bs.take n) s)

/-! ### Sessions -/

def connOf (s : State) (p : SpdmPath) : SpdmConn := match s.spdm.find? fun x => x.1 == p with | some x => x.2 | none => SpdmConn.closed
def setConn (p : SpdmPath) (c : SpdmConn) (s : State) : State :=
  let others := s.spdm.filter fun x => x.1 != p
  { s with spdm := if c = SpdmConn.closed then others else others ++ [(p, c)] }

/-- A fold-transfer session with a node stands. -/
def hasSession (s : State) (node : BitVec 18) : Bool := !(connOf s (.fold node)).sessions.isEmpty

/-- Nodes with a fold-transfer session. -/
def sessionNodes (s : State) : List (BitVec 18) :=
  s.spdm.filterMap fun x => match x.1 with
    | .fold n => if x.2.sessions.isEmpty then none else some n
    | _ => none

/-- A command uses the session with a node. -/
def sessionUsed (s : State) (node : BitVec 18) : Bool :=
  s.cmds.any fun c => c.phase == .session && fxPeer c.desc == node

/-- Room for one more session: of 8, the least recently used that no command uses ends (R449). -/
def sessionRoom (s : State) : Option State :=
  if (sessionNodes s).length < 8 then some s
  else
    match ((sessionNodes s).filter fun n => !sessionUsed s n).foldl (fun o n => match o with
      | none => some n
      | some m => if (connOf s (.fold n)).lastUse.toNat < (connOf s (.fold m)).lastUse.toNat then some n else some m) none with
    | none => none
    | some n => some (setConn (.fold n) SpdmConn.closed s)

/-- The key of a transfer (R450). -/
def transferKey (s : State) (node : BitVec 18) (serial : W32) : List Byte :=
  Config.hkdfExpand (Config.exportMaster (connOf s (.fold node)).transcript)
    ([0x48, 0x54, 0x46, 0x33, 0x20, 0x66, 0x6F, 0x6C, 0x64] ++ bytesOf 4 serial) 32

/-- The nonce of a chunk: export serial, then the chunk index. -/
def chunkNonce (serial : W32) (i : Nat) : List Byte := bytesOf 4 serial ++ leBytes 8 i

/-- Seal an image in chunks of 64 KiB. -/
def sealImage (key : List Byte) (serial : W32) (bs : List Byte) : List Byte :=
  ((chunksOf 65536 (ceilDiv bs.length 65536) bs).zipIdx.map fun x => Config.gcmSeal key (chunkNonce serial x.2) x.1).flatten

/-- Open a sealed image; none when a tag fails. -/
def openImage (key : List Byte) (serial : W32) (bs : List Byte) : Option (List Byte) :=
  ((chunksOf 65552 (ceilDiv bs.length 65552) bs).zipIdx.mapM fun x => Config.gcmOpen key (chunkNonce serial x.2) x.1).map
    List.flatten

/-- The first message toward a peer: GET_VERSION. -/
def beginSession (n : Nat) (node : BitVec 18) (s : State) : State :=
  let h : MsgHdr := { epoch := s.tb.epoch, version := 0, flockId := 0, senderNode := myNode s, senderFold := BitVec.ofNat 4 n,
                      senderRank := 3, detail := 0 }
  postMsg { hdr := h, mtype := 0x40, node := node, fold := 0, count := 0, payload := [0x10, 0x84, 0, 0], vc := 33 } s

/-! ### FOLD_EXPORT (R242, R244) -/

/-- A kernel-queue command's access to host or local memory failed or waits. -/
def kernelStop (c : Cmd) (a : AccessKind) (g : Got) (s : State) : State :=
  match g with
  | .wait => s
  | .fault .. => rangeEnd c s
  | .remote _ => rangeEnd c s
  | g =>
    let (st, s1) := failAccess g 0 hostMaster a s
    complete c.uid (.plain st) s1

def exportArgsOk (c : Cmd) : Bool := fxSave c.desc % 4096 == 0 && fxImage c.desc % 4096 == 0

/-- Write image and save area. -/
def exportWrite (c : Cmd) (offs : List Nat) (s : State) : State :=
  let n := fxFold c.desc
  let f := foldAt s n
  let serial := f.exportSerial + 1
  match gather (imageRanges s n 256 512 offs) [] s with
  | (.inr (mem, off), s1) => raiseData 0x42 (paOf s1 mem off) hostMaster 0 (complete c.uid (.plain stDataError) s1)
  | (.inl img, s1) =>
    let out := if f.live.keyed then sealImage (transferKey s1 (fxPeer c.desc) serial) serial img else img
    match writeRange 8 0 (fxImage c.desc) out s1 with
    | (.ok _, s2) =>
      (match writeRange 8 0 (fxSave c.desc) (saveArea s2 n serial offs.length) s2 with
        | (.ok _, s3) =>
          let touch := fun (s : State) => if f.live.keyed then
            setConn (.fold (fxPeer c.desc)) { connOf s (.fold (fxPeer c.desc)) with lastUse := now s } s else s
          success c (touch (modFold s3 n fun f => { f with exportSerial := serial }))
        | (g, s3) => kernelStop c .write g s3)
    | (g, s2) => kernelStop c .write g s2

/-- Start or resume a FOLD_EXPORT; a keyed fold needs a session with its peer (R449). -/
def startExport (c : Cmd) (s : State) : State :=
  let n := fxFold c.desc
  let f := foldAt s n
  if f.state ≠ .frozen ∨ !exportArgsOk c then rangeEnd c s
  else if 2 ^ 18 < saveSize s n then complete c.uid (.plain stSlots) s
  else if f.live.keyed ∧ !hasSession s (fxPeer c.desc) then
    (if c.phase = .session then s
     else match sessionRoom s with
      | none => rangeEnd c s
      | some s1 => beginSession n (fxPeer c.desc) (setPhase s1 c.uid .session))
  else
    match readRange 8 0 (fxFrames c.desc) (8 * fxCount c.desc) s with
    | (.ok bs, s1) =>
      (match frameOffs s1 n bs with
        | some offs => exportWrite c offs s1
        | none => rangeEnd c s1)
    | (g, s1) => kernelStop c .read g s1

/-- A session's establishment has failed. -/
def sessionFailed (node : BitVec 18) (s : State) : State :=
  forEach (s.cmds.filter fun c => c.phase == .session && fxPeer c.desc == node) (fun c s => rangeEnd c s)
    (setConn (.fold node) SpdmConn.closed s)

/-! ### FOLD_IMPORT (R245-R247) -/

/-- A save area as read. -/
structure Save where
  head : List Byte
  windows : List Byte
  models : List Byte
  ctxs : List (List Byte)
  queues : List (List Byte)
  sems : List (List Byte)
  cmds : List (List Byte)
  good : Bool
  deriving DecidableEq, Repr

/-- Cut a save area into its sections. -/
def parseSave (bs : List Byte) : Save :=
  let h := (bs.drop 8).take 4088
  let nc := numAt h 0 4
  let nq := numAt h 4 4
  let ns := numAt h 8 4
  let np := numAt h 12 4
  let b := bs.drop 4096
  let c0 := 20480
  let q0 := c0 + 32 * nc
  let s0 := q0 + 64 * nq
  let p0 := s0 + 64 * ns
  { head := h, windows := b.take 16384, models := (b.drop 16384).take 4096,
    ctxs := chunksOf 32 nc ((b.drop c0).take (32 * nc)), queues := chunksOf 64 nq ((b.drop q0).take (64 * nq)),
    sems := chunksOf 64 ns ((b.drop s0).take (64 * ns)), cmds := chunksOf 80 np ((b.drop p0).take (80 * np)),
    good := bs.length == 4096 + p0 + 80 * np && numAt bs 0 8 == (crc64 (bs.drop 8)).toNat }

/-- Length of a save area, by the counts in its first bytes. -/
def saveLen (first : List Byte) : Nat :=
  4096 + 20480 + 32 * numAt first 8 4 + 64 * numAt first 12 4 + 64 * numAt first 16 4 + 80 * numAt first 20 4

def svSerial (x : Save) : W32 := BitVec.ofNat 32 (numAt x.head 32 4)
def svFrozen (x : Save) : Nat := numAt x.head 24 8
def svFrames (x : Save) : Nat := numAt x.head 36 4
def svPonds (x : Save) : Nat := numAt x.head 40 4
def svTarns (x : Save) : Nat := numAt x.head 44 4

/-- The destination admits the import but for free slots: RANGE otherwise (R245). -/
def importShape (s : State) (n : Nat) (x : Save) (c : Cmd) : Bool :=
  let f := foldAt s n
  f.state == .active && !(s.ctxs.any fun p => p.2.state == .live && p.2.fold == n) && (foldQueues s n).isEmpty &&
    numAt x.head 48 1 == f.live.role.toNat && numAt x.head 49 1 == (boolByte f.live.sealed).toNat &&
    numAt x.head 51 1 == (boolByte f.live.keyed).toNat &&
    decide (svPonds x ≤ countBits 256 f.live.pondUnits) && decide (svTarns x ≤ countBits 512 f.live.tarnUnits) &&
    svFrames x == fxCount c.desc &&
    x.queues.all fun e => (hqiAt s (numAt e 0 2)).created && (hqiAt s (numAt e 0 2)).fold == n

/-- Context slots for an import, lowest first. -/
def importSlots (s : State) (k : Nat) : List Nat := ((List.range 512).filter (slotReady s)).take k

/-- A quota of the fold leaves room for more objects beside those it holds (R31); 0 is no quota. -/
def quotaRoom (quota : W16) (held more : Nat) : Bool := quota == 0 || decide (held + more ≤ quota.toNat)

/-- Wait slots that the pending commands of a save area need. -/
def saveWaits (x : Save) : Nat := (x.cmds.filter fun e => numAt e 76 4 == 1).length

/-- The numbers and slots an import needs are free, and the quotas of the destination leave room (R31, R245): SLOTS_EXHAUSTED
otherwise. -/
def importRoom (s : State) (n : Nat) (x : Save) : Bool :=
  let r := (foldAt s n).live
  (x.sems.all fun e => !(semAt s (numAt e 0 2)).created) && (importSlots s x.ctxs.length).length == x.ctxs.length &&
    (x.queues.all fun e => (queueAt s (numAt e 2 2)).state == .free) &&
    decide (slotsUsed s + saveWaits x ≤ 8192) && quotaRoom r.ctxQuota (ctxCount s n) x.ctxs.length &&
    quotaRoom r.queueQuota (foldQueues s n).length x.queues.length && quotaRoom r.semQuota (foldSems s n).length x.sems.length &&
    quotaRoom r.waitQuota (foldSlotsUsed s n) (saveWaits x)

/-- Old tags with their new ones. -/
def remapOf (s : State) (n : Nat) (x : Save) : List (W16 × W16) :=
  (x.ctxs.zip (importSlots s x.ctxs.length)).map fun p =>
    (BitVec.ofNat 16 (numAt p.1 0 2), mkTag n p.2 (ctxAt s p.2).gen)

def remapTag (m : List (W16 × W16)) (t : W16) : W16 := match m.find? fun p => p.1 == t with | some p => p.2 | none => t

/-- Rewrite the owner in one fence of an imported list (R246 step 4). -/
def reownFence (m : W16 × W16) (a : Nat) (s : State) : State :=
  match decodePa s (ofLe (hostRead s a 8)) with
  | .loc mem off =>
    let (bs, s1) := memBytes mem off 16 s
    if fsOwner (BitVec.ofNat 128 (ofLe bs)) = m.1.toNat then memStore mem (off + 14) (bytesOf 2 m.2) s1 else s1
  | _ => s

/-- A context of the save area takes its slot. -/
def importCtx (n : Nat) (models : List Model) (e : List Byte) (slot : Nat) (s : State) : State :=
  let x := ctxAt s slot
  let old : W16 := BitVec.ofNat 16 (numAt e 0 2)
  let len := numAt e 24 4
  let list := numAt e 16 8
  let s1 := setCtx s slot { x with
    state := .live, fold := n, lc := numAt e 2 1 == 1, reproducible := numAt e 3 1 == 1,
    pasid := BitVec.ofNat 20 (numAt e 4 4), root := if numAt e 8 8 = 0 then none else some (BitVec.ofNat 64 (numAt e 8 8 - 1)),
    fenceList := BitVec.ofNat 64 list, fenceLen := BitVec.ofNat 32 len,
    model := (models[numAt e 28 4]?).map fun m => m.id, lastDispatch := 0, sluiceClosed := false, drainUntil := none,
    boosted := false }
  if list = 0 then s1
  else forEach (List.range len) (fun i s => reownFence (old, mkTag n slot x.gen) (list + 8 * i) s) s1

def importQueue (m : List (W16 × W16)) (e : List Byte) (s : State) : State :=
  let tag : W16 := BitVec.ofNat 16 (numAt e 4 2)
  setQueue s (numAt e 2 2)
    { Queue.reset with
      state := madeState s, hqi := numAt e 0 2, tag := remapTag m tag, size := numAt e 6 1, loc := numAt e 7 1,
      nextSeq := BitVec.ofNat 32 (numAt e 8 4), sqHead := BitVec.ofNat 32 (numAt e 12 4),
      sqTail := BitVec.ofNat 32 (numAt e 16 4), cqHead := BitVec.ofNat 32 (numAt e 20 4),
      headWb := BitVec.ofNat 64 (numAt e 24 8), ring := BitVec.ofNat 64 (numAt e 32 8), cring := BitVec.ofNat 64 (numAt e 40 8),
      msix := BitVec.ofNat 16 (numAt e 48 2), modCount := BitVec.ofNat 16 (numAt e 50 2),
      modTime := BitVec.ofNat 16 (numAt e 52 2), cqTail := BitVec.ofNat 32 (numAt e 58 4),
      orig := some (BitVec.ofNat 8 (numAt e 54 2), BitVec.ofNat 16 (numAt e 56 2), tag) }

def importSem (n : Nat) (m : List (W16 × W16)) (e : List Byte) (s : State) : State :=
  let held := ((chunksOf 6 8 ((e.drop 12).take 48)).map fun h =>
    (remapTag m (BitVec.ofNat 16 (numAt h 0 2)), numAt h 2 4)).filter fun h => h.2 != 0
  setSem s (numAt e 0 2)
    { created := true, fold := n, count := BitVec.ofNat 32 (numAt e 4 4), max := BitVec.ofNat 32 (numAt e 8 4),
      holders := held, waiters := [] }

/-- A pending command comes back as accepted, its tag that of its queue, its stamp Δ later; a FENCE_WAIT holds its wait slot
again. -/
def importCmd (x : Save) (m : List (W16 × W16)) (delta : W64) (e : List Byte) (s : State) : State :=
  let d : BitVec 512 := BitVec.ofNat 512 (ofLe (e.take 64))
  let source := x.queues.find? fun y => numAt y 56 2 == numAt e 72 4
  let q := match source with | some y => numAt y 2 2 | none => numAt e 72 4
  let old := match source with | some y => BitVec.ofNat 16 (numAt y 4 2) | none => bitsAt d 32 16
  let c := { newCmd s q d with
    tag := remapTag m old, acceptTime := BitVec.ofNat 64 (numAt e 64 8) + delta,
    phase := if numAt e 76 4 = 1 then .waitFence (BitVec.ofNat 64 (2 ^ 63)) (operand1 d) else .accepted }
  { s with cmds := s.cmds ++ [c], nextUid := s.nextUid + 1, free := s.free + 1 }

/-- Models of the save area; their lines count as written, the sources of their images are free (log entry 42). -/
def importModels (x : Save) (delta : W64) (m : List (W16 × W16)) (free : Nat) : List Model :=
  ((chunksOf 32 64 (x.models.take 2048)).zipIdx.filter fun p => field (BitVec.ofNat 256 (ofLe p.1)) 64 2 != 0).map fun p =>
    let e : BitVec 256 := BitVec.ofNat 256 (ofLe p.1)
    let h : BitVec 256 := BitVec.ofNat 256 (numAt x.models (2048 + 32 * field e 66 6) 32)
    let lines := List.range (homePondLen h / 4096)
    { id := bitsAt e 192 64, home := field e 66 6, state := field e 64 2, length := field e 88 40, digest := bitsAt e 0 64,
      src := Config.freeValue 64 (free + p.2), loader := remapTag m (bitsAt e 72 16),
      lastDispatch := bitsAt e 128 64 + delta, written := lines, saved := lines }

/-- R246, once every check has passed. -/
def importApply (c : Cmd) (x : Save) (img : List Byte) (offs : List Nat) (s : State) : State :=
  let n := fxFold c.desc
  let m := remapOf s n x
  let delta := now s - BitVec.ofNat 64 (svFrozen x)
  let models := importModels x delta m s.free
  let s1 := scatter (imageRanges s n (svPonds x) (svTarns x) offs) img { s with free := s.free + 64 }
  let s2 := forEach (x.ctxs.zip (importSlots s x.ctxs.length)) (fun p s => importCtx n models p.1 p.2 s) s1
  let remap := m.flatMap fun p => bytesOf 2 p.1 ++ bytesOf 2 p.2
  let s3 := (writeRange 8 0 (fxRemap c.desc) remap s2).2
  let s4 := forEach x.sems (importSem n m) (forEach x.queues (importQueue m) s3)
  let put := fun (t : Tab W64) (p : List Byte × Nat) => Tab.set 0 t p.2 (BitVec.ofNat 64 (ofLe p.1))
  let putHome := fun (t : Tab (BitVec 256)) (p : List Byte × Nat) => Tab.set 0 t p.2 (BitVec.ofNat 256 (ofLe p.1))
  let putPeer := fun (t : Tab W32) (p : List Byte × Nat) => Tab.set 0 t p.2 (BitVec.ofNat 32 (ofLe p.1))
  let s5 := modFold s4 n fun f => { f with
    windows := (chunksOf 8 2048 x.windows).zipIdx.foldl put [],
    sched := { f.sched with models := models, homes := (chunksOf 32 64 (x.models.drop 2048)).zipIdx.foldl putHome [] },
    live := { f.live with peers := (chunksOf 4 16 ((x.head.drop 164).take 64)).zipIdx.foldl putPeer [] },
    frozenTime := now s, scrubbed := false }
  let s6 := forEach x.cmds (importCmd x m delta) s5
  success c (setFoldState s6 n .frozen)

/-- Read and open the image. -/
def importImage (c : Cmd) (x : Save) (s : State) : Got × State :=
  let keyed := (foldAt s (fxFold c.desc)).live.keyed
  let plain := svPonds x * 2 ^ 18 + svTarns x * 2 ^ 20 + svFrames x * 2 ^ 21
  let len := if keyed then plain + 16 * ceilDiv plain 65536 else plain
  match readRange 8 0 (fxImage c.desc) len s with
  | (.ok bs, s1) =>
    if !keyed then (.ok bs, s1)
    else match openImage (transferKey s1 (fxPeer c.desc) (svSerial x)) (svSerial x) bs with
      | some img => (.ok img, s1)
      | none => (.remote 0, s1)
  | r => r

/-- Start a FOLD_IMPORT. -/
def startImport (c : Cmd) (s : State) : State :=
  let n := fxFold c.desc
  if !exportArgsOk c || fxRemap c.desc % 4096 != 0 || ((foldAt s n).live.keyed && !hasSession s (fxPeer c.desc)) then rangeEnd c s
  else
    match readRange 8 0 (fxSave c.desc) 4096 s with
    | (.ok first, s1) =>
      if 2 ^ 18 < saveLen first then rangeEnd c s1
      else
        (match readRange 8 0 (fxSave c.desc) (saveLen first) s1 with
          | (.ok bs, s2) =>
            let x := parseSave bs
            if !x.good || !importShape s2 n x c then rangeEnd c s2
            else if !importRoom s2 n x then complete c.uid (.plain stSlots) s2
            else
              (match readRange 8 0 (fxFrames c.desc) (8 * fxCount c.desc) s2 with
                | (.ok fb, s3) =>
                  (match frameOffs s3 n fb, importImage c x s3 with
                    | some offs, (.ok img, s4) => importApply c x img offs s4
                    | none, _ => rangeEnd c s3
                    | _, (g, s4) => kernelStop c .read g s4)
                | (g, s3) => kernelStop c .read g s3)
          | (g, s2) => kernelStop c .read g s2)
    | (g, s1) => kernelStop c .read g s1

/-- SPDM_FOLD (R449): the messages of a transfer session; at its end the session stands, or its establishment failed. -/
def spdmFoldAt (h : MsgHdr) (m : SpdmMsg) (done good : Bool) (s : State) : State :=
  let p := SpdmPath.fold h.senderNode
  let c := connOf s p
  if done && good then
    if !c.sessions.isEmpty then setConn p { c with lastUse := now s } s
    else
      match sessionRoom s with
      | none => s
      | some s1 =>
        let (t, s2) := drawBits 64 s1
        setConn p { c with version := true, caps := true, algs := true, opening := [], sessions := [m.session], lastUse := now s,
                           transcript := t.toNat } s2
  else if done then sessionFailed h.senderNode s
  else setConn p { c with version := true, lastUse := now s, opening := addOnce m.session c.opening } s

end Sys2Proof.Machine
end

