-- ==== Sys2Proof/Machine/Objects.lean ====
section
/-! DEFINITION. HQIs, queues and semaphores made and destroyed by requests of the driver (R171-R174, R178, R187), doorbells
and the pointers of the completion ring (R176, R502), the kernel queue (R504), the fault ring (R411, R506), the journal
ring (R193, R376, R507) and interrupt moderation (R172). -/

namespace Sys2Proof.Machine

/-! ### The request of R172 -/

def hoOp (r : BitVec 512) : Nat := field r 0 8
def hoHqi (r : BitVec 512) : Nat := field r 248 8
def hoFold (r : BitVec 512) : Nat := field r 256 4
def hoLoc (r : BitVec 512) : Nat := field r 260 6
def hoSem (r : BitVec 512) : Nat := field r 266 10
def hoQueue (r : BitVec 512) : Nat := field r 276 12
def hoTag (r : BitVec 512) : W16 := bitsAt r 288 16
def hoSize (r : BitVec 512) : Nat := field r 304 4
def hoRing (r : BitVec 512) : W64 := bitsAt r 448 64
def hoCring (r : BitVec 512) : W64 := bitsAt r 384 64
def hoHeadWb (r : BitVec 512) : W64 := bitsAt r 320 64
def hoCount (r : BitVec 512) : W32 := bitsAt r 168 32
def hoMax (r : BitVec 512) : W32 := bitsAt r 136 32

/-- Reserved fields are 0 (R173). -/
def hoClean (r : BitVec 512) : Bool := field r 308 12 == 0 && field r 8 128 == 0

/-- What a request comes to at once: an outcome with the semaphore number, or it waits. -/
inductive ObjectEnd where
  | done (st : Byte) (sem : Nat)
  | waits
  deriving DecidableEq, Repr

/-- The queue at a slot of an HQI's doorbell page: there until its QUEUE_DESTROY is acknowledged (R178). -/
def queueAtSlot (s : State) (h loc : Nat) : Option Nat :=
  (s.queues.find? fun p => p.2.state != .free && p.2.hqi == h && p.2.loc == loc).map fun p => p.1

/-- Queues bound to an HQI. -/
def hqiQueues (s : State) (h : Nat) : List Nat := queuesWhere s fun x => x.hqi == h

/-- HQI_CREATE; the first that succeeds sets the configuration lock (R495). -/
def hqiCreate (r : BitVec 512) (s : State) : ObjectEnd × State :=
  let h := hoHqi r
  if h = 0 ∨ (hqiAt s h).created ∨ !foldExists s (hoFold r) then (.done stRange 0, s)
  else
    let s1 := setHqi s h { hqiAt s h with created := true, fold := hoFold r, closed := false, drainUntil := none }
    (.done stSuccess 0, { s1 with boot := { s1.boot with locked := true } })

/-- QUEUE_CREATE (R173). -/
def queueCreate (r : BitVec 512) (s : State) : ObjectEnd × State :=
  let h := hoHqi r
  let q := hoQueue r
  let n := (hqiAt s h).fold
  if h = 0 ∨ q = 0 ∨ !(hqiAt s h).created ∨ (queueAt s q).state ≠ .free ∨ !tagOpen s (hoTag r) ∨ tagFold (hoTag r) ≠ n ∨
      (queueAtSlot s h (hoLoc r)).isSome ∨ (hoRing r).toNat % 4096 ≠ 0 ∨ (hoCring r).toNat % 4096 ≠ 0 ∨
      (hoHeadWb r).toNat % 8 ≠ 0 ∨ 12 < hoSize r then (.done stRange 0, s)
  else if (foldAt s n).live.queueQuota ≠ 0 ∧ (foldAt s n).live.queueQuota.toNat ≤ (foldQueues s n).length then
    (.done stSlots 0, s)
  else
    (.done stSuccess 0, setQueue s q { Queue.reset with
      state := madeState s, hqi := h, loc := hoLoc r, tag := hoTag r, ring := hoRing r,
      cring := hoCring r, headWb := hoHeadWb r, size := hoSize r, msix := bitsAt r 232 16, modCount := bitsAt r 216 16,
      modTime := bitsAt r 200 16 })

/-- Queues stopped with cause NOT_READY become ACTIVE by themselves (R178). -/
def wakeQueues (s : State) : State :=
  if queuesReady s then
    forEach (queuesWhere s fun x => x.state == .notReady) (fun q s => modQueue s q fun x => { x with state := .active }) s
  else s

/-- Begin to destroy a queue: it fetches no more, what was not dispatched ends, and the drain limit counts (R174). -/
def beginDestroy (q : Nat) (s : State) : State :=
  let x := queueAt s q
  let s1 := modHqi (setQueue s q { x with destroying := true, batch := 0 }) x.hqi fun h =>
    { h with drainUntil := earlierOf h.drainUntil (drainDeadline s) }
  completeAll (cmdsWhere s1 fun c => c.q == q && undispatched c) (.broken stFenced) s1

/-- Every completion of a queue has been written, in host memory too, and no read of its ring is outstanding (R174, R483). -/
def queueDone (s : State) (q : Nat) : Bool :=
  (cmdsOf s q).isEmpty && (s.journal.heldBack.all fun h => h.1 != q) && s.hostPort.posted.isEmpty &&
    s.hostPort.out.all fun r => r.use != .batch q

/-- A response for an HQI is outstanding: of a memory, of another instance or of the host, abandoned ones included (R174). -/
def hqiAwaits (s : State) (h : Nat) : Bool :=
  s.xlate.reqs.any (fun r => r.hqi == h) || s.hostPort.out.any (fun r => r.hqi == h) ||
    s.folds.any fun p => p.2.unacked.any fun e => e.hqi == h

/-- QUEUE_DESTROY, begun or carried on. -/
def queueDestroy (q : Nat) (s : State) : ObjectEnd × State :=
  if q = 0 ∨ (queueAt s q).state = .free then (.done stRange 0, s)
  else
    let s1 := if (queueAt s q).destroying then s else beginDestroy q s
    if queueDone s1 q then (.done stSuccess 0, setQueue s1 q Queue.reset) else (.waits, s1)

/-- HQI_DESTROY, begun or carried on: acknowledged when no response for the HQI is outstanding (R174). -/
def hqiDestroy (h : Nat) (s : State) : ObjectEnd × State :=
  if h = 0 ∨ !(hqiAt s h).created then (.done stRange 0, s)
  else
    let s1 := if (hqiAt s h).closed then s
      else
        let s0 := modHqi s h fun x => { x with closed := true, drainUntil := earlierOf x.drainUntil (drainDeadline s) }
        forEach (hqiQueues s0 h) beginDestroy s0
    let qs := hqiQueues s1 h
    if qs.all (queueDone s1) && !hqiAwaits s1 h then
      let s2 := forEach qs (fun q s => setQueue s q Queue.reset) s1
      (.done stSuccess 0, modHqi s2 h fun x => { Hqi.reset with spoof := x.spoof, doorbellBad := x.doorbellBad })
    else (.waits, s1)

/-- QUEUE_RESUME clears the cause of a stop, SQ_HEAD unchanged (R178). -/
def queueResume (q : Nat) (s : State) : ObjectEnd × State :=
  match (queueAt s q).state with
  | .seqGap => (.done stSuccess 0, modQueue s q fun x => { x with state := .active })
  | .waitSlots => (.done stSuccess 0, modQueue s q fun x => { x with state := .active })
  | .hang => (.done stSuccess 0, modQueue s q fun x => { x with state := .active })
  | .readError => (.done stSuccess 0, modQueue s q fun x => { x with state := .active })
  | _ => (.done stRange 0, s)

/-- SEM_ALLOC: the lowest free number (R172). -/
def semAlloc (r : BitVec 512) (s : State) : ObjectEnd × State :=
  let n := hoFold r
  let quota := (foldAt s n).live.semQuota.toNat
  if !foldExists s n || hoMax r == 0 || decide ((hoMax r).toNat < (hoCount r).toNat) then (.done stRange 0, s)
  else if quota ≠ 0 ∧ quota ≤ (foldSems s n).length then (.done stSlots 0, s)
  else
    match lowest 1024 fun i => !(semAt s i).created with
    | none => (.done stSlots 0, s)
    | some i => (.done stSuccess i,
        setSem s i { Sem.reset with created := true, fold := n, count := hoCount r, max := hoMax r })

/-- SEM_FREE (R187). -/
def semFree (i : Nat) (s : State) : ObjectEnd × State :=
  let x := semAt s i
  if !x.created || !x.holders.isEmpty || !x.waiters.isEmpty then (.done stRange 0, s)
  else (.done stSuccess 0, setSem s i Sem.reset)

/-- Carry out a request as far as it goes. -/
def objectRun (r : BitVec 512) (s : State) : ObjectEnd × State :=
  if !hoClean r then (.done stRange 0, s)
  else
    match hoOp r with
    | 1 => hqiCreate r s
    | 2 => hqiDestroy (hoHqi r) s
    | 3 => queueCreate r s
    | 4 => queueDestroy (hoQueue r) s
    | 5 => queueResume (hoQueue r) s
    | 6 => semAlloc r s
    | 7 => semFree (hoSem r) s
    | _ => (.done stRange 0, s)

/-- The outcome word 0x4200.21: a completion code in [7:0], the semaphore number in [25:16]. -/
def outcomeWord (st : Byte) (sem : Nat) : W32 := place st.toNat 0 8 ||| place sem 16 10

/-! ### Doorbell pages (R176, R502) -/

def countBad (h : Nat) (s : State) : State := modHqi s h fun x => { x with doorbellBad := satAdd x.doorbellBad 1 }

/-- A doorbell: ignored and counted when it lies more than a ring ahead of SQ_HEAD, or behind the last accepted value; one that
arrives after the QUEUE_DESTROY finds no queue (R502). -/
def doorbell (h loc : Nat) (v : W32) (s : State) : State :=
  match queueAtSlot s h loc with
  | none => countBad h s
  | some q =>
    let x := queueAt s q
    let d := (v - x.sqHead).toNat
    if x.destroying ∨ ringEntries x < d ∨ d < (x.sqTail - x.sqHead).toNat then countBad h s
    else setQueue s q { x with sqTail := v }

/-- CQ_HEAD: a write behind the last value or beyond CQ_TAIL is ignored and counted. -/
def cqHead (h loc : Nat) (v : W32) (s : State) : State :=
  match queueAtSlot s h loc with
  | none => countBad h s
  | some q =>
    let x := queueAt s q
    if (x.cqTail - x.cqHead).toNat < (v - x.cqHead).toNat then countBad h s
    else setQueue s q { x with cqHead := v }

/-- FENCE_DB wakes the waits held by queues of the HQI that name the address as written (R185, R502). -/
def fenceDoorbell (h : Nat) (a : W64) (s : State) : State :=
  forEach (cmdsWhere s fun c =>
    (queueAt s c.q).hqi == h && opcodeOf c.desc == 5 && operand0 c.desc == a &&
      (match c.phase with | .waitFence .. => true | .reading true => true | _ => false)) evalWait s

/-! ### The kernel queue (R504) -/

/-- The ring settings of the kernel page are valid. -/
def kernelRingOk (s : State) : Bool :=
  let k := s.kpage
  k.ring.toNat % 4096 == 0 && k.cring.toNat % 4096 == 0 && k.headWb.toNat % 8 == 0 && decide (k.size.toNat ≤ 12)

/-- KQ_CTL bit 0 is written 1. -/
def kernelEnable (s : State) : State :=
  if s.kpage.enabled || !kernelRingOk s then s
  else
    let k := s.kpage
    setQueue { s with kpage := { k with enabled := true } } 0 { queueAt s 0 with
      state := .active, hqi := 0, loc := 0, tag := 0, ring := k.ring, cring := k.cring, headWb := k.headWb,
      size := k.size.toNat, sqHead := 0, sqTail := 0, nextSeq := 0, cqHead := 0, cqTail := 0 }

/-! ### The fault ring (R411, R506) -/

/-- A power of two from lo to hi. -/
def powerOfTwo (lo hi n : Nat) : Bool := decide (lo ≤ n) && decide (n ≤ hi) && 2 ^ Nat.log2 n == n

/-- Enabling acknowledges every record of the earlier ring, and waiting records move to the new one. -/
def faultRingOn (s : State) : State :=
  let f := s.faults
  if f.frOn || f.frBase.toNat % 4096 != 0 || !powerOfTwo 64 65536 f.frEntries.toNat then s
  else
    let left := f.unacked.filter fun u => match u.place with | .ring _ => false | _ => true
    ringPull { s with faults := { f with frOn := true, frWr := 0, frRd := 0, unacked := left } }

def faultRingOff (s : State) : State := { s with faults := { s.faults with frOn := false } }

/-- A write to FR_RD: ignored when it lies behind its last value or beyond FR_WR. -/
def faultRead (v : W64) (s : State) : State :=
  let f := s.faults
  if v.toNat < f.frRd.toNat ∨ f.frWr.toNat < v.toNat then s
  else ringPull (ackBehind v.toNat { s with faults := { f with frRd := v } })

/-! ### The journal ring (R376, R507) -/

/-- Valid settings of the journal ring. -/
def journalRingOk (s : State) : Bool :=
  s.journal.base.toNat % 4096 == 0 && powerOfTwo 64 16777216 s.journal.entries.toNat

def journalOn (s : State) : State :=
  if s.journal.enabled || !journalRingOk s then s
  else { s with journal := { s.journal with enabled := true, wr := 0, rd := 0 } }

/-- DISABLE: refused while a queue other than the kernel queue exists, the buffer holds an entry, or a journalled command of
the kernel queue has not completed. -/
def journalOff (s : State) : State :=
  if !(queuesWhere s fun _ => true).all (fun q => q == 0) || !s.journal.buffer.isEmpty || !s.journal.heldBack.isEmpty ||
      s.cmds.any (fun c => c.journalled) then s
  else { s with journal := { s.journal with enabled := false } }

/-- A write to JNL_RD: ignored when it lies behind its last value or beyond JNL_WR; room lets held entries move up. -/
def journalRead (v : W64) (s : State) : State :=
  let j := s.journal
  if v.toNat < j.rd.toNat ∨ j.wr.toNat < v.toNat then s
  else journalAdvance { s with journal := { j with rd := v } }

/-! ### Moderation (R172) -/

/-- mod_time has passed since the first record that was not announced. -/
def moderate (q : Nat) (s : State) : State :=
  let x := queueAt s q
  if x.modTime = 0 ∨ x.unannounced = 0 ∨ (now s).toNat < x.firstAt.toNat + 100 * x.modTime.toNat then s
  else raiseVector x.msix (setQueue s q { x with unannounced := 0 })

end Sys2Proof.Machine
end

