-- ==== Sys2Proof/Machine/Units.lean ====
section
/-! DEFINITION. Units and their power domains: which units a domain holds (R384, R398), powering down and back (R34),
capacities by the units in service (R265, R399), the logical map and retirement (R400-R403, R434), the instance reset
(R391, R431, R435), and clocks under power, supply and temperature (R35, R389, R390). -/

namespace Sys2Proof.Machine

/-! ### Units of a power domain (R384, R398) -/

/-- Unit-mask bits of a domain's units. -/
def domainUnits (d : Nat) : List Nat :=
  if d < 72 then
    let p := d / 9
    match d % 9 with
    | 4 => (List.range 8).map fun c => 608 + 16 * p + c
    | 5 => (List.range 8).map fun c => 608 + 16 * p + 8 + c
    | 6 => (List.range 32).map fun u => 352 + 32 * p + u
    | 7 => [328 + p]
    | 8 => [336 + 2 * p, 337 + 2 * p]
    | i => [736 + 4 * p + i]
  else if d < 88 then [312 + (d - 72)]
  else if d < 96 then [304 + (d - 88)]
  else if d < 98 then (List.range 8).map fun l => 224 + 8 * (d - 96) + l
  else if d = 98 then [216]
  else if d < 103 then [218 + (d - 99)]
  else if d < 105 then [222 + (d - 103)]
  else if d = 105 then [217] else []

/-- A domain's request is raised, or waits its turn. -/
def asked (s : State) (d : Nat) : Bool := bitAt s.power.requests d || s.power.wanted.any fun w => w.1 == d

/-- The next request that is due is raised, 50 cycles or more after the one before it (R385, R387, R459); a brownout hold during
bring-up delays it (R389). -/
def raiseDue (s : State) : State :=
  if s.tb.cycle < s.power.nextReq ∨ (s.boot.state = .booting ∧ s.power.brownout) then s
  else
    match s.power.wanted.find? fun w => decide (w.2 ≤ s.tb.cycle) with
    | none => s
    | some w => { s with power := { s.power with
        requests := setBit s.power.requests w.1, reqAt := Tab.set 0 s.power.reqAt w.1 s.tb.cycle,
        wanted := s.power.wanted.erase w, nextReq := s.tb.cycle + 50 } }

/-- The block wants a domain from a cycle on. -/
def requestFrom (t : Nat) (d : Nat) (s : State) : State :=
  if asked s d then s else raiseDue { s with power := { s.power with wanted := s.power.wanted ++ [(d, t)] } }

/-- The block raises a domain's request, at once or as soon as the last one lies far enough back. -/
def requestDomain (d : Nat) (s : State) : State := requestFrom 0 d s

/-- The block drops a domain's request. -/
def dropDomain (d : Nat) (s : State) : State :=
  { s with power := { s.power with
    requests := clearBit s.power.requests d, reqAt := Tab.set 0 s.power.reqAt d 0,
    wanted := s.power.wanted.filter fun w => w.1 != d } }

/-! ### Powering down units that nothing needs (R34, R384) -/

/-- Some fold holds a unit, or an armed commit claims it. -/
def anyHolds (s : State) (has : FoldRes → Bool) : Bool :=
  (List.range 16).any fun n => has (heldRes s n) || (match claimRes s n with | some r => has r | none => false)

/-- The logical engine bound to a physical engine. -/
def slotOfPhys (s : State) (p : Nat) : Option Nat :=
  (List.range 32).find? fun e => engineBound s e && enginePhys s e == p

/-- A plan that is armed grants an engine to a fold. -/
def planNeeds (s : State) (e : Nat) : Bool :=
  s.graze.switchEpoch != 0 && (inactiveWords s).2.any fun w => bitAt w (32 + e) && field w 16 16 != 0

/-- Work or an armed change needs a physical engine. -/
def physNeeded (s : State) (p : Nat) : Bool :=
  match slotOfPhys s p with
  | none => false
  | some e => anyHolds s (fun r => r.engines.getLsbD e) || planNeeds s e || !(engineAt s e).queue.isEmpty ||
      (engineAt s e).tile.isSome

/-- A domain is in service. -/
def domainUp (s : State) (d : Nat) : Bool := bitAt s.power.requests d && !bitAt s.power.down d

/-- Something needs a domain of a paddock, by its place in the paddock. -/
def paddockNeeds (s : State) (p i : Nat) : Bool :=
  match i with
  | 4 => anyHolds s fun r => r.halfGroups.getLsbD (2 * p)
  | 5 => anyHolds s fun r => r.halfGroups.getLsbD (2 * p + 1)
  | 6 => anyHolds s fun r => (List.range 32).any fun u => r.pondUnits.getLsbD (32 * p + u)
  | 7 => [0, 1, 2, 3, 4, 5, 6, 8].any fun j => asked s (9 * p + j)
  | 8 => [0, 1, 2, 3, 6].any fun j => asked s (9 * p + j)
  | _ => physNeeded s (4 * p + i)

/-- Some fold holds or claims tarn, or tarn serves as the far-memory cache. -/
def tarnNeeded (s : State) : Bool := s.weirG.cacheUnits != 0 || anyHolds s fun r => r.tarnUnits != 0

/-- A frame-table entry is valid. -/
def farNeeded (s : State) : Bool := s.xlate.frames.any fun p => bitAt p.2 7

/-- Domains attached to a spine segment (R24). -/
def segmentDomains (k : Nat) : List Nat :=
  (List.range 18).map (fun i => 18 * k + i) ++ (List.range 4).map (fun i => 72 + 4 * k + i) ++ [88 + 2 * k, 89 + 2 * k] ++
    (if k = 0 then [98, 103, 105, 106] else if k = 2 then [96, 97, 104] else if k = 3 then [106] else [])

/-- A domain is powered, or on its way to be; domain 106 always is (R384, R385). -/
def powered (s : State) (d : Nat) : Bool := d == 106 || asked s d

/-- Domains an MMU serves (R22). -/
def mmuDomains (m : Nat) : List Nat :=
  (List.range 36).map (fun i => 36 * m + i) ++ (if m = 0 then [98] else [96, 97])

/-- What keeps a domain powered (R24, R34, R384). -/
def domainNeeded (s : State) (d : Nat) : Bool :=
  if d < 72 then paddockNeeds s (d / 9) (d % 9)
  else if d < 88 then tarnNeeded s
  else if d < 96 then farNeeded s
  else if d < 98 then (portAt s (d - 96)).state != 0 && (portAt s (d - 96)).state != 5
  else if d = 98 then true
  else if d < 103 then tarnNeeded s || farNeeded s || (segmentDomains (d - 99)).any (powered s)
  else if d < 105 then (mmuDomains (d - 103)).any (powered s)
  else if d = 105 then !s.xlate.keySlots.isEmpty || [0, 1].any fun p => (portAt s p).session
  else true

/-- The instance runs: READY or READY_DEGRADED (R406). -/
def running (s : State) : Bool := s.boot.state == .ready || s.boot.state == .degraded

/-- The domain of the unit with a master identity (R26): an engine, a herd core's half-group or a mover. -/
def masterDomain (m : W16) : Nat :=
  let p := field m 8 4
  match field m 12 4 with
  | 1 => 9 * p + field m 0 8
  | 2 => 9 * p + 4 + field m 0 8 / 8
  | 3 => 9 * p + 8
  | _ => 107

/-- The domain of the unit that receives a request: a pond, a tarn bank or a far-memory controller. -/
def targetDomain (s : State) (r : Req) : Nat :=
  match r.cls with
  | 0 => 72 + unitOf s 0 r.address
  | 1 => 88 + unitOf s 1 r.address
  | 9 => 9 * (r.address / 2 ^ 23) + 6
  | _ => 107

/-- A unit of a domain has issued or received a request that is outstanding (R34); a router's, an MMU's and a segment's are those of
the units it serves, and a segment also carries those that pass between others (R24). -/
def domainBusy (s : State) (d : Nat) : Bool :=
  if 99 ≤ d then !s.xlate.reqs.isEmpty || s.folds.any fun p => !p.2.unacked.isEmpty
  else if d = 96 ∨ d = 97 then s.folds.any fun p => p.2.unacked.any fun e => requestKey s e.packet == (if d = 96 then 2 else 4)
  else s.xlate.reqs.any fun r =>
    [masterDomain r.master, targetDomain s r].any fun x => x == d || (d < 72 && d % 9 == 7 && x < 72 && x / 9 == d / 9)

/-- Virmin powers a domain down: it is isolated, and its request drops (R34, R385). -/
def powerDown (d : Nat) (s : State) : State :=
  if running s ∧ d < 106 ∧ bitAt s.power.requests d ∧ !domainNeeded s d ∧ !domainBusy s d then
    let s1 := dropDomain d s
    { s1 with power := { s1.power with down := setBit s1.power.down d } }
  else s

/-- Power returns to every domain that is powered down and needed again (R34). -/
def restorePower (s : State) : State :=
  if s.power.down = 0 then s
  else forEach ((bitList 106 s.power.down).filter fun d =>
    !asked s d && domainNeeded s d && (domainUnits d).any fun u => !unitOut s u) requestDomain s

/-! ### Capacities by the units in service (R254, R265, R399) -/

def stackCapOf (s : State) : Nat := 819200 * inService s 312 16 - 204800 * (64 - inService s 240 64)
/-- The far-memory rate of the controllers in service, or the lower one that the base die grants (R265). -/
def farCapOf (s : State) : Nat := min (s.weirG.farCap.toNat * inService s 304 8 / 8) s.weirG.farRate.toNat

/-- Stack and far-memory capacity follow the units in service. -/
def refreshCaps (s : State) : State := setCapacity 1 (farCapOf s) (setCapacity 0 (stackCapOf s) s)

/-- Payload capacity of a port in MB/s (R335). -/
def linkCapOf (x : Port) : Nat := if x.state = 3 then 200000 else if x.state = 4 then 100000 else 0

/-- Meter key of a port's link class. -/
def linkKey (p : Nat) : Nat := if p = 0 then 2 else 4

def refreshLinkCap (p : Nat) (s : State) : State := setCapacity (linkKey p) (linkCapOf (portAt s p)) s

/-- CAPACITY_DROP: what fell (R265). The base die grants a rate of its own for far memory. -/
def capacityDrop (c : CapSource) (s : State) : State :=
  match c with
  | .farCtl => setCapacity 1 (min s.weirG.farCapNow.toNat (farCapOf s)) s
  | .tarnBank => setCapacity 0 (min s.weirG.stackCapNow.toNat (stackCapOf s)) s
  | .stackChannel => setCapacity 0 (min s.weirG.stackCapNow.toNat (stackCapOf s)) s
  | .farRate r => setCapacity 1 (min s.weirG.farCapNow.toNat r.toNat)
      { s with weirG := { s.weirG with farRate := BitVec.ofNat 32 (min s.weirG.farRate.toNat r.toNat) } }
  | .link p _ => refreshLinkCap p s

/-- CAPACITY_RISE: the base die grants a higher far-memory rate again; restoration waits for the next boundary (R266). -/
def capacityRise (rate : W32) (s : State) : State :=
  if s.weirG.farRate.toNat < rate.toNat then
    let s1 := { s with weirG := { s.weirG with farRate := rate } }
    setCapacity 1 (farCapOf s1) s1
  else s

/-! ### Retirement (R400, R403) -/

/-- Engines that can be bound. -/
def engineUsable (s : State) (p : Nat) : Bool := !unitOut s (736 + p) && !paddockOut s (p / 4)

/-- Usable engines bound to no slot. -/
def spares (s : State) : List Nat := (List.range 32).filter fun p => engineUsable s p && (slotOfPhys s p).isNone

/-- Bound slots. -/
def boundSlots (s : State) : Nat := ((List.range s.lmap.licensed).filter (engineBound s)).length

/-- Fewer than m slots are bound: READY becomes READY_DEGRADED with cause bit 0. -/
def checkMinimum (s : State) : State :=
  if running s ∧ boundSlots s < s.lmap.minimum then
    { s with boot := { s.boot with state := .degraded, degradedCause := setBit s.boot.degradedCause 0 } }
  else s

/-- A task names a logical engine, through its fold's numbering. -/
def namesEngine (s : State) (c : Cmd) (e : Nat) : Bool :=
  match namedOf c with
  | some i => (foldEngines s (tagFold c.tag))[i]? == some e
  | none => false

/-- A slot is vacant: tasks that name it end with UNIT_RETIRED, others in its queue return to their ready lists (R403). -/
def vacate (e : Nat) (s : State) : State :=
  let s1 := forEach (engineAt s e).queue withdraw s
  forEach (s1.cmds.filter fun c => c.phase == .ready && namesEngine s1 c e)
    (fun c s => tileFail c stUnitRetired s) s1

/-- Tasks whose tile stands in an engine's array or leaves it still. -/
def tasksIn (s : State) (e : Nat) : List Cmd :=
  s.cmds.filter fun c => (engineAt s e).tile == some c.uid ||
    (opcodeOf c.desc == 1 && c.phase == .busy && ranOn c == e && !c.out.isEmpty)

/-- A slot loses its engine: the tile in the array ends, what its operand buffer held of other tasks is fetched again, and the lowest
spare takes the slot, one of the same paddock first; it is powered up (R100, R403). -/
def rebind (e : Nat) (s : State) : State :=
  let old := enginePhys s e
  let ended := forEach (tasksIn s e) (fun c s => tileFail c stDataError s) (freeEngine e s)
  let s1 := modEngine (forEach (engineAt ended e).queue discardOperands ended) e fun x => { x with buf := [] }
  let s2 := { s1 with lmap := { s1.lmap with map := Tab.set 0 s1.lmap.map e 0 } }
  let near := (spares s2).filter fun p => p / 4 == old / 4
  match (near ++ spares s2).head? with
  | none => vacate e s2
  | some p =>
    let s3 := { s2 with lmap := { s2.lmap with map := Tab.set 0 s2.lmap.map e (BitVec.ofNat 16 (0x8000 + p)) } }
    requestDomain (9 * (p / 4) + p % 4) s3

/-- Slots whose engine is out of use are bound anew, in ascending order. -/
def rebindAll (s : State) : State :=
  forEach ((List.range 32).filter fun e => engineBound s e && !engineUsable s (enginePhys s e)) rebind s

/-- Launches whose gangs stand on a core that is out of use end with DATA_ERROR, as tiles do (R100; log entry 45). -/
def endVacant (s0 : State) : State :=
  let s := forEach ((s0.herd.gangs.filter fun g => coreUnusable s0 g.core).map fun g => g.launch).dedup
    (fun u s => abortLaunch u stDataError s) s0
  let homeless := fun (c : Cmd) => c.phase == .launched && !c.launch.stopped && decide (c.launch.next < hlGangs c.desc) &&
    !(s.herd.gangs.any fun g => g.launch == c.uid) && (launchHalves s (tagFold c.tag) (hlMask c.desc)).all (halfVacant s)
  forEach (cmdsWhere s homeless) (fun u s => abortLaunch u stUnitRetired s) s

/-- Movers in service: a paddock keeps its work on the one left (R399), and with neither in service another paddock's takes it. -/
def moversUp (s : State) : List Nat :=
  (List.range 16).filter fun m => !unitOut s (336 + m) && !paddockOut s (m / 2) && !bitAt s.power.down (9 * (m / 2) + 8)

/-- A command's transfers go on at a mover in service. -/
def reMover (uid : Nat) (s : State) : State :=
  let ups := moversUp s
  modCmd s uid fun c =>
    { c with mover := if ups.contains (c.mover ^^^ 1) then c.mover ^^^ 1 else ups.getD (c.mover % ups.length) c.mover }

/-- MOVE commands whose mover is out of service are served by another. -/
def reMovers (s : State) : State :=
  let ups := moversUp s
  forEach (cmdsWhere s fun c => opcodeOf c.desc == 3 && !ups.contains c.mover) reMover s

/-- Retire a unit at run time. -/
def retireUnit (u : Nat) (s : State) : State :=
  if s.lmap.retired.getLsbD u ∨ u < 216 ∨ 768 ≤ u then s
  else
    let s1 := raiseVector s.lmap.retireVector { s with lmap := { s.lmap with
      retired := setBit s.lmap.retired u, retirements := s.lmap.retirements + 1 } }
    checkMinimum (endVacant (refreshCaps (rebindAll s1)))

def retireDomain (d : Nat) (s : State) : State := forEach (domainUnits d) retireUnit s

/-! ### Resets (R391, R431, R435) -/

/-- The instance resets: FUSE_SEAL stays (R468), and everything else is lost but what lies outside it (the base die's tarn, far memory and host memory with
their errors), the keys of far-memory units, which no slot holds any more, and the levels of the pins. Domains are powered
down; the loader restarts once every acknowledge has dropped. -/
def resetInstance (s : State) : State :=
  let r := State.reset
  { r with
    tarn := s.tarn, far := s.far, host := s.host, poison := s.poison.filter (fun p => p.1 == 1 || p.1 == 2 || p.1 == 3), plant := s.plant,
    free := s.free, pending := s.pending,
    xlate := { r.xlate with keyOf := s.xlate.keyOf, nextKey := s.xlate.nextKey },
    pins := { r.pins with resetLow := s.pins.resetLow, pwrCycReq := s.pins.pwrCycReq, flr := s.pins.flr },
    power := { r.power with domainsOn := s.power.domainsOn },
    fuse := { r.fuse with sealed := s.fuse.sealed },
    hostPort := { r.hostPort with link := s.hostPort.link },
    boot := { r.boot with resetting := true } }

/-! ### Clocks (R28, R35, R389, R390) -/

/-- CLK_HERD changes to a frequency, which is counted (R28). -/
def setClkHerd (mhz : Nat) (s : State) : State :=
  if s.power.clkHerd = mhz then s
  else { s with power := { s.power with clkHerd := mhz }, gauges := { s.gauges with clockChanges := s.gauges.clockChanges + 1 } }

/-- One step down of a pair of clocks: CLK_ARR by 100 MHz, CLK_HERD by 125 MHz once CLK_ARR is at its minimum. -/
def stepDown (c : Nat × Nat) : Nat × Nat :=
  if 400 < c.1 then (c.1 - 100, c.2) else if 500 < c.2 then (c.1, c.2 - 125) else c

/-- One step up, in the reverse order (log entry 46). -/
def stepUp (c : Nat × Nat) : Nat × Nat :=
  if c.2 < 2000 then (c.1, c.2 + 125) else if c.1 < 1600 then (c.1 + 100, c.2) else c

/-- A limit's clocks after an update of 1 µs: a step down, or one step up after ten updates that allow it (R35, R390); and the
updates counted. -/
def governed (down up : Bool) (count : Nat) (c : Nat × Nat) : (Nat × Nat) × Nat :=
  if down then (stepDown c, 0) else if up then (if 9 ≤ count then (stepUp c, 0) else (c, count + 1)) else (c, 0)

/-- The lower of the clocks that the power limit and the thermal limit allow applies (R390). -/
def applyClocks (s : State) : State :=
  setClkHerd (min s.power.powHerd s.power.heatHerd) (setClkArr (min s.power.powArr s.power.heatArr) s)

/-- The thermal limit's clocks go to their minimum at once, or both limits' in a brownout hold. -/
def heatLowest (s : State) : State :=
  applyClocks { s with power := { s.power with heatArr := 400, heatHerd := 500, coolFor := 0 } }
def lowestClocks (s : State) : State :=
  heatLowest { s with power := { s.power with powArr := 400, powHerd := 500, underLimit := 0 } }

/-- Entries into the thermal ranges, with their records and vectors (R390). -/
def thermalEntry (t : Nat) (s : State) : State :=
  let p := s.power
  let hotT := decide (p.throttle.toNat < t)
  let hotC := decide (p.critical.toNat < t)
  let s1 := { s with power := { p with tNow := BitVec.ofNat 16 t, aboveThrottle := hotT, aboveCritical := hotC } }
  let s2 := if hotT && !p.aboveThrottle then
      raiseVector p.thermalVector { s1 with power := { s1.power with throttleEvents := s1.power.throttleEvents + 1 } }
    else s1
  if hotC && !p.aboveCritical then
    let s3 := raiseVector p.thermalVector { s2 with
      power := { s2.power with criticalEvents := s2.power.criticalEvents + 1 }, boot := { s2.boot with hold := setBit s2.boot.hold 1 } }
    raiseFault { cls := 4, detail := 0x81 } (heatLowest s3)
  else if !hotC then { s2 with boot := { s2.boot with hold := clearBit s2.boot.hold 1 } } else s2

/-- The 1 µs update of the estimate (0.1 W) and the hottest sensor: each limit steps its clocks down while it is passed, the power
limit from when the estimate exceeds it until the estimate falls below it, and up one step per 10 µs while it allows it; the lower
clocks apply (R35, R390). A brownout hold keeps them down (R389). -/
def powerUpdate (estimate temp : Nat) (s0 : State) : State :=
  let s := thermalEntry temp s0
  let p := s.power
  let limit := p.powerLimit.toNat
  let over' := decide (limit < estimate) || (p.overPower && estimate == limit)
  if p.brownout then { s with power := { p with overPower := over', underLimit := 0, coolFor := 0 } }
  else
    let (pow, under) := governed over' (decide (estimate * 20 ≤ limit * 19)) p.underLimit (p.powArr, p.powHerd)
    let (heat, cool) := governed (decide (p.throttle.toNat < temp)) (decide (temp + 50 ≤ p.throttle.toNat)) p.coolFor
      (p.heatArr, p.heatHerd)
    applyClocks { s with power := { p with
      overPower := over', powArr := pow.1, powHerd := pow.2, underLimit := under, heatArr := heat.1, heatHerd := heat.2,
      coolFor := cool } }

/-- A rail group falls below warning, or PWR_WARN_IN is asserted: brownout hold (R389, R466). -/
def brownoutEnter (src : RailSource) (s : State) : State :=
  let s1 := match src with
    | .pwrWarn => { s with power := { s.power with pwrWarnEvents := s.power.pwrWarnEvents + 1 } }
    | .group _ => s
  if s1.power.brownout then s1
  else
    let s2 := raiseVector s1.power.warnVector { s1 with
      power := { s1.power with brownout := true, brownouts := s1.power.brownouts + 1 },
      boot := { s1.boot with hold := setBit s1.boot.hold 0 } }
    lowestClocks s2

/-- Every group has stood above warning and hysteresis for 10 µs with PWR_WARN_IN released: issue resumes (R389). -/
def brownoutLeave (s : State) : State :=
  if s.power.brownout then
    { s with power := { s.power with brownout := false }, boot := { s.boot with hold := clearBit s.boot.hold 0 } }
  else s

end Sys2Proof.Machine
end

