-- ==== Sys2Proof/Machine/Clock.lean ====
section
/-! DEFINITION. One REFCLK_100 rising edge with nothing commanded: the timebase rises (R359, R362) and the cycle counts go on.
This is what a step on an empty queue does (log entry 31). -/

namespace Sys2Proof.Machine

/-- What the timebase rises by at an edge: 10 ns, or 11 or 9 while an offset is slewed (R362). -/
def tickNs (slew : Int) : Nat := if 0 < slew then 11 else if slew < 0 then 9 else 10

/-- What is left to slew after an edge. -/
def slewLeft (slew : Int) : Int := if 0 < slew then slew - 1 else if slew < 0 then slew + 1 else 0

/-- One edge. CLK_HERD runs at `clkHerd` MHz, so clkHerd / 100 cycles pass. While RESET_N is low only the count of edges goes
on (R359, R391). What passes with time is counted first: held requests, tasks that wait, beats in the arrays (R223, R262, R270);
a power-domain request that waited its turn is raised (R387). -/
def tick (s0 : State) : State :=
  if s0.pins.resetLow then { s0 with tb := { s0.tb with cycle := s0.tb.cycle + 1 } } else
  let s := accrue (tickNs s0.tb.slew) s0
  raiseDue { s with
    tb := { s.tb with time := s.tb.time + BitVec.ofNat 64 (tickNs s.tb.slew), slew := slewLeft s.tb.slew,
                      cycle := s.tb.cycle + 1 },
    herd := { s.herd with cycles := s.herd.cycles + BitVec.ofNat 64 (s.power.clkHerd / 100) } }

end Sys2Proof.Machine
end

