-- ==== Sys2Proof/Machine/Ident.lean ====
section
/-! DEFINITION. The device identity (R438-R444), SPDM requests on the block's paths (R446-R449), licences (R451, R452) and
mailboxes (R453-R456). Cryptographic functions and the layout of SPDM messages are constants of `Config`. -/

namespace Sys2Proof.Machine

/-! ### The fuse identity block (R438, R468) -/

/-- The 220 bytes of the identity block, words 24 to 78. -/
def identBytes (s : State) : List Byte :=
  (List.range 55).flatMap fun w => bytesOf 4 (Tab.get 0 s.fuse.words (24 + w))

def idPart (s : State) (off n : Nat) : List Byte := ((identBytes s).drop off).take n
def idCheck (s : State) : List Byte := idPart s 0 8
def idCertSig (s : State) : List Byte := idPart s 8 96
def idCaIndex (s : State) : Nat := ofLe (idPart s 105 1)
def idCertDays (s : State) : W16 := BitVec.ofNat 16 (ofLe (idPart s 106 2))
def idSerial (s : State) : List Byte := idPart s 108 16
def idKeyHash (s : State) : List Byte := idPart s 124 48
def idSecret (s : State) : List Byte := idPart s 172 48

/-- The block's own check (R438). -/
def identIntact (s : State) : Bool := idCheck s == bytesOf 8 (crc64 ((identBytes s).drop 8))

/-- Bytes of a text. -/
def textBytes (t : String) : List Byte := t.toList.map fun c => BitVec.ofNat 8 c.toNat

/-! ### DICE layering (R440) -/

/-- The order of P-384. -/
def p384Order : Nat :=
  0xFFFFFFFFFFFFFFFFFFFFFFFFFFFFFFFFFFFFFFFFFFFFFFFFC7634D81F4372DDF581A0DB248B0A77AECEC196ACCC52973

/-- derive_key of R440; none when every attempt fails. -/
def deriveKey (seed label : List Byte) : Option Nat :=
  (List.range 256).findSome? fun i =>
    let d := ofBe (Config.hkdfExpand seed (label ++ [BitVec.ofNat 8 i]) 48)
    if 1 ≤ d ∧ d < p384Order then some d else none

/-- Header bytes 0 to 415 and the body, whose digest is M (R395, R440). -/
def imageSigned (img : List Byte) : List Byte := img.take 416 ++ img.drop 512
def imageDigest (img : List Byte) : List Byte := Config.sha384 (imageSigned img)
def imageBody (img : List Byte) : List Byte := img.drop 512

def identFailed (s : State) : State := { s with ident := { s.ident with idState := 2 } }

/-- The device secret is erased once the keys are derived, or have failed (R440). -/
def eraseSecret (s : State) : State :=
  { s with fuse := { s.fuse with words := s.fuse.words.filter fun w => decide (w.1 < 67) } }

/-- The keys and the chain of slot 0 (R440-R444); what fails leaves the identity failed (R441, R442, R443). -/
def deriveIdent (s : State) : State :=
  if s.ident.idState ≠ 0 then s else
  let img := s.boot.image
  let m := imageDigest img
  let label := textBytes "HTF3 ecdsa"
  match deriveKey (Config.hmac384 (idSecret s) (textBytes "HTF3 device id")) label,
      deriveKey (Config.hmac384 (idSecret s) m) label, Config.imageIntermediate (imageBody img) (idCaIndex s) with
  | some dev, some ali, some inter =>
    let root := Config.imageRootCert (imageBody img)
    let pub := Config.p384Public dev
    let apub := Config.p384Public ali
    let tbs := Config.deviceCertTbsDigest (idSerial s) (idCertDays s) inter pub
    if Config.sha384 root ≠ Config.rootHash ∨ !Config.ecdsaVerify (Config.certKey inter) tbs (idCertSig s) then identFailed s
    else
      { s with ident := { s.ident with
          idState := 1, instanceIdentity := Config.sha384 pub, deviceIdPub := pub, aliasPub := apub, measurement := m,
          deviceCertDer := Config.deviceCert (idSerial s) (idCertDays s) inter pub (idCertSig s),
          aliasCertDer := Config.aliasCert (idSerial s) s.boot.virminVersion apub m dev, rootDer := root, interDer := inter,
          devKey := dev, aliasKey := ali } }
  | _, _, _ => identFailed s

/-! ### Licences (R451, R452, R404) -/

/-- Bits of a licence object. -/
def licField (o : List Byte) (lo len : Nat) : Nat := (ofLe o >>> lo) % 2 ^ len
def licBytes (o : List Byte) (off n : Nat) : List Byte := (o.drop off).take n

/-- The checks of R452 in order: the object's status. -/
def licenceStatus (s : State) (o : List Byte) : Byte :=
  if licField o 0 32 ≠ 0x4854464C ∨ licField o 32 8 ≠ 1 ∨ licField o 40 24 ≠ 0 ∨ licField o 528 48 ≠ 0 ∨
      licField o 1472 1856 ≠ 0 then 2
  else if s.ident.idState ≠ 1 ∨ licBytes o 8 48 ≠ s.ident.instanceIdentity then 3
  else if !Config.p384IsPoint (licBytes o 88 96) || Config.sha384 (licBytes o 88 96) != Config.licenceRootHash then 4
  else if !Config.ecdsaVerify (licBytes o 88 96) (Config.sha384 (o.take 416)) (licBytes o 416 96) then 5
  else if licField o 454 1 = 1 ∧ !(decide (1 ≤ licField o 520 8) && decide (licField o 520 8 ≤ licField o 512 8) &&
      decide (licField o 512 8 ≤ 32)) then 6
  else 1

/-- n and m of the accepted objects with bit 6: the largest n, the lowest index among equals. -/
def licenceCounts (os : List (List Byte)) : Nat × Nat :=
  (os.filter fun o => licField o 454 1 = 1).foldl (fun a o =>
    if a.1 < licField o 512 8 then (licField o 512 8, licField o 520 8) else a) (0, 0)

/-- Licences take effect: each object's status, the features in force, n and m; a refused object writes detail 0x71. -/
def applyLicences (s : State) : State :=
  let sts := s.boot.licences.map fun o => (licenceStatus s o, o)
  let good := (sts.filter fun x => x.1 == 1).map fun x => x.2
  let (n, m) := if (licenceCounts good).1 = 0 then (8, 8) else licenceCounts good
  let bad := sts.filter fun x => x.1 != 1
  let s1 := { s with
    ident := { s.ident with
      features := BitVec.ofNat 64 (good.foldl (fun a o => a ||| licField o 448 64) 0),
      accepted := BitVec.ofNat 8 good.length,
      status := sts.zipIdx.foldl (fun t x => Tab.set 0 t x.2 x.1.1) [], measured3 := Config.sha384 good.flatten },
    lmap := { s.lmap with licensed := n, minimum := m } }
  forEach bad (fun _ s => raiseFault { cls := 5, detail := 0x71 } s) s1

/-! ### Measurements (R448) -/

def hardwareConfig (s : State) : List Byte :=
  [3, 2, 0, 1, 2, s.boot.compat] ++ bytesOf 8 s.ident.features ++
    [BitVec.ofNat 8 s.lmap.licensed, BitVec.ofNat 8 s.lmap.minimum]

def measurement (s : State) (i : Nat) : List Byte :=
  match i with
  | 1 => Config.loaderRomDigest
  | 2 => s.ident.measurement
  | 3 => s.ident.measured3
  | 4 => Config.sha384 (hardwareConfig s)
  | 5 => Config.sha384 ((List.range 64).flatMap fun c => bytesOf 4 (Tab.get 0 s.mbx.bindings c))
  | _ => []

/-- The measurement blocks of all indices. -/
def measurements (s : State) : List Byte := [1, 2, 3, 4, 5].flatMap (measurement s)

/-- The certificate chain of slot 0 (R442). -/
def certChain (s : State) : List Byte :=
  s.ident.rootDer ++ s.ident.interDer ++ s.ident.deviceCertDer ++ s.ident.aliasCertDer

/-! ### SPDM (R446-R449) -/

/-- Sessions a path holds at once. -/
def sessionLimit : SpdmPath → Nat
  | .mgmt => 4
  | .link _ => 1
  | .fold _ => 8

/-- Sessions open or being opened on a path; the eight of fold transfers are the instance's. -/
def sessionsOn (s : State) (p : SpdmPath) : Nat :=
  match p with
  | .fold _ => (s.spdm.map fun x => match x.1 with
      | .fold _ => x.2.sessions.length + x.2.opening.length | _ => 0).sum
  | _ => (connOf s p).sessions.length + (connOf s p).opening.length

/-- A message waits at the management port; an in-band interrupt tells the bus controller (R486). -/
def mgmtSend (bs : List Byte) (s : State) : State :=
  { s with mgmt := { s.mgmt with responses := s.mgmt.responses ++ [(s.tb.cycle, bs)], ibiCount := s.mgmt.ibiCount + 1 } }

/-- A hop-local packet between partners: type 0x30 or 0x31 on virtual channel 32 (R341, R344, R347). -/
def partnerSend (p : Nat) (ptype : Byte) (bs : List Byte) (s : State) : State :=
  let k := { blankPacket s with destNode := peerNode (portAt s p).partner, ptype := ptype, ttl := (portAt s p).ttl, payload := bs }
  portSend p 32 (packetBytes k) s

/-- Send an SPDM message on a path. -/
def spdmSend (p : SpdmPath) (bs : List Byte) (s : State) : State :=
  match p with
  | .mgmt => mgmtSend ([5] ++ bs) s
  | .link q => partnerSend q 0x30 bs s
  | .fold node =>
    let h : MsgHdr := { epoch := s.tb.epoch, version := 0, flockId := 0, senderNode := myNode s, senderFold := 0,
                        senderRank := 3, detail := 0 }
    postMsg { hdr := h, mtype := 0x40, node := node, fold := 0, count := 0, payload := bs, vc := 33 } s

/-- An ERROR response with its code: Unspecified 0x05, UnsupportedRequest 0x07, SessionLimitExceeded 0x0A, and the code
that the standard gives another failed request (SPDM 1.3; version byte 0x13, response code 0x7F). -/
def spdmError (p : SpdmPath) (code : Byte) (s : State) : State := spdmSend p [0x13, 0x7F, code, 0] s

/-- The connection after a request: its transcript takes the request, its last use is now. -/
def spdmHeard (s : State) (m : SpdmMsg) (c : SpdmConn) : SpdmConn :=
  { c with transcript := ofLe (Config.sha384 (leBytes 48 c.transcript ++ m.bytes)), lastUse := now s }

/-- An endpoint answers only with a valid identity (R441). -/
def spdmReady (s : State) : Bool := s.ident.idState == 1

/-- Serve a request the standard accepts: `change` is its effect on the connection, `extra` what its response reports
beyond the request. One the standard does not accept is answered with its error. -/
def spdmServe (code : Nat) (p : SpdmPath) (m : SpdmMsg) (extra : List Byte) (change : SpdmConn → SpdmConn) (s : State) :
    State :=
  if !spdmReady s then spdmError p 0x05 s
  else
    let c := connOf s p
    if !Config.spdmAccepts code m.bytes c.transcript then spdmSend p (Config.spdmBody 0x7F m.bytes c.transcript) s
    else
      let body := [0x13, BitVec.ofNat 8 (code - 0x80)] ++ Config.spdmBody code (m.bytes ++ extra) c.transcript
      spdmSend p body (setConn p (change (spdmHeard s m c)) s)

/-- GET_VERSION begins a connection anew. -/
def execGetVersion (path : SpdmPath) (m : SpdmMsg) (s : State) : Out :=
  .next (spdmServe 0x84 path m [] (fun c => { SpdmConn.closed with version := true, transcript := c.transcript, lastUse := c.lastUse }) s)

def execGetCapabilities (path : SpdmPath) (m : SpdmMsg) (s : State) : Out :=
  .next (spdmServe 0xE1 path m [] (fun c => { c with caps := true }) s)

/-- NEGOTIATE_ALGORITHMS: a peer that offers none of the listed algorithms in a class fails it (R447), which is among what
the standard's own acceptance judges. -/
def execNegotiateAlgorithms (path : SpdmPath) (m : SpdmMsg) (s : State) : Out :=
  .next (spdmServe 0xE3 path m [] (fun c => { c with algs := true }) s)

def execGetDigests (path : SpdmPath) (m : SpdmMsg) (s : State) : Out :=
  .next (spdmServe 0x81 path m (Config.sha384 (certChain s)) id s)

def execGetCertificate (path : SpdmPath) (m : SpdmMsg) (s : State) : Out :=
  .next (spdmServe 0x82 path m (certChain s) id s)

/-- CHALLENGE: its measurement summary hash covers indices 1 to 5, and the alias key signs (R444, R448). -/
def execChallenge (path : SpdmPath) (m : SpdmMsg) (s : State) : Out :=
  .next (spdmServe 0x83 path m (Config.sha384 (measurements s) ++
    Config.ecdsaSign s.ident.aliasKey (Config.sha384 (m.bytes ++ measurements s))) id s)

def execGetMeasurements (path : SpdmPath) (m : SpdmMsg) (s : State) : Out :=
  .next (spdmServe 0xE0 path m (if m.param = 0xFF then measurements s else measurement s m.param) id s)

/-- KEY_EXCHANGE beyond the path's limit is refused (R446). -/
def execKeyExchange (path : SpdmPath) (m : SpdmMsg) (s : State) : Out :=
  .next (if spdmReady s && decide (sessionLimit path ≤ sessionsOn s path) then spdmError path 0x0A s
    else spdmServe 0xE4 path m (Config.sha384 (measurements s)) (fun c => { c with opening := addOnce m.session c.opening }) s)

/-- FINISH makes an opened session stand. -/
def execFinish (path : SpdmPath) (m : SpdmMsg) (s : State) : Out :=
  .next (spdmServe 0xE5 path m [] (fun c =>
    if m.session ∈ c.opening then
      { c with opening := c.opening.filter (fun x => x != m.session), sessions := addOnce m.session c.sessions }
    else c) s)

def execHeartbeat (path : SpdmPath) (m : SpdmMsg) (s : State) : Out := .next (spdmServe 0xE8 path m [] id s)
def execKeyUpdate (path : SpdmPath) (m : SpdmMsg) (s : State) : Out := .next (spdmServe 0xE9 path m [] id s)

/-- END_SESSION ends a session (R446). -/
def execEndSession (path : SpdmPath) (m : SpdmMsg) (s : State) : Out :=
  .next (spdmServe 0xEC path m [] (fun c => { c with sessions := c.sessions.filter fun x => x != m.session }) s)

/-! ### Mailboxes (R453-R456) -/

def hostPortMaster : W16 := 0x5F00

/-- One of the five masters. -/
def mailMaster (m : W16) : Bool := m == 0x5F00 || (decide (0x4F00 ≤ m.toNat) && decide (m.toNat ≤ 0x4F03))

/-- A plan word binds its channel (R454); the host port's bit of the unit mask tells that master unusable. -/
def mailWordOk (s : State) (w : W32) : Bool :=
  let a := bitsAt w 16 16
  let b := bitsAt w 0 16
  mailMaster a && mailMaster b && a != b && ((a != 0x5F00 && b != 0x5F00) || !unitOut s 216)

/-- Step 10: the valid words are written, the table is locked. -/
def bindMailboxes (s : State) : State :=
  let ws := (List.range 64).map fun i => (i, (Config.imageBindings (imageBody s.boot.image)).getD i 0)
  let good := ws.filter fun x => mailWordOk s x.2
  { s with mbx := { s.mbx with locked := true, invalid := BitVec.ofNat 8 (64 - good.length), bindings := good } }

def mailWord (s : State) (ch : Nat) : W32 := Tab.get 0 s.mbx.bindings ch
def mailSender (s : State) (ch : Nat) : W16 := bitsAt (mailWord s ch) 16 16
def mailReceiver (s : State) (ch : Nat) : W16 := bitsAt (mailWord s ch) 0 16
def mailBound (s : State) (ch : Nat) : Bool := mailWord s ch != 0
def mailAt (s : State) (ch : Nat) : Mailbox := Tab.get Mailbox.reset s.mbx.channels ch
def setMail (ch : Nat) (x : Mailbox) (s : State) : State :=
  { s with mbx := { s.mbx with channels := Tab.set Mailbox.reset s.mbx.channels ch x } }

/-- A refused access is counted, and shows nowhere else. -/
def foreign (s : State) : State := { s with mbx := { s.mbx with foreign := satAdd s.mbx.foreign 1 } }

/-- Notify a master: the host by the channel's vector, a drover core by its mailbox interrupt. -/
def mailNotify (ch : Nat) (m : W16) (s : State) : State :=
  if m = hostPortMaster then raiseVector (mailAt s ch).vector s
  else { s with mbx := { s.mbx with drover := s.mbx.drover ++ [(m.toNat % 256) * 64 + ch] } }

/-- A write to MBX_DATA. -/
def mailWrite (m : W16) (ch size : Nat) (v : W64) (s : State) : State :=
  if !mailBound s ch || m != mailSender s ch || size != 8 then foreign s
  else
    let x := mailAt s ch
    if x.full then setMail ch { x with overflow := true, refused := satAdd x.refused 1 } s
    else mailNotify ch (mailReceiver s ch) (setMail ch { x with data := v, full := true, sender := m } s)

/-- A write to MBX_ACK. -/
def mailAck (m : W16) (ch : Nat) (v : W32) (s : State) : State :=
  if !mailBound s ch || m != mailReceiver s ch then foreign s
  else
    let x := mailAt s ch
    let y := { x with full := x.full && !bitAt v 0, overflow := x.overflow && !bitAt v 1,
                      refused := if bitAt v 1 then 0 else x.refused }
    let s1 := setMail ch y s
    if x.full && bitAt v 0 then mailNotify ch (mailSender s ch) s1 else s1

/-- A write to MBX_VECTOR by a bound master. -/
def mailVector (m : W16) (ch : Nat) (v : W16) (s : State) : State :=
  if !mailBound s ch || (m != mailReceiver s ch && m != mailSender s ch) then foreign s
  else setMail ch { mailAt s ch with vector := v } s

/-- Channels are 0 to 63. -/
def execMbxDataWrite (master : W16) (ch size : Nat) (v : W64) (s : State) : Out :=
  need (decide (ch < 64)) "MBX_DATA_WRITE" (.next (mailWrite master ch size v s))
def execMbxAck (master : W16) (ch : Nat) (v : W32) (s : State) : Out :=
  need (decide (ch < 64)) "MBX_ACK" (.next (mailAck master ch v s))

end Sys2Proof.Machine
end

