-- ==== Sys2Proof/Machine/Links.lean ====
section
/-! DEFINITION. Scale-link ports: flits and control flits (R334), retry (R336-R338), key epochs (R340-R343), virtual channels
and credits (R344, R345), the packets that their streams carry (R347), padding (R354), training (R355, R356), and what takes
a port down (R357, R358). -/

namespace Sys2Proof.Machine

/-! ### Ports -/

/-- The master identity of a link port (R26). -/
def portMaster (p : Nat) : W16 := BitVec.ofNat 16 (0x6F00 + p)

/-- Power domain of a port (R384). -/
def portDomain (p : Nat) : Nat := 96 + p

/-- SL1 needs the second-port licence (R358, R404). -/
def portLicensed (s : State) (p : Nat) : Bool := decide (p < 2) && (p == 0 || licPort1 s)

/-- The state entry: 0 down, 1 training, 2 securing, 3 up, 4 up ×4, 5 unlicensed (R358). -/
def portState (s : State) (p : Nat) : Byte := if portLicensed s p then (portAt s p).state else 5

/-- The port carries fold traffic (R342). -/
def portUp (x : Port) : Bool := x.state == 3 || x.state == 4

/-- The port sends and receives flits: from the plain phase on (R342, R355 step 3). -/
def portOn (x : Port) : Bool := portUp x || decide (3 ≤ x.trainStep)

/-- The plain phase: the all-zero key at epoch 0xFFFF_FFFF (R342). -/
def plainEpoch : W32 := 0xFFFFFFFF
def plainPhase (x : Port) : Bool := x.keyEpoch == plainEpoch && !x.session

/-- Flits that a virtual channel may hold at this port: the receive buffer's allocation (R345). -/
def allocOf (x : Port) (v : Nat) : W16 := if 32 ≤ v then 256 else Tab.get 496 x.credits v

/-- An event of the fault table: its record, and down_vector when the port's state has changed (R357). -/
def portFault (p cls detail : Nat) (change : State → State) (s : State) : State :=
  let s1 := change (raiseFault { cls := cls, detail := detail, master := portMaster p } s)
  if (portAt s1 p).state = (portAt s p).state then s1 else raiseVector (portAt s1 p).downVector s1

/-- The link's SPDM connection and its sessions end (R446). -/
def closeLinkSpdm (p : Nat) (s : State) : State := setConn (.link p) SpdmConn.closed s

/-- What a port loses when it starts training: every outstanding flit and credit (R355). -/
def portClear (x : Port) : Port :=
  { x with
    keyEpoch := plainEpoch, rxEpoch := plainEpoch, txCounter := 0, rxCounter := 0, kept := [], idles := [], acked := 0,
    sinceControl := 0, replayWait := false, naksSame := 0, replayAt := none, onLanes := none, line := Lanes.reset, mustControl := false,
    mustNak := false, mustSwitch := false, streams := [], rxStreams := [], consumed := [], returned := [], creditOut := [],
    creditAt := none, session := false }

/-- State down: capacity 0, and the port stays so until TRAIN or TRAIN_FAST is written (R357). -/
def portDown (p : Nat) (s : State) : State :=
  let s1 := modPort s p fun x => { portClear x with state := 0, trainStep := 0, keyEpoch := 0, rxEpoch := 0, lanes := 0 }
  refreshLinkCap p (closeLinkSpdm p s1)

/-! ### Training (R355, R356) -/

/-- The hottest junction lies within 15 °C of the blob's (R356). -/
def tempNear (s : State) (t : Nat) : Bool :=
  decide (s.power.tNow.toNat ≤ t + 150) && decide (t ≤ s.power.tNow.toNat + 150)

/-- A settings blob is accepted: CRC, version 3.2.0, port, temperature (R356). -/
def blobOk (s : State) (p : Nat) (b : List Byte) : Bool :=
  b.length == 512 && b.take 8 == bytesOf 8 (crc64 (b.drop 8)) && (b.drop 8).take 3 == [3, 2, 0] &&
    (b.drop 11).take 1 == [BitVec.ofNat 8 p] && tempNear s (ofLe ((b.drop 12).take 2))

/-- The blob that the port saves of a training (R356). -/
def blobOf (s : State) (p : Nat) (lanes : Byte) : List Byte :=
  let set := (Config.laneSettings p ++ List.replicate 496 0).take 496
  let body := [3, 2, 0, BitVec.ofNat 8 p] ++ leBytes 2 s.power.tNow.toNat ++ [lanes, 0] ++ set
  bytesOf 8 (crc64 body) ++ body

/-- Training starts at step 1, fast when the blob is accepted; the port's domain is powered (R355, R384). A port of an
instance without a node number, or without its licence, does not train. -/
def trainStart (p : Nat) (fast : Bool) (blob : List Byte) (s : State) : State :=
  if !portLicensed s p || !nodeValid s then s
  else
    let s1 := modPort s p fun x => { portClear x with
      state := 1, trainStep := 1, fast := fast && blobOk s p blob, retrained := false, lanes := 0, badLanes := 0,
      tagFails := [], heardAt := s.tb.cycle, ctlSent := s.tb.cycle }
    requestDomain (portDomain p) (refreshLinkCap p (closeLinkSpdm p s1))

/-- The one fast retrain after 16 naks, with the settings of the last training (R357). -/
def retrain (p : Nat) (s : State) : State :=
  modPort (trainStart p true (portAt s p).saved s) p fun x => { x with retrained := true }

/-- Lanes that lock: neither out of use nor failing in training. -/
def goodLanes (s : State) (p : Nat) : Byte :=
  (List.range 8).foldl (fun m l =>
    if unitOut s (224 + 8 * p + l) || s.plant.trainFail.getLsbD (224 + 8 * p + l) || bitAt (portAt s p).badLanes l then m
    else setBit m l) 0

/-- Lanes in use: a half with a failed lane is dropped (R355 step 2). -/
def lanesOf (good : Byte) : Byte :=
  if good = 0xFF then 0xFF else if good &&& 0x0F = 0x0F then 0x0F else if good &&& 0xF0 = 0xF0 then 0xF0 else 0

/-- What the plain-phase exchange says of this port: node, version, lanes, licence of the second port (R355 step 3). -/
def helloBytes (s : State) (p : Nat) : List Byte :=
  bytesOf 4 s.mgmt.node ++ [3, 2, 0, (portAt s p).lanes, if licPort1 s then 1 else 0, 0, 0, 0]

/-- RECEIVER_LOCK: steps 1 and 2 end. With no good half the port is down; else the plain-phase exchange begins. -/
def receiverLocked (p : Nat) (s : State) : State :=
  let x := portAt s p
  if x.state ≠ 1 ∨ x.trainStep ≠ 1 ∨ !bitAt s.power.domainsOn (portDomain p) then s
  else
    let l := lanesOf (goodLanes s p)
    if l = 0 then portFault p 2 0x50 (portDown p) s
    else
      let s1 := modPort s p fun x => { x with
        lanes := l, trainStep := 3, heardAt := s.tb.cycle, ctlSent := s.tb.cycle, mustControl := true }
      partnerSend p 0x31 (helloBytes s1 p) s1

/-- This instance is the SPDM requester of a link: the lower node number (R341). -/
def linkRequester (s : State) (p : Nat) : Bool :=
  decide ((myNode s).toNat < (peerNode (portAt s p).partner).toNat)

/-- Step 4 begins: the requester opens the connection. -/
def secure (p : Nat) (s : State) : State :=
  let s1 := closeLinkSpdm p (modPort s p fun x => { x with state := 2, trainStep := 4, session := false })
  let s2 := refreshLinkCap p s1
  if linkRequester s2 p then spdmSend (.link p) [0x10, 0x84, 0, 0] s2 else s2

/-- The plain-phase exchange with the partner (R355 step 3). -/
def helloIn (p : Nat) (m : PortHello) (s : State) : State :=
  let x := portAt s p
  if x.state ≠ 1 ∨ x.trainStep ≠ 3 then s
  else if m.major ≠ 3 ∨ m.lanes ≠ x.lanes then portFault p 2 0x50 (portDown p) s
  else secure p (modPort s p fun x => { x with partner := peerOf (bitsAt m.node 0 18) 0 })

/-- Step 5: key epoch 0, credits advertised, state up; the training's settings are saved (R355, R356). What waits to be sent
stays; flits of the plain phase are kept no longer (log entry 47). -/
def portStart (p session : Nat) (s : State) : State :=
  let x := portAt s p
  let fresh := portClear x
  let alloc := (List.range 34).foldl (fun t v => Tab.set 0 t v (allocOf x v)) ([] : Tab W16)
  let s1 := setPort s p { fresh with
    state := if x.lanes = 0xFF then 3 else 4, trainStep := 0, keyEpoch := 0, rxEpoch := 0, creditOut := alloc,
    advertised := alloc, mustControl := true, heardAt := s.tb.cycle, ctlSent := s.tb.cycle, session := true,
    streams := x.streams, rxStreams := x.rxStreams, saved := blobOf s p x.lanes }
  refreshLinkCap p (setConn (.link p) { connOf s1 (.link p) with opening := [], sessions := [session], lastUse := now s } s1)

/-- A hop-local SPDM packet leaves the inbox. -/
def takeSpdm (m : SpdmMsg) (s : State) : State :=
  match s.net.inbox.find? fun k => k.ptype == 0x30 && k.payload == m.bytes with
  | none => s
  | some k => takeIn k s

/-- An SPDM message of the link session: it moves the session on; with the last one the session stands, or has failed. -/
def linkSpdm (p : Nat) (m : SpdmMsg) (done good : Bool) (s0 : State) : State :=
  let s := takeSpdm m s0
  let x := portAt s p
  if x.state ≠ 2 ∨ x.trainStep ≠ 4 then s
  else if !done then setConn (.link p) (spdmHeard s m (connOf s (.link p))) s
  else if good then portStart p m.session s
  else portFault p 5 0x55 (portDown p) s

/-- A training step exceeds its bound (R355, R357): a fast first step falls back to full, but not in the one retrain. -/
def trainingFailed (p : Nat) (s : State) : State :=
  let x := portAt s p
  if x.state ≠ 1 ∧ x.state ≠ 2 then s
  else if x.trainStep = 1 ∧ x.fast ∧ !x.retrained then modPort s p fun x => { x with fast := false }
  else portFault p 2 0x50 (portDown p) s

/-! ### Control flits (R334) -/

/-- The 242 payload bytes of a control flit. -/
def ctlBytes (c : CtlFlit) : List Byte :=
  leBytes 8 c.ackNext.toNat ++ leBytes 4 c.keyEpochNext.toNat ++
    [BitVec.ofNat 8 ((if c.nak then 1 else 0) + (if c.keySwitch then 2 else 0) + (if c.retrain then 4 else 0)), 0, 0, 0] ++
    ((List.range 34).flatMap fun v => bytesOf 2 (c.creditRet.getD v 0)) ++ List.replicate 158 0

/-- A control flit read from its payload. -/
def ctlOf (bs : List Byte) : CtlFlit :=
  let flags : Byte := bs.getD 12 0
  { creditRet := (List.range 34).map fun v => BitVec.ofNat 16 (ofLe ((bs.drop (16 + 2 * v)).take 2)),
    retrain := bitAt flags 2, keySwitch := bitAt flags 1, nak := bitAt flags 0,
    keyEpochNext := BitVec.ofNat 32 (ofLe ((bs.drop 8).take 4)), ackNext := BitVec.ofNat 64 (ofLe (bs.take 8)) }

/-- Flits sent and not acknowledged, each with its key epoch and counter: the replay buffer and the replay map (R337). -/
def unackedFlits (x : Port) : List (W32 × W64) := x.kept.map (fun k => (k.epoch, k.counter)) ++ x.idles

/-- Order of two flits of one direction: by key epoch, then counter. -/
def flitBefore (a b : W32 × W64) : Bool :=
  decide (a.1.toNat < b.1.toNat) || (a.1 == b.1 && decide (a.2.toNat < b.2.toNat))

/-- The first flit of a list in that order. -/
def firstFlit (l : List (W32 × W64)) : Option (W32 × W64) :=
  l.foldl (fun o f => match o with | none => some f | some g => if flitBefore f g then some f else some g) none

/-- The key epoch that an acknowledgement names: that of the oldest unacknowledged flits while the counter lies among
them, else the present one (log entry 47). -/
def ackEpoch (x : Port) (next : W64) : W32 :=
  match firstFlit (unackedFlits x) with
  | none => x.keyEpoch
  | some f =>
    let last := (unackedFlits x).foldl (fun m g => if g.1 = f.1 then max m g.2.toNat else m) 0
    if f.2.toNat ≤ next.toNat ∧ next.toNat ≤ last + 1 then f.1 else x.keyEpoch

/-- Cumulative acknowledgement through ack_next; a nak asks for replay from it (R337, R338). -/
def ackFlits (c : CtlFlit) (x : Port) : Port :=
  let at' := (ackEpoch x c.ackNext, c.ackNext)
  let y := { x with kept := x.kept.filter (fun k => !flitBefore (k.epoch, k.counter) at'),
                    idles := x.idles.filter (fun k => !flitBefore k at'), acked := c.ackNext }
  if c.nak then { y with replays := y.replays + 1, replayAt := firstFlit (unackedFlits y) } else y

/-- What an accepted control flit does (R334, R337, R343, R345). -/
def ctlEffect (c : CtlFlit) (cycle : Nat) (x : Port) : Port :=
  let y := ackFlits c { x with heardAt := cycle }
  let z := { y with returned := (List.range 34).foldl (fun t v => Tab.set 0 t v (c.creditRet.getD v 0)) ([] : Tab W16),
                    mustSwitch := y.mustSwitch || (c.retrain && portUp y) }
  if c.keySwitch then { z with rxEpoch := c.keyEpochNext, rxCounter := 0 } else z

/-! ### Receiving -/

/-- A packet's header and payload from the front of a byte stream (R347); none while it is not whole. -/
def packetOf (bs : List Byte) : Option (Packet × List Byte) :=
  let len := numAt bs 0 4
  if bs.length < 32 ∨ bs.length < 32 + len then none
  else
    let w := numAt bs 8 8
    some ({ address := BitVec.ofNat 64 (numAt bs 24 8), seq := BitVec.ofNat 32 (numAt bs 20 4),
            mapVersion := BitVec.ofNat 32 (numAt bs 16 4), destNode := BitVec.ofNat 18 (w >>> 46),
            srcNode := BitVec.ofNat 18 (w >>> 28), destTag := BitVec.ofNat 16 (w >>> 12),
            srcFold := BitVec.ofNat 4 (w >>> 8), ttl := BitVec.ofNat 8 w, stamp := BitVec.ofNat 16 (numAt bs 6 2),
            ptype := bs.getD 5 0, op := bs.getD 4 0, payload := (bs.drop 32).take len }, bs.drop (32 + len))

/-- Whole packets of a stream, with the bytes that are left (`fuel` packets at most). -/
def packetsOf : Nat → List Byte → List Packet × List Byte
  | 0, bs => ([], bs)
  | fuel + 1, bs =>
    match packetOf bs with
    | none => ([], bs)
    | some (k, rest) =>
      let r := packetsOf fuel rest
      (k :: r.1, r.2)

/-- Hop-local packets are this instance's (R347). -/
def hopLocal (k : Packet) : Bool := k.ptype == 0x30 || k.ptype == 0x31

/-- A packet off a link: delivered, or routed on in the virtual channel it came in (R344, R349). -/
def deliver (v : Nat) (k : Packet) (s : State) : State :=
  if hopLocal k then { s with net := { s.net with inbox := s.net.inbox ++ [k] } } else routePacket v k s

/-- The receiver accepts the flit it expects (R336): the replay wait ends; after 64 flits a control flit is due (R337). -/
def flitAccept (x : Port) : Port :=
  { x with rxCounter := x.rxCounter + 1, replayWait := false, mustNak := false, naksSame := 0,
           sinceControl := x.sinceControl + 1, mustControl := x.mustControl || decide (64 ≤ x.sinceControl + 1) }

/-- A data flit's bytes join their channel's stream and pass on; its credit becomes returnable (R345, R347). -/
def dataFlit (p : Nat) (f : Flit) (s : State) : State :=
  let x := portAt s p
  let bs := Tab.get [] x.rxStreams f.vc ++ f.payload
  let r := packetsOf (bs.length / 32 + 1) bs
  let s1 := setPort s p { x with
    rxStreams := Tab.set [] x.rxStreams f.vc r.2,
    creditOut := Tab.set 0 x.creditOut f.vc (Tab.get 0 x.creditOut f.vc + 1),
    creditAt := if x.creditAt = none then some s.tb.cycle else x.creditAt }
  forEach r.1 (deliver f.vc) s1

/-- A flit that fails outside a replay wait: lost or altered is a free choice. A tag failure is counted and recorded; the
16th within 1 ms takes the port down (R338, R357). -/
def flitLost (p : Nat) (s0 : State) : State :=
  let (tag, s) := drawChoice s0
  let s1 := modPort s p fun x => { x with replayWait := true, mustControl := true, mustNak := true }
  if !tag then modPort s1 p fun x => { x with fecUncorrected := x.fecUncorrected + 1 }
  else
    let cycle := s1.tb.cycle
    let recent := fun (x : Port) => (x.tagFails.filter fun c => decide (cycle < c + 100000)) ++ [cycle]
    let s2 := modPort s1 p fun x => { x with tagFailures := x.tagFailures + 1, tagFails := recent x }
    portFault p 5 0x54 (fun s => if 16 ≤ (portAt s2 p).tagFails.length then portDown p s else s) s2

/-- FLIT_RECEIVE: a flit verifies at the counter the receiver expects, or fails (R336, R338). -/
def flitIn (p : Nat) (f : Flit) (good : Bool) (s : State) : State :=
  let x := portAt s p
  if !portOn x then s
  else if !good then (if x.replayWait then s else flitLost p s)
  else
    let s1 := setPort s p (flitAccept x)
    match f.kind.toNat with
    | 0 => dataFlit p f s1
    | 1 => modPort s1 p (ctlEffect (ctlOf f.payload) s1.tb.cycle)
    | _ => s1

/-- CONTROL_FLIT: an accepted control flit by its fields. -/
def ctlIn (p : Nat) (c : CtlFlit) (s : State) : State :=
  if !portOn (portAt s p) then s
  else modPort s p fun x => ctlEffect c s.tb.cycle (flitAccept x)

/-! ### Sending (R334, R337, R338, R343-R345, R354) -/

/-- A data or padding flit finds a replay entry; 64 entries stay for control flits (R337). -/
def ctlRoom (x : Port) : Bool := decide (x.kept.length < 4096)
def dataRoom (x : Port) : Bool := ctlRoom x && decide ((x.kept.filter fun k => k.flit.kind != 1).length < 4032)

/-- More credits returned than consumed, modulo 2^16 (R345). -/
def hasCredit (x : Port) (v : Nat) : Bool := Tab.get 0 x.returned v != Tab.get 0 x.consumed v

/-- Data of a fold wait on a virtual channel that R354 leaves to its own slots, or that may send in any slot. -/
def vcFold (s : State) (v : Nat) : Bool := decide (v < 32) && !(foldAt s (v / 2)).live.padded

/-- A virtual channel may send a data flit in a slot (R342, R345, R354, R258). -/
def vcMay (s : State) (p v : Nat) : Bool :=
  let x := portAt s p
  !(Tab.get [] x.streams v).isEmpty && dataRoom x &&
    (if portUp x then hasCredit x v && (decide (32 ≤ v) || (vcFold s v && withinCeiling (foldAt s (v / 2)) (linkKey p)))
     else v == 32)

/-- The order of admission (R258): management traffic first, then the folds' channels by rank, and folds of one rank in rotation after
the fold served last. A lower number goes first. -/
def vcOrder (s : State) (p v : Nat) : Nat :=
  if 32 ≤ v then 0
  else 16 * admitRank (foldAt s (v / 2)) (linkKey p) (v % 2 == 0) + turnsAway s (linkKey p) 0 (v / 2)

/-- The channel that sends: the first in that order, channel 32 before 33 (R258; log entry 48). -/
def pickVc (p : Nat) (s : State) : Option Nat :=
  let may := (List.range 34).filter (vcMay s p)
  match (may.map (vcOrder s p)).min? with
  | none => none
  | some m => may.find? fun v => vcOrder s p v == m

/-- Flits of a fold's channels that wait are held at its link weir (R258, R262): each channel stands as a unit of its own. -/
def noteVc (p v : Nat) (s : State) : State :=
  let k := linkKey p
  if portUp (portAt s p) ∧ vcFold s v ∧ !(Tab.get [] (portAt s p).streams v).isEmpty then
    holdAt (mkTag (v / 2) 0 1) k (100 + v) (v % 2 == 0) s
  else if s.xlate.held.any (fun h => h.key == k && h.unit == 100 + v) then unhold k (100 + v) s else s

def noteVcs (p : Nat) (s : State) : State := forEach (List.range 32) (noteVc p) s

/-! ### The lanes (R333, R340, R341) -/

/-- The key of a direction at a key epoch: zero in the plain phase, else derived from the session (R341, R342). -/
def flitKey (s : State) (p : Nat) (epoch : W32) : List Byte :=
  if epoch = plainEpoch && !(portAt s p).session then List.replicate 32 0
  else Config.hkdfExpand (Config.exportMaster (connOf s (.link p)).transcript)
    (textBytes "HTF3 link" ++ beBytes 3 (myNode s).toNat ++ beBytes 4 epoch.toNat) 32

/-- The 244 bytes of a flit before encryption (R334). -/
def flitPlain (f : Flit) : List Byte :=
  leBytes 2 (f.payload.length + 256 * f.vc + 16384 * f.kind.toNat) ++ (f.payload ++ List.replicate 242 0).take 242

/-- The 256 bytes of a flit as sent: AES-256-GCM under key epoch and counter, with a tag of 96 bits (R334, R336, R340). -/
def flitSealed (s : State) (p : Nat) (k : Kept) : List Byte :=
  let sealed' := Config.gcmSeal (flitKey s p k.epoch) (beBytes 4 k.epoch.toNat ++ beBytes 8 k.counter.toNat) (flitPlain k.flit)
  (sealed' ++ List.replicate 256 0).take 256

/-- The bits of bytes in the order in which they enter the stream: byte 0 first, each from its least significant bit (log entry 119). -/
def bitsOfBytes (bs : List Byte) : List Bool := bs.flatMap fun b => (List.range 8).map fun i => b.getLsbD i

/-- Ten-bit symbols from the front of a bit stream, with the bits that are left. -/
def symbolsOf : Nat → List Bool → List (BitVec 10) × List Bool
  | 0, l => ([], l)
  | fuel + 1, l =>
    if l.length < 10 then ([], l)
    else
      let v := (l.take 10).foldr (fun b n => 2 * n + (if b then 1 else 0)) 0
      let r := symbolsOf fuel (l.drop 10)
      (BitVec.ofNat 10 v :: r.1, r.2)

/-- Symbols of a codeword by lane, round robin from the lowest of m lanes in use. -/
def roundRobin (m : Nat) (w : List (BitVec 10)) : List (List (BitVec 10)) :=
  (List.range m).map fun i => (w.zipIdx.filter fun x => x.2 % m == i).map fun x => x.1

/-- A codeword of 544 symbols leaves on the lanes; one in 2^20 is the alignment marker, the first of them (log entry 119). -/
def sendWord (m : Nat) (data : List (BitVec 10)) (x : Lanes) : Lanes :=
  let n := if x.codewords % 2 ^ 20 = 0 then 2 else 1
  { x with codewords := x.codewords + n, sent := roundRobin m (data ++ Config.rsParity data) }

/-- The codewords that are whole leave: 514 data symbols each (R331, R333). -/
def sendWords (m : Nat) : Nat → Lanes → Lanes
  | 0, x => x
  | fuel + 1, x =>
    if x.symbols.length < 514 then x
    else sendWords m fuel { sendWord m (x.symbols.take 514) x with symbols := x.symbols.drop 514 }

/-- A flit's bytes enter the stream back to back with the one before (R333). -/
def lineAfter (m : Nat) (bs : List Byte) (x : Lanes) : Lanes :=
  let r := symbolsOf (bs.length + 2) (x.bits ++ bitsOfBytes bs)
  sendWords m 2 { x with bits := r.2, symbols := x.symbols ++ r.1 }

/-- A flit enters the lanes of its port. -/
def putOnLanes (s : State) (p : Nat) (k : Kept) (x : Port) : Port :=
  { x with onLanes := some k, line := lineAfter (countBits 8 x.lanes) (flitSealed s p k) x.line }

/-- Seal the next flit under the present key epoch and counter, and keep it for replay (R336, R337). -/
def sendFlit (p : Nat) (f : Flit) (s : State) : State :=
  modPort s p fun x =>
    let k : Kept := { counter := x.txCounter, epoch := x.keyEpoch, flit := f }
    let y := putOnLanes s p k { x with txCounter := x.txCounter + 1 }
    if f.kind = 3 then { y with idles := y.idles ++ [(x.keyEpoch, x.txCounter)] } else { y with kept := y.kept ++ [k] }

/-- Data and padding flits of a fold are charged 242 bytes to its link weir (R335, R258); the port's rotation goes on after it. -/
def linkCharge (p v : Nat) (s : State) : State :=
  if 32 ≤ v then s else noteServed (linkKey p) 0 (v / 2) (weirCharge (mkTag (v / 2) 0 1) (linkKey p) 242 s)

/-- Send a data flit of a channel: a credit is consumed (R345). -/
def sendData (p v : Nat) (s : State) : State :=
  let bs := Tab.get [] (portAt s p).streams v
  let s1 := modPort s p fun x => { x with
    streams := Tab.set [] x.streams v (bs.drop 242),
    consumed := if portUp x then Tab.set 0 x.consumed v (Tab.get 0 x.consumed v + 1) else x.consumed }
  linkCharge p v (sendFlit p { kind := 0, vc := v, payload := bs.take 242 } s1)

/-- The flit to resend next while a replay is under way: the first unacknowledged one at or after its place (R338). -/
def replayPlace (x : Port) : Option (W32 × W64) :=
  match x.replayAt with
  | none => none
  | some a => firstFlit ((unackedFlits x).filter fun f => !flitBefore f a)

/-- Resend one flit as it was first sent; the replay moves to the one after it (R338). -/
def resendFlit (p : Nat) (f : W32 × W64) (s : State) : State :=
  modPort s p fun x =>
    let same := fun (k : Kept) => k.epoch == f.1 && k.counter == f.2
    let k := (x.kept.find? same).getD { counter := f.2, epoch := f.1, flit := { kind := 3, vc := 0, payload := [] } }
    { putOnLanes s p k x with replayAt := firstFlit ((unackedFlits x).filter fun g => flitBefore f g) }

/-- After the key_switch flit the direction is at counter 0 of the next key epoch; when the epoch would wrap, the session is
established again (R343). -/
def keySwitched (p : Nat) (s : State) : State :=
  let x := portAt s p
  if x.keyEpoch = 0xFFFFFFFF then secure p s
  else setPort s p { x with keyEpoch := x.keyEpoch + 1, txCounter := 0, mustSwitch := false }

/-- The control flit that is due. Naks for one counter are counted; with the 16th the port retrains once (R338, R357). -/
def sendControl (p : Nat) (s : State) : State :=
  let x := portAt s p
  let nak := x.replayWait || x.mustNak
  let many := nak && decide (16 ≤ x.naksSame + 1)
  let sw := x.mustSwitch && portUp x
  let c : CtlFlit := { creditRet := (List.range 34).map fun v => Tab.get 0 x.creditOut v, retrain := many, keySwitch := sw, nak := nak,
                       keyEpochNext := if sw then x.keyEpoch + 1 else 0, ackNext := x.rxCounter }
  let s1 := sendFlit p { kind := 1, vc := 0, payload := ctlBytes c } s
  let s2 := modPort s1 p fun y => { y with
    mustControl := false, mustNak := false, sinceControl := 0, ctlSent := s.tb.cycle, creditAt := none,
    naksSame := if nak then y.naksSame + 1 else y.naksSame }
  if many then portFault p 2 0x53 (retrain p) s2 else if sw then keySwitched p s2 else s2

def idleFlit : Flit := { kind := 3, vc := 0, payload := [] }

/-- FLIT_SLOT: every slot carries a flit (R334): one being replayed, else a control flit that is due, else data, else idle. -/
def flitSlotAt (p : Nat) (s : State) : State :=
  let x := portAt s p
  if !portOn x then s
  else
    match replayPlace x with
    | some f => resendFlit p f s
    | none =>
      if (x.mustControl || (x.mustSwitch && portUp x)) && ctlRoom x then sendControl p s
      else
        match pickVc p s with
        | some v => noteVcs p (sendData p v s)
        | none => noteVcs p (sendFlit p idleFlit s)

/-- PADDING_SLOT: a padded fold's slot, at the rate of its link guarantee, carries its data, or a padding flit, which consumes no
credit; a fold with guarantee 0 sends nothing (R256, R354). -/
def paddingSlotAt (p n : Nat) (lc : Bool) (s : State) : State :=
  let x := portAt s p
  let v := 2 * n + (if lc then 0 else 1)
  if !portUp x || !(foldAt s n).live.padded || !withinGuarantee (foldAt s n) (linkKey p) || (replayPlace x).isSome ||
      !dataRoom x then s
  else if !(Tab.get [] x.streams v).isEmpty && hasCredit x v then sendData p v s
  else linkCharge p v (sendFlit p { kind := 2, vc := v, payload := [] } s)

/-! ### Timers and faults (R337, R343, R357) -/

/-- A control flit falls due: 64 flits, 100 ns after a credit became returnable, 1 µs after the last one. -/
def ctlDue (s : State) (x : Port) : Bool :=
  decide (64 ≤ x.sinceControl) || decide (x.ctlSent + 100 ≤ s.tb.cycle) ||
    (match x.creditAt with | none => false | some t => decide (t + 10 ≤ s.tb.cycle))

def ctlTimer (p : Nat) (s : State) : State :=
  let x := portAt s p
  if portOn x && ctlDue s x then setPort s p { x with mustControl := true } else s

/-- LINK_SILENCE: 10 µs without a control flit of the partner. -/
def silence (p : Nat) (s : State) : State :=
  let x := portAt s p
  if portOn x && decide (x.heardAt + 1000 ≤ s.tb.cycle) then portFault p 2 0x52 (portDown p) s else s

/-- The other half of a port's lanes. -/
def otherHalf (lane : Nat) : Byte := if lane < 4 then 0xF0 else 0x0F

/-- LANE_FAILURE: the port drops to ×4 without retraining, and its capacity falls; with no half left it is down. The lane
is retired (R403). -/
def laneLost (p lane : Nat) (s : State) : State :=
  let x := portAt s p
  if !portUp x || !bitAt x.lanes lane then s
  else
    let bad := fun (y : Port) => { y with badLanes := setBit y.badLanes lane }
    let s1 := retireUnit (224 + 8 * p + lane) (modPort s p bad)
    if x.state = 3 then
      portFault p 2 0x51 (fun s => refreshLinkCap p (modPort s p fun y => { y with state := 4, lanes := otherHalf lane })) s1
    else portFault p 2 0x52 (portDown p) s1

/-- REKEY_COUNT: the counter has reached rekey_flits. -/
def rekeyDue (p : Nat) (s : State) : State :=
  let x := portAt s p
  if portUp x && decide (x.rekeyFlits.toNat ≤ x.txCounter.toNat) then setPort s p { x with mustSwitch := true } else s

/-- ctl REKEY: the transmit direction switches to the next key epoch. -/
def rekeyNow (p : Nat) (s : State) : State :=
  if portLicensed s p && portUp (portAt s p) then modPort s p fun x => { x with mustSwitch := true } else s

/-- ctl DOWN. -/
def downNow (p : Nat) (s : State) : State := if portLicensed s p then portDown p s else s

/-! ### The commands -/

def execTrain (p : Nat) (s : State) : Out := need (decide (p < 2)) "TRAIN" (.next (trainStart p false [] s))
def execTrainFast (p : Nat) (s : State) : Out :=
  need (decide (p < 2)) "TRAIN_FAST" (.next (trainStart p true (portAt s p).settings s))
def execDown (p : Nat) (s : State) : Out := need (decide (p < 2)) "DOWN" (.next (downNow p s))
def execRekey (p : Nat) (s : State) : Out := need (decide (p < 2)) "REKEY" (.next (rekeyNow p s))
def execFlitReceive (p : Nat) (f : Flit) (good : Bool) (s : State) : Out :=
  need (decide (p < 2) && decide (f.vc < 34) && decide (f.payload.length ≤ 242)) "FLIT_RECEIVE" (.next (flitIn p f good s))
def execControlFlit (p : Nat) (c : CtlFlit) (s : State) : Out := need (decide (p < 2)) "CONTROL_FLIT" (.next (ctlIn p c s))
def execControlFlitTimer (p : Nat) (s : State) : Out := need (decide (p < 2)) "CONTROL_FLIT_TIMER" (.next (ctlTimer p s))
def execLinkSilence (p : Nat) (s : State) : Out := need (decide (p < 2)) "LINK_SILENCE" (.next (silence p s))
def execLaneFailure (p lane : Nat) (s : State) : Out :=
  need (decide (p < 2) && decide (lane < 8)) "LANE_FAILURE" (.next (laneLost p lane s))
def execRekeyCount (p : Nat) (s : State) : Out := need (decide (p < 2)) "REKEY_COUNT" (.next (rekeyDue p s))
def execPaddingSlot (p n : Nat) (lc : Bool) (s : State) : Out :=
  need (decide (p < 2) && decide (n < 16)) "PADDING_SLOT" (.next (paddingSlotAt p n lc s))
def execFlitSlot (p : Nat) (s : State) : Out := need (decide (p < 2)) "FLIT_SLOT" (.next (flitSlotAt p s))
def execReceiverLock (p : Nat) (s : State) : Out := need (decide (p < 2)) "RECEIVER_LOCK" (.next (receiverLocked p s))
def execTrainingFailed (p : Nat) (s : State) : Out := need (decide (p < 2)) "TRAINING_FAILED" (.next (trainingFailed p s))
def execMgmt (p : Nat) (k : Packet) (m : PortHello) (s : State) : Out :=
  need (decide (p < 2) && k.ptype == 0x31) "MGMT" (.next (helloIn p m (takeIn k s)))
def execSpdm (p : Nat) (m : SpdmMsg) (done good : Bool) (s : State) : Out :=
  need (decide (p < 2)) "SPDM" (.next (linkSpdm p m done good s))

end Sys2Proof.Machine
end

