-- ==== Sys2Proof/Machine/Boot.lean ====
section
/-! DEFINITION. The power-on sequence (R392-R406): the loader, the bundle and the image, the fuse reads (R468, R469), power
domains and their acknowledges (R385, R460), known-answer tests, reconciliation, the logical map, training of the ports,
topology agreement and readiness; and what resets the instance (R389-R391, R431, R465, R484). -/

namespace Sys2Proof.Machine

/-! ### Failure (R393) -/

/-- The sequence ends: FAILED with its cause, and only the domains of steps 1 to 3 stay powered. -/
def bootFail (cause : Byte) (s : State) : State :=
  let keep : BitVec 128 := setBit (setBit 0 98) 99
  { s with
    boot := { s.boot with state := .failed, failCause := cause },
    power := { s.power with requests := s.power.requests &&& keep, wanted := [] } }

/-! ### Fuse reads (R468, R469) -/

/-- One read is outstanding at most; FUSE_RD rises with the word's address. -/
def fuseRead (a : Nat) (s : State) : State :=
  { s with fuse := { s.fuse with reading := true, addr := BitVec.ofNat 8 a, readAt := s.tb.cycle } }

/-- The next word to read of a range that starts at `first`: one before it has not begun. -/
def fuseNext (s : State) (first : Nat) : Nat := if s.fuse.addr.toNat < first then first else s.fuse.addr.toNat

/-! ### The bundle (R394) -/

def bnCrc (h : List Byte) : Nat := numAt h 0 8
def bnCompat (h : List Byte) : Bool := bitAt (h.getD 16 0 : Byte) 0
def bnTopo (h : List Byte) : Nat := numAt h 32 4
def bnSettings (h : List Byte) : Nat := numAt h 36 4
def bnRetained (h : List Byte) : Nat := numAt h 40 4
def bnLicence (h : List Byte) : Nat := numAt h 44 4
def bnLicences (h : List Byte) : Nat := numAt h 51 1
def bnImage (h : List Byte) : Nat := numAt h 52 4
def bnImageLen (h : List Byte) : Nat := numAt h 56 4
def bnMagic (h : List Byte) : Nat := numAt h 60 4

/-- An object of n bytes lies 64-byte aligned within the bundle. -/
def bnSpan (b : List Byte) (off n : Nat) : Bool := off % 64 == 0 && decide (off + n ≤ b.length)

/-- An optional object: offset 0 for none. -/
def bnOpt (b : List Byte) (off n : Nat) : Bool := off == 0 || bnSpan b off n

/-- Header, length and CRC (cause 0x01). -/
def bundleOk (b : List Byte) : Bool :=
  decide (64 ≤ b.length) && decide (b.length ≤ 3 * 2 ^ 20) && bnMagic b == 0x48544642 &&
    decide (512 ≤ bnImageLen b) && decide (bnImageLen b ≤ 5 * 2 ^ 19) && decide (bnLicences b ≤ 16) &&
    bnSpan b (bnImage b) (bnImageLen b) && (bnLicences b == 0 || bnSpan b (bnLicence b) (512 * bnLicences b)) &&
    bnOpt b (bnRetained b) 160 && bnOpt b (bnSettings b) 1536 && bnOpt b (bnTopo b) 16 &&
    bnCrc b == (crc64 (b.drop 64)).toNat

/-- Bytes [off, off + n) of the bundle. -/
def bnPart (b : List Byte) (off n : Nat) : List Byte := (b.drop off).take n

/-- Magic and reserved bytes of the image header (R395). -/
def imageShape (img : List Byte) : Bool := numAt img 0 4 == 0x5649524D && ((img.drop 104).take 312).all fun x => x == 0

/-- Key hash and signature (R395, R439). -/
def imageTrusted (s : State) (img : List Byte) : Bool :=
  Config.sha384 ((img.drop 8).take 96) == idKeyHash s &&
    Config.ecdsaVerify ((img.drop 8).take 96) (imageDigest img) ((img.drop 416).take 96)

/-- The bytes of the bundle: from host memory or the chunks, `bundle_len` of them (R394). -/
def bundleBytes (s : State) : List Byte :=
  if s.boot.source = 0 then hostRead s s.boot.bundleAddr.toNat s.boot.bundleLen.toNat
  else s.boot.chunks.take s.boot.bundleLen.toNat

/-- A host read of the bundle that fails (R482): an invalid bundle. -/
def bundlePoisoned (s : State) : Bool :=
  s.boot.source == 0 && poisoned s 3 s.boot.bundleAddr.toNat s.boot.bundleLen.toNat

/-- Step 2: the bundle and the image are checked; Virmin starts. -/
def verifyBundle (s : State) : State :=
  let b := bundleBytes s
  if bundlePoisoned s then bootFail 1 (raiseFault { cls := 0, detail := 0x43, master := hostMaster, address := s.boot.bundleAddr.toNat } s)
  else if !bundleOk b then bootFail 1 s
  else
    let img := bnPart b (bnImage b) (bnImageLen b)
    if !imageShape img then bootFail 1 s
    else if !imageTrusted s img then bootFail 2 s
    else
      { s with
        pins := { s.pins with watchdog := s.tb.cycle },
        boot := { s.boot with
          step := 3, image := img, virminVersion := BitVec.ofNat 32 (numAt img 4 4),
          compat := if bnCompat b then 1 else 0,
          licences := (List.range (bnLicences b)).map fun i => bnPart b (bnLicence b + 512 * i) 512,
          retained := if bnRetained b = 0 then none else some (bnPart b (bnRetained b) 160),
          blobs := if bnSettings b = 0 then none else some (bnPart b (bnSettings b) 1536),
          topo := if bnTopo b = 0 then none else some (bnPart b (bnTopo b) 16) },
        fuse := { s.fuse with addr := 0 } }

/-! ### Steps 3 to 7 -/

/-- Step 3 ends: the fuse map, FUSE_SEAL, and the root of trust's own check (R438, R469). -/
def fusesRead (s : State) : State :=
  let s1 := { s with
    fuse := { s.fuse with sealed := true },
    boot := { s.boot with
      step := 4, fuseMap := BitVec.ofNat 768 (ofLe ((List.range 24).flatMap fun w => bytesOf 4 (Tab.get 0 s.fuse.words w))) } }
  if identIntact s1 then s1 else identFailed (raiseFault { cls := 5, detail := 0x91 } s1)

/-- The domains of step 4 outside the paddocks, in the order of their requests (R392). -/
def commonDomains : List Nat := [100, 101, 102, 103, 104, 105] ++ (List.range 24).map (fun i => 72 + i)

/-- A paddock's domains: router, movers, pond, half-groups, engines (R392). -/
def paddockDomains (p : Nat) : List Nat :=
  [9 * p + 7, 9 * p + 8, 9 * p + 6, 9 * p + 4, 9 * p + 5, 9 * p, 9 * p + 1, 9 * p + 2, 9 * p + 3]

/-- Domains powered at step 4. -/
def stepFourDomains : List Nat := commonDomains ++ (List.range 8).flatMap paddockDomains

/-- Step 4 begins: first the domains outside the paddocks, then the paddocks in four waves 20 µs apart (R392, R387; log entry 120). -/
def stepFour (s : State) : State :=
  forEach (List.range 8) (fun p s =>
      forEach (paddockDomains p) (requestFrom (s.tb.cycle + 50 * commonDomains.length + 2000 * (p / 2))) s)
    (forEach commonDomains requestDomain s)

/-- Every request of step 4 has its acknowledge, or has been dropped for want of one. -/
def domainsSettled (s : State) : Bool :=
  stepFourDomains.all fun d => bitAt s.power.domainsOn d || !asked s d

/-- Units that known-answer tests judge at step 6; training judges the others at step 8 (R397). -/
def trainedUnit (u : Nat) : Bool := decide (224 ≤ u) && decide (u < 328)

def maskWhere (m : BitVec 768) (p : Nat → Bool) : BitVec 768 := (bitList 768 m).foldl (fun a u => if p u then setBit a u else a) 0

/-- The master identity of a unit (R26), 0 where it has none. -/
def unitMaster (u : Nat) : W16 :=
  if 736 ≤ u then BitVec.ofNat 16 (0x1000 + (u - 736) / 4 * 256 + (u - 736) % 4)
  else if 608 ≤ u then BitVec.ofNat 16 (0x2000 + (u - 608) / 16 * 256 + (u - 608) % 16)
  else if 336 ≤ u ∧ u < 352 then BitVec.ofNat 16 (0x3000 + (u - 336) / 2 * 256 + (u - 336) % 2)
  else if u = 216 then 0x5F00
  else if u = 217 then 0x8F00
  else if u = 222 ∨ u = 223 then BitVec.ofNat 16 (0x7F00 + (u - 222))
  else 0

/-- A unit that tests bad with a clear fuse bit: retired, counted, a class A record that names it, by its place in the unit mask
where it has no master identity (R399; log entry 49). -/
def discrepancy (u : Nat) (s : State) : State :=
  let m := unitMaster u
  raiseFault { cls := 0, detail := 0x70, master := m, address := if m = 0 then u else 0 } { s with
    lmap := { s.lmap with retired := setBit s.lmap.retired u },
    boot := { s.boot with discrepancies := s.boot.discrepancies + 1 } }

/-- Units found bad join the test mask; what is unusable follows from fuses, tests and the retired mask (R399). -/
def reconcile (bad : BitVec 768) (s : State) : State :=
  let s1 := { s with boot := { s.boot with testFail := s.boot.testFail ||| bad } }
  let s2 := forEach ((bitList 768 bad).filter fun u => !bitAt s.boot.fuseMap u) discrepancy s1
  { s2 with lmap := { s2.lmap with unusable := s2.boot.fuseMap ||| s2.boot.testFail ||| s2.lmap.retired } }

/-- An essential unit is unusable (R399). -/
def essentialOut (s : State) : Bool :=
  (List.range 8).any (fun i => unitOut s (312 + 2 * i) && unitOut s (313 + 2 * i)) ||
    (List.range 4).any (fun i => unitOut s (304 + 2 * i) && unitOut s (305 + 2 * i)) ||
    (List.range 8).any fun i => unitOut s (216 + i)

/-- Slot e of the retained record: the physical engine, none where the entry is not valid. -/
def retainedSlot (r : List Byte) (e : Nat) : Option Nat :=
  let v := numAt r (2 * e) 2
  if v / 2 ^ 15 % 2 = 1 then some (v % 32) else none

/-- A retained record that binds one engine to two slots is ignored as a whole (R402). -/
def retainedOf (s : State) : Option (List Byte) :=
  match s.boot.retained with
  | none => none
  | some r => if ((List.range 32).filterMap (retainedSlot r)).Nodup then some r else none

/-- Bind a slot. -/
def bindSlot (e p : Nat) (s : State) : State :=
  { s with lmap := { s.lmap with map := Tab.set 0 s.lmap.map e (BitVec.ofNat 16 (0x8000 + p)) } }

/-- The first pass of R401: a slot keeps the engine it had. -/
def keepSlot (r : List Byte) (e : Nat) (s : State) : State :=
  match retainedSlot r e with
  | none => s
  | some p => if engineUsable s p && (slotOfPhys s p).isNone then bindSlot e p s else s

/-- The second pass: a vacant slot takes the lowest usable unbound engine, of the paddock its entry named if it had one. -/
def fillSlot (r : Option (List Byte)) (e : Nat) (s : State) : State :=
  if engineBound s e then s
  else
    let near := match r with
      | none => spares s
      | some b => match retainedSlot b e with
        | none => spares s
        | some p => (spares s).filter fun q => q / 4 == p / 4
    match near.head? with
    | none => s
    | some p => bindSlot e p s

/-- The logical map (R401). -/
def buildMap (s : State) : State :=
  let r := retainedOf s
  let slots := List.range s.lmap.licensed
  let s1 := { s with lmap := { s.lmap with map := [] } }
  let s2 := match r with | none => s1 | some b => forEach slots (keepSlot b) s1
  forEach slots (fillSlot r) s2

/-- Domains whose every unit is unusable, and those of spare engines, are powered down (R399, R400). -/
def dropUnusable (s : State) : State :=
  let dead := (List.range 106).filter fun d =>
    (!(domainUnits d).isEmpty && (domainUnits d).all (unitOut s)) ||
      (decide (d < 72) && match d % 9 with
        | 4 => halfVacant s (2 * (d / 9))
        | 5 => halfVacant s (2 * (d / 9) + 1)
        | 6 => unitOut s (328 + d / 9)
        | 7 => false
        | 8 => paddockOut s (d / 9)
        | i => !engineUsable s (4 * (d / 9) + i) || (spares s).contains (4 * (d / 9) + i))
  forEach dead (fun d s =>
    if bitAt s.power.requests d then { dropDomain d s with power := { (dropDomain d s).power with down := setBit s.power.down d } }
    else s) s

/-- Blobs of the bundle: SL0 and SL1 are staged, the stack port's is judged at step 8 (R396). -/
def stageBlobs (s : State) : State :=
  match s.boot.blobs with
  | none => s
  | some b =>
    let s1 := modPort s 0 fun x => { x with settings := b.take 512 }
    let s2 := modPort s1 1 fun x => { x with settings := (b.drop 512).take 512 }
    { s2 with stack := { s2.stack with settings := b.drop 1024 } }

/-- Step 7: identity, licences, reconciliation, the logical map (R398-R404, R440). -/
def stepSeven (s : State) : State :=
  let s1 := applyLicences (eraseSecret (deriveIdent s))
  let old : BitVec 768 := match retainedOf s1 with
    | none => 0
    | some r => BitVec.ofNat 768 (ofLe ((r.drop 64).take 96))
  let s2 := reconcile s1.boot.testFail { s1 with lmap := { s1.lmap with retired := old } }
  if essentialOut s2 then bootFail 5 s2
  else
    let s3 := stageBlobs (dropUnusable (buildMap s2))
    { s3 with boot := { s3.boot with step := 8 } }

/-! ### Steps 8 to 10 -/

/-- The stack port is trained: a channel that fails is out of service; with none the training has failed; how many
spare bonds are in use is found by the training (R393, R474; log entry 58). -/
def trainStack (s : State) : State :=
  let up := (List.range 64).foldl (fun m c => if unitOut s (240 + c) then m else setBit m c) (0 : W64)
  let (spares, s0) := drawBits 16 s
  let s1 := { s0 with
    stack := { s0.stack with
      state := if up = 0 then 3 else 2, channelsUp := up, repaired := spares, settings := blobOf s 2 0 },
    xlate := { s0.xlate with farSize := s0.plant.farSize }, weirG := { s0.weirG with farCap := s0.plant.farCap } }
  if up = 0 then bootFail 6 s1
  else if essentialOut s1 then bootFail 5 s1
  else refreshCaps s1

/-- Step 8: training of the stack port, and the start of the link ports' training (R392, R396, R397). -/
def stepEight (s : State) : State :=
  let s1 := trainStack (reconcile (maskWhere s.plant.trainFail trainedUnit) s)
  if s1.boot.state = .failed then s1
  else
    let s2 := trainStart 1 true (portAt s1 1).settings (trainStart 0 true (portAt s1 0).settings s1)
    { s2 with boot := { s2.boot with step := 9, topoAt := s2.tb.cycle } }

/-- The partner that the topology descriptor names for a port (R405). -/
def topoPartner (s : State) (p : Nat) : Option W32 :=
  match s.boot.topo with
  | none => none
  | some b =>
    let e : W32 := BitVec.ofNat 32 (numAt b (4 * p) 4)
    if s.boot.compat = 1 ∧ peerValid e then some e else none

/-- Every port that is judged is up. -/
def topoReady (s : State) : Bool := [0, 1].all fun p => (topoPartner s p).isNone || portUp (portAt s p)

/-- Judge one port: it agrees, or it is set DOWN. -/
def judgePort (p : Nat) (s : State) : State :=
  match topoPartner s p with
  | none => s
  | some e =>
    if portUp (portAt s p) ∧ (portAt s p).partner = e then
      { s with boot := { s.boot with topoAgreed := setBit s.boot.topoAgreed p } }
    else
      let s1 := portDown p (raiseFault { cls := 2, detail := 0x57, master := portMaster p } s)
      { s1 with boot := { s1.boot with degradedCause := setBit s1.boot.degradedCause 1 } }

/-- Step 9 ends. -/
def stepNine (s : State) : State :=
  let s1 := judgePort 1 (judgePort 0 s)
  { s1 with boot := { s1.boot with step := 10 } }

/-- Step 10: READY or READY_DEGRADED; mailboxes are bound, the collector is armed, ALIVE_OUT rises for the first time, HQI 0
exists (R406, R416, R420, R454, R467). -/
def stepTen (s : State) : State :=
  let few := decide (boundSlots s < s.lmap.minimum)
  let cause := if few then setBit s.boot.degradedCause 0 else s.boot.degradedCause
  let s1 := bindMailboxes (setHqi s 0 { hqiAt s 0 with created := true })
  { s1 with
    boot := { s1.boot with state := if cause = 0 then .ready else .degraded, degradedCause := cause, readyTime := now s },
    faults := { s1.faults with armed := true },
    pins := { s1.pins with alive := true, toggling := true, aliveAt := s.tb.cycle, watchdog := s.tb.cycle } }

/-! ### The sequence (R392) -/

/-- One move of the sequence, when its condition is met. A brownout hold delays the next domain request or test (R389). -/
def bootStep (s : State) : State :=
  if s.boot.state ≠ .booting ∨ s.pins.resetLow ∨ s.boot.resetting ∨ s.fuse.reading then s
  else
    match s.boot.step.toNat with
    | 1 =>
      if !asked s 99 then requestDomain 99 s
      else if !bitAt s.power.domainsOn 99 then s
      else if !asked s 98 then requestDomain 98 s
      else if !bitAt s.power.domainsOn 98 then s
      else if fuseNext s 51 < 55 then fuseRead (fuseNext s 51) s
      else { s with boot := { s.boot with step := 2 }, pins := { s.pins with flr := false } }
    | 2 =>
      if !s.boot.goDone then s
      else if fuseNext s 55 < 67 then fuseRead (fuseNext s 55) s
      else if s.boot.source = 0 ∧ !linkUp s then s
      else verifyBundle s
    | 3 => if s.fuse.addr.toNat < 79 then fuseRead s.fuse.addr.toNat s else fusesRead s
    | 4 =>
      if !asked s 100 then stepFour s
      else if domainsSettled s then { s with boot := { s.boot with step := 5 } } else s
    | 5 => { s with boot := { s.boot with step := 6 } }
    | 6 =>
      if s.power.brownout then s
      else { s with boot := { s.boot with
        step := 7, testFail := s.boot.testFail ||| maskWhere s.plant.katFail fun u => !trainedUnit u } }
    | 7 => stepSeven s
    | 8 => stepEight s
    | 9 => if topoReady s then stepNine s else s
    | 10 => stepTen s
    | _ => s

/-- The sequence moves on as far as it can. -/
def bootAdvance (s : State) : State := (List.range 12).foldl (fun s _ => bootStep s) s

/-- After a reset the loader restarts once every acknowledge is low and RESET_N is high (R391, R431). -/
def restart (s : State) : State :=
  if s.boot.resetting ∧ s.power.domainsOn = 0 ∧ !s.pins.resetLow then bootAdvance { s with boot := { s.boot with resetting := false } }
  else bootAdvance s

/-- The instance resets (R391). -/
def doReset (s : State) : State := restart (resetInstance s)

/-! ### Delivery of the bundle (R393, R394, R406) -/

/-- Delivery ends with boot_go. -/
def deliveryOpen (s : State) : Bool := !s.boot.goDone && s.boot.state == .booting

def chunkIn (bs : List Byte) (s : State) : State :=
  if deliveryOpen s && bs.length == 256 && decide (s.boot.chunks.length + 256 ≤ 3 * 2 ^ 20) then
    { s with boot := { s.boot with chunks := s.boot.chunks ++ bs } }
  else s

def goIn (s : State) : State :=
  if deliveryOpen s then bootAdvance { s with boot := { s.boot with goDone := true } } else s

/-! ### Fuse acknowledges -/

/-- FUSE_ACK: the word read, or FUSE_ERR, which ends the boot (R469). -/
def fuseIn (data : W32) (err : Bool) (s : State) : State :=
  if !s.fuse.reading then s
  else
    let s1 := { s with fuse := { s.fuse with reading := false } }
    if err then bootFail 3 s1
    else
      let a := s1.fuse.addr.toNat
      bootAdvance { s1 with fuse := { s1.fuse with addr := BitVec.ofNat 8 (a + 1), words := Tab.set 0 s1.fuse.words a data } }

/-- No FUSE_ACK within 8 cycles of FUSE_CLK, 32 of REFCLK_100. -/
def fuseLate (s : State) : State :=
  if s.fuse.reading ∧ s.fuse.readAt + 32 ≤ s.tb.cycle then bootFail 3 { s with fuse := { s.fuse with reading := false } } else s

/-! ### Power domains (R385, R459, R460) -/

/-- A missing acknowledge: the request is dropped, recorded and counted, and the domain's units have failed. -/
def domainFailed (d : Nat) (s : State) : State :=
  let s1 := dropDomain d s
  let s2 := { s1 with power := { s1.power with
    domainsOn := clearBit s1.power.domainsOn d, domainFailures := s1.power.domainFailures + 1 } }
  let s3 := raiseFault { cls := 4, detail := 0x80 } s2
  if running s3 then retireDomain d s3
  else if s3.boot.state ≠ .booting then s3
  else if 98 ≤ d then bootFail 4 s3
  else
    let bad := (domainUnits d).foldl (fun m u => setBit m u) (0 : BitVec 768)
    bootAdvance { s3 with boot := { s3.boot with testFail := s3.boot.testFail ||| bad } }

/-- The cores of half-group h start from reset: their data caches are empty and what was wrong in their arrays is gone. -/
def coresBack (h : Nat) (s : State) : State :=
  let mine := fun (c : Nat) => c / 8 == h
  { s with
    poison := s.poison.filter fun p => !(p.1 == 6 && mine p.2),
    herd := { s.herd with caches := s.herd.caches.filter fun p => !mine p.1 } }

/-- A physical engine starts from reset: what was wrong in the arrays of the slot bound to it is gone. -/
def engineBack (p : Nat) (s : State) : State :=
  { s with poison := s.poison.filter fun x => !((x.1 == 4 || x.1 == 5) && slotOfPhys s p == some x.2) }

/-- What a unit is when its domain returns: its logic starts from reset, a pond reads zero (R384). -/
def domainBack (d : Nat) (s : State) : State :=
  if d < 72 ∧ d % 9 = 6 then clearPoison 0 (d / 9 * 2 ^ 23) (2 ^ 23) { s with pond := memZero s.pond (d / 9 * 2 ^ 23) (2 ^ 23) }
  else if d < 72 ∧ (d % 9 = 4 ∨ d % 9 = 5) then coresBack (2 * (d / 9) + (d % 9 - 4)) s
  else if d < 72 ∧ d % 9 < 4 then engineBack (4 * (d / 9) + d % 9) s
  else if d = 103 ∨ d = 104 then purge (fun e => e.place == 8 + (d - 103)) (fun w => w.mmu == d - 103) s
  else s

/-- PD_ACK changes: its rise counts only while the request is high, its fall then is a missing acknowledge. -/
def domainAcked (d : Nat) (level : Bool) (s : State) : State :=
  let p := s.power
  if level then
    if !bitAt p.requests d then s
    else
      let on := { s with power := { p with domainsOn := setBit p.domainsOn d, down := clearBit p.down d } }
      bootAdvance (if bitAt p.down d then domainBack d on else on)
  else if bitAt p.requests d && bitAt p.domainsOn d then domainFailed d s
  else restart { s with power := { p with domainsOn := clearBit p.domainsOn d } }

/-- No acknowledge within 10 µs of the request. -/
def domainLate (d : Nat) (s : State) : State :=
  if bitAt s.power.requests d && !bitAt s.power.domainsOn d && decide (Tab.get 0 s.power.reqAt d + 1000 ≤ s.tb.cycle) then
    domainFailed d s
  else s

/-! ### RESET_N, HP_FLR, timeouts -/

/-- RESET_N is asserted: the instance resets, a power-cycle request ends and FUSE_SEAL falls (R391, R433, R468). -/
def resetAssert (s : State) : State :=
  let s1 := resetInstance s
  { s1 with
    pins := { s1.pins with resetLow := true, pwrCycReq := false, flr := false }, fuse := { s1.fuse with sealed := false } }

/-- RESET_N is released (R465). -/
def resetRelease (s : State) : State := restart { s with pins := { s.pins with resetLow := false } }

/-- Function Level Reset: as on INSTANCE_RESET; BAR0 is not answered until step 1 has ended (R484). -/
def flrIn (s : State) : State := doReset { s with pins := { s.pins with flr := true } }

/-- An instance reset that has not ended within 20 ms asks for a power cycle (R431). -/
def resetLate (s : State) : State :=
  if s.boot.resetting ∧ 2000000 ≤ s.tb.cycle then requestPowerCycle s else s

/-- 250 ms after step 8 began, step 9 no longer waits (R405). -/
def topoLate (s : State) : State :=
  if s.boot.state = .booting ∧ s.boot.step = 9 ∧ s.boot.topoAt + 25000000 ≤ s.tb.cycle then bootAdvance (stepNine s) else s

/-! ### The commands -/

def execBundleChunk (bytes : List Byte) (s : State) : Out :=
  need (bytes.length == 256) "BUNDLE_CHUNK" (.next (chunkIn bytes s))
def execBootGo (s : State) : Out := .next (goIn s)
def execFuseAck (data : W32) (err : Bool) (s : State) : Out := .next (fuseIn data err s)
def execFuseAckTimeout (s : State) : Out := .next (fuseLate s)
def execDomainPowerDown (dom : Nat) (s : State) : Out :=
  need (decide (dom < 106)) "DOMAIN_POWER_DOWN" (.next (powerDown dom s))
def execRailWarning (src : RailSource) (s : State) : Out :=
  need (match src with | .group i => decide (i < 8) | .pwrWarn => true) "RAIL_WARNING"
    (.next (if s.pins.resetLow then s else brownoutEnter src s))
def execBrownoutRelease (s : State) : Out := .next (bootAdvance (raiseDue (brownoutLeave s)))
def execRailReset (i : Nat) (s : State) : Out := need (decide (i < 8)) "RAIL_RESET" (.next (doReset s))
def execThermalShutdown (s : State) : Out := .next (doReset s)
def execResetNAssert (s : State) : Out := .next (resetAssert s)
def execResetNRelease (s : State) : Out := .next (resetRelease s)
def execHpFlr (s : State) : Out := .next (flrIn s)
def execInstanceReset (s : State) : Out := .next (doReset s)
def execPowerCycleRequest (s : State) : Out := .next (requestPowerCycle s)
def execInstanceResetTimeout (s : State) : Out := .next (resetLate s)
def execTopologyAgreementTimeout (s : State) : Out := .next (topoLate s)
def execCapacityDrop (c : CapSource) (s : State) : Out := .next (capacityDrop c s)
def execCapacityRise (rate : W32) (s : State) : Out := .next (capacityRise rate s)
/-- Above t_shutdown the instance resets (R390). -/
def execPowerEstimateUpdate (estimate temp : Nat) (s : State) : Out :=
  .next (if s.power.shutdown.toNat < temp then doReset s else powerUpdate estimate temp s)

end Sys2Proof.Machine
end

