-- ==== Sys2Proof/Machine/Recover.lean ====
section
/-! DEFINITION. Recovery: unit resets with their suspects and scratch samples (R427, R428), suspect review (R429), fold resets
(R430), the ends of drains (R422, R423), ALIVE_OUT and the drover watchdog (R419, R420), and the collector's
acknowledgement (R418). -/

namespace Sys2Proof.Machine

/-! ### Arguments (R426) -/

def rcKind (d : BitVec 512) : Bool := bitAt d 159
def rcUnit (d : BitVec 512) : Nat := field d 144 5
def rcFold (d : BitVec 512) : Nat := field d 128 4
def rcTimeout (d : BitVec 512) : Nat := field d 160 32

/-- The unit exists: a bound logical engine, or one of the 16 half-groups. -/
def unitExists (s : State) (herd : Bool) (u : Nat) : Bool :=
  if herd then decide (u < 16) else decide (u < s.lmap.licensed) && engineBound s u

/-- A unit's master identity (R26): for a half-group, its first core's. -/
def unitIdentity (s : State) (herd : Bool) (u : Nat) : W16 := if herd then coreMaster (8 * u) else engineMaster s u

/-- The paddock a unit stands in. -/
def unitPaddock (s : State) (herd : Bool) (u : Nat) : Nat := if herd then u / 2 else enginePlace s u

/-- The fold that owns a unit; none for the commons. -/
def unitOwner (s : State) (herd : Bool) (u : Nat) : Option Nat :=
  if herd then (List.range 16).find? fun n => foldExists s n && (foldAt s n).live.halfGroups.getLsbD u
  else engineOwner s u

/-! ### The unit's own flags -/

/-- A unit serves nothing but what the reset or the review needs. -/
def blockUnit (herd : Bool) (u : Nat) (s : State) : State :=
  if herd then setHalf s u { halfAt s u with blocked := true } else modEngine s u fun x => { x with blocked := true }

/-- The reset of a unit begins: accumulators, operand buffer, registers and local stores are cleared with what runs on it. -/
def beginUnitReset (herd : Bool) (u : Nat) (s : State) : State :=
  if herd then setHalf s u { halfAt s u with blocked := true, abandoned := false, resetting := true, resetAt := now s }
  else modEngine s u fun x => { x with
    blocked := true, abandoned := false, resetting := true, resetAt := now s, tile := none, entered := 0, buf := [] }

def unitResetting (s : State) (herd : Bool) (u : Nat) : Bool :=
  if herd then (halfAt s u).resetting else (engineAt s u).resetting

def unitResetAt (s : State) (herd : Bool) (u : Nat) : W64 := if herd then (halfAt s u).resetAt else (engineAt s u).resetAt

def unitAbandoned (s : State) (herd : Bool) (u : Nat) : Bool :=
  if herd then (halfAt s u).abandoned else (engineAt s u).abandoned

/-- The reset of a unit is over. -/
def endUnitReset (herd : Bool) (u : Nat) (s : State) : State :=
  if herd then setHalf s u { halfAt s u with resetting := false } else modEngine s u fun x => { x with resetting := false }

/-! ### Suspects (R427) -/

/-- The command is held for a unit. -/
def heldOn (herd : Bool) (u : Nat) (c : Cmd) : Bool := c.phase == .held herd u

/-- A launch that has begun and not completed. -/
def launchRuns (c : Cmd) : Bool := opcodeOf c.desc == 2 && (c.phase == .launched || c.phase == .busy)

/-- Tasks begun on a unit and not completed: tiles that stand in the array or leave it, and launches of which a core of the half-group
has run a gang. -/
def suspectsOf (s : State) (herd : Bool) (u : Nat) : List Nat :=
  (s.cmds.filter fun c =>
    if herd then launchRuns c && c.launch.cores.any fun k => k / 8 == u
    else (engineAt s u).tile == some c.uid || (opcodeOf c.desc == 1 && c.phase == .busy && ranOn c == u)).map fun c => c.uid

/-- What a suspect's answers would still do is forgotten: it runs again from its start. -/
def forgetAnswers (uid : Nat) (s : State) : State :=
  let quiet := fun (e : E2E) => if e.uid = uid then { e with use := .none } else e
  let s1 := { s with xlate := { s.xlate with reqs := s.xlate.reqs.map fun r => if r.uid = uid then { r with grp := none } else r } }
  forEach (List.range 16) (fun n s =>
    if (foldAt s n).unacked.any fun e => e.uid == uid then modFold s n fun f => { f with unacked := f.unacked.map quiet } else s) s1

/-- Hold a suspect: its gangs stop, its translations are given back (R427 step 2, R432). -/
def holdSuspect (herd : Bool) (u uid : Nat) (s : State) : State :=
  let s1 := endHolder (.task uid) (dropGangs uid (forgetAnswers uid s))
  modCmd s1 uid fun c => { c with
    phase := .held herd u, pages := [], launch := { Launch.reset with next := if herd then 0 else c.launch.next },
    coll := { c.coll with parts := [], acc := [] }, moved := 0, asked := 0, opnd := [], seg := 0, out := [], got := [],
    setting := none }

/-! ### Scratch samples (R428) -/

/-- The pond unit sampled for a fold: its lowest in the paddock, else its lowest. -/
def sampleUnit (s : State) (n p : Nat) : Option Nat :=
  let us := bitList 256 (foldAt s n).live.pondUnits
  match us.find? fun x => x / 32 == p with
  | some x => some x
  | none => us.head?

/-- CRC-64 over a launch's registers on a half-group, by core, group and register (R428); within a register the lanes ascend
(log entry 121). -/
def registersCrc (s : State) (h : Nat) (c : Cmd) : W64 :=
  let gangs := (s.herd.gangs.filter fun g => g.launch == c.uid && g.core / 8 == h).insertionSort fun a b => a.core ≤ b.core
  crc64 (gangs.flatMap fun g => g.groups.flatMap fun x => (List.range (hlRegs c.desc)).flatMap fun r =>
    (List.range 16).flatMap fun l => bytesOf 4 (getReg x l r))

/-- unit_crc of a sample: an engine's sums the accumulators as the hang left them, a free value. -/
def unitCrc (herd : Bool) (u : Nat) (c : Cmd) (s : State) : W64 × State :=
  if herd then (registersCrc s u c, s) else drawBits 64 s

/-- The 64-byte sample header. -/
def sampleHead (s : State) (crc : W64) (pa : Nat) (master : W16) (c : Cmd) : BitVec 512 :=
  place (now s).toNat 448 64 ||| place crc.toNat 384 64 ||| place pa 320 64 ||| place (seqOf c.desc).toNat 288 32 |||
    place c.q 276 12 ||| place (queueAt s c.q).hqi 268 8 ||| place c.tag.toNat 252 16 ||| place master.toNat 236 16

/-- Bytes of a sample record. -/
def sampleLen : Nat := 65600

/-- Write a sample for a suspect at the fold's next offset, or skip it with detail 0xB2. -/
def sample (herd : Bool) (u : Nat) (c : Cmd) (s0 : State) : State :=
  let n := tagFold c.tag
  let f := foldAt s0 n
  let master := unitIdentity s0 herd u
  let len := f.dumpLen.toNat
  let off := if f.dumpNext.toNat + sampleLen ≤ len then f.dumpNext.toNat else 0
  let skip := raiseEngine 0xB2 master c.tag s0
  if len < sampleLen then skip
  else
    match decodePa s0 (f.dumpBase.toNat + off) with
    | .loc mem a =>
      if (mem ≠ 1 ∧ mem ≠ 2) ∨ !ownedBy s0 n mem a then skip
      else
        let (crc, s) := unitCrc herd u c s0
        let (pa, bs) := match sampleUnit s n (unitPaddock s herd u) with
          | some x => (paOf s 0 (x * 2 ^ 18), memRead s.pond (x * 2 ^ 18) 65536)
          | none => (0, List.replicate 65536 0)
        modFold (memStore mem a (bytesOf 64 (sampleHead s crc pa master c) ++ bs) s) n fun f => { f with
          dumpNext := BitVec.ofNat 32 (off + sampleLen) }
    | _ => skip

/-- Sample a suspect by its number. -/
def sampleOf (herd : Bool) (u uid : Nat) (s : State) : State :=
  match cmdAt s uid with
  | none => s
  | some c => sample herd u c s

/-! ### ENGINE_RESET (R427) -/

/-- Steps 1 to 4: the unit takes nothing new, the suspects are fixed and sampled, the unit is reset. -/
def startEngineReset (c : Cmd) (s : State) : State :=
  let herd := rcKind c.desc
  let u := rcUnit c.desc
  if !unitExists s herd u then rangeEnd c s
  else
    let s1 := if herd then s else forEach (engineAt s u).queue withdraw s
    let us := suspectsOf s1 herd u
    let s2 := forEach us (sampleOf herd u) (blockUnit herd u s1)
    setPhase (beginUnitReset herd u (forEach us (holdSuspect herd u) s2)) c.uid (.unitReset herd u)

/-- Step 5 for one unit: suspects that are in place end; the others stay held. -/
def endInPlace (herd : Bool) (u : Nat) (s : State) : State :=
  forEach (cmdsWhere s fun c => heldOn herd u c && isInPlace c.desc) (fun x s => complete x (.broken stHangUnreplayable) s) s

/-- The ENGINE_RESET of a unit. -/
def resetsOf (s : State) (herd : Bool) (u : Nat) : List Cmd := s.cmds.filter fun c => c.phase == .unitReset herd u

/-- UNIT_RESET_END: the unit's reset has ended in time. -/
def unitDone (herd : Bool) (u : Nat) (s : State) : State :=
  if !unitResetting s herd u then s
  else
    let s1 := endUnitReset herd u s
    let rs := resetsOf s1 herd u
    if rs.isEmpty then s1 else forEach rs success (endInPlace herd u s1)

/-- Some command needs the unit as it is: held on it, being reviewed, or resetting it. -/
def unitClaimed (s : State) (herd : Bool) (u : Nat) : Bool :=
  s.cmds.any fun c => match c.phase with
    | .held h x => h == herd && x == u
    | .rerun h x => h == herd && x == u
    | .unitReset h x => h == herd && x == u
    | .review h x _ => h == herd && x == u
    | _ => false

/-- A unit that is neither claimed, nor under reset, nor waiting for one serves again. -/
def settleUnits (s : State) : State :=
  let s1 := forEach ((s.engines.filter fun p => p.2.blocked && !p.2.resetting && !p.2.abandoned).map fun p => p.1)
    (fun e s => if unitClaimed s false e then s else modEngine s e fun x => { x with blocked := false }) s
  forEach ((s1.halves.filter fun p => p.2.blocked && !p.2.resetting).map fun p => p.1)
    (fun h s => if unitClaimed s true h then s else setHalf s h { halfAt s h with blocked := false }) s1

/-! ### SUSPECT_REVIEW (R429) -/

/-- The command re-run last by a review, in its `moved` less 1. -/
def reviewed (s : State) (r : Cmd) : Option Cmd := if r.moved = 0 then none else cmdAt s (r.moved - 1)

/-- Held tasks of a unit in ascending context tag order. -/
def heldTasks (s : State) (herd : Bool) (u : Nat) : List Cmd :=
  (s.cmds.filter (heldOn herd u)).insertionSort fun a b => a.tag.toNat ≤ b.tag.toNat

/-- A re-run begins. A launch's gangs are placed again; a tile holds the translation epoch in force, and enters the array once its
headers and first segment have been fetched anew (`rerunGo`). -/
def rerunStart (herd : Bool) (u : Nat) (c : Cmd) (s : State) : State :=
  let h : Holder := { epoch := s.xlate.epoch, tag := c.tag, owner := .task c.uid }
  let s1 := modCmd s c.uid fun x => { x with phase := .rerun herd u, startAt := now s }
  if herd then s1 else { s1 with xlate := { s1.xlate with holders := s1.xlate.holders ++ [h] } }

/-- The review goes on: the next held task runs once the one before has ended and the unit is not under reset; after the
last it completes. -/
def reviewNext (uid : Nat) (s : State) : State :=
  match cmdAt s uid with
  | none => s
  | some r =>
    match r.phase with
    | .review herd u _ =>
      if (reviewed s r).isSome || unitResetting s herd u || !(resetsOf s herd u).isEmpty then s
      else
        match heldTasks s herd u with
        | [] => success r s
        | c :: _ => rerunStart herd u c (modCmd s uid fun x => { x with moved := c.uid + 1 })
    | _ => s

/-- The next task of every review under way. -/
def reviewAll (s : State) : State :=
  forEach (cmdsWhere s fun c => match c.phase with | .review .. => true | _ => false) reviewNext s

/-- SUSPECT_REVIEW begins; a time allowed out of 1 to 10,000,000 µs completes it with RANGE (log entry 52). -/
def startReview (c : Cmd) (s : State) : State :=
  let herd := rcKind c.desc
  let u := rcUnit c.desc
  let t := rcTimeout c.desc
  if !unitExists s herd u || t = 0 || 10000000 < t then rangeEnd c s
  else reviewNext c.uid (modCmd s c.uid fun x => { x with phase := .review herd u t, moved := 0 })

/-- A task that has not completed in time is guilty: the unit is reset, its context's queues stop (R429). -/
def guilty (herd : Bool) (u : Nat) (c : Cmd) (s : State) : State :=
  let s1 := raiseEngine 0xB3 (unitIdentity s herd u) c.tag s
  let s2 := beginUnitReset herd u (endHolder (.task c.uid) (dropGangs c.uid s1))
  let s3 := complete c.uid (.broken stHangGuilty) s2
  forEach (queuesWhere s3 fun x => x.tag == c.tag && x.state == .active)
    (fun q s => modQueue s q fun x => { x with state := .hang, batch := 0 }) s3

/-- SUSPECT_RERUN_TIMEOUT. -/
def rerunLate (uid : Nat) (s : State) : State :=
  match cmdAt s uid, s.cmds.find? fun r => opcodeOf r.desc == 0x17 && r.moved == uid + 1 with
  | some c, some r =>
    (match r.phase with
      | .review herd u t => if c.startAt.toNat + 1000 * t ≤ (now s).toNat then guilty herd u c s else s
      | _ => s)
  | _, _ => s

/-! ### FOLD_RESET (R430) -/

/-- A fold's engines and half-groups, and the commons engines that run or ran its tile. -/
def foldUnits (s : State) (n : Nat) : List (Bool × Nat) :=
  ((List.range 32).filter fun e => (foldAt s n).live.engines.getLsbD e).map (fun e => (false, e)) ++
    (foldHalves s n).map (fun h => (true, h)) ++
    ((s.engines.filter fun p => p.2.abandoned && p.2.lastFold == n && !(foldAt s n).live.engines.getLsbD p.1).map fun p =>
      (false, p.1))

/-- Steps 1 and 2: RESETTING, its sluice closed, its running work stopped at once, its units reset. -/
def beginFoldReset (n : Nat) (uid : Option Nat) (s : State) : State :=
  let s1 := setFoldState (endFreezing n s) n .resetting
  let s2 := closeFold n (modFold s1 n fun f => { f with resetting := uid, resetAt := now s })
  let us := cmdsWhere s2 fun c => c.tag != 0 && tagFold c.tag == n
  let s3 := refreshBoosts (forEach us (endCmd stAborted) (abandonRemote us s2))
  forEach (foldUnits s3 n) (fun x s => beginUnitReset x.1 x.2 s) s3

/-- A fold admits FOLD_RESET. -/
def foldResets (s : State) (n : Nat) : Bool :=
  match (foldAt s n).state with
  | .active => true
  | .frozen => true
  | .closing => true
  | .disabled => true
  | _ => false

def startFoldReset (c : Cmd) (s : State) : State :=
  let n := rcFold c.desc
  if foldResets s n then beginFoldReset n (some c.uid) (setPhase s c.uid (.foldReset n)) else rangeEnd c s

/-- A unit of the fold is still under reset. -/
def foldUnitsResetting (s : State) (n : Nat) : Bool :=
  (foldUnits s n).any (fun x => unitResetting s x.1 x.2) || s.engines.any fun p => p.2.resetting && p.2.lastFold == n

/-- Steps 4 and 5: when every request has returned and every unit is reset, the contexts pass teardown steps 3 to 5 with
reason 0x02, and the fold is DISABLED. -/
def foldResetEnd (n : Nat) (s : State) : State :=
  let f := foldAt s n
  if f.state ≠ .resetting ∨ foldBusy s n ∨ foldUnitsResetting s n ∨ !fencesReach s n then s
  else
    let s1 := forEach (foldSlots s n) (endCtx 2) s
    let s2 := modFold s1 n fun f => { f with
      resetting := none, drainUntil := none, ctlOutcome := if f.ctlOutcome = 0 then stSuccess else f.ctlOutcome }
    let s3 := setFoldState s2 n .disabled
    match f.resetting with
    | none => s3
    | some u => complete u (.plain stSuccess) s3

/-- Every fold reset that can end does. -/
def foldResetsEnd (s : State) : State := forEach (List.range 16) foldResetEnd s

/-- Requests of a fold still outstanding, by their commands. -/
def foldRequesters (s : State) (n : Nat) : List Nat :=
  ((s.xlate.reqs.filter fun r => r.tag != 0 && tagFold r.tag == n).map fun r => r.uid) ++ (foldAt s n).unacked.map fun e => e.uid

/-- Step 3 ends: responses are awaited for the drain limit or 1 ms, whichever is shorter. -/
def responseLimit (n : Nat) (s : State) : State :=
  let f := foldAt s n
  if f.state = .resetting ∧ f.resetAt.toNat + min (1000 * s.faults.drainLimit.toNat) 1000000 ≤ (now s).toNat then
    abandonRequests (foldRequesters s n) s
  else s

/-- A fold reset that has not completed within 2 ms: detail 0xB1, then an instance reset (R425). -/
def foldResetLate (n : Nat) (s : State) : State :=
  let f := foldAt s n
  if f.state = .resetting ∧ f.resetAt.toNat + 2000000 ≤ (now s).toNat then
    doReset (raiseFault { cls := 3, detail := 0xB1, fold := some n } s)
  else s

/-! ### A unit reset that hangs (R425, R434) -/

/-- Folds of the suspects held on a unit. -/
def suspectFolds (s : State) (herd : Bool) (u : Nat) : List Nat :=
  ((s.cmds.filter (heldOn herd u)).map fun c => tagFold c.tag).dedup

/-- The physical unit that its reset found bad: the engine, or a core of the half-group, which one is a free choice. -/
def foundBad (herd : Bool) (u : Nat) (s : State) : Nat × State :=
  if herd then
    let (k, s1) := drawBelow 8 s
    (608 + 8 * u + k, s1)
  else (736 + enginePhys s u, s)

/-- UNIT_RESET_TIMEOUT: detail 0xB0, the unit is retired, and the fold of the unit, or of each suspect, is reset. The commands
that reset it end with a free status (log entry 43). -/
def unitLate (herd : Bool) (u : Nat) (s0 : State) : State :=
  if !unitResetting s0 herd u || (now s0).toNat < (unitResetAt s0 herd u).toNat + 50000 then s0
  else
    let s := raiseEngine 0xB0 (unitIdentity s0 herd u) 0 s0
    let ns := match unitOwner s herd u with
      | some n => [n]
      | none => suspectFolds s herd u
    let (bad, s1) := foundBad herd u s
    let (st, s2) := drawBits 8 s1
    let s3 := forEach (resetsOf s2 herd u) (fun c s => complete c.uid (.plain st) s) (endUnitReset herd u s2)
    let s4 := forEach (ns.filter (foldResets s3)) (fun n s => beginFoldReset n none s) s3
    endUnitReset herd u (retireUnit bad s4)

/-- DRAIN_UNIT_RESET: a unit whose work was abandoned at the drain limit, or whose gangs had not stopped 10 µs after it, is
reset, with detail 0xB4 (R422). -/
def drainReset (herd : Bool) (u : Nat) (s : State) : State :=
  if !unitAbandoned s herd u || (herd && decide ((now s).toNat < (unitResetAt s herd u).toNat + 10000)) then s
  else beginUnitReset herd u (raiseEngine 0xB4 (unitIdentity s herd u) 0 s)

/-! ### Drain limits (R422, R423) -/

/-- A deadline has passed. -/
def due (t : Option W64) (s : State) : Bool :=
  match t with
  | none => false
  | some u => decide (u.toNat ≤ (now s).toNat)

/-- The drain limit of a sluice runs out: what is outstanding under it ends with ABORTED_DRAIN. -/
def drainExpire (sl : Sluice) (s : State) : State :=
  match sl with
  | .context slot =>
    let x := ctxAt s slot
    if due x.drainUntil s then
      let tag := mkTag x.fold slot x.gen
      abortWork (cmdsWhere s fun c => c.tag == tag && c.q != 0) (modCtx s slot fun x => { x with drainUntil := none })
    else s
  | .hqi h =>
    if due (hqiAt s h).drainUntil s then
      let qs := queuesWhere s fun x => x.hqi == h && x.destroying
      abortWork (cmdsWhere s fun c => qs.contains c.q) (modHqi s h fun x => { x with drainUntil := none })
    else s
  | .fold n =>
    let f := foldAt s n
    if !due f.drainUntil s then s
    else if f.freezing.isSome then freezeExpire n s
    else
      abortWork (cmdsWhere s fun c => c.tag != 0 && tagFold c.tag == n) (modFold s n fun f => { f with drainUntil := none })
  | .whole =>
    if due s.faults.drainUntil s then
      abortWork (cmdsWhere s fun c => c.q != 0) { s with faults := { s.faults with drainUntil := none } }
    else s

/-! ### ALIVE_OUT, the watchdog, the collector (R418-R420) -/

/-- ALIVE_TOGGLE: a 128 µs mark. It changes level while it toggles, and toggles again once the collector is clear and no
instance sluice is closed. -/
def aliveMark (s : State) : State :=
  if !running s || decide (s.tb.cycle < s.pins.aliveAt + 12800) then s
  else
    let go := s.pins.toggling || (s.faults.collector == 0 && !s.faults.sluiceClosed)
    { s with pins := { s.pins with
      toggling := go, alive := if go then !s.pins.alive else s.pins.alive, aliveAt := s.tb.cycle } }

/-- Virmin runs, and must refresh the watchdog. -/
def virminRuns (s : State) : Bool := decide (3 ≤ s.boot.step.toNat) && s.boot.state != .failed

/-- DROVER_WATCHDOG_LAPSE: 10 ms without a refresh; the watchdog re-arms. -/
def watchdogLapse (s : State) : State :=
  if virminRuns s && decide (s.pins.watchdog + 1000000 ≤ s.tb.cycle) then
    raiseFault { cls := 6, detail := 0xA0 } { s with pins := { s.pins with watchdog := s.tb.cycle } }
  else s

/-- COLLECTOR_ACK: a write of the present word clears it, and acknowledges every latched event. -/
def collectorClear (v : W32) (s : State) : State :=
  if v = s.faults.collector then
    { s with faults := { s.faults with collector := 0, unacked := s.faults.unacked.filter fun u => !u.latched } }
  else s

def execAliveToggle (s : State) : Out := .next (aliveMark s)
def execDroverWatchdogLapse (s : State) : Out := .next (watchdogLapse s)
def execWatchdogRefresh (s : State) : Out := .next { s with pins := { s.pins with watchdog := s.tb.cycle } }
def execCollectorAck (v : W32) (s : State) : Out := .next (collectorClear v s)
def execVirminFailureReport (code : W64) (s : State) : Out :=
  .next (raiseFault { cls := 6, detail := 0xA1, address := code.toNat } s)

end Sys2Proof.Machine
end

