-- ==== Sys2Proof/Machine/Ports.lean ====
section
/-! DEFINITION. The ports: stack-port responses, credits and packets (R470-R473), completions of the host port, its timeouts,
link and vectors (R481-R483), the management port's MCTP control messages (R485, R486), and the test access port (R488,
R489). -/

namespace Sys2Proof.Machine

/-! ### Responses of the memories (R114, R473) -/

/-- The physical address of a request, by its class (R143, R251). -/
def reqAddress (s : State) (r : Req) : Nat :=
  match r.cls with
  | 0 => paOf s 1 r.address
  | 1 => paOf s 2 r.address
  | 3 => r.address
  | _ => paOf s 0 r.address

/-- A command that issued a request which failed ends with DATA_ERROR (R98, R141, R169, R473); the answer to a packet carries it. -/
def cmdFailed (uid : Nat) (s : State) : State :=
  match cmdAt s uid with
  | none => servingFail uid s
  | some c => stopCmd c stDataError trDataError s

/-- A request whose response reports an error: its class A record; the group that issued it traps at that instruction, any other
requester ends with DATA_ERROR (R98, R138, R141, R169, R170). An abandoned one only ends. -/
def reqFailed (r : Req) (s : State) : State :=
  if r.abandoned then s
  else
    let s1 := raiseData (if r.cls = 3 then 0x43 else 0x42) (reqAddress s r) r.master r.tag s
    match r.grp with
    | none => if r.uid = 0 then s1 else cmdFailed r.uid s1
    | some t => trapLate t r.pc r.master trDataError s1

/-- Whoever waited for the last response of a command's requests goes on. -/
def afterResponse (uid : Nat) (s : State) : State := rvSettle uid (requestDone uid s)

/-- MEMORY_RESPONSE: a request ends, good or with an error. -/
def memResponse (id : Nat) (err : Bool) (s : State) : State :=
  match s.xlate.reqs.find? fun r => r.id == id with
  | none => s
  | some r =>
    let s1 := endReq id s
    afterResponse r.uid (if err then reqFailed r s1 else s1)

/-! ### The stack port -/

/-- The transaction that a response answers. -/
def stackReqAt (s : State) (ch tag : Nat) (write : Bool) : Option StackReq :=
  s.stack.out.find? fun r => r.ch == ch && r.tag == tag && r.write == write

/-- The bytes of a failed write are undefined: free values stand there (R473). -/
def scrambleWrite (id : Nat) (s : State) : State :=
  match s.xlate.reqs.find? fun r => r.id == id with
  | none => s
  | some r =>
    let bs := (List.range r.bytes).map fun i => (Config.freeValue 8 (s.free + i) : Byte)
    memStore (if r.cls = 0 then 1 else 2) r.address bs { s with free := s.free + r.bytes }

/-- A response of the base die: status 0 is good; 1 an uncorrectable error; 2 an address outside the installed memory. One
that answers no transaction, or whose status is reserved, breaks the surroundings' duty (R471, R472). -/
def stackAnswer (ch tag : Nat) (write : Bool) (status : BitVec 3) (s : State) : Out :=
  match stackReqAt s ch tag write with
  | none => .fault (.breach "stack port: a response that answers no transaction (R472)")
  | some r =>
    if 2 < status.toNat then .fault (.breach "stack port: a reserved response status (R471)")
    else
      let s1 := { s with stack := { s.stack with out := s.stack.out.filter fun x => x != r } }
      .next (memResponse r.req (status != 0) (if write && status != 0 then scrambleWrite r.req s1 else s1))

/-- Send the oldest waiting transaction of a channel, if credits allow. -/
def stackNext (ch : Nat) (s : State) : State :=
  match s.stack.waiting.find? fun r => r.ch == ch with
  | none => s
  | some r =>
    if stackMay s ch then
      stackSend r { s with stack := { s.stack with waiting := s.stack.waiting.filter fun x => x != r } }
    else s

/-- STACK_CREDIT_RETURN: a channel's credits rise, and what waits for them, transactions and packets, is sent in its order (R472). -/
def stackCredit (ch count : Nat) (s : State) : State :=
  let s1 := { s with stack := { s.stack with credits := Tab.set 0 s.stack.credits ch (Tab.get 0 s.stack.credits ch + count) } }
  packetsCross ((List.range s1.stack.waiting.length).foldl (fun s _ => stackNext ch s) s1)

/-- A packet of another instance of the module, in its virtual channel (R349, R472): for this instance, or to go out on its exit
port. -/
def execStackPacket (src : StackOrigin) (k : Packet) (s : State) : Out :=
  need (decide (src.vc < 34)) "STACK_PACKET" (.next (routePacket src.vc k s))

/-! ### The host port -/

/-- The link's state and figures; what waited at the port goes when the link comes up (R483). -/
def linkChange (up : Bool) (speed : BitVec 3) (width : BitVec 5) (s : State) : State :=
  let v : W16 := place (if up then 1 else 0) 0 1 ||| place speed.toNat 1 3 ||| place width.toNat 4 5
  let s1 := { s with hostPort := { s.hostPort with link := v } }
  if up then hostFlush s1 else s1

/-- HP_MSIX_ACK: the controller has accepted the vector presented. -/
def execHpMsixAck (s : State) : Out :=
  .next { s with hostPort := { s.hostPort with vectors := s.hostPort.vectors.drop 1 } }

/-- The outstanding request of a tag. -/
def hostReqAt (s : State) (tag : Nat) : Option HostReq := s.hostPort.out.find? fun r => r.tag == tag

def dropHostReq (tag : Nat) (s : State) : State :=
  { s with hostPort := { s.hostPort with out := s.hostPort.out.filter fun r => r.tag != tag } }

/-- A FENCE_SIGNAL on host memory after its completion (R185, R482). -/
def fenceCompleted (uid : Nat) (status : HostStatus) (s : State) : State :=
  match cmdAt s uid with
  | none => s
  | some c =>
    let a := (operand0 c.desc).toNat
    match status with
    | .good =>
      (match reach 8 c.tag a .write s with
        | (.loc mem off, s1) =>
          let (st, s2) := signalAt mem off (operand1 c.desc) s1
          complete uid (.plain st) s2
        | (_, s1) => complete uid (.plain stTranslation) s1)
    | .unsupported => complete uid (.plain stRange) s
    | _ => raiseData 0x43 a hostMaster c.tag (complete uid (.plain stDataError) s)

/-- A FENCE packet on host memory after its completion: its step, and the acknowledgement (R185, R482). -/
def packetCompleted (k : Packet) (status : HostStatus) (s : State) : State :=
  let answer' := fun (st : Byte) (s : State) => sendReply k 9 st (ackBytes none) (recordSeq k st 0 s)
  match status with
  | .good =>
    (match remoteSpot k .write s with
      | (some (mem, off), _, s1) =>
        let (st, s2) := signalAt mem off (BitVec.ofNat 64 (ofLe k.payload)) s1
        answer' st s2
      | (none, _, s1) => answer' stTranslation s1)
  | .unsupported => answer' stRange s
  | _ => answer' stDataError (raiseData 0x43 k.address.toNat niMaster k.destTag s)

/-- One READ of 64 bytes per descriptor has come: the batch is accepted in order; one bad stops at its own (R177, R512). -/
def batchIn (q : Nat) (s : State) : State :=
  (List.range (queueAt s q).batch).foldl (fun s _ => acceptOne q (ringDesc s q) s) s

/-- How a host request ends. -/
def hostDone (r : HostReq) (status : HostStatus) (s : State) : State :=
  match r.use with
  | .batch q => if status = .good then modQueue (batchIn q s) q fun x => { x with batch := 0 } else readFailed q s
  | .fence uid => fenceCompleted uid status s
  | .packet k => packetCompleted k status s

/-- HOST_COMPLETION: a completion of no outstanding request comes late and is discarded; an error is counted (R482). -/
def hostComplete (tag : Nat) (status : HostStatus) (s : State) : State :=
  match hostReqAt s tag with
  | none => s
  | some r =>
    let s1 := dropHostReq tag s
    let s2 := if status = .good then s1
      else { s1 with hostPort := { s1.hostPort with cplErrors := s1.hostPort.cplErrors + 1 } }
    hostDone r status s2

/-- HOST_COMPLETION_TIMEOUT: 50 ms after issue, as an error; the tag rests for 100 ms (R482). -/
def hostLate (tag : Nat) (s : State) : State :=
  match hostReqAt s tag with
  | none => s
  | some r =>
    if s.tb.cycle < r.since + 5000000 then s
    else
      let s1 := dropHostReq tag s
      hostDone r .abort { s1 with hostPort := { s1.hostPort with
        cplTimeouts := s1.hostPort.cplTimeouts + 1, heldTags := s1.hostPort.heldTags ++ [(tag, s.tb.cycle + 10000000)] } }

/-! ### The management port (R485, R486) -/

/-- The port answers from the end of step 1. -/
def mgmtOn (s : State) : Bool := decide (2 ≤ s.boot.step.toNat) && !s.pins.resetLow && !s.boot.resetting

/-- A message that is not accepted is discarded and counted. -/
def mgmtDiscard (s : State) : State := { s with mgmt := { s.mgmt with discarded := s.mgmt.discarded + 1 } }

/-- A control message is for this endpoint: its endpoint ID, or the null one. -/
def eidMine (s : State) (dst : Byte) : Bool := dst == 0 || (s.mgmt.eid != 0 && dst == s.mgmt.eid)

/-- Answer a control message: type 0x00, its command code, completion code 0x00, data (DMTF MCTP; log entry 54). -/
def mgmtControl (dst code : Byte) (data : List Byte) (s : State) : State :=
  if !mgmtOn s then s else if eidMine s dst then mgmtSend ([0, code, 0] ++ data) s else mgmtDiscard s

/-- ENTDAA gives a dynamic address to a target that has none. -/
def execEntdaa (addr : BitVec 7) (s : State) : Out :=
  .next (if mgmtOn s && s.mgmt.dynAddr == 0 then
    { s with mgmt := { s.mgmt with dynAddr := BitVec.ofNat 8 addr.toNat } } else s)

/-- Set Endpoint ID: 0x00 and 0xFF are no endpoint IDs and are answered with completion code 0x02. -/
def setEid (src eid : Byte) (s : State) : State :=
  if !mgmtOn s then s
  else if eid = 0 ∨ eid = 0xFF then mgmtSend [0, 1, 2, 0, s.mgmt.eid, 0] s
  else mgmtSend [0, 1, 0, 0, eid, 0] { s with mgmt := { s.mgmt with eid := eid, busOwner := src } }

def execSetEndpointId (src eid : Byte) (s : State) : Out := .next (setEid src eid s)
def execGetEndpointId (_src dst : Byte) (s : State) : Out := .next (mgmtControl dst 2 [s.mgmt.eid, 0, 0] s)
def execGetEndpointUuid (_src dst : Byte) (s : State) : Out :=
  .next (mgmtControl dst 3 (bytesOf 16 Config.endpointUuid) s)
def execGetMctpVersionSupport (_src dst mtype : Byte) (s : State) : Out :=
  .next (mgmtControl dst 4 (Config.mctpVersions mtype) s)
/-- The message types beside MCTP control: SPDM, secured messages, vendor messages. -/
def execGetMessageTypeSupport (_src dst : Byte) (s : State) : Out := .next (mgmtControl dst 5 [3, 0x05, 0x06, 0x7E] s)

/-- MCTP_RESPONSE_EXPIRY: messages not read within 100 ms are discarded and counted. -/
def responsesExpire (s : State) : State :=
  let old := s.mgmt.responses.filter fun r => decide (r.1 + 10000000 ≤ s.tb.cycle)
  { s with mgmt := { s.mgmt with
      responses := s.mgmt.responses.filter fun r => decide (s.tb.cycle < r.1 + 10000000),
      discarded := s.mgmt.discarded + BitVec.ofNat 32 old.length } }

def execMctpResponseExpiry (s : State) : Out := .next (responsesExpire s)

/-! ### The test access port (R488, R489) -/

/-- Device code that IDCODE reads. -/
def idCode : W32 := 0x03200A5B

/-- BYPASS: one bit. -/
def execBypass (tdi : Bool) (s : State) : Out :=
  .next { s with dbg := { s.dbg with ir := 0xFF, bypassBit := tdi, driving := false } }
def execIdcode (s : State) : Out := .next { s with dbg := { s.dbg with ir := 0x01, driving := false } }
/-- SAMPLE/PRELOAD: the boundary register takes the pattern shifted in. -/
def execSamplePreload (v : W64) (s : State) : Out :=
  .next { s with dbg := { s.dbg with ir := 0x02, boundary := v, driving := false } }
/-- EXTEST drives the covered pins in FAILED and up to step 2; otherwise it acts as BYPASS. -/
def execExtest (v : W64) (s : State) : Out :=
  if s.boot.state = .failed ∨ s.boot.step.toNat ≤ 2 then
    .next { s with dbg := { s.dbg with ir := 0x00, boundary := v, driving := true } }
  else .next { s with dbg := { s.dbg with ir := 0x00, bypassBit := bitAt v 0, driving := false } }

end Sys2Proof.Machine
end

