-- ==== Sys2Proof/Machine/Dict.lean ====
section
/-! DEFINITION. The object dictionary, read side (R490-R497): every entry with its type, its right and the value it reads. -/

namespace Sys2Proof.Machine

/-- Access rights (R12). -/
inductive Right where
  | ro | rw | rwl | wo | const
  deriving DecidableEq, Repr

/-- An entry as it stands: bytes it holds, whether it is a scalar or a BOOL, its right, and what a read returns. -/
structure Entry where
  size : Nat
  scalar : Bool
  isBool : Bool
  right : Right
  value : List Byte
  deriving DecidableEq, Repr

def scalarEntry (n : Nat) (r : Right) (v : Nat) : Option Entry :=
  some { size := n, scalar := true, isBool := false, right := r, value := leBytes n v }
def u8 (r : Right) (v : Byte) : Option Entry := scalarEntry 1 r v.toNat
def u16 (r : Right) (v : W16) : Option Entry := scalarEntry 2 r v.toNat
def u32 (r : Right) (v : W32) : Option Entry := scalarEntry 4 r v.toNat
def u64 (r : Right) (v : W64) : Option Entry := scalarEntry 8 r v.toNat
def boolEntry (r : Right) (b : Bool) : Option Entry :=
  some { size := 1, scalar := true, isBool := true, right := r, value := [boolByte b] }
/-- OCTETS(n) and TEXT(n), zero padded. -/
def octets (n : Nat) (r : Right) (bs : List Byte) : Option Entry :=
  some { size := n, scalar := false, isBool := false, right := r, value := pad n bs }
/-- Subindex 0: the highest subindex. -/
def countEntry (n : Nat) : Option Entry := scalarEntry 1 .const n
/-- A range of subindices. -/
def within (lo hi sub : Nat) : Bool := decide (lo ≤ sub) && decide (sub ≤ hi)

/-! ### Device, state, lock, version, identity, mailboxes, management port, licences -/

def instCode : InstState → Nat
  | .booting => 0 | .ready => 1 | .degraded => 2 | .failed => 3

def entry1000 (sub : Nat) : Option Entry :=
  match sub with
  | 0 => countEntry 3
  | 1 => u32 .const 0x3200
  | 2 => octets 16 .const (textBytes "Holtofer 3.2")
  | 3 => octets 16 .const (textBytes "Dravkos")
  | _ => none

def entry1001 (b : Boot) (sub : Nat) : Option Entry :=
  match sub with
  | 0 => countEntry 4
  | 1 => scalarEntry 1 .ro (instCode b.state)
  | 2 => u8 .ro b.degradedCause
  | 3 => u8 .ro b.failCause
  | 4 => u8 .ro b.hold
  | _ => none

def entry1002 (b : Boot) (sub : Nat) : Option Entry :=
  match sub with
  | 0 => countEntry 2
  | 1 => u8 .wo 0
  | 2 => boolEntry .ro b.locked
  | _ => none

def entry1008 (sub : Nat) : Option Entry :=
  match sub with
  | 0 => countEntry 5
  | 1 => u8 .const 3
  | 2 => u8 .const 2
  | 3 => u8 .const 0
  | 4 => u8 .const 1
  | 5 => u8 .const 2
  | _ => none

def entry1010 (i : Ident) (sub : Nat) : Option Entry :=
  match sub with
  | 0 => countEntry 9
  | 1 => u8 .ro i.idState
  | 2 => octets 48 .ro i.instanceIdentity
  | 3 => octets 96 .ro i.deviceIdPub
  | 4 => octets 96 .ro i.aliasPub
  | 5 => octets 48 .ro i.measurement
  | 6 => octets 16 .ro i.deviceSerial
  | 7 => octets 1024 .ro i.deviceCertDer
  | 8 => octets 1024 .ro i.aliasCertDer
  | 9 => octets 48 .const Config.rootHash
  | _ => none

def entry1020 (m : Mailboxes) (sub : Nat) : Option Entry :=
  match sub with
  | 0 => countEntry 0x4F
  | 1 => boolEntry .ro m.locked
  | 2 => u8 .ro m.invalid
  | 3 => u32 .ro m.foreign
  | _ => if within 0x10 0x4F sub then u32 .ro (Tab.get 0 m.bindings (sub - 0x10)) else none

/-- The provisional ID (R485). -/
def provisionalId (s : State) : Nat :=
  Config.mipiMfr.toNat % 2 ^ 15 * 2 ^ 33 + 2 ^ 32 + ofLe (s.ident.deviceSerial.take 4)

def entry1100 (s : State) (sub : Nat) : Option Entry :=
  match sub with
  | 0 => countEntry 8
  | 1 => u8 .ro s.mgmt.dynAddr
  | 2 => u8 .ro s.mgmt.eid
  | 3 => octets 6 .ro (leBytes 6 (provisionalId s))
  | 4 => u16 .const Config.mipiMfr
  | 5 => u32 .const Config.vendorId
  | 6 => u32 .rwl s.mgmt.node
  | 7 => u32 .ro s.mgmt.discarded
  | 8 => u32 .ro s.mgmt.ibiCount
  | _ => none

def entry1800 (i : Ident) (sub : Nat) : Option Entry :=
  match sub with
  | 0 => countEntry 0x1F
  | 1 => u64 .ro i.features
  | 2 => u8 .ro i.accepted
  | 3 => octets 48 .const Config.licenceRootHash
  | _ => if within 0x10 0x1F sub then u8 .ro (Tab.get 0 i.status (sub - 0x10)) else none

/-! ### Logical map, translation, capacities (R144, R254, R400) -/

/-- The logical map has been built (step 7 of R392). -/
def mapBuilt (s : State) : Bool := decide (8 ≤ s.boot.step.toNat)

def entry2000 (s : State) (sub : Nat) : Option Entry :=
  let x := s.xlate
  let g := s.weirG
  match sub with
  | 0x00 => countEntry 0x3C
  | 0x01 => scalarEntry 1 .ro s.lmap.licensed
  | 0x02 => scalarEntry 1 .ro s.lmap.minimum
  | 0x03 => scalarEntry 1 .ro (if mapBuilt s then ((List.range 32).filter (engineUsable s)).length else 0)
  | 0x04 => scalarEntry 1 .ro (if mapBuilt s then (spares s).length else 0)
  | 0x05 => scalarEntry 1 .ro (if mapBuilt s then s.lmap.licensed - boundSlots s else 0)
  | 0x06 => octets 64 .ro ((List.range 32).flatMap fun e => leBytes 2 (mapOf s e).toNat)
  | 0x07 => octets 96 .ro (bytesOf 96 s.lmap.retired)
  | 0x08 => u16 .rw s.lmap.retireVector
  | 0x09 => u32 .ro s.lmap.retirements
  | 0x20 => u64 .rwl x.localBase
  | 0x21 => scalarEntry 8 .ro x.farSize
  | 0x22 => u8 .rwl x.ptLevels
  | 0x23 => u8 .rwl (Tab.get 0xFF x.pteBits 0x23)
  | 0x24 => u8 .rwl (Tab.get 0xFF x.pteBits 0x24)
  | 0x25 => u8 .rwl (Tab.get 0xFF x.pteBits 0x25)
  | 0x26 => u8 .rwl (Tab.get 0xFF x.pteBits 0x26)
  | 0x27 => scalarEntry 2 .ro x.pending.length
  | 0x28 => u32 .ro x.faultParked
  | 0x30 => u16 .rw g.derate
  | 0x31 => u32 .const 13107200
  | 0x32 => u32 .ro g.farCap
  | 0x33 => u32 .ro g.farCapNow
  | 0x34 => u32 .const 200000
  | 0x35 => u32 .ro g.linkCapNow0
  | 0x36 => u32 .ro g.linkCapNow1
  | 0x37 => u32 .rwl g.hostCap
  | 0x38 => u32 .rw g.hostCapNow
  | 0x39 => u16 .rwl g.cacheUnits
  | 0x3A => u32 .ro g.capacityEvents
  | 0x3B => u16 .rw g.capacityVector
  | 0x3C => u32 .ro g.stackCapNow
  | _ => none

/-! ### Folds and weirs (R216, R225, R255) -/

/-- 0x2100 + n. commit_epoch reads the armed epoch. -/
def entryFold (f : Fold) (sub : Nat) : Option Entry :=
  let r := f.staged
  match sub with
  | 0x00 => countEntry 0xBF
  | 0x01 => scalarEntry 1 .ro (foldCode f.state)
  | 0x02 => u8 .wo 0
  | 0x03 => u8 .ro f.ctlOutcome
  | 0x04 => u64 .rw ((f.armed.or f.deleting).getD 0)
  | 0x05 => u32 .ro f.serial
  | 0x06 => u8 .rw r.role
  | 0x07 => boolEntry .rw r.sealed
  | 0x08 => boolEntry .rw r.padded
  | 0x09 => boolEntry .rw r.keyed
  | 0x0A => u8 .ro f.keySlot
  | 0x0B => u32 .rw r.engines
  | 0x0C => u16 .rw r.halfGroups
  | 0x0D => octets 64 .rw (bytesOf 64 r.tarnUnits)
  | 0x16 => u16 .rw r.ctxQuota
  | 0x17 => u16 .rw r.queueQuota
  | 0x18 => u16 .rw r.semQuota
  | 0x19 => u16 .rw r.waitQuota
  | 0x1A => boolEntry .ro f.scrubbed
  | 0x1B => u64 .ro f.frozenTime
  | 0x30 => u16 .ro f.sched.slowLast
  | 0x31 => scalarEntry 2 .ro (slowAvg f)
  | 0x32 => u16 .ro f.sched.slowLcLast
  | 0x33 => u32 .ro f.sched.boosts
  | 0x34 => u32 .ro f.sched.hits
  | 0x35 => u32 .ro f.sched.evictions
  | 0x36 => u32 .ro f.sched.parks
  | _ =>
    if within 0x0E 0x15 sub then u32 .rw (bitsAt r.pondUnits (32 * (sub - 0x0E)) 32)
    else if within 0x20 0x2F sub then u32 .rw (Tab.get 0 r.peers (sub - 0x20))
    else if within 0x40 0x7F sub then octets 32 .rw (bytesOf 32 (homeOf f (sub - 0x40)))
    else if within 0x80 0xBF sub then octets 32 .ro (match f.sched.models[sub - 0x80]? with
      | some m => bytesOf 32 (modelEntry m)
      | none => [])
    else none

/-- One class of 0x2200 + n. -/
def entryWeir (f : Fold) (c off : Nat) : Option Entry :=
  let st := Tab.get { guarantee := 0, ceiling := 0, target := 0, rank := 15, prio := 0 } f.staged.weirs c
  let w := weirOf f c
  let m := meterOf f c
  match off with
  | 0x0 => u32 .rw st.guarantee
  | 0x1 => u32 .rw st.ceiling
  | 0x2 => u32 .rw st.target
  | 0x3 => u8 .rw st.rank
  | 0x4 => u8 .rw st.prio
  | 0x5 => u32 .ro w.guarantee
  | 0x6 => u32 .ro (BitVec.ofNat 32 (ceilingOf f c))
  | 0x7 => u32 .ro w.target
  | 0x8 => u8 .ro w.rank
  | 0x9 => u8 .ro w.prio
  | 0xA => boolEntry .ro m.honoured
  | 0xB => scalarEntry 4 .ro m.ewma
  | 0xC => u32 .ro m.misses
  | 0xD => scalarEntry 8 .ro (((keysOf c).map fun k => (meterOf f k).bytesLast.toNat).sum)
  | 0xE => if c = 2 then boolEntry .ro m.honoured1 else none
  | _ => none

def entryWeirs (f : Fold) (sub : Nat) : Option Entry :=
  match sub with
  | 0 => countEntry 0x4F
  | 1 => u16 .rw f.staged.cacheWays
  | 2 => u16 .ro f.live.cacheWays
  | 3 => u16 .rw f.missVector
  | _ => if within 0x10 0x4F sub then entryWeir f (sub / 16 - 1) (sub % 16) else none

/-! ### Grazing plan, flock, reservoir, twin (R198, R277, R304, R314) -/

def entry2300 (g : Graze) (sub : Nat) : Option Entry :=
  match sub with
  | 0 => countEntry 0xBF
  | 1 => scalarEntry 1 .ro g.activeBank
  | 2 => u64 .rw g.switchEpoch
  | 3 => u8 .rw g.count0
  | 4 => u8 .rw g.count1
  | 5 => u32 .ro g.overruns
  | 6 => u32 .ro g.refusals
  | _ =>
    if within 0x40 0x7F sub then u64 .rw (Tab.get 0 g.bank0 (sub - 0x40))
    else if within 0x80 0xBF sub then u64 .rw (Tab.get 0 g.bank1 (sub - 0x80))
    else none

/-- A membership record (R278). -/
def memberWord (m : Member) : BitVec 512 :=
  place m.admitFlock.toNat 480 32 ||| place m.admitBell.toNat 448 32 ||| place m.admitParent.toNat 416 32 |||
    place m.admitParentBell.toNat 384 32 ||| place m.flockId.toNat 352 32 ||| place m.version.toNat 320 32 |||
    place m.bellwether.toNat 288 32 ||| place m.replica1.toNat 256 32 ||| place m.replica2.toNat 224 32 |||
    place m.parentVersion.toNat 192 32 ||| place m.appliedEpoch.toNat 128 64 ||| place m.memberNo.toNat 112 16 |||
    place m.lastMember.toNat 96 16 ||| place m.mapUnit.toNat 87 9 ||| place (if m.mapValid then 1 else 0) 86 1 |||
    place m.state 83 3 ||| place m.lead 81 2 ||| place (if m.reproducible then 1 else 0) 80 1 ||| place m.vector.toNat 64 16

def entry2400 (s : State) (sub : Nat) : Option Entry :=
  let f := s.flock
  match sub with
  | 0x0 => countEntry 0x1F
  | 0x1 => u32 .rw f.collTimeout
  | 0x2 => u64 .rw f.proposeAddr
  | 0x3 => u8 .rw f.proposeFold
  | 0x4 => u8 .wo 0
  | 0x5 => u8 .ro f.outcome
  | 0x6 => u64 .ro f.epoch
  | 0x7 => u32 .ro f.excluded
  | 0x8 => u32 .ro f.msgsRefused
  | 0x9 => u32 .ro f.staleRefused
  | 0xA => u32 .ro f.peerTimeouts
  | _ => if within 0x10 0x1F sub then octets 64 .rw (bytesOf 64 (memberWord (foldAt s (sub - 0x10)).member)) else none

/-- A reservoir area record (R314). -/
def areaWord (r : Resv) : BitVec 256 :=
  place r.pageBase.toNat 192 64 ||| place r.indexBase.toNat 128 64 ||| place r.slotCount 104 24 |||
    place (if r.valid then 1 else 0) 0 1

/-- A reservoir counter record (R314). -/
def statsWord (r : Resv) : BitVec 256 :=
  let com := (r.slots.filter fun p => p.2.committed).length
  place (r.slotCount - r.slots.length) 224 32 ||| place (r.slots.length - com) 192 32 ||| place com 160 32 |||
    place r.evictions.toNat 128 32 ||| place r.hits.toNat 96 32 ||| place r.misses.toNat 64 32 |||
    place r.expired.toNat 32 32 ||| place r.dropped.toNat 0 32

def entry2500 (s : State) (sub : Nat) : Option Entry :=
  let g := s.resvG
  match sub with
  | 0 => countEntry 0x2F
  | 1 => u8 .rw g.leaseEpochs
  | 2 => u16 .rw g.handoverEpochs
  | 3 => u16 .rw g.lowWater
  | 4 => u16 .rw g.shortVector
  | 5 => u32 .ro g.disclaims
  | 6 => u32 .ro g.resolves
  | _ =>
    if within 0x10 0x1F sub then octets 32 .rw (bytesOf 32 (areaWord (foldAt s (sub - 0x10)).resv))
    else if within 0x20 0x2F sub then octets 32 .ro (bytesOf 32 (statsWord (foldAt s (sub - 0x20)).resv))
    else none

def entry2600 (t : Twin) (sub : Nat) : Option Entry :=
  match sub with
  | 0x0 => countEntry 0x0E
  | 0x1 => u8 .rw t.fold
  | 0x2 => u32 .rw t.partner
  | 0x3 => u16 .rw t.tag
  | 0x4 => u8 .rw t.mode
  | 0x5 => u64 .rw t.startEpoch
  | 0x6 => u8 .ro t.state
  | 0x7 => u8 .rw t.lostEpochs
  | 0x8 => u16 .rw t.vector
  | 0x9 => u64 .ro t.compared
  | 0xA => u32 .ro t.mismatches
  | 0xB => scalarEntry 2 .ro t.own.length
  | 0xC => octets 32 .ro (bytesOf 32 t.lastMismatch)
  | 0xD => u32 .ro t.holds
  | 0xE => u32 .ro t.late
  | _ => none

/-! ### Timebase and journal (R368, R375) -/

def tbCode : TbState → Nat
  | .unset => 0 | .locked => 1 | .freeRun => 2

def entry3000 (t : Timebase) (sub : Nat) : Option Entry :=
  match sub with
  | 0x0 => countEntry 0x0F
  | 0x1 => scalarEntry 1 .ro (tbCode t.state)
  | 0x2 => u64 .ro t.time
  | 0x3 => u64 .ro t.epoch
  | 0x4 => u32 .ro t.len
  | 0x5 => u32 .rw t.lenNext
  | 0x6 => u64 .rw t.lenSwitch
  | 0x7 => u64 .ro t.lastBoundary
  | 0x8 => u32 .ro t.slips
  | 0x9 => u8 .ro t.consecutive
  | 0xA => u32 .ro t.freeRunEntries
  | 0xB => u32 .ro t.skipped
  | 0xC => u32 .ro t.frameErrors
  | 0xD => u32 .ro t.lastOffset
  | 0xE => u32 .ro (BitVec.ofInt 32 t.slew)
  | 0xF => u16 .rw t.vector
  | _ => none

def entry3100 (j : Journal) (sub : Nat) : Option Entry :=
  match sub with
  | 0 => countEntry 9
  | 1 => u8 .wo 0
  | 2 => scalarEntry 1 .ro (if j.enabled then 1 else 0)
  | 3 => u64 .rw j.base
  | 4 => u32 .rw j.entries
  | 5 => u32 .ro j.fullHolds
  | 6 => u32 .ro j.bufferHolds
  | 7 => scalarEntry 2 .ro j.buffer.length
  | 8 => u16 .rw j.halfVector
  | 9 => u32 .ro j.unjournalled
  | _ => none

/-! ### Ports (R358, R474, R477) -/

/-- 0x4000 + p; the instance-wide entries lie in 0x4000 only. -/
def entryPort (s : State) (p sub : Nat) : Option Entry :=
  let x := portAt s p
  match sub with
  | 0x00 => countEntry 0x40
  | 0x01 => u8 .ro (portState s p)
  | 0x02 => u8 .wo 0
  | 0x03 => u32 .ro x.partner
  | 0x04 => u8 .ro x.lanes
  | 0x05 => u32 .ro x.keyEpoch
  | 0x06 => u64 .rw x.rekeyFlits
  | 0x07 => octets 512 .rw x.saved
  | 0x08 => u32 .ro x.replays
  | 0x09 => u32 .ro x.tagFailures
  | 0x0A => u64 .ro x.fecCorrected
  | 0x0B => u32 .ro x.fecUncorrected
  | 0x0C => u32 .rw x.resendUs
  | 0x0D => if p = 0 then u32 .ro s.net.windowsBusy else none
  | 0x0E => if p = 0 then u32 .ro s.net.duplicates else none
  | 0x0F => u8 .rw x.ttl
  | 0x10 => u16 .rw x.downVector
  | 0x40 => if p = 0 then octets 16384 .rw (memRead s.net.route 0 16384) else none
  | _ => if within 0x20 0x3F sub then u16 .rwl (Tab.get 496 x.credits (sub - 0x20)) else none

def entry4100 (x : Stack) (sub : Nat) : Option Entry :=
  match sub with
  | 0 => countEntry 7
  | 1 => u8 .ro x.state
  | 2 => octets 8 .ro (bytesOf 8 x.channelsUp)
  | 3 => u64 .ro x.corrected
  | 4 => u32 .ro x.uncorrected
  | 5 => u16 .ro x.repaired
  | 7 => octets 512 .rw x.settings
  | _ => none

def entry4200 (s : State) (sub : Nat) : Option Entry :=
  let h := s.hostPort
  match sub with
  | 0x00 => countEntry 0x31
  | 0x01 => u16 .ro h.link
  | 0x02 => u16 .rw h.maxPayload
  | 0x03 => u16 .rw h.maxRead
  | 0x04 => boolEntry .rw h.roEnable
  | 0x05 => boolEntry .rwl h.atomicOk
  | 0x06 => u32 .ro h.cplTimeouts
  | 0x07 => u32 .ro h.cplErrors
  | 0x08 => u32 .ro h.badTarget
  | 0x09 => u16 .rwl h.msixVectors
  | 0x0A => u32 .ro h.vectorsDropped
  | 0x20 => octets 64 .wo []
  | 0x21 => u32 .ro h.outcome
  | 0x30 => octets 1024 .ro ((List.range 256).flatMap fun i => leBytes 4 (hqiAt s i).spoof.toNat)
  | 0x31 => octets 1024 .ro ((List.range 256).flatMap fun i => leBytes 4 (hqiAt s i).doorbellBad.toNat)
  | _ => none

/-! ### Power, thermal, faults, gauges, bring-up, debug (R268, R269, R384, R390, R437) -/

def entry5000 (p : Power) (sub : Nat) : Option Entry :=
  match sub with
  | 0 => countEntry 0x1F
  | 1 => u16 .rw p.powerLimit
  | 2 => octets 16 .ro (bytesOf 16 p.domainsOn)
  | 3 => u32 .ro p.domainFailures
  | 4 => u32 .ro p.brownouts
  | 5 => u16 .rw p.warnVector
  | 6 => u16 .rw p.hysteresis
  | 7 => u32 .ro p.pwrWarnEvents
  | _ =>
    if within 0x10 0x17 sub then u16 .rw (Tab.get 0 p.warn (sub - 0x10))
    else if within 0x18 0x1F sub then u16 .rw (Tab.get 0 p.reset (sub - 0x18))
    else none

def entry5100 (p : Power) (sub : Nat) : Option Entry :=
  match sub with
  | 0 => countEntry 7
  | 1 => u16 .rw p.throttle
  | 2 => u16 .rw p.critical
  | 3 => u16 .rwl p.shutdown
  | 4 => u16 .ro p.tNow
  | 5 => u32 .ro p.throttleEvents
  | 6 => u32 .ro p.criticalEvents
  | 7 => u16 .rw p.thermalVector
  | _ => none

/-- Tasks held under R427. -/
def suspectCount (s : State) : Nat :=
  (s.cmds.filter fun c => match c.phase with | .held .. => true | .rerun .. => true | _ => false).length

def entry6000 (s : State) (sub : Nat) : Option Entry :=
  let f := s.faults
  match sub with
  | 0x00 => countEntry 0x30
  | 0x01 => u32 .ro f.collector
  | 0x02 => u32 .wo 0
  | 0x03 => u8 .wo 0
  | 0x04 => u32 .rw f.drainLimit
  | 0x05 => u32 .ro f.lost
  | 0x06 => scalarEntry 1 .ro f.buffer.length
  | 0x07 => scalarEntry 1 .ro ((if s.pins.toggling then 1 else 0) + (if f.sluiceClosed then 2 else 0) +
      (if s.pins.pwrCycReq then 4 else 0))
  | 0x08 => scalarEntry 2 .ro (suspectCount s)
  | 0x30 => octets 96 .ro (bytesOf 96 (unitStatus s))
  | _ =>
    if within 0x10 0x17 sub then u8 .rw (Tab.get 0 f.base (sub - 0x10))
    else if within 0x18 0x1F sub then u8 .rw (Tab.get 0 f.cap (sub - 0x18))
    else if within 0x20 0x27 sub then u16 .rw (Tab.get 0xFFFF f.vectors (sub - 0x20))
    else if within 0x28 0x2F sub then u32 .ro (Tab.get 0 f.counts (sub - 0x28))
    else none

/-- A gauge record (R268). -/
def gaugeBytes (g : Gauge) : List Byte :=
  leBytes 4 g.min.toNat ++ leBytes 4 g.max.toNat ++ leBytes 8 g.count.toNat ++
    (List.range 32).flatMap fun b => leBytes 4 (Tab.get 0 g.bins b).toNat

def entry6100 (s : State) (sub : Nat) : Option Entry :=
  let g := s.gauges
  match sub with
  | 0x00 => countEntry 0xCF
  | 0x01 => u32 .wo 0
  | 0x02 => u32 .ro g.clockChanges
  | 0x03 => u64 .ro g.correctable
  | 0x10 => octets 144 .ro (gaugeBytes g.clkArr)
  | 0x11 => octets 144 .ro (gaugeBytes g.clkHerd)
  | 0x12 => octets 144 .ro (gaugeBytes g.power)
  | 0x13 => octets 144 .ro (gaugeBytes g.temp)
  | _ =>
    if within 0x14 0x1B sub then octets 144 .ro (gaugeBytes (Tab.get Gauge.reset g.rails (sub - 0x14)))
    else if within 0x40 0xBF sub then octets 144 .ro (gaugeBytes (Tab.get Gauge.reset g.folds (sub - 0x40)))
    else if within 0xC0 0xCF sub then u16 .ro (foldAt s (sub - 0xC0)).stmt.ceilingRatio
    else none

def entry7000 (b : Boot) (sub : Nat) : Option Entry :=
  match sub with
  | 0x0 => countEntry 0x0E
  | 0x1 => u8 .rw b.source
  | 0x2 => u8 .ro b.step
  | 0x4 => u64 .rw b.bundleAddr
  | 0x5 => u32 .rw b.bundleLen
  | 0x6 => octets 256 .wo []
  | 0x7 => u8 .wo 0
  | 0x8 => octets 96 .ro (bytesOf 96 b.fuseMap)
  | 0x9 => octets 96 .ro (bytesOf 96 b.testFail)
  | 0xA => u16 .ro b.discrepancies
  | 0xB => u8 .ro b.compat
  | 0xC => u8 .ro b.topoAgreed
  | 0xD => u32 .ro b.virminVersion
  | 0xE => u64 .ro b.readyTime
  | _ => none

/-- A dump area: base, length, next offset (R428). -/
def dumpBytes (f : Fold) : List Byte := leBytes 4 f.dumpNext.toNat ++ leBytes 4 f.dumpLen.toNat ++ leBytes 8 f.dumpBase.toNat

def entry7100 (s : State) (sub : Nat) : Option Entry :=
  match sub with
  | 0 => countEntry 0x1F
  | 1 => boolEntry .rw s.dbg.enable
  | 2 => u32 .ro s.dbg.accesses
  | _ => if within 0x10 0x1F sub then octets 16 .rw (dumpBytes (foldAt s (sub - 0x10))) else none

/-! ### The index map (R497) -/

/-- The entry at an index and subindex; none where the map holds nothing. -/
def dictEntry (s : State) (index sub : Nat) : Option Entry :=
  if within 0x2100 0x210F index then entryFold (foldAt s (index - 0x2100)) sub
  else if within 0x2200 0x220F index then entryWeirs (foldAt s (index - 0x2200)) sub
  else
    match index with
    | 0x1000 => entry1000 sub
    | 0x1001 => entry1001 s.boot sub
    | 0x1002 => entry1002 s.boot sub
    | 0x1008 => entry1008 sub
    | 0x1010 => entry1010 s.ident sub
    | 0x1020 => entry1020 s.mbx sub
    | 0x1100 => entry1100 s sub
    | 0x1800 => entry1800 s.ident sub
    | 0x2000 => entry2000 s sub
    | 0x2300 => entry2300 s.graze sub
    | 0x2400 => entry2400 s sub
    | 0x2500 => entry2500 s sub
    | 0x2600 => entry2600 s.twin sub
    | 0x3000 => entry3000 s.tb sub
    | 0x3100 => entry3100 s.journal sub
    | 0x4000 => entryPort s 0 sub
    | 0x4001 => entryPort s 1 sub
    | 0x4100 => entry4100 s.stack sub
    | 0x4200 => entry4200 s sub
    | 0x5000 => entry5000 s.power sub
    | 0x5100 => entry5100 s.power sub
    | 0x6000 => entry6000 s sub
    | 0x6100 => entry6100 s sub
    | 0x7000 => entry7000 s.boot sub
    | 0x7100 => entry7100 s sub
    | _ => none

end Sys2Proof.Machine
end

