-- ==== Sys2Proof/Machine/DictPut.lean ====
section
/-! DEFINITION. The object dictionary, write side: what each writable entry accepts and does (R226, R492-R496), and the
carrying out of accesses in their order of arrival on the three paths (R490-R500, R505). -/

namespace Sys2Proof.Machine

/-! ### Access status (R493) -/

def dOk : Byte := 0
def dNoEntry : Byte := 1
def dReadOnly : Byte := 2
def dLocked : Byte := 3
def dValue : Byte := 4
def dState : Byte := 5
def dShape : Byte := 6
def dPath : Byte := 7
def dBooting : Byte := 8

/-- A write that is taken when a test holds, and otherwise leaves the entry unchanged (R12). -/
def putIf (c : Bool) (st : Byte) (t s : State) : Byte × State := if c then (dOk, t) else (st, s)

/-- A write that is always taken. -/
def putOk (t : State) : Byte × State := (dOk, t)

/-! ### Ownership of ranges of physical addresses (R153, R154, R225) -/

/-- Granule of ownership of a memory. -/
def granule (mem : Nat) : Nat := if mem = 0 then 2 ^ 18 else if mem = 1 then 2 ^ 20 else 2 ^ 21

/-- [pa, pa + len) lies in one of the memories named and is wholly owned by the fold. -/
def rangeOwned (s : State) (n : Nat) (mems : List Nat) (pa len : Nat) : Bool :=
  len == 0 ||
    match decodePa s pa, decodePa s (pa + len - 1) with
    | .loc m off, .loc m' last =>
      mems.contains m && m == m' && last == off + len - 1 &&
        (List.range (last / granule m - off / granule m + 1)).all fun i => ownedBy s n m ((off / granule m + i) * granule m)
    | _, _ => false

/-! ### Folds -/

/-- A commit of the fold is armed: its staged entries are closed (R226). -/
def stagedOpen (f : Fold) (freeOnly : Bool) : Bool := f.armed.isNone && (!freeOnly || f.state == .free)

/-- Write a staged value. -/
def putStaged (s : State) (n : Nat) (freeOnly ok : Bool) (g : FoldRes → FoldRes) : Byte × State :=
  if !ok then (dValue, s)
  else putIf (stagedOpen (foldAt s n) freeOnly) dState (modFold s n fun f => { f with staged := g f.staged }) s

/-- The ctl entry of a fold (R225, R233). -/
def putFoldCtl (s : State) (n v : Nat) : Byte × State :=
  match v with
  | 1 => putOk (foldCommit n s)
  | 2 => putOk (foldCancel n s)
  | 3 => putOk (foldDisable n s)
  | 4 => putOk (foldEnable n s)
  | 5 => putOk (foldScrub n s)
  | 6 => putOk (foldDelete n s)
  | _ => (dValue, s)

/-- Homes of a fold after home h is written. -/
def homesWith (f : Fold) (h : Nat) (w : BitVec 256) : Tab (BitVec 256) := Tab.set 0 f.sched.homes h w

/-- A backing range, that of home h as written or of another valid home, overlaps the image area of a valid home. -/
def backingOverlaps (h : Nat) (hs : Tab (BitVec 256)) : Bool :=
  hs.any fun a => hs.any fun b =>
    (a.1 == h || homeValid a.2) && homeValid b.2 && overlap (homePondBack a.2) (homePondLen a.2) (homeBase b.2) (homeLen b.2)

/-- A home write (R216): reserved bits are ignored. -/
def putHome (s : State) (n h : Nat) (w0 : BitVec 256) : Byte × State :=
  let w := w0 &&& ~~~ (place 0xFFFFFFFF 64 32 ||| place 0x1FFFFFFFFFFFF 1 49)
  let f := foldAt s n
  let pondPa := paOf s 0 (homePond w)
  let sound := field w 56 5 + field w 50 6 ≤ 32 ∧ homeBase w % 65536 = 0 ∧ homePondBack w % 4096 = 0
  let owned := rangeOwned s n [1, 2] (homeBase w) (homeLen w) && rangeOwned s n [0] pondPa (homePondLen w) &&
    rangeOwned s n [1, 2] (homePondBack w) (homePondLen w)
  if f.sched.models.any fun m => m.home == h && m.state != 0 then (dState, s)
  else putIf (decide sound && owned && !backingOverlaps h (homesWith f h w)) dValue
    (modFold s n fun f => { f with sched := { f.sched with homes := homesWith f h w } }) s

/-- Writable entries of 0x2100 + n. -/
def putFold (s : State) (n sub v : Nat) : Byte × State :=
  match sub with
  | 0x02 => putFoldCtl s n v
  | 0x04 => putOk (modFold s n fun f => { f with commitEpoch := BitVec.ofNat 64 v })
  | 0x06 => putStaged s n false true fun r => { r with role := BitVec.ofNat 8 v }
  | 0x07 => putStaged s n true true fun r => { r with sealed := v == 1 }
  | 0x08 => putStaged s n false true fun r => { r with padded := v == 1 }
  | 0x09 => putStaged s n true true fun r => { r with keyed := v == 1 }
  | 0x0B => putStaged s n false true fun r => { r with engines := BitVec.ofNat 32 v }
  | 0x0C => putStaged s n true true fun r => { r with halfGroups := BitVec.ofNat 16 v }
  | 0x0D => putStaged s n false true fun r => { r with tarnUnits := BitVec.ofNat 512 v }
  | 0x16 => putStaged s n false true fun r => { r with ctxQuota := BitVec.ofNat 16 v }
  | 0x17 => putStaged s n false true fun r => { r with queueQuota := BitVec.ofNat 16 v }
  | 0x18 => putStaged s n false true fun r => { r with semQuota := BitVec.ofNat 16 v }
  | 0x19 => putStaged s n false true fun r => { r with waitQuota := BitVec.ofNat 16 v }
  | _ =>
    if within 0x0E 0x15 sub then
      putStaged s n false true fun r => { r with
        pondUnits := (r.pondUnits &&& ~~~ (place 0xFFFFFFFF (32 * (sub - 0x0E)) 32)) ||| place v (32 * (sub - 0x0E)) 32 }
    else if within 0x20 0x2F sub then
      putStaged s n false true fun r => { r with
        peers := Tab.set 0 r.peers (sub - 0x20) (BitVec.ofNat 32 v &&& 0x803FFFFF) }
    else if within 0x40 0x7F sub then putHome s n (sub - 0x40) (BitVec.ofNat 256 v)
    else (dReadOnly, s)

/-- A staged weir class as it stands. -/
def stagedWeir (r : FoldRes) (c : Nat) : WeirSet :=
  Tab.get { guarantee := 0, ceiling := 0, target := 0, rank := 15, prio := 0 } r.weirs c

def putWeir (s : State) (n c : Nat) (ok : Bool) (g : WeirSet → WeirSet) : Byte × State :=
  putStaged s n false ok fun r => { r with
    weirs := Tab.set { guarantee := 0, ceiling := 0, target := 0, rank := 15, prio := 0 } r.weirs c (g (stagedWeir r c)) }

/-- Writable entries of 0x2200 + n. -/
def putWeirs (s : State) (n sub v : Nat) : Byte × State :=
  let w := BitVec.ofNat 32 v
  match sub with
  | 1 => putStaged s n false true fun r => { r with cacheWays := BitVec.ofNat 16 v }
  | 3 => putOk (modFold s n fun f => { f with missVector := BitVec.ofNat 16 v })
  | _ =>
    match sub % 16 with
    | 0 => putWeir s n (sub / 16 - 1) true fun x => { x with guarantee := w }
    | 1 => putWeir s n (sub / 16 - 1) true fun x => { x with ceiling := w }
    | 2 => putWeir s n (sub / 16 - 1) true fun x => { x with target := w }
    | 3 => putWeir s n (sub / 16 - 1) (decide (v ≤ 15)) fun x => { x with rank := BitVec.ofNat 8 v }
    | 4 => putWeir s n (sub / 16 - 1) (decide (v ≤ 7)) fun x => { x with prio := BitVec.ofNat 8 v }
    | _ => (dReadOnly, s)

/-! ### Logical map, translation, capacities -/

/-- A position that a pte entry accepts (R144). -/
def pteBitOk (v : Nat) : Bool := within 0 11 v || within 52 63 v || v == 0xFF

/-- Writable entries of 0x2000. -/
def put2000 (s : State) (sub v : Nat) : Byte × State :=
  let x := s.xlate
  let g := s.weirG
  match sub with
  | 0x08 => putOk { s with lmap := { s.lmap with retireVector := BitVec.ofNat 16 v } }
  | 0x20 => putIf (v % 2 ^ 44 == 0 && !v.testBit 51) dValue { s with xlate := { x with localBase := BitVec.ofNat 64 v } } s
  | 0x22 => putIf (v == 4 || v == 5) dValue { s with xlate := { x with ptLevels := BitVec.ofNat 8 v } } s
  | 0x30 => putIf (within 500 900 v) dValue { s with weirG := { g with derate := BitVec.ofNat 16 v } } s
  | 0x37 => putOk (hostCapSet false (BitVec.ofNat 32 v) s)
  | 0x38 => putOk (hostCapSet true (BitVec.ofNat 32 v) s)
  | 0x39 => putIf (decide (v ≤ 256) && v % 16 == 0) dValue
      { s with weirG := { g with cacheUnits := BitVec.ofNat 16 v, farCache := [] } } s
  | 0x3B => putOk { s with weirG := { g with capacityVector := BitVec.ofNat 16 v } }
  | _ =>
    if within 0x23 0x26 sub then
      putIf (pteBitOk v) dValue { s with xlate := { x with pteBits := Tab.set 0xFF x.pteBits sub (BitVec.ofNat 8 v) } } s
    else (dReadOnly, s)

/-! ### Plan, flock, reservoir, twin -/

/-- A write to a count or window of a bank: refused on the active bank; on the other one it disarms a switch (R198). -/
def putBank (bank : Nat) (g : Graze) (s : State) : Byte × State :=
  putIf (g.activeBank != bank) dState { s with graze := { g with switchEpoch := 0 } } s

/-- Writable entries of 0x2300. A refused arming is counted (R200). -/
def put2300 (s : State) (sub v : Nat) : Byte × State :=
  let g := s.graze
  let w := BitVec.ofNat 64 v
  match sub with
  | 2 =>
    if w = 0 ∨ planOk s w then putOk (switchWrite w s)
    else (if v ≤ s.tb.epoch.toNat then dValue else dState, switchWrite w s)
  | 3 => putBank 0 { g with count0 := BitVec.ofNat 8 v } s
  | 4 => putBank 1 { g with count1 := BitVec.ofNat 8 v } s
  | _ =>
    if within 0x40 0x7F sub then putBank 0 { g with bank0 := Tab.set 0 g.bank0 (sub - 0x40) w } s
    else if within 0x80 0xBF sub then putBank 1 { g with bank1 := Tab.set 0 g.bank1 (sub - 0x80) w } s
    else (dReadOnly, s)

/-- A write to a membership record (R278): the admit fields and the vector at any time, the map unit in state 0 alone; every other
field is ignored, reserved bits of the peer layout among them (R11, R238). -/
def putMember (s : State) (n : Nat) (w : BitVec 512) : Byte × State :=
  let m := (foldAt s n).member
  let free := m.state == 0
  putOk (modFold s n fun f => { f with member := { m with
    admitFlock := bitsAt w 480 32, admitBell := bitsAt w 448 32 &&& 0x803FFFFF, admitParent := bitsAt w 416 32,
    admitParentBell := bitsAt w 384 32 &&& 0x803FFFFF, mapUnit := if free then bitsAt w 87 9 else m.mapUnit,
    mapValid := if free then bitAt w 86 else m.mapValid, vector := bitsAt w 64 16 } })

/-- Writable entries of 0x2400. -/
def put2400 (s : State) (sub v : Nat) : Byte × State :=
  let f := s.flock
  match sub with
  | 1 => putIf (within 10 10000000 v) dValue { s with flock := { f with collTimeout := BitVec.ofNat 32 v } } s
  | 2 => putIf (v % 64 == 0) dValue { s with flock := { f with proposeAddr := BitVec.ofNat 64 v } } s
  | 3 => putIf (decide (v < 16)) dValue { s with flock := { f with proposeFold := BitVec.ofNat 8 v } } s
  | 4 => if v = 1 then putOk (propose false s) else if v = 2 then putOk (propose true s) else (dValue, s)
  | _ => if within 0x10 0x1F sub then putMember s (sub - 0x10) (BitVec.ofNat 512 v) else (dReadOnly, s)

/-- A write to a reservoir area record (R314). -/
def putArea (s : State) (n : Nat) (w : BitVec 256) : Byte × State :=
  let slots := field w 104 24
  let sound := field w 192 64 % 2 ^ 21 = 0 ∧ field w 128 64 % 2 ^ 20 = 0 ∧ slots % 8 = 0 ∧ (bitAt w 0 = true → 8 ≤ slots)
  let owned := rangeOwned s n [2] (field w 192 64) (slots * 16384) && rangeOwned s n [1] (field w 128 64) (slots * 64)
  if (foldAt s n).live.role = 1 then (dState, s)
  else putIf (decide sound && owned) dValue (modFold s n fun f => { f with resv := { f.resv with
    pageBase := bitsAt w 192 64, indexBase := bitsAt w 128 64, slotCount := slots, valid := bitAt w 0 } }) s

/-- Writable entries of 0x2500. -/
def put2500 (s : State) (sub v : Nat) : Byte × State :=
  let g := s.resvG
  match sub with
  | 1 => putIf (within 1 64 v) dValue { s with resvG := { g with leaseEpochs := BitVec.ofNat 8 v } } s
  | 2 => putIf (within 1 4096 v) dValue { s with resvG := { g with handoverEpochs := BitVec.ofNat 16 v } } s
  | 3 => putOk { s with resvG := { g with lowWater := BitVec.ofNat 16 v } }
  | 4 => putOk { s with resvG := { g with shortVector := BitVec.ofNat 16 v } }
  | _ => if within 0x10 0x1F sub then putArea s (sub - 0x10) (BitVec.ofNat 256 v) else (dReadOnly, s)

/-- Writable entries of 0x2600. -/
def put2600 (s : State) (sub v : Nat) : Byte × State :=
  let t := s.twin
  match sub with
  | 1 => putOk { s with twin := { t with fold := BitVec.ofNat 8 v } }
  | 2 => putOk { s with twin := { t with partner := BitVec.ofNat 32 v &&& 0x803FFFFF } }
  | 3 => putOk { s with twin := { t with tag := BitVec.ofNat 16 v } }
  | 4 => putOk { s with twin := { t with mode := BitVec.ofNat 8 v &&& 3 } }
  | 5 => match twinArm (BitVec.ofNat 64 v) s with
    | some s1 => putOk s1
    | none => (if v ≤ s.tb.epoch.toNat then dValue else dState, s)
  | 7 => putIf (within 1 64 v) dValue { s with twin := { t with lostEpochs := BitVec.ofNat 8 v } } s
  | 8 => putOk { s with twin := { t with vector := BitVec.ofNat 16 v } }
  | _ => (dReadOnly, s)

/-! ### Timebase and journal -/

/-- Writable entries of 0x3000. -/
def put3000 (s : State) (sub v : Nat) : Byte × State :=
  match sub with
  | 0x5 => putIf (v % 80 == 0 && within 8000 16000000 v) dValue { s with tb := { s.tb with lenNext := BitVec.ofNat 32 v } } s
  | 0x6 => putIf (v == 0 || decide (s.tb.epoch.toNat < v)) dValue (lenSwitchWrite (BitVec.ofNat 64 v) s) s
  | 0xF => putOk { s with tb := { s.tb with vector := BitVec.ofNat 16 v } }
  | _ => (dReadOnly, s)

/-- Writable entries of 0x3100 (R376). -/
def put3100 (s : State) (sub v : Nat) : Byte × State :=
  let j := s.journal
  match sub with
  | 1 =>
    if v = 1 then putIf (!j.enabled && journalRingOk s) dState (journalOn s) s
    else if v = 2 then putIf (!(journalOff s).journal.enabled) dState (journalOff s) s
    else (dValue, s)
  | 3 => putIf (!j.enabled) dState { s with journal := { j with base := BitVec.ofNat 64 v } } s
  | 4 => putIf (!j.enabled) dState { s with journal := { j with entries := BitVec.ofNat 32 v } } s
  | 8 => putOk { s with journal := { j with halfVector := BitVec.ofNat 16 v } }
  | _ => (dReadOnly, s)

/-! ### Ports -/

/-- The ctl entry of a link port; every write is refused while the port is unlicensed (R358). -/
def putPortCtl (s : State) (p v : Nat) : Byte × State :=
  if !portLicensed s p then (dState, s)
  else
    match v with
    | 1 => putOk (trainStart p false [] s)
    | 2 => putOk (trainStart p true (portAt s p).settings s)
    | 3 => putOk (downNow p s)
    | 4 => putOk (rekeyNow p s)
    | _ => (dValue, s)

/-- A piece of bytes put into a longer string. -/
def splice (old : List Byte) (off : Nat) (bs : List Byte) : List Byte :=
  old.take off ++ bs ++ old.drop (off + bs.length)

/-- Writable entries of 0x4000 + p. -/
def putPort (s : State) (p sub off : Nat) (bs : List Byte) : Byte × State :=
  let v := ofLe bs
  match sub with
  | 0x02 => putPortCtl s p v
  | 0x06 => putIf (within (2 ^ 20) (2 ^ 48) v) dValue (modPort s p fun x => { x with rekeyFlits := BitVec.ofNat 64 v }) s
  | 0x07 => putOk (modPort s p fun x => { x with settings := splice (pad 512 x.settings) off bs })
  | 0x0C => putIf (within 100 1000000 v) dValue (modPort s p fun x => { x with resendUs := BitVec.ofNat 32 v }) s
  | 0x0F => putOk (modPort s p fun x => { x with ttl := BitVec.ofNat 8 v })
  | 0x10 => putOk (modPort s p fun x => { x with downVector := BitVec.ofNat 16 v })
  | 0x40 => putOk { s with net := { s.net with route := memWrite s.net.route off bs } }
  | _ => if within 0x20 0x3F sub then
      putOk (modPort s p fun x => { x with credits := Tab.set 496 x.credits (sub - 0x20) (BitVec.ofNat 16 v) })
    else (dReadOnly, s)

/-- The stack port's blob (R356, R396). -/
def put4100 (s : State) (sub off : Nat) (bs : List Byte) : Byte × State :=
  if sub = 7 then putOk { s with stack := { s.stack with settings := splice (pad 512 s.stack.settings) off bs } } else (dReadOnly, s)

/-- Writable entries of 0x4200, but for the request of R172. -/
def put4200 (s : State) (sub v : Nat) : Byte × State :=
  let h := s.hostPort
  match sub with
  | 0x02 => putIf (v == 128 || v == 256 || v == 512) dValue { s with hostPort := { h with maxPayload := BitVec.ofNat 16 v } } s
  | 0x03 => putIf (powerOfTwo 128 4096 v) dValue { s with hostPort := { h with maxRead := BitVec.ofNat 16 v } } s
  | 0x04 => putOk { s with hostPort := { h with roEnable := v == 1 } }
  | 0x05 => putOk { s with hostPort := { h with atomicOk := v == 1 } }
  | 0x09 => putIf (within 1 2048 v) dValue { s with hostPort := { h with msixVectors := BitVec.ofNat 16 v } } s
  | _ => (dReadOnly, s)

/-! ### Power, thermal, faults, gauges, bring-up, debug -/

/-- Writable entries of 0x5000. -/
def put5000 (s : State) (sub v : Nat) : Byte × State :=
  let p := s.power
  let w := BitVec.ofNat 16 v
  match sub with
  | 1 => putIf (within 500 3800 v) dValue { s with power := { p with powerLimit := w } } s
  | 5 => putOk { s with power := { p with warnVector := w } }
  | 6 => putIf (within 5 50 v) dValue { s with power := { p with hysteresis := w } } s
  | _ =>
    if within 0x10 0x17 sub then putOk { s with power := { p with warn := Tab.set 0 p.warn (sub - 0x10) w } }
    else if within 0x18 0x1F sub then
      putIf (decide (v < (Tab.get 0 p.warn (sub - 0x18)).toNat)) dValue
        { s with power := { p with reset := Tab.set 0 p.reset (sub - 0x18) w } } s
    else (dReadOnly, s)

/-- Writable entries of 0x5100. -/
def put5100 (s : State) (sub v : Nat) : Byte × State :=
  let p := s.power
  let w := BitVec.ofNat 16 v
  match sub with
  | 1 => putOk { s with power := { p with throttle := w } }
  | 2 => putIf (decide (p.throttle.toNat < v)) dValue { s with power := { p with critical := w } } s
  | 3 => putIf (decide (v ≤ 1650) && decide (p.critical.toNat < v)) dValue { s with power := { p with shutdown := w } } s
  | 7 => putOk { s with power := { p with thermalVector := w } }
  | _ => (dReadOnly, s)

/-- Writable entries of 0x6000. -/
def put6000 (s : State) (sub v : Nat) : Byte × State :=
  let f := s.faults
  let b := BitVec.ofNat 8 v
  match sub with
  | 2 => putIf (BitVec.ofNat 32 v == s.faults.collector) dValue (collectorClear (BitVec.ofNat 32 v) s) s
  | 3 => if v = 1 then putOk (doReset s) else if v = 2 then putOk (requestPowerCycle s) else (dValue, s)
  | 4 => putIf (within 10 1000000 v) dValue { s with faults := { f with drainLimit := BitVec.ofNat 32 v } } s
  | _ =>
    if within 0x10 0x17 sub then
      putIf (decide (v ≤ (Tab.get 0 f.cap (sub - 0x10)).toNat)) dValue
        { s with faults := { f with base := Tab.set 0 f.base (sub - 0x10) b } } s
    else if within 0x18 0x1F sub then
      putIf (decide (v ≤ 4) && decide ((Tab.get 0 f.base (sub - 0x18)).toNat ≤ v)) dValue
        { s with faults := { f with cap := Tab.set 0 f.cap (sub - 0x18) b } } s
    else if within 0x20 0x27 sub then
      putOk { s with faults := { f with vectors := Tab.set 0xFFFF f.vectors (sub - 0x20) (BitVec.ofNat 16 v) } }
    else (dReadOnly, s)

/-- Writable entries of 0x7000 (R393, R394, R406). -/
def put7000 (s : State) (sub : Nat) (bs : List Byte) : Byte × State :=
  let b := s.boot
  let v := ofLe bs
  match sub with
  | 1 => putIf (decide (v ≤ 1)) dValue { s with boot := { b with source := BitVec.ofNat 8 v } } s
  | 4 => putIf (deliveryOpen s) dState { s with boot := { b with bundleAddr := BitVec.ofNat 64 v } } s
  | 5 => putIf (deliveryOpen s) dState { s with boot := { b with bundleLen := BitVec.ofNat 32 v } } s
  | 6 => putIf (deliveryOpen s && decide (b.chunks.length + 256 ≤ 3 * 2 ^ 20)) dState (chunkIn bs s) s
  | 7 => if v ≠ 1 then (dValue, s) else putIf (deliveryOpen s) dState (goIn s) s
  | _ => (dReadOnly, s)

/-- debug_enable, which only the management port writes (R489). -/
def putDebug (path : Option DictPath) (v : Nat) (s : State) : Byte × State :=
  match path with
  | some (.mgmt _) => putOk { s with dbg := { s.dbg with enable := v == 1 } }
  | _ => (dPath, s)

/-- A dump area lies in the fold's tarn or far memory; its next offset is read only (R428). -/
def putDump (s : State) (n : Nat) (v : Nat) : Byte × State :=
  let base := v / 2 ^ 64 % 2 ^ 64
  let len := v / 2 ^ 32 % 2 ^ 32
  putIf (base % 4096 == 0 && rangeOwned s n [1, 2] base len) dValue (modFold s n fun f => { f with
    dumpBase := BitVec.ofNat 64 base, dumpLen := BitVec.ofNat 32 len }) s

/-- The node: write-once (R487, R496). -/
def putNode (s : State) (v : Nat) : Byte × State :=
  putIf (!nodeValid s) dLocked { s with mgmt := { s.mgmt with node := BitVec.ofNat 32 v &&& 0x8003FFFF } } s

/-- The write of a value that fits its entry's shape. -/
def dictPut (path : Option DictPath) (index sub off : Nat) (bs : List Byte) (s : State) : Byte × State :=
  let v := ofLe bs
  if within 0x2100 0x210F index then putFold s (index - 0x2100) sub v
  else if within 0x2200 0x220F index then putWeirs s (index - 0x2200) sub v
  else
    match index with
    | 0x1002 => putIf (v == 0x4C) dValue { s with boot := { s.boot with locked := true } } s
    | 0x1100 => putNode s v
    | 0x2000 => put2000 s sub v
    | 0x2300 => put2300 s sub v
    | 0x2400 => put2400 s sub v
    | 0x2500 => put2500 s sub v
    | 0x2600 => put2600 s sub v
    | 0x3000 => put3000 s sub v
    | 0x3100 => put3100 s sub v
    | 0x4000 => putPort s 0 sub off bs
    | 0x4001 => putPort s 1 sub off bs
    | 0x4100 => put4100 s sub off bs
    | 0x4200 => put4200 s sub v
    | 0x5000 => put5000 s sub v
    | 0x5100 => put5100 s sub v
    | 0x6000 => put6000 s sub v
    | 0x6100 => putOk (clearGauges (BitVec.ofNat 32 v) s)
    | 0x7000 => put7000 s sub bs
    | 0x7100 => if sub = 1 then putDebug path v s else putDump s (sub - 0x10) v
    | _ => (dReadOnly, s)

/-! ### One access (R491-R495) -/

/-- Until step 2 has ended, and in FAILED, the loader serves these indices only (R494). -/
def bootOnly (s : State) : Bool := s.boot.state == .failed || (s.boot.state == .booting && decide (s.boot.step.toNat ≤ 2))
def bootServed (index : Nat) : Bool := index == 0x1001 || index == 0x1008 || index == 0x1100 || index == 0x7000

/-- The shape of R492, and over the debug port that of R500. -/
def accessShape (a : DictAccess) (e : Entry) : Bool :=
  if a.path = some .debug ∧ 4 < e.size then
    !a.write && a.offset % 4 == 0 && decide (a.offset < e.size) && a.length == min 4 (e.size - a.offset)
  else if !within 1 256 a.length then false
  else if e.scalar then a.offset == 0 && a.length == e.size
  else if !a.write then decide (a.offset + a.length ≤ e.size)
  else if e.size ≤ 256 then a.offset == 0 && a.length == e.size
  else a.offset % 256 == 0 && a.length == min 256 (e.size - a.offset) && decide (a.offset < e.size)

/-- The status of an access before its entry judges the value (log entry 55). -/
def judgeAccess (s : State) (a : DictAccess) : Byte :=
  if bootOnly s && !bootServed a.index then dBooting
  else
    match dictEntry s a.index a.sub with
    | none => dNoEntry
    | some e =>
      if !accessShape a e then dShape
      else if !a.write then dOk
      else if e.right = .ro ∨ e.right = .const then dReadOnly
      else if e.right = .rwl ∧ s.boot.locked then dLocked
      else if e.isBool ∧ 1 < ofLe a.bytes then dValue
      else dOk

/-- Read data of an accepted read. -/
def dictGet (s : State) (a : DictAccess) : List Byte :=
  match dictEntry s a.index a.sub with
  | none => []
  | some e => ((if e.right = .wo then List.replicate e.size 0 else e.value).drop a.offset).take a.length

/-- What an access comes to: status, read data, and the state after it; none while its action goes on (R172, R505). -/
def accessGo (a : DictAccess) (s : State) : State × Option (Byte × List Byte) :=
  let st := judgeAccess s a
  if st ≠ dOk then (s, some (st, []))
  else if !a.write then (s, some (dOk, dictGet s a))
  else if a.index = 0x4200 ∧ a.sub = 0x20 then
    match objectRun (BitVec.ofNat 512 (ofLe a.bytes)) s with
    | (.done c i, s1) => ({ s1 with hostPort := { s1.hostPort with outcome := outcomeWord c i } }, some (dOk, []))
    | (.waits, s1) => (s1, none)
  else
    let (r, s1) := dictPut a.path a.index a.sub a.offset a.bytes s
    (s1, some (r, []))

/-! ### The answers of the three paths (R498, R500, R505) -/

/-- The access header of R491 in an answer. -/
def accessHeader (a : DictAccess) (st : Byte) : List Byte :=
  [if a.write then 2 else 1, st] ++ leBytes 2 a.index ++ [BitVec.ofNat 8 a.sub, 0] ++ leBytes 2 a.length ++ leBytes 4 a.offset

/-- A DICT_RSP (R498). -/
def dictResponse (tag : Byte) (header data : List Byte) : List Byte :=
  [0x7E] ++ beBytes 4 Config.vendorId.toNat ++ [2, tag, 0] ++ header ++ data

/-- The window shows the status and the read data, and is no longer busy (R505). -/
def windowDone (st : Byte) (data : List Byte) (s : State) : State :=
  { s with kpage := { s.kpage with dwBusy := false, dwStatus := st, dwData := splice (pad 256 s.kpage.dwData) 0 data } }

/-- The DBG_DICT register captures status and data (R500). -/
def debugEnd (a : DictAccess) (st : Byte) (data : List Byte) (s : State) : State :=
  let d := if a.write then a.bytes else data
  { s with dbg := { s.dbg with
      accesses := s.dbg.accesses + 1,
      dictReg := place (if a.write then 2 else 1) 88 8 ||| place st.toNat 80 8 ||| place a.index 64 16 ||| place a.sub 56 8 |||
        place a.offset 32 16 ||| place (ofLe d) 0 32 } }

/-- The end of an access on its path. -/
def accessEnd (a : DictAccess) (st : Byte) (data : List Byte) (s : State) : State :=
  match a.path with
  | none => s
  | some (.mgmt tag) => mgmtSend (dictResponse tag (accessHeader a st) data) s
  | some .window => windowDone st data s
  | some .debug => debugEnd a st data s

/-- Accesses are carried out one at a time in the order of arrival; the first whose action goes on holds up the rest (R490,
R505). A reset abandons what was outstanding (R391). -/
def accessesRun : Nat → State → State
  | 0, s => s
  | fuel + 1, s =>
    match s.hostPort.accesses with
    | [] => s
    | a :: rest =>
      match accessGo a s with
      | (s1, none) => s1
      | (s1, some (st, data)) =>
        if s1.hostPort.accesses.isEmpty then s1
        else accessesRun fuel (accessEnd a st data { s1 with hostPort := { s1.hostPort with accesses := rest } })

/-- An access arrives. -/
def accessIn (a : DictAccess) (s : State) : State :=
  let s1 := { s with hostPort := { s.hostPort with accesses := s.hostPort.accesses ++ [a] } }
  accessesRun s1.hostPort.accesses.length s1

/-- A request of R172 arrives at 0x4200.20. -/
def objectIn (r : BitVec 512) (s : State) : State :=
  accessIn { path := none, write := true, index := 0x4200, sub := 0x20, offset := 0, length := 64, bytes := bytesOf 64 r } s

/-- BAR0 is answered (R391, R484). -/
def barOn (s : State) : Bool := !s.pins.resetLow && !s.boot.resetting && !s.pins.flr

/-- A path is open: the management port answers from the end of step 1, the window while BAR0 is answered and no access of its
own is under way, DBG_DICT while it is enabled (R485, R489, R494, R505). -/
def pathOpen (s : State) (p : DictPath) : Bool :=
  match p with
  | .mgmt _ => mgmtOn s
  | .window => barOn s && !s.kpage.dwBusy
  | .debug => s.dbg.enable

/-- An access on one of the three paths. -/
def dictAccess (p : DictPath) (a : DictAccess) (s : State) : State :=
  if !pathOpen s p then s
  else
    let s1 := if p = .window then { s with kpage := { s.kpage with dwBusy := true } } else s
    accessIn { a with path := some p } s1

/-- A read of an entry. -/
def readAccess (index : W16) (sub : Byte) (offset length : Nat) : DictAccess :=
  { path := none, write := false, index := index.toNat, sub := sub.toNat, offset := offset, length := length, bytes := [] }

/-- A write of an entry. -/
def writeAccess (index : W16) (sub : Byte) (offset : Nat) (bs : List Byte) : DictAccess :=
  { path := none, write := true, index := index.toNat, sub := sub.toNat, offset := offset, length := bs.length, bytes := bs }

/-- The access in DW_HDR, started through DW_CTL; an op other than READ and WRITE has no shape (R491, R505). -/
def windowGo (s : State) : State :=
  if s.kpage.dwBusy then s
  else
    let h := s.kpage.dwHdr
    let len := field h 48 16
    let data := (pad 256 s.kpage.dwData).take len
    if field h 0 8 = 1 then dictAccess .window (readAccess (bitsAt h 16 16) (bitsAt h 32 8) (field h 64 32) len) s
    else if field h 0 8 = 2 then
      dictAccess .window { writeAccess (bitsAt h 16 16) (bitsAt h 32 8) (field h 64 32) data with length := len } s
    else windowDone dShape [] s

/-- DBG_DICT: the access in the register shifted in (R488, R500). While it is disabled the instruction acts as BYPASS. -/
def debugDict (v : BitVec 96) (s : State) : State :=
  if !s.dbg.enable then { s with dbg := { s.dbg with ir := 0x10, bypassBit := bitAt v 0, driving := false } }
  else
    let s0 := { s with dbg := { s.dbg with ir := 0x10, driving := false } }
    let index := bitsAt v 64 16
    let sub := bitsAt v 56 8
    let off := field v 32 16
    let size := match dictEntry s0 index.toNat sub.toNat with | some e => e.size | none => 4
    let len := min 4 (size - off)
    if field v 88 8 = 1 then dictAccess .debug (readAccess index sub off len) s0
    else if field v 88 8 = 2 then dictAccess .debug (writeAccess index sub off ((bytesOf 4 (bitsAt v 0 32)).take len)) s0
    else
      let kept := v &&& ~~~ (place 0xFFFF 80 8 ||| place 0xFF 48 8)
      { s0 with dbg := { s0.dbg with accesses := s0.dbg.accesses + 1, dictReg := kept ||| place dShape.toNat 80 8 } }

end Sys2Proof.Machine
end

