-- ==== Sys2Proof/Machine/Regs.lean ====
section
/-! DEFINITION. BAR0 (R239, R479, R501-R508): writes of its registers, and what its registers read. -/

namespace Sys2Proof.Machine

/-! ### Writes -/

/-- A 32-bit half of a 64-bit register replaced; half 0 is the low one. -/
def withHalf (old : W64) (half : Nat) (w : W32) : W64 :=
  if half = 0 then (old &&& 0xFFFFFFFF00000000) ||| BitVec.ofNat 64 w.toNat
  else (old &&& 0x00000000FFFFFFFF) ||| (BitVec.ofNat 64 w.toNat <<< 32)

/-- The 64-bit registers of the pages above the doorbells, by BAR0 offset, as they stand (R504, R506, R507). -/
def reg64 (s : State) (off : Nat) : Option W64 :=
  match off with
  | 0x200000 => some s.kpage.ring
  | 0x200008 => some s.kpage.cring
  | 0x200010 => some s.kpage.headWb
  | 0x201000 => some s.faults.frBase
  | 0x201018 => some s.faults.frRd
  | 0x202008 => some s.journal.rd
  | _ => none

/-- Write one of them. Ring settings are closed while their ring is enabled. -/
def setReg64 (off : Nat) (v : W64) (s : State) : State :=
  let k := s.kpage
  match off with
  | 0x200000 => if k.enabled then s else { s with kpage := { k with ring := v } }
  | 0x200008 => if k.enabled then s else { s with kpage := { k with cring := v } }
  | 0x200010 => if k.enabled then s else { s with kpage := { k with headWb := v } }
  | 0x201000 => if s.faults.frOn then s else { s with faults := { s.faults with frBase := v } }
  | 0x201018 => faultRead v s
  | 0x202008 => journalRead v s
  | _ => s

/-- Four bytes of DW_HDR at 4 × i, or of DW_DATA; ignored while the window is busy. Bytes 12 to 15 of DW_HDR and its
bits [47:40] are reserved (R11, R491). -/
def setHdr (i : Nat) (w : W32) (s : State) : State :=
  if s.kpage.dwBusy ∨ 3 ≤ i then s
  else
    let h := (s.kpage.dwHdr &&& ~~~ (place 0xFFFFFFFF (32 * i) 32)) ||| place w.toNat (32 * i) 32
    { s with kpage := { s.kpage with dwHdr := h &&& ~~~ (place 0xFF 40 8) } }
def setData (i : Nat) (w : W32) (s : State) : State :=
  if s.kpage.dwBusy then s
  else { s with kpage := { s.kpage with dwData := splice (pad 256 s.kpage.dwData) (4 * i) (leBytes 4 w.toNat) } }

/-- A 4-byte write to a mailbox channel by the host port: MBX_DATA takes whole words only (R456, R508). -/
def mailReg (off : Nat) (w : W32) (s : State) : State :=
  let ch := off / 32
  match off % 32 with
  | 0x00 => mailWrite hostPortMaster ch 4 0 s
  | 0x04 => mailWrite hostPortMaster ch 4 0 s
  | 0x18 => mailAck hostPortMaster ch w s
  | 0x1C => mailVector hostPortMaster ch (bitsAt w 0 16) s
  | _ => s

/-- A 4-byte write to a doorbell page (R502). -/
def doorbellReg (h o : Nat) (w : W32) (s : State) : State :=
  if o < 0x800 then
    match o % 32 with
    | 0x00 => doorbell h (o / 32) w s
    | 0x10 => cqHead h (o / 32) w s
    | _ => s
  else if o = 0x800 ∨ o = 0x804 then countBad h s else s

/-- An aligned 4-byte write. -/
def reg32 (off : Nat) (w : W32) (s : State) : State :=
  let k := s.kpage
  if off < 0x100000 then doorbellReg (off / 4096) (off % 4096) w s
  else if within 0x203000 0x2037FF off then mailReg (off - 0x203000) w s
  else if within 0x200100 0x20010F off then setHdr ((off - 0x200100) / 4) w s
  else if within 0x200200 0x2002FF off then setData ((off - 0x200200) / 4) w s
  else
    match off with
    | 0x200018 => if k.enabled then s else { s with kpage := { k with size := bitsAt w 0 8 } }
    | 0x20001C => if bitAt w 0 then kernelEnable s else s
    | 0x200020 => { s with kpage := { k with msix := bitsAt w 0 16 } }
    | 0x200110 => if w = 1 then windowGo s else s
    | 0x201008 => if s.faults.frOn then s else { s with faults := { s.faults with frEntries := w } }
    | 0x20100C => if bitAt w 0 then faultRingOn s else faultRingOff s
    | _ =>
      match reg64 s (off / 8 * 8) with
      | some old => setReg64 (off / 8 * 8) (withHalf old (off % 8 / 4) w) s
      | none => s

/-- An aligned 8-byte write: whole to a 64-bit register, else a write of each half. -/
def reg64Write (off : Nat) (v : W64) (s : State) : State :=
  if off < 0x100000 ∧ off % 4096 = 0x800 then fenceDoorbell (off / 4096) v s
  else if within 0x203000 0x2037FF off ∧ off % 32 = 0 then mailWrite hostPortMaster ((off - 0x203000) / 32) 8 v s
  else if (reg64 s off).isSome then setReg64 off v s
  else reg32 (off + 4) (bitsAt v 32 32) (reg32 off (bitsAt v 0 32) s)

/-- A write to BAR0: not answered in reset; any size and alignment but 4 or 8 bytes aligned is ignored and counted (R479). -/
def barWrite (off size : Nat) (v : W64) (s : State) : State :=
  if !barOn s then s
  else if size = 4 ∧ off % 4 = 0 then reg32 off (bitsAt v 0 32) s
  else if size = 8 ∧ off % 8 = 0 then reg64Write off v s
  else { s with hostPort := { s.hostPort with badTarget := s.hostPort.badTarget + 1 } }

/-! ### Reads: a view of the state (R501-R508); reading changes nothing -/

/-- STATE of a queue slot: state and cause of a stop (R502, R513). -/
def stateWord (x : Queue) : Nat :=
  match x.state with
  | .free => 0
  | .active => 1
  | .fenced => 3
  | .seqGap => 2 + 1 * 256
  | .waitSlots => 2 + 2 * 256
  | .hang => 2 + 3 * 256
  | .notReady => 2 + 4 * 256
  | .readError => 2 + 5 * 256

/-- The 32 bytes of a queue slot. -/
def slotBytes (s : State) (h loc : Nat) : List Byte :=
  match queueAtSlot s h loc with
  | none => List.replicate 32 0
  | some q =>
    let x := queueAt s q
    leBytes 4 x.sqTail.toNat ++ leBytes 4 x.sqHead.toNat ++ leBytes 4 x.nextSeq.toNat ++ leBytes 4 (inFlight s q) ++
      leBytes 4 x.cqHead.toNat ++ leBytes 4 x.cqTail.toNat ++ leBytes 4 (stateWord x) ++ leBytes 4 (q + 2 ^ 16 * x.tag.toNat)

/-- The HQI registers from 0x800. -/
def hqiBytes (s : State) (h : Nat) : List Byte :=
  let x := hqiAt s h
  leBytes 8 0 ++
    leBytes 4 ((if x.created then 1 else 0) + 16 * x.fold + 256 * (queuesWhere s fun y => y.hqi == h).length) ++
    leBytes 4 x.spoof.toNat ++ leBytes 4 x.doorbellBad.toNat

/-- The kernel page. -/
def kernelPageBytes (s : State) : List Byte :=
  let k := s.kpage
  pad 0x100 (leBytes 8 k.ring.toNat ++ leBytes 8 k.cring.toNat ++ leBytes 8 k.headWb.toNat ++ [k.size, 0, 0, 0] ++
      leBytes 4 (if k.enabled then 1 else 0) ++ leBytes 2 k.msix.toNat) ++
    pad 0x100 (leBytes 16 k.dwHdr.toNat ++ leBytes 4 0 ++ [if k.dwBusy then 1 else 0, k.dwStatus]) ++ pad 256 k.dwData

/-- The fault ring page. -/
def faultRingBytes (s : State) : List Byte :=
  let f := s.faults
  leBytes 8 f.frBase.toNat ++ leBytes 4 f.frEntries.toNat ++ leBytes 4 (if f.frOn then 1 else 0) ++ leBytes 8 f.frWr.toNat ++
    leBytes 8 f.frRd.toNat

/-- What the host port reads of a mailbox channel: what a sender or an outsider may not see reads 0 (R456, R508). -/
def mailBytes (s : State) (ch : Nat) : List Byte :=
  let x := mailAt s ch
  let rx := mailBound s ch && mailReceiver s ch == hostPortMaster
  let tx := mailBound s ch && mailSender s ch == hostPortMaster
  leBytes 8 (if rx then x.data.toNat else 0) ++
    leBytes 4 (if rx || tx then (if x.full then 1 else 0) + (if x.overflow then 2 else 0) + 2 ^ 16 * x.refused.toNat else 0) ++
    leBytes 4 0 ++ leBytes 4 (if rx then x.sender.toNat else 0) ++ leBytes 4 0 ++ leBytes 4 0 ++
    leBytes 4 (if rx || tx then x.vector.toNat else 0)

/-- The bytes of the 4 KiB page of BAR0 that holds an offset; offsets past their end read 0, as the
statement page of HQI 0 and of an HQI not created does (R503). -/
def barPage (s : State) (off : Nat) : List Byte :=
  if off < 0x100000 then
    (if off % 4096 < 0x800 then List.replicate (off % 4096 / 32 * 32) 0 ++ slotBytes s (off / 4096) (off % 4096 / 32)
     else List.replicate 0x800 0 ++ hqiBytes s (off / 4096))
  else if off < 0x200000 then
    let x := hqiAt s (off / 4096 - 256)
    if x.created && off / 4096 != 256 then (foldAt s x.fold).stmt.page else []
  else
    match off / 4096 with
    | 0x200 => kernelPageBytes s
    | 0x201 => faultRingBytes s
    | 0x202 => leBytes 8 s.journal.wr.toNat ++ leBytes 8 s.journal.rd.toNat
    | 0x203 => (List.range 64).flatMap (mailBytes s)
    | _ => []

/-- What an aligned read of 4 or 8 bytes of BAR0 returns; none for a read that is completed with Unsupported Request. -/
def barRead (s : State) (off size : Nat) : Option Nat :=
  if (size = 4 ∨ size = 8) ∧ off % size = 0 then some (ofLe (((barPage s off).drop (off % 4096)).take size)) else none

end Sys2Proof.Machine
end

