-- ==== Sys2Proof/Machine/Pump.lean ====
section
/-! DEFINITION. What goes on by itself between two commands: accepted commands start when their queue's order and their
fold allow it (R87, R185, R205, R511), waiting ones are tried again, ready tasks enter dispatch queues (R206, R207), and
what a completion frees goes on. `pump` carries this out after a command until nothing further starts. -/

namespace Sys2Proof.Machine

/-- A HERD_LAUNCH is dispatched (R108, R141, R221): its model must be resident; a closed sluice refuses it. -/
def launchStart (c : Cmd) (s : State) : State :=
  if tagClosed s c.tag then complete c.uid (.broken stFenced) s
  else if !residencyOk s c.tag then s
  else startLaunch c (noteDispatch c.tag s)

/-- Start a command by its opcode; a TILE_TASK starts by TASK_READY. -/
def startCmd (c : Cmd) (s : State) : State :=
  match opcodeOf c.desc with
  | 0x02 => launchStart c s
  | 0x03 => startMove c s
  | 0x04 => startSignal c s
  | 0x06 => startAcquire c s
  | 0x07 => startRelease c s
  | 0x08 => startCollective c s
  | 0x09 => startLoad c s
  | 0x0A => startEvict c s
  | 0x0B => startResv c s
  | 0x0C => startMark c s
  | 0x10 => startMapUpdate c s
  | 0x11 => startInvalidate c s
  | 0x12 => startCreate c s
  | 0x13 => startTeardown c s
  | 0x14 => if fzThaw c.desc then startThaw c s else startFreeze c s
  | 0x15 => startExport c s
  | 0x16 => startImport c s
  | 0x17 => startReview c s
  | 0x18 => startEngineReset c s
  | 0x19 => startFoldReset c s
  | _ => s

/-- Go on with a command that is under way. -/
def goOn (c : Cmd) (s : State) : State :=
  match c.phase, opcodeOf c.desc with
  | .busy, 0x01 => engineWrites c.uid (c.out.length + 1) s
  | .launched, 0x02 => launchFinish c.uid s
  | .busy, 0x03 => moveFinish c.uid s
  | .busy, 0x0B => rvSettle c.uid s
  | .peers, 0x08 => collRun c.uid s
  | .residency, _ => startLoad c s
  | .invalWait, 0x10 => startMapUpdate c s
  | .invalWait, _ => startInvalidate c s
  | .session, _ => startExport c s
  | .rerun false e, 0x01 => rerunGo e s
  | _, _ => s

/-- Start a command that may start, or go on with it. -/
def workOn (uid : Nat) (s : State) : State :=
  match cmdAt s uid with
  | none => s
  | some c => if mayStart s c then startCmd c s else goOn c s

/-! ### Movers (R86, R267) -/

/-- The engine whose tile or next tile a task is. -/
def engineFetching (c : Cmd) : Option Nat :=
  match c.phase with
  | .queued e => some e
  | .tile e => some e
  | .rerun false e => some e
  | _ => none

/-- The mover that carries a command's transfers: its own for a MOVE; for a tile task's operands and writes one of its engine's
paddock, except writes to the engine's own pond. -/
def moverFor (s : State) (c : Cmd) : Option Nat :=
  let of' := fun (e : Nat) => some (2 * enginePlace s e + paddockMover s (enginePlace s e) c)
  match opcodeOf c.desc with
  | 0x01 =>
    if c.phase = .busy then (if c.out.isEmpty || writesOwnPond s c then none else of' (ranOn c))
    else (engineFetching c).bind of'
  | 0x03 => if c.phase = .busy ∧ !(c.out.isEmpty && decide (mvLen c.desc ≤ c.moved)) then some c.mover else none
  | _ => none

/-- A command's turn at a mover: one beat of up to 256 bytes; true when it went on, and then its fold was served (R267). -/
def moverBeat (m : Nat) (c : Cmd) (s : State) : Bool × State :=
  let r := match opcodeOf c.desc, engineFetching c with
    | 0x03, _ => moveBeat c s
    | _, some e => operandBeat e c s
    | _, none => outBeat c s
  if r.1 then (true, workOn c.uid (noteServed 5 m (tagFold c.tag) r.2)) else r

/-- A fold's queue at a mover: its transfers in the order of acceptance, of which the first that can goes on. -/
def foldTurn (m n : Nat) (s : State) : Bool × State :=
  (cmdsWhere s fun c => tagFold c.tag == n && moverFor s c == some m).foldl (fun r u =>
    if r.1 then r else
    match cmdAt r.2 u with
    | some c => if moverFor r.2 c = some m then moverBeat m c r.2 else r
    | none => r) (false, s)

/-- A mover's turn: the non-empty queues of the folds in rotation, starting after the fold served last (R267). The same rotation stands
for a paddock router's (log entry 127). -/
def moverTurn (s : State) (m : Nat) : Bool × State :=
  let folds := ((s.cmds.filter fun c => moverFor s c == some m).map fun c => tagFold c.tag).dedup
  (folds.insertionSort fun a b => turnsAway s 5 m a ≤ turnsAway s 5 m b).foldl
    (fun r n => if r.1 then r else foldTurn m n r.2) (false, s)

/-- Every mover carries one beat after the other until none goes on. -/
def moverRun : Nat → State → State
  | 0, s => s
  | fuel + 1, s =>
    let r := (s.cmds.filterMap (moverFor s)).dedup.foldl (fun r m =>
      let t := moverTurn r.2 m
      (r.1 || t.1, t.2)) (false, s)
    if r.1 then moverRun fuel r.2 else r.2

/-- Beats that commands can still ask of movers, at most: each moves a byte or more. -/
def beatsLeft (s : State) : Nat :=
  (s.cmds.map fun c =>
    (c.out.map fun x => x.2.length).sum + (match opcodeOf c.desc with
      | 0x01 => (piecesTo c.desc (hdrsOf c) (segCount c.desc (hdrsOf c) + 1)).length
      | 0x03 => mvLen c.desc - c.moved
      | _ => 0)).sum + 1

/-! ### Admission of what is held (R258) -/

/-- Commands with a request held at a weir, in the order in which their units admit them: by rank, then by the rotation of the folds, then
the one held longest. -/
def heldOrder (s : State) : List Nat :=
  let key := fun (h : Held) => 16 * admitRank (foldAt s (tagFold h.tag)) h.key h.lc + turnsAway s h.key h.unit (tagFold h.tag)
  let before := fun (a b : Held) => decide (key a < key b) || (key a == key b && decide (a.since.toNat ≤ b.since.toNat))
  let l := s.xlate.held.filter fun h => h.uid != 0 && h.grp.isNone && decide (h.unit < 100)
  (l.insertionSort fun a b => before a b).map fun h => h.uid

/-- A command whose request is held asks again. -/
def askAgain (uid : Nat) (s : State) : State :=
  match cmdAt s uid with
  | none => s
  | some c =>
    match moverFor s c with
    | some m => (moverBeat m c s).2
    | none => workOn uid s

/-! ### Dispatch queues (R212, R213) -/

/-- A boost begins or ends (R212, R213): on a fold's engine the queue is kept LC first; a task boosted in a commons queue
is withdrawn and placed again. -/
def orderQueue (e : Nat) (s : State) : State :=
  let q := (engineAt s e).queue
  let lc := fun u => match cmdAt s u with | some c => cmdLc s c | none => false
  if engineHeld s e then modEngine s e fun x => { x with queue := q.filter lc ++ q.filter fun u => !lc u }
  else forEach (q.filter lc) withdraw s

def orderQueues (s : State) : State :=
  forEach ((s.engines.filter fun p => !p.2.queue.isEmpty).map fun p => p.1) orderQueue (refreshBoosts s)

/-! ### Rounds -/

/-- One round of everything that may go on. -/
def workRound (s0 : State) : State :=
  let s1 := reMovers (pruneHeld s0)
  let s2 := proposeAgain (readsDue (wakeQueues (accessesRun s1.hostPort.accesses.length s1)))
  let s3 := forEach (heldOrder s2) askAgain s2
  let s4 := forEach (s3.cmds.map fun c => c.uid) workOn s3
  let s5 := forEach (List.range 16) handRun (forEach (s4.net.serving.map fun v => v.uid) servingEnd s4)
  let s6 := orderQueues (settleUnits (foldResetsEnd (reviewAll (twinCompare (rvResolveDue s5)))))
  let s7 := placeReady true s6.cmds.length s6
  let s8 := placeReady false s7.cmds.length s7
  restorePower (flushMsgs (moverRun (beatsLeft s8) s8))

/-- What of a command shows that it went on. -/
def progressOf (c : Cmd) : Nat × Phase × List Nat :=
  (c.uid, c.phase, [c.moved, c.asked, c.seg, c.opnd.length, c.out.length, c.got.length, c.coll.parts.length, c.coll.acc.length])

/-- What shows that a round changed something that another may build on. -/
def signature (s : State) : List (Nat × Phase × List Nat) × List Nat :=
  (s.cmds.map progressOf, [s.hostPort.accesses.length, s.net.serving.length, s.xlate.nextReq])

/-- Rounds until nothing further starts. -/
def pumpRun : Nat → State → State
  | 0, s => s
  | fuel + 1, s =>
    let s' := workRound s
    if signature s' = signature s then s' else pumpRun fuel s'

/-- Everything that may go on goes on. -/
def pump (s : State) : State := pumpRun (4 * s.cmds.length + s.hostPort.accesses.length + 8) s

/-- A command's effect, and then what it lets go on. -/
def andPump (o : Out) : Out :=
  match o with
  | .next s => .next (pump s)
  | .fault f => .fault f
  | .refused r => .refused r

end Sys2Proof.Machine
end

