-- ==== Sys2Proof/Machine/QueueRows.lean ====
section
/-! DEFINITION. The rows that are a descriptor of a queue (R175): the block reads it at SQ_HEAD, the checks of R177 accept it or
answer it, and an accepted command starts when its queue's order allows. The row that reads a batch of the ring, its arrival
and its failure (R176, R177, R512, R513). -/

namespace Sys2Proof.Machine

/-- A descriptor read at a queue's SQ_HEAD, of the opcode and op of its row. -/
def queueRow (q : Nat) (d : BitVec 512) (mnemonic : String) (ofRow : Bool) (s : State) : Out :=
  need (decide (q < 4096) && ofRow) mnemonic (.next (pump (acceptOne q d s)))

/-- TILE_TASK (R82-R98). -/
def execTileTask (q : Nat) (d : BitVec 512) (s : State) : Out :=
  queueRow q d "TILE_TASK" (opcodeOf d == 1) s

/-- HERD_LAUNCH (R107-R112). -/
def execHerdLaunch (q : Nat) (d : BitVec 512) (s : State) : Out :=
  queueRow q d "HERD_LAUNCH" (opcodeOf d == 2) s

/-- MOVE with op COPY (R190). -/
def execMoveCopy (q : Nat) (d : BitVec 512) (s : State) : Out :=
  queueRow q d "MOVE_COPY" (opcodeOf d == 3 && mvOp d == 0) s

/-- MOVE with op FILL (R190). -/
def execMoveFill (q : Nat) (d : BitVec 512) (s : State) : Out :=
  queueRow q d "MOVE_FILL" (opcodeOf d == 3 && mvOp d == 1) s

/-- MOVE with op REDUCE (R190). -/
def execMoveReduce (q : Nat) (d : BitVec 512) (s : State) : Out :=
  queueRow q d "MOVE_REDUCE" (opcodeOf d == 3 && mvOp d == 2) s

/-- FENCE_SIGNAL (R185). -/
def execFenceSignal (q : Nat) (d : BitVec 512) (s : State) : Out :=
  queueRow q d "FENCE_SIGNAL" (opcodeOf d == 4) s

/-- FENCE_WAIT (R185). -/
def execFenceWait (q : Nat) (d : BitVec 512) (s : State) : Out :=
  queueRow q d "FENCE_WAIT" (opcodeOf d == 5) s

/-- SEM_ACQUIRE (R188). -/
def execSemAcquire (q : Nat) (d : BitVec 512) (s : State) : Out :=
  queueRow q d "SEM_ACQUIRE" (opcodeOf d == 6) s

/-- SEM_RELEASE (R189). -/
def execSemRelease (q : Nat) (d : BitVec 512) (s : State) : Out :=
  queueRow q d "SEM_RELEASE" (opcodeOf d == 7) s

/-- COLLECTIVE with op ALL_REDUCE (R298-R303). -/
def execAllReduce (q : Nat) (d : BitVec 512) (s : State) : Out :=
  queueRow q d "ALL_REDUCE" (opcodeOf d == 8 && clOp d == 0) s

/-- COLLECTIVE with op REDUCE (R298-R303). -/
def execReduce (q : Nat) (d : BitVec 512) (s : State) : Out :=
  queueRow q d "REDUCE" (opcodeOf d == 8 && clOp d == 1) s

/-- COLLECTIVE with op BROADCAST (R298-R303). -/
def execBroadcast (q : Nat) (d : BitVec 512) (s : State) : Out :=
  queueRow q d "BROADCAST" (opcodeOf d == 8 && clOp d == 2) s

/-- COLLECTIVE with op ALL_GATHER (R298-R303). -/
def execAllGather (q : Nat) (d : BitVec 512) (s : State) : Out :=
  queueRow q d "ALL_GATHER" (opcodeOf d == 8 && clOp d == 3) s

/-- MODEL_LOAD (R218, R219). -/
def execModelLoad (q : Nat) (d : BitVec 512) (s : State) : Out :=
  queueRow q d "MODEL_LOAD" (opcodeOf d == 9) s

/-- MODEL_EVICT (R222). -/
def execModelEvict (q : Nat) (d : BitVec 512) (s : State) : Out :=
  queueRow q d "MODEL_EVICT" (opcodeOf d == 10) s

/-- RESV_OP with op LOOKUP (R319-R321). -/
def execResvLookup (q : Nat) (d : BitVec 512) (s : State) : Out :=
  queueRow q d "RESV_LOOKUP" (opcodeOf d == 11 && rvOp d == 0) s

/-- RESV_OP with op RESERVE (R319-R322). -/
def execResvReserve (q : Nat) (d : BitVec 512) (s : State) : Out :=
  queueRow q d "RESV_RESERVE" (opcodeOf d == 11 && rvOp d == 1) s

/-- RESV_OP with op FILL (R319-R321). -/
def execResvFill (q : Nat) (d : BitVec 512) (s : State) : Out :=
  queueRow q d "RESV_FILL" (opcodeOf d == 11 && rvOp d == 2) s

/-- RESV_OP with op COMMIT (R319-R321). -/
def execResvCommit (q : Nat) (d : BitVec 512) (s : State) : Out :=
  queueRow q d "RESV_COMMIT" (opcodeOf d == 11 && rvOp d == 3) s

/-- RESV_OP with op READ (R318-R321). -/
def execResvRead (q : Nat) (d : BitVec 512) (s : State) : Out :=
  queueRow q d "RESV_READ" (opcodeOf d == 11 && rvOp d == 4) s

/-- RESV_OP with op RELEASE (R319-R321). -/
def execResvRelease (q : Nat) (d : BitVec 512) (s : State) : Out :=
  queueRow q d "RESV_RELEASE" (opcodeOf d == 11 && rvOp d == 5) s

/-- MARK (R191). -/
def execMark (q : Nat) (d : BitVec 512) (s : State) : Out :=
  queueRow q d "MARK" (opcodeOf d == 12) s

/-- MAP_UPDATE SET_ROOT (R158). -/
def execSetRoot (q : Nat) (d : BitVec 512) (s : State) : Out :=
  queueRow q d "SET_ROOT" (opcodeOf d == 16 && mapFunc d == 1) s

/-- MAP_UPDATE FRAME_OWN (R158, R510). -/
def execFrameOwn (q : Nat) (d : BitVec 512) (s : State) : Out :=
  queueRow q d "FRAME_OWN" (opcodeOf d == 16 && mapFunc d == 2) s

/-- MAP_UPDATE WINDOW (R158, R161). -/
def execWindow (q : Nat) (d : BitVec 512) (s : State) : Out :=
  queueRow q d "WINDOW" (opcodeOf d == 16 && mapFunc d == 3) s

/-- MAP_UPDATE RESOLVE (R163). -/
def execResolve (q : Nat) (d : BitVec 512) (s : State) : Out :=
  queueRow q d "RESOLVE" (opcodeOf d == 16 && mapFunc d == 4) s

/-- INVALIDATE (R159, R161). -/
def execInvalidate (q : Nat) (d : BitVec 512) (s : State) : Out :=
  queueRow q d "INVALIDATE" (opcodeOf d == 17) s

/-- CONTEXT_CREATE (R181). -/
def execContextCreate (q : Nat) (d : BitVec 512) (s : State) : Out :=
  queueRow q d "CONTEXT_CREATE" (opcodeOf d == 18) s

/-- CONTEXT_TEARDOWN (R183). -/
def execContextTeardown (q : Nat) (d : BitVec 512) (s : State) : Out :=
  queueRow q d "CONTEXT_TEARDOWN" (opcodeOf d == 19) s

/-- FOLD_FREEZE with thaw = 0 (R241). -/
def execFoldFreeze (q : Nat) (d : BitVec 512) (s : State) : Out :=
  queueRow q d "FOLD_FREEZE" (opcodeOf d == 20 && !fzThaw d) s

/-- FOLD_FREEZE with thaw = 1 (R241). -/
def execFoldThaw (q : Nat) (d : BitVec 512) (s : State) : Out :=
  queueRow q d "FOLD_THAW" (opcodeOf d == 20 && fzThaw d) s

/-- FOLD_EXPORT (R242). -/
def execFoldExport (q : Nat) (d : BitVec 512) (s : State) : Out :=
  queueRow q d "FOLD_EXPORT" (opcodeOf d == 21) s

/-- FOLD_IMPORT (R246). -/
def execFoldImport (q : Nat) (d : BitVec 512) (s : State) : Out :=
  queueRow q d "FOLD_IMPORT" (opcodeOf d == 22) s

/-- SUSPECT_REVIEW (R429). -/
def execSuspectReview (q : Nat) (d : BitVec 512) (s : State) : Out :=
  queueRow q d "SUSPECT_REVIEW" (opcodeOf d == 23) s

/-- ENGINE_RESET (R427). -/
def execEngineReset (q : Nat) (d : BitVec 512) (s : State) : Out :=
  queueRow q d "ENGINE_RESET" (opcodeOf d == 24) s

/-- FOLD_RESET (R430). -/
def execFoldReset (q : Nat) (d : BitVec 512) (s : State) : Out :=
  queueRow q d "FOLD_RESET" (opcodeOf d == 25) s

/-! ### Reading the ring (R176, R177, R512, R513) -/

/-- A read of the queue's ring is outstanding. -/
def batchOut (s : State) (q : Nat) : Bool := s.hostPort.out.any fun r => r.use == .batch q

/-- Descriptors read in one request: within max_read, up to the end of the ring, published and answerable (R177, R512). -/
def batchSize (s : State) (q : Nat) : Nat :=
  let x := queueAt s q
  min (min (s.hostPort.maxRead.toNat / 64) (ringEntries x - x.sqHead.toNat % ringEntries x))
    (min (x.sqTail - x.sqHead).toNat (answerable s q))

/-- A queue's ring may be read now. -/
def ringDue (s : State) (q : Nat) : Bool := mayRead s q && !batchOut s q

/-- It is another queue's turn: this one has had its batch in the present turn, and one that may read has not (R512). -/
def notTurn (s : State) (q : Nat) : Bool :=
  s.hostPort.served.contains q && s.queues.any fun p => ringDue s p.1 && !s.hostPort.served.contains p.1

/-- A queue has its batch: a queue that has had one already begins the next turn of the rotation (R512). -/
def takeTurn (q : Nat) (s : State) : State :=
  { s with hostPort := { s.hostPort with
      served := if s.hostPort.served.contains q then [q] else s.hostPort.served ++ [q] } }

/-- DESCRIPTOR_FETCH (R176, R512): the block reads the ring from SQ_HEAD, one batch per queue per turn. -/
def fetchRing (q : Nat) (s : State) : State :=
  if !ringDue s q || notTurn s q then s
  else takeTurn q (hostRequest (.batch q) (queueAt s q).tag (modQueue s q fun x => { x with batch := batchSize s q }))

def execDescriptorFetch (q : Nat) (s : State) : Out :=
  need (decide (q < 4096)) "DESCRIPTOR_FETCH" (.next (fetchRing q s))

/-- The outstanding read of a queue's ring is answered. -/
def dropBatch (q : Nat) (s : State) : State :=
  { s with hostPort := { s.hostPort with out := s.hostPort.out.filter fun r => r.use != .batch q } }

/-- DESCRIPTOR_BATCH_ARRIVAL (R177): the descriptors read are taken in order. -/
def batchArrive (q : Nat) (s : State) : State :=
  if batchOut s q then modQueue (batchIn q (dropBatch q s)) q fun x => { x with batch := 0 } else s

def execDescriptorBatchArrival (q : Nat) (s : State) : Out :=
  need (decide (q < 4096)) "DESCRIPTOR_BATCH_ARRIVAL" (.next (pump (batchArrive q s)))

/-- DESCRIPTOR_READ_FAILURE (R513). -/
def batchFail (q : Nat) (s : State) : State := if batchOut s q then readFailed q (dropBatch q s) else s

def execDescriptorReadFailure (q : Nat) (s : State) : Out :=
  need (decide (q < 4096)) "DESCRIPTOR_READ_FAILURE" (.next (pump (batchFail q s)))

end Sys2Proof.Machine
end

