-- ==== Sys2Proof/Machine/EngineRows.lean ====
section
/-! DEFINITION. The rows that are events of engines, herd cores and memories: a task becomes ready, a tile starts and
completes, a gang is placed, a launch's trap is recorded, a response returns, a model is parked and loaded again, drains,
resets and timeouts end (R91, R103-R111, R138, R183, R205-R208, R220, R221, R228-R241, R422-R431). An event whose condition
does not hold leaves the state as it is. -/

namespace Sys2Proof.Machine

/-! ### Tiles (R91, R205-R208) -/

/-- TASK_READY: queue order, residency and the fold allow it; its checks, its footprint, its place (R205, R208). -/
def taskReadyAt (uid : Nat) (s : State) : State :=
  match cmdAt s uid with
  | none => s
  | some c =>
    if opcodeOf c.desc ≠ 1 ∨ !mayStart s c then s
    else if tagClosed s c.tag then tileFail c stFenced s
    else if !residencyOk s c.tag then s
    else dispatchTask c s

def execTaskReady (uid : Nat) (s : State) : Out := .next (pump (taskReadyAt uid s))
def execTileStart (e : Nat) (s : State) : Out :=
  need (decide (e < 32)) "TILE_START" (.next (pump (tileStartOn e s)))
def execTileComplete (e : Nat) (s : State) : Out :=
  need (decide (e < 32)) "TILE_COMPLETE" (.next (pump (tileFinish e s)))

/-! ### Gangs (R102-R106, R109, R110, R209) -/

/-- What the gangs on a core occupy: group slots, registers, local store bytes (R103). -/
def coreUse (s : State) (core : Nat) : Nat × Nat × Nat :=
  s.herd.gangs.foldl (fun u x =>
    if x.core = core then
      match cmdAt s x.launch with
      | none => u
      | some c => (u.1 + hlGroups c.desc, u.2.1 + hlGroups c.desc * 16 * hlRegs c.desc, u.2.2 + hlLocal c.desc)
    else u) (0, 0, 0)

/-- The core has room for a gang of a launch (R101, R103). -/
def coreRoom (s : State) (core : Nat) (d : BitVec 512) : Bool :=
  let (g, r, l) := coreUse s core
  decide (g + hlGroups d ≤ 32) && decide (r + hlGroups d * 16 * hlRegs d ≤ 32768) && decide (l + hlLocal d ≤ 131072)

/-- A launch that may place its next gang on a half-group: one that runs there, or one a review re-runs there (R429). -/
def mayPlace (s : State) (h : Nat) (c : Cmd) : Bool :=
  opcodeOf c.desc == 2 && !c.launch.stopped && decide (c.launch.next < hlGangs c.desc) &&
    (match c.phase with
      | .launched => !(halfAt s h).blocked && (launchHalves s (tagFold c.tag) (hlMask c.desc)).contains h
      | .rerun herd u => herd && u == h
      | _ => false)

/-- The launch whose gang a half-group takes next: latency-critical before best-effort, then the earliest accepted (R209;
log entry 61). -/
def nextLaunch (s : State) (h : Nat) : Option Cmd :=
  let l := s.cmds.filter (mayPlace s h)
  match l.find? fun c => cmdLc s c with
  | some c => some c
  | none => l.head?

/-- A core invalidates every line of a context in its data cache (R110). -/
def dropLines (tag : W16) (core : Nat) (s : State) : State :=
  let c := (coreCache s core).filter fun p => p.1 / 2 ^ 57 != tag.toNat
  { s with herd := { s.herd with caches := Tab.set [] s.herd.caches core c } }

/-- A group before its first instruction: registers zero, every lane active (R105, R109). Guard flags g1 to g7 start clear (DESIGN
CHOICE: R109 does not state their initial value; log entry 122). -/
def newGroup (pc : W64) : Group :=
  { pc := pc, active := 0xFFFF, alive := 0xFFFF, regs := [], flags := [], recon := [], rets := [], draws := [], wait := .none }

/-- Start the next gang of a launch on a core with its argument block at the bottom of a zeroed local store; the core drops
the context's cached lines before the launch's first gang there (R109, R110). -/
def gangStart (core : Nat) (c : Cmd) (args : List Byte) (s : State) : State :=
  let x : Gang := { launch := c.uid, gang := c.launch.next, core := core, store := memWrite [] 0 args,
                    groups := List.replicate (hlGroups c.desc) (newGroup (hlCode c.desc)) }
  let s1 := if c.launch.cores.contains core then s else dropLines c.tag core s
  let s2 := setHalf s1 (core / 8) { halfAt s1 (core / 8) with abandoned := false }
  modCmd { s2 with herd := { s2.herd with gangs := s2.herd.gangs ++ [x] } } c.uid fun y => { y with
    startAt := if y.launch.next = 0 then now s else y.startAt
    coll := { y.coll with parts := [] }
    launch := { y.launch with next := y.launch.next + 1, cores := addOnce core y.launch.cores } }

/-- GANG_PLACE: the core has room for the next gang; its argument block is read (R109). -/
def placeGang (core : Nat) (s : State) : State :=
  let h := core / 8
  match nextLaunch s h with
  | none => s
  | some c =>
    if coreUnusable s core || halfVacant s h || bitAt s.power.down (9 * (h / 2) + 4 + h % 2) || !coreRoom s core c.desc then s
    else
      match fetchRange c (core / 16) (coreMaster core) (hlArgBase c.desc) (hlArgLen c.desc) s with
      | (.ok bs, s1) => gangStart core c bs s1
      | (.fault va k l, s1) =>
        (onFault c.tag va k .read (coreMaster core) l (some (.group ⟨c.uid, c.launch.next, 0⟩)) s1).2
      | (.refused va k, s1) =>
        argTrap core c.launch.next trAccess c (raiseAccess va c.tag (coreMaster core) .read k s1)
      | (.error det p, s1) => argTrap core c.launch.next trDataError c (raiseData det p (coreMaster core) c.tag s1)
      | (_, s1) => s1

def execGangPlace (core : Nat) (s : State) : Out := need (decide (core < 128)) "GANG_PLACE" (.next (pump (placeGang core s)))

def execExit (t : GroupRef) (f : BFmt) (s : State) : Out := .next (pump (exitLanes t f s))

/-- LAUNCH_TRAP_RECORD: a launch has trapped and its requests have returned: its class D record, and its end (R138, R139). -/
def trapRecord (uid : Nat) (s : State) : State :=
  match cmdAt s uid with
  | none => s
  | some c =>
    match c.launch.trap with
    | none => s
    | some tr =>
      if !settled s c then s
      else
        abortLaunch uid (trapStatus c.launch.dataError tr.detail) (raiseFault {
          cls := 3, detail := tr.detail, master := tr.master, tag := c.tag, fold := some (tagFold c.tag),
          address := tr.pc.toNat, count := c.launch.traps, gang := tr.gang, group := tr.group, lanes := tr.lanes.toNat,
          imm := tr.imm.toNat, time := some tr.time } s)

def execLaunchTrapRecord (uid : Nat) (s : State) : Out := .next (pump (trapRecord uid s))

/-! ### Memories and models (R114, R220, R221, R228) -/

def execMemoryResponse (req : Nat) (err : Bool) (s : State) : Out := .next (pump (memResponse req err s))

/-- What happens for a task that lacks only its model: a tile task is first pre-translated like any other (R205), and only one that
comes through that, which it does again once the model is there, is ready apart from residency. A fault switches it out, and what its
headers wait for is waited for. -/
def whenReadyApart (c : Cmd) (act : State → State) (s : State) : State :=
  if opcodeOf c.desc ≠ 1 then act s
  else
    let s1 := dispatchTask c s
    match cmdAt s1 c.uid with
    | none => act s
    | some x => if x.phase = .ready then act s else s1

/-- MODEL_PARK: for a load, or for the reload of a context that has a task ready but for its model (R220, R221). -/
def modelParkAt (n uid : Nat) (s : State) : State :=
  match cmdAt s uid with
  | none => s
  | some c => if residencyWaits s c then whenReadyApart c (parkFor n uid) s else parkFor n uid s

def execModelPark (n : Nat) (uid : Nat) (s : State) : Out :=
  need (decide (n < 16)) "MODEL_PARK" (.next (pump (modelParkAt n uid s)))

/-- MODEL_RELOAD: the parked model of a context that has a task ready but for it (R221). -/
def modelReloadAt (slot : Nat) (s : State) : State :=
  match s.cmds.find? fun c => tagSlot c.tag == slot && residencyWaits s c with
  | none => s
  | some c => whenReadyApart c (reloadFor c) s

def execModelReload (slot : Nat) (s : State) : Out :=
  need (decide (slot < 512)) "MODEL_RELOAD" (.next (pump (modelReloadAt slot s)))
def execUnitFillEnd (u : FillUnit) (s : State) : Out := .next (pump (fillEnd u s))

/-! ### Ends of drains (R161, R183, R234, R236, R241, R422, R510) -/

def execTeardownDrainEnd (slot : Nat) (s : State) : Out :=
  need (decide (slot < 512)) "TEARDOWN_DRAIN_END" (.next (pump (teardownEnd slot s)))
def execDisableDrainEnd (n : Nat) (s : State) : Out :=
  need (decide (n < 16)) "DISABLE_DRAIN_END" (.next (pump (disableEnd n s)))
def execFreezeDrainEnd (n : Nat) (s : State) : Out :=
  need (decide (n < 16)) "FREEZE_DRAIN_END" (.next (pump (freezeEnd n s)))
def execInvalidateDrainEnd (uid : Nat) (s : State) : Out := .next (pump (invalDone uid s))

/-- FRAME_OWN completes when no request that the guard accepted for its range is outstanding (R510). -/
def frameOwnDone (uid : Nat) (s : State) : State :=
  match cmdAt s uid with
  | none => s
  | some c =>
    match c.phase with
    | .frameWait ids => if s.xlate.reqs.any fun r => ids.contains r.id then s else success c s
    | _ => s

def execFrameOwnDrainEnd (uid : Nat) (s : State) : Out := .next (pump (frameOwnDone uid s))
def execScrubEnd (n : Nat) (s : State) : Out := need (decide (n < 16)) "SCRUB_END" (.next (pump (scrubEnd n s)))
def execDrainLimitExpiry (sl : Sluice) (s : State) : Out := .next (pump (drainExpire sl s))
def execDrainUnitReset (herd : Bool) (unit : Nat) (s : State) : Out :=
  need (decide (unit < if herd then 16 else 32)) "DRAIN_UNIT_RESET" (.next (pump (drainReset herd unit s)))

/-! ### Resets and reviews (R425-R431) -/

def execUnitResetTimeout (herd : Bool) (unit : Nat) (s : State) : Out :=
  need (decide (unit < if herd then 16 else 32)) "UNIT_RESET_TIMEOUT" (.next (pump (unitLate herd unit s)))
def execUnitResetEnd (herd : Bool) (unit : Nat) (s : State) : Out :=
  need (decide (unit < if herd then 16 else 32)) "UNIT_RESET_END" (.next (pump (unitDone herd unit s)))
def execFoldResetTimeout (n : Nat) (s : State) : Out :=
  need (decide (n < 16)) "FOLD_RESET_TIMEOUT" (.next (pump (foldResetLate n s)))
def execFoldResetResponseLimit (n : Nat) (s : State) : Out :=
  need (decide (n < 16)) "FOLD_RESET_RESPONSE_LIMIT" (.next (pump (responseLimit n s)))
def execSuspectRerunTimeout (uid : Nat) (s : State) : Out := .next (pump (rerunLate uid s))
def execUnitRetire (bit : Nat) (s : State) : Out := need (decide (bit < 768)) "UNIT_RETIRE" (.next (pump (retireUnit bit s)))
def execDomainAck (dom : Nat) (level : Bool) (s : State) : Out :=
  need (decide (dom < 106)) "DOMAIN_ACK" (.next (pump (domainAcked dom level s)))
def execDomainAckTimeout (dom : Nat) (s : State) : Out :=
  need (decide (dom < 106)) "DOMAIN_ACK_TIMEOUT" (.next (pump (domainLate dom s)))

/-! ### Timeouts of peers (R295, R303, R321, R351) -/

def execCarriedTaskTimeout (uid : Nat) (s : State) : Out := .next (pump (carriedTimeout uid s))
def execCollectiveTimeout (uid : Nat) (s : State) : Out := .next (pump (collTimeout uid s))
def execResvTimeout (uid : Nat) (s : State) : Out := .next (pump (rvTimeout uid s))
def execRequestResend (n : Nat) (seq : W32) (s : State) : Out :=
  need (decide (n < 16)) "REQUEST_RESEND" (.next (pump (resend n seq s)))
def execEndToEndTimeout (n : Nat) (seq : W32) (s : State) : Out :=
  need (decide (n < 16)) "END_TO_END_TIMEOUT" (.next (pump (e2eTimeout n seq s)))

/-- ABANDONED_REQUEST_EXPIRY: 2 × coll_timeout after they were abandoned, the remote requests of a slot and generation have
ended (R183). -/
def abandonedExpire (slot gen : Nat) (s : State) : State :=
  let old := fun (e : E2E) => e.abandoned && tagSlot e.tag == slot && tagGen e.tag == gen &&
    decide (e.sentAt.toNat + 2000 * s.flock.collTimeout.toNat ≤ (now s).toNat)
  forEach (List.range 16) (fun n s =>
    let es := (foldAt s n).unacked.filter old
    if es.isEmpty then s
    else forEach es (fun e s => endAbandoned e.tag s) (modFold s n fun f => { f with unacked := f.unacked.filter fun e => !old e })) s

def execAbandonedRequestExpiry (slot gen : Nat) (s : State) : Out :=
  need (decide (slot < 512) && decide (gen < 8)) "ABANDONED_REQUEST_EXPIRY" (.next (pump (abandonedExpire slot gen s)))

/-! ### Responses at the ports (R473, R482, R483) -/

def execStackReadData (ch tag : Nat) (status : BitVec 3) (s : State) : Out := andPump (stackAnswer ch tag false status s)
def execStackWriteAck (ch tag : Nat) (status : BitVec 3) (s : State) : Out := andPump (stackAnswer ch tag true status s)
def execStackCreditReturn (ch count : Nat) (s : State) : Out :=
  need (decide (ch < 64) && decide (count < 16)) "STACK_CREDIT_RETURN" (.next (pump (stackCredit ch count s)))
def execHostCompletion (tag : Nat) (status : HostStatus) (s : State) : Out := .next (pump (hostComplete tag status s))
def execHostCompletionTimeout (tag : Nat) (s : State) : Out := .next (pump (hostLate tag s))
def execHpLinkUpChange (up : Bool) (speed : BitVec 3) (width : BitVec 5) (s : State) : Out :=
  .next (pump (bootAdvance (linkChange up speed width s)))

end Sys2Proof.Machine
end

