-- ==== Sys2Proof/Machine/WireRows.lean ====
section
/-! DEFINITION. The rows that are packets (R347) and messages (R280, R323) reaching a network interface of this instance. A
packet for another instance goes on to it (R349). The operand n of a message row is the fold it is addressed to. -/

namespace Sys2Proof.Machine

/-! ### Packets -/

/-- A packet of its row's type, delivered to this instance's network interface; one for another instance is none of its business: the
ports route it (R349). -/
def packetRow (k : Packet) (ptype : Byte) (mnemonic : String) (act : State → State) (s : State) : Out :=
  need (k.ptype == ptype) mnemonic (.next (if k.destNode = myNode s then pump (act s) else s))

/-- READ (R347). -/
def execPacketRead (k : Packet) (s : State) : Out := packetRow k 1 "PACKET_READ" (onRequest k true serveRead) s
/-- WRITE (R347). -/
def execPacketWrite (k : Packet) (s : State) : Out := packetRow k 2 "PACKET_WRITE" (onRequest k false serveWrite) s
/-- ATOMIC (R347). -/
def execPacketAtomic (k : Packet) (s : State) : Out := packetRow k 3 "PACKET_ATOMIC" (onRequest k false serveAtomic) s
/-- REDUCE (R347). -/
def execPacketReduce (k : Packet) (s : State) : Out := packetRow k 4 "PACKET_REDUCE" (onRequest k false serveReduce) s
/-- FENCE (R185, R347). -/
def execPacketFence (k : Packet) (s : State) : Out := packetRow k 5 "PACKET_FENCE" (onRequest k false serveFence) s
/-- READ_DATA: bytes for a request of this instance (R347, R351). -/
def execReadData (k : Packet) (s : State) : Out := packetRow k 8 "READ_DATA" (readDataIn k) s
/-- ACK (R347, R351). -/
def execPacketAck (k : Packet) (s : State) : Out := packetRow k 9 "PACKET_ACK" (ackIn k) s
/-- REFUSE (R155, R347). -/
def execRefuse (k : Packet) (s : State) : Out := packetRow k 0x0A "REFUSE" (refuseIn k) s
/-- TASK: a tile task carried in from another member (R294). -/
def execTask (k : Packet) (s : State) : Out := packetRow k 0x10 "TASK" (onTask k) s

/-- TASK_RESULT: the end of a carried task (R295), or of a sub-flock's part of a collective (R299, R303). -/
def resultIn (k : Packet) (s : State) : State :=
  match requestOf s k with
  | none => taskResultIn k s
  | some e =>
    match cmdAt s e.uid with
    | none => taskResultIn k s
    | some c =>
      if opcodeOf c.desc ≠ 8 then taskResultIn k s
      else
        let s1 := endAnswered k.srcFold.toNat e (takeIn k s)
        if e.abandoned then s1 else collReport c k.payload s1

def execTaskResult (k : Packet) (s : State) : Out := packetRow k 0x11 "TASK_RESULT" (resultIn k) s
/-- COLL (R300-R302). -/
def execColl (k : Packet) (s : State) : Out := packetRow k 0x12 "COLL" (collIn k) s

/-! ### Map messages (R280, R282-R291) -/

/-- A message for fold n. -/
def messageRow (n : Nat) (h : MsgHdr) (mnemonic : String) (act : State → State) (s : State) : Out :=
  need (decide (n < 16)) mnemonic (.next (pump (onMessage 33 h act s)))

def execPrepare (n : Nat) (h : MsgHdr) (mh : MapHdr) (recs : List ChangeRec) (s : State) : Out :=
  messageRow n h "PREPARE" (prepareAt n h mh recs) s
def execMapAck (n : Nat) (h : MsgHdr) (s : State) : Out := messageRow n h "MAP_ACK" (ackAt n h) s
def execNak (n : Nat) (h : MsgHdr) (s : State) : Out := messageRow n h "NAK" (nakAt n h) s
def execExclude (n : Nat) (h : MsgHdr) (members : List Nat) (s : State) : Out :=
  messageRow n h "EXCLUDE" (excludeAt n h members) s
def execAbort (n : Nat) (h : MsgHdr) (s : State) : Out := messageRow n h "ABORT" (abortAt n h) s
def execSnapshot (h : MsgHdr) (n : Nat) (first : Nat) (entries : List (BitVec 128)) (s : State) : Out :=
  messageRow n h "SNAPSHOT" (snapshotAt n h first entries) s
def execTwinDigest (h : MsgHdr) (recs : List (BitVec 128)) (s : State) : Out := .next (pump (onMessage 33 h (twinDigestAt h recs) s))
def execTwinHalt (h : MsgHdr) (s : State) : Out := .next (pump (onMessage 33 h (twinHaltAt h) s))
def execSpdmFold (h : MsgHdr) (m : SpdmMsg) (done good : Bool) (s : State) : Out :=
  .next (pump (onMessage 33 h (spdmFoldAt h m done good) s))

/-! ### Reservoir messages (R321-R329) -/

/-- The channel of a reservoir message: the client fold's own of its class where it carries FILL or READ data, else 33 (R323). -/
def dataChannel (fold : Nat) (lc : Bool) (bytes : List Byte) : Nat :=
  if bytes.isEmpty then 33 else 2 * fold + (if lc then 0 else 1)

/-- RESV_REQ; one that must wait stays where it is (R288, R318). -/
def execResvReq (h : MsgHdr) (n : ResvHome) (d : BitVec 512) (bytes : List Byte) (s : State) : Out :=
  need (decide (n.fold < 16)) "RESV_REQ"
    (.next (pump (if rvWaits s n.fold h d then s
      else onMessage (dataChannel h.senderFold.toNat n.lc bytes) h (rvRequestAt n.fold h d bytes n.lc) s)))
def execResvAns (h : MsgHdr) (uid : Nat) (status : Byte) (ans : BitVec 256) (bytes : List Byte) (s : State) : Out :=
  let v := match cmdAt s uid with
    | some c => dataChannel (tagFold c.tag) (cmdLc s c) bytes
    | none => 33
  .next (pump (onMessage v h (rvAnswer uid status ans bytes) s))
def execDisclaim (h : MsgHdr) (uid : Nat) (s : State) : Out := .next (pump (onMessage 33 h (rvDisclaimed uid) s))
def execResvResolve (h : MsgHdr) (n : Nat) (key : BitVec 128) (request : W64) (_token : BitVec 128) (s : State) : Out :=
  need (decide (n < 16)) "RESV_RESOLVE"
    (.next (pump (if rvResolveWaits s n h then s else onMessage 33 h (rvResolveAt n h key request) s)))
def execQuery (h : MsgHdr) (n : Nat) (key : BitVec 128) (s : State) : Out := messageRow n h "QUERY" (rvQueryAt n h key) s
def execQueryAns (h : MsgHdr) (n : Nat) (key : BitVec 128) (recs : List ResvFound) (s : State) : Out :=
  messageRow n h "QUERY_ANS" (rvFoundAt n h key recs) s
def execResolveAns (h : MsgHdr) (uid : Nat) (status : Byte) (_token : BitVec 128) (digest : W64) (s : State) : Out :=
  .next (pump (onMessage 33 h (rvResolved uid status digest) s))
def execDrop (h : MsgHdr) (n : Nat) (key token : BitVec 128) (s : State) : Out :=
  messageRow n h "DROP" (rvDropAt n h key token) s
def execHandover (h : MsgHdr) (n : Nat) (hr : HandRec) (page : List Byte) (s : State) : Out :=
  messageRow n h "HANDOVER" (handAt n hr page) s
def execHandoverFillEnd (n : Nat) (s : State) : Out := need (decide (n < 16)) "HANDOVER_FILL_END" (.next (pump (handFillEnd n s)))

end Sys2Proof.Machine
end

