-- ==== Sys2Proof/Machine/RegRows.lean ====
section
/-! DEFINITION. The rows that are writes and reads of registers and dictionary entries (R490-R508), requests of host objects
(R172-R174), the timebase pins (R361-R364), the grazing plan and the meters (R203, R253, R262, R268). A row that names a write
stands for the write as it is carried out, judged as R491 to R495 say (log entry 56). -/

namespace Sys2Proof.Machine

/-- The write of an entry, carried out. -/
def writeNow (index sub : Nat) (bs : List Byte) (s : State) : State :=
  (accessGo { path := none, write := true, index := index, sub := sub, offset := 0, length := bs.length, bytes := bs } s).1

/-! ### Host objects (R172-R174, R178, R187) -/

/-- A request at 0x4200.20 with the op of its row. -/
def objectRow (r : BitVec 512) (op : Nat) (mnemonic : String) (s : State) : Out :=
  need (hoOp r == op) mnemonic (.next (pump (objectIn r s)))

def execHqiCreate (r : BitVec 512) (s : State) : Out := objectRow r 1 "HQI_CREATE" s
def execHqiDestroy (r : BitVec 512) (s : State) : Out := objectRow r 2 "HQI_DESTROY" s
def execQueueCreate (r : BitVec 512) (s : State) : Out := objectRow r 3 "QUEUE_CREATE" s
def execQueueDestroy (r : BitVec 512) (s : State) : Out := objectRow r 4 "QUEUE_DESTROY" s
def execQueueResume (r : BitVec 512) (s : State) : Out := objectRow r 5 "QUEUE_RESUME" s
def execSemAlloc (r : BitVec 512) (s : State) : Out := objectRow r 6 "SEM_ALLOC" s
def execSemFree (r : BitVec 512) (s : State) : Out := objectRow r 7 "SEM_FREE" s

/-! ### Folds (R227, R234-R236), flocks (R282, R290) -/

/-- A write of a fold's ctl entry. -/
def foldRow (n : Nat) (v : Byte) (mnemonic : String) (s : State) : Out :=
  need (decide (n < 16)) mnemonic (.next (pump (writeNow (0x2100 + n) 2 [v] s)))

def execCommit (n : Nat) (s : State) : Out := foldRow n 1 "COMMIT" s
def execCancel (n : Nat) (s : State) : Out := foldRow n 2 "CANCEL" s
def execDisable (n : Nat) (s : State) : Out := foldRow n 3 "DISABLE" s
def execEnable (n : Nat) (s : State) : Out := foldRow n 4 "ENABLE" s
def execScrub (n : Nat) (s : State) : Out := foldRow n 5 "SCRUB" s
def execDelete (n : Nat) (s : State) : Out := foldRow n 6 "DELETE" s
def execPropose (s : State) : Out := .next (pump (writeNow 0x2400 4 [1] s))
def execPromote (s : State) : Out := .next (pump (writeNow 0x2400 4 [2] s))

/-! ### Single entries -/

def execJournalEnable (s : State) : Out := .next (pump (writeNow 0x3100 1 [1] s))
def execJournalDisable (s : State) : Out := .next (pump (writeNow 0x3100 1 [2] s))
def execConfigLock (v : Byte) (s : State) : Out := .next (pump (writeNow 0x1002 1 [v] s))
def execSwitchEpochWrite (v : W64) (s : State) : Out := .next (pump (writeNow 0x2300 2 (bytesOf 8 v) s))
def execLenSwitchEpochWrite (v : W64) (s : State) : Out := .next (pump (writeNow 0x3000 6 (bytesOf 8 v) s))
def execStartEpochWrite (v : W64) (s : State) : Out := .next (pump (writeNow 0x2600 5 (bytesOf 8 v) s))
def execHostCapWrite (nowEntry : Bool) (v : W32) (s : State) : Out :=
  .next (pump (writeNow 0x2000 (if nowEntry then 0x38 else 0x37) (bytesOf 4 v) s))
def execGaugeClear (v : W32) (s : State) : Out := .next (pump (writeNow 0x6100 1 (bytesOf 4 v) s))

/-! ### The dictionary's paths and BAR0 (R490-R508) -/

def execDictRead (path : DictPath) (index : W16) (sub : Byte) (offset length : Nat) (s : State) : Out :=
  .next (pump (dictAccess path (readAccess index sub offset length) s))
def execDictWrite (path : DictPath) (index : W16) (sub : Byte) (offset : Nat) (bytes : List Byte) (s : State) : Out :=
  .next (pump (dictAccess path (writeAccess index sub offset bytes) s))
def execDebugEnableWrite (path : DictPath) (v : Byte) (s : State) : Out :=
  .next (pump (dictAccess path (writeAccess 0x7100 1 0 [v]) s))
def execRegisterWrite (off size : Nat) (v : W64) (s : State) : Out := .next (pump (barWrite off size v s))
def execDbgDict (v : BitVec 96) (s : State) : Out := .next (pump (debugDict v s))

/-- A register write that BAR0 answers. -/
def barRow (act : State → State) (s : State) : Out := .next (pump (if barOn s then act s else s))

def execDoorbell (h loc : Nat) (v : W32) (s : State) : Out :=
  need (decide (h < 256) && decide (loc < 64)) "DOORBELL" (barRow (doorbell h loc v) s)
def execCqHeadWrite (h loc : Nat) (v : W32) (s : State) : Out :=
  need (decide (h < 256) && decide (loc < 64)) "CQ_HEAD_WRITE" (barRow (cqHead h loc v) s)
def execFenceDb (h : Nat) (addr : W64) (s : State) : Out :=
  need (decide (h < 256)) "FENCE_DB" (barRow (fenceDoorbell h addr) s)
def execKqEnable (s : State) : Out := barRow kernelEnable s
def execFaultRingEnable (s : State) : Out := barRow faultRingOn s
def execFaultRingDisable (s : State) : Out := barRow faultRingOff s
def execFrRdWrite (v : W64) (s : State) : Out := barRow (faultRead v) s
def execJnlRdWrite (v : W64) (s : State) : Out := barRow (journalRead v) s

/-! ### The timebase (R361-R364), windows and meters -/

/-- An event at the timebase pins, or of the block's clock; none while RESET_N is low. -/
def timeRow (act : State → State) (s : State) : Out := .next (pump (if s.pins.resetLow then s else act s))

def execBoundaryPredictionExpiry (s : State) : Out := timeRow expiry s
def execSyncInPulse (s : State) : Out := timeRow pulse s
def execLoad (time epoch : W64) (s : State) : Out := timeRow (frameIn .load time epoch) s
def execCheck (time epoch : W64) (s : State) : Out := timeRow (frameIn .check time epoch) s
def execRephase (time epoch : W64) (s : State) : Out := timeRow (frameIn .rephase time epoch) s
def execTimebaseFrameError (s : State) : Out := timeRow frameError s
def execGrazingWindowStart (w : Nat) (s : State) : Out :=
  need (decide (w < 64)) "GRAZING_WINDOW_START" (timeRow (windowStartAt w) s)

/-- WEIR_MISS_WINDOW_END: each 10 µs from the boundary on (R262). -/
def missWindow (s : State) : State :=
  if s.tb.state = .unset ∨ sinceBoundary s = 0 ∨ sinceBoundary s % 10000 ≠ 0 then s else judgeWindow 10000 s

def execWeirMissWindowEnd (s : State) : Out := timeRow missWindow s
def execWeirMeterRefresh (s : State) : Out := timeRow refreshMeters s
def execGaugeSample (g : GaugeId) (v : Nat) (s : State) : Out :=
  need (match g with | .rail i => decide (i < 8) | .fold n k => decide (n < 16) && decide (k < 8) | _ => true) "GAUGE_SAMPLE"
    (timeRow (sampleGauge g v) s)
def execModerationTimerExpiry (q : Nat) (s : State) : Out :=
  need (decide (q < 4096)) "MODERATION_TIMER_EXPIRY" (.next (pump (moderate q s)))

end Sys2Proof.Machine
end

