-- ==== Sys2Proof/Machine/Dispatch.lean ====
section
/-! DEFINITION. The dispatch: one arm per command, each a direct call of its meaning. -/

namespace Sys2Proof.Machine
open Sys2Proof

def exec (i : Instr) (s : State) : Host.Outcome State Fault Refusal :=
  match i with
  | .tileTask q d => Sys2Proof.Machine.execTileTask q d s
  | .herdLaunch q d => Sys2Proof.Machine.execHerdLaunch q d s
  | .moveCopy q d => Sys2Proof.Machine.execMoveCopy q d s
  | .moveFill q d => Sys2Proof.Machine.execMoveFill q d s
  | .moveReduce q d => Sys2Proof.Machine.execMoveReduce q d s
  | .fenceSignal q d => Sys2Proof.Machine.execFenceSignal q d s
  | .fenceWait q d => Sys2Proof.Machine.execFenceWait q d s
  | .semAcquire q d => Sys2Proof.Machine.execSemAcquire q d s
  | .semRelease q d => Sys2Proof.Machine.execSemRelease q d s
  | .allReduce q d => Sys2Proof.Machine.execAllReduce q d s
  | .reduce q d => Sys2Proof.Machine.execReduce q d s
  | .broadcast q d => Sys2Proof.Machine.execBroadcast q d s
  | .allGather q d => Sys2Proof.Machine.execAllGather q d s
  | .modelLoad q d => Sys2Proof.Machine.execModelLoad q d s
  | .modelEvict q d => Sys2Proof.Machine.execModelEvict q d s
  | .resvLookup q d => Sys2Proof.Machine.execResvLookup q d s
  | .resvReserve q d => Sys2Proof.Machine.execResvReserve q d s
  | .resvFill q d => Sys2Proof.Machine.execResvFill q d s
  | .resvCommit q d => Sys2Proof.Machine.execResvCommit q d s
  | .resvRead q d => Sys2Proof.Machine.execResvRead q d s
  | .resvRelease q d => Sys2Proof.Machine.execResvRelease q d s
  | .mark q d => Sys2Proof.Machine.execMark q d s
  | .setRoot q d => Sys2Proof.Machine.execSetRoot q d s
  | .frameOwn q d => Sys2Proof.Machine.execFrameOwn q d s
  | .window q d => Sys2Proof.Machine.execWindow q d s
  | .resolve q d => Sys2Proof.Machine.execResolve q d s
  | .invalidate q d => Sys2Proof.Machine.execInvalidate q d s
  | .contextCreate q d => Sys2Proof.Machine.execContextCreate q d s
  | .contextTeardown q d => Sys2Proof.Machine.execContextTeardown q d s
  | .foldFreeze q d => Sys2Proof.Machine.execFoldFreeze q d s
  | .foldThaw q d => Sys2Proof.Machine.execFoldThaw q d s
  | .foldExport q d => Sys2Proof.Machine.execFoldExport q d s
  | .foldImport q d => Sys2Proof.Machine.execFoldImport q d s
  | .suspectReview q d => Sys2Proof.Machine.execSuspectReview q d s
  | .engineReset q d => Sys2Proof.Machine.execEngineReset q d s
  | .foldReset q d => Sys2Proof.Machine.execFoldReset q d s
  | .hqiCreate r => Sys2Proof.Machine.execHqiCreate r s
  | .hqiDestroy r => Sys2Proof.Machine.execHqiDestroy r s
  | .queueCreate r => Sys2Proof.Machine.execQueueCreate r s
  | .queueDestroy r => Sys2Proof.Machine.execQueueDestroy r s
  | .queueResume r => Sys2Proof.Machine.execQueueResume r s
  | .semAlloc r => Sys2Proof.Machine.execSemAlloc r s
  | .semFree r => Sys2Proof.Machine.execSemFree r s
  | .commit n => Sys2Proof.Machine.execCommit n s
  | .cancel n => Sys2Proof.Machine.execCancel n s
  | .disable n => Sys2Proof.Machine.execDisable n s
  | .enable n => Sys2Proof.Machine.execEnable n s
  | .scrub n => Sys2Proof.Machine.execScrub n s
  | .delete n => Sys2Proof.Machine.execDelete n s
  | .propose => Sys2Proof.Machine.execPropose s
  | .promote => Sys2Proof.Machine.execPromote s
  | .train p => Sys2Proof.Machine.execTrain p s
  | .trainFast p => Sys2Proof.Machine.execTrainFast p s
  | .down p => Sys2Proof.Machine.execDown p s
  | .rekey p => Sys2Proof.Machine.execRekey p s
  | .journalEnable => Sys2Proof.Machine.execJournalEnable s
  | .journalDisable => Sys2Proof.Machine.execJournalDisable s
  | .instanceReset => Sys2Proof.Machine.execInstanceReset s
  | .powerCycleRequest => Sys2Proof.Machine.execPowerCycleRequest s
  | .collectorAck v => Sys2Proof.Machine.execCollectorAck v s
  | .configLock v => Sys2Proof.Machine.execConfigLock v s
  | .bundleChunk bytes => Sys2Proof.Machine.execBundleChunk bytes s
  | .bootGo => Sys2Proof.Machine.execBootGo s
  | .switchEpochWrite v => Sys2Proof.Machine.execSwitchEpochWrite v s
  | .lenSwitchEpochWrite v => Sys2Proof.Machine.execLenSwitchEpochWrite v s
  | .startEpochWrite v => Sys2Proof.Machine.execStartEpochWrite v s
  | .hostCapWrite now v => Sys2Proof.Machine.execHostCapWrite now v s
  | .gaugeClear v => Sys2Proof.Machine.execGaugeClear v s
  | .dictRead path index sub offset length => Sys2Proof.Machine.execDictRead path index sub offset length s
  | .dictWrite path index sub offset bytes => Sys2Proof.Machine.execDictWrite path index sub offset bytes s
  | .registerWrite off size v => Sys2Proof.Machine.execRegisterWrite off size v s
  | .doorbell h loc v => Sys2Proof.Machine.execDoorbell h loc v s
  | .cqHeadWrite h loc v => Sys2Proof.Machine.execCqHeadWrite h loc v s
  | .fenceDb h addr => Sys2Proof.Machine.execFenceDb h addr s
  | .kqEnable => Sys2Proof.Machine.execKqEnable s
  | .faultRingEnable => Sys2Proof.Machine.execFaultRingEnable s
  | .faultRingDisable => Sys2Proof.Machine.execFaultRingDisable s
  | .frRdWrite v => Sys2Proof.Machine.execFrRdWrite v s
  | .jnlRdWrite v => Sys2Proof.Machine.execJnlRdWrite v s
  | .mbxDataWrite master ch size v => Sys2Proof.Machine.execMbxDataWrite master ch size v s
  | .mbxAck master ch v => Sys2Proof.Machine.execMbxAck master ch v s
  | .debugEnableWrite path v => Sys2Proof.Machine.execDebugEnableWrite path v s
  | .descriptorFetch q => Sys2Proof.Machine.execDescriptorFetch q s
  | .descriptorBatchArrival q => Sys2Proof.Machine.execDescriptorBatchArrival q s
  | .descriptorReadFailure q => Sys2Proof.Machine.execDescriptorReadFailure q s
  | .taskReady uid => Sys2Proof.Machine.execTaskReady uid s
  | .tileStart e => Sys2Proof.Machine.execTileStart e s
  | .tileComplete e => Sys2Proof.Machine.execTileComplete e s
  | .gangPlace core => Sys2Proof.Machine.execGangPlace core s
  | .launchTrapRecord uid => Sys2Proof.Machine.execLaunchTrapRecord uid s
  | .memoryResponse req err => Sys2Proof.Machine.execMemoryResponse req err s
  | .modelPark n uid => Sys2Proof.Machine.execModelPark n uid s
  | .modelReload slot => Sys2Proof.Machine.execModelReload slot s
  | .boundaryPredictionExpiry => Sys2Proof.Machine.execBoundaryPredictionExpiry s
  | .syncInPulse => Sys2Proof.Machine.execSyncInPulse s
  | .load time epoch => Sys2Proof.Machine.execLoad time epoch s
  | .check time epoch => Sys2Proof.Machine.execCheck time epoch s
  | .rephase time epoch => Sys2Proof.Machine.execRephase time epoch s
  | .grazingWindowStart w => Sys2Proof.Machine.execGrazingWindowStart w s
  | .unitFillEnd u => Sys2Proof.Machine.execUnitFillEnd u s
  | .teardownDrainEnd slot => Sys2Proof.Machine.execTeardownDrainEnd slot s
  | .disableDrainEnd n => Sys2Proof.Machine.execDisableDrainEnd n s
  | .freezeDrainEnd n => Sys2Proof.Machine.execFreezeDrainEnd n s
  | .invalidateDrainEnd uid => Sys2Proof.Machine.execInvalidateDrainEnd uid s
  | .frameOwnDrainEnd uid => Sys2Proof.Machine.execFrameOwnDrainEnd uid s
  | .scrubEnd n => Sys2Proof.Machine.execScrubEnd n s
  | .drainLimitExpiry sl => Sys2Proof.Machine.execDrainLimitExpiry sl s
  | .drainUnitReset herd unit => Sys2Proof.Machine.execDrainUnitReset herd unit s
  | .unitResetTimeout herd unit => Sys2Proof.Machine.execUnitResetTimeout herd unit s
  | .foldResetTimeout n => Sys2Proof.Machine.execFoldResetTimeout n s
  | .instanceResetTimeout => Sys2Proof.Machine.execInstanceResetTimeout s
  | .suspectRerunTimeout uid => Sys2Proof.Machine.execSuspectRerunTimeout uid s
  | .carriedTaskTimeout uid => Sys2Proof.Machine.execCarriedTaskTimeout uid s
  | .collectiveTimeout uid => Sys2Proof.Machine.execCollectiveTimeout uid s
  | .resvTimeout uid => Sys2Proof.Machine.execResvTimeout uid s
  | .requestResend n seq => Sys2Proof.Machine.execRequestResend n seq s
  | .endToEndTimeout n seq => Sys2Proof.Machine.execEndToEndTimeout n seq s
  | .hostCompletionTimeout tag => Sys2Proof.Machine.execHostCompletionTimeout tag s
  | .hostCompletion tag status => Sys2Proof.Machine.execHostCompletion tag status s
  | .moderationTimerExpiry q => Sys2Proof.Machine.execModerationTimerExpiry q s
  | .weirMissWindowEnd => Sys2Proof.Machine.execWeirMissWindowEnd s
  | .powerEstimateUpdate estimate temp => Sys2Proof.Machine.execPowerEstimateUpdate estimate temp s
  | .gaugeSample g v => Sys2Proof.Machine.execGaugeSample g v s
  | .aliveToggle => Sys2Proof.Machine.execAliveToggle s
  | .droverWatchdogLapse => Sys2Proof.Machine.execDroverWatchdogLapse s
  | .watchdogRefresh => Sys2Proof.Machine.execWatchdogRefresh s
  | .unitRetire bit => Sys2Proof.Machine.execUnitRetire bit s
  | .capacityDrop cls => Sys2Proof.Machine.execCapacityDrop cls s
  | .domainPowerDown dom => Sys2Proof.Machine.execDomainPowerDown dom s
  | .domainAck dom level => Sys2Proof.Machine.execDomainAck dom level s
  | .domainAckTimeout dom => Sys2Proof.Machine.execDomainAckTimeout dom s
  | .railWarning src => Sys2Proof.Machine.execRailWarning src s
  | .brownoutRelease => Sys2Proof.Machine.execBrownoutRelease s
  | .railReset rail => Sys2Proof.Machine.execRailReset rail s
  | .thermalShutdown => Sys2Proof.Machine.execThermalShutdown s
  | .resetNAssert => Sys2Proof.Machine.execResetNAssert s
  | .resetNRelease => Sys2Proof.Machine.execResetNRelease s
  | .hpFlr => Sys2Proof.Machine.execHpFlr s
  | .hpLinkUpChange up speed width => Sys2Proof.Machine.execHpLinkUpChange up speed width s
  | .flitReceive p f good => Sys2Proof.Machine.execFlitReceive p f good s
  | .controlFlit p c => Sys2Proof.Machine.execControlFlit p c s
  | .controlFlitTimer p => Sys2Proof.Machine.execControlFlitTimer p s
  | .linkSilence p => Sys2Proof.Machine.execLinkSilence p s
  | .laneFailure p lane => Sys2Proof.Machine.execLaneFailure p lane s
  | .rekeyCount p => Sys2Proof.Machine.execRekeyCount p s
  | .paddingSlot p n lc => Sys2Proof.Machine.execPaddingSlot p n lc s
  | .packetRead k => Sys2Proof.Machine.execPacketRead k s
  | .packetWrite k => Sys2Proof.Machine.execPacketWrite k s
  | .packetAtomic k => Sys2Proof.Machine.execPacketAtomic k s
  | .packetReduce k => Sys2Proof.Machine.execPacketReduce k s
  | .packetFence k => Sys2Proof.Machine.execPacketFence k s
  | .readData k => Sys2Proof.Machine.execReadData k s
  | .packetAck k => Sys2Proof.Machine.execPacketAck k s
  | .refuse k => Sys2Proof.Machine.execRefuse k s
  | .task k => Sys2Proof.Machine.execTask k s
  | .taskResult k => Sys2Proof.Machine.execTaskResult k s
  | .coll k => Sys2Proof.Machine.execColl k s
  | .mgmt p k m => Sys2Proof.Machine.execMgmt p k m s
  | .spdm p m done good => Sys2Proof.Machine.execSpdm p m done good s
  | .prepare n h mh recs => Sys2Proof.Machine.execPrepare n h mh recs s
  | .mapAck n h => Sys2Proof.Machine.execMapAck n h s
  | .nak n h => Sys2Proof.Machine.execNak n h s
  | .exclude n h members => Sys2Proof.Machine.execExclude n h members s
  | .abort n h => Sys2Proof.Machine.execAbort n h s
  | .snapshot h n first entries => Sys2Proof.Machine.execSnapshot h n first entries s
  | .twinDigest h recs => Sys2Proof.Machine.execTwinDigest h recs s
  | .twinHalt h => Sys2Proof.Machine.execTwinHalt h s
  | .spdmFold h m done good => Sys2Proof.Machine.execSpdmFold h m done good s
  | .resvReq h n d bytes => Sys2Proof.Machine.execResvReq h n d bytes s
  | .resvAns h uid status ans bytes => Sys2Proof.Machine.execResvAns h uid status ans bytes s
  | .disclaim h uid => Sys2Proof.Machine.execDisclaim h uid s
  | .resvResolve h n key request token => Sys2Proof.Machine.execResvResolve h n key request token s
  | .query h n key => Sys2Proof.Machine.execQuery h n key s
  | .queryAns h n key recs => Sys2Proof.Machine.execQueryAns h n key recs s
  | .resolveAns h uid status token digest => Sys2Proof.Machine.execResolveAns h uid status token digest s
  | .drop h n key token => Sys2Proof.Machine.execDrop h n key token s
  | .handover h n hr page => Sys2Proof.Machine.execHandover h n hr page s
  | .handoverFillEnd n => Sys2Proof.Machine.execHandoverFillEnd n s
  | .stackReadData ch tag status => Sys2Proof.Machine.execStackReadData ch tag status s
  | .stackWriteAck ch tag status => Sys2Proof.Machine.execStackWriteAck ch tag status s
  | .stackPacket src k => Sys2Proof.Machine.execStackPacket src k s
  | .entdaa addr => Sys2Proof.Machine.execEntdaa addr s
  | .setEndpointId src eid => Sys2Proof.Machine.execSetEndpointId src eid s
  | .getEndpointId src dst => Sys2Proof.Machine.execGetEndpointId src dst s
  | .getEndpointUuid src dst => Sys2Proof.Machine.execGetEndpointUuid src dst s
  | .getMctpVersionSupport src dst mtype => Sys2Proof.Machine.execGetMctpVersionSupport src dst mtype s
  | .getMessageTypeSupport src dst => Sys2Proof.Machine.execGetMessageTypeSupport src dst s
  | .mctpResponseExpiry => Sys2Proof.Machine.execMctpResponseExpiry s
  | .getVersion path m => Sys2Proof.Machine.execGetVersion path m s
  | .getCapabilities path m => Sys2Proof.Machine.execGetCapabilities path m s
  | .negotiateAlgorithms path m => Sys2Proof.Machine.execNegotiateAlgorithms path m s
  | .getDigests path m => Sys2Proof.Machine.execGetDigests path m s
  | .getCertificate path m => Sys2Proof.Machine.execGetCertificate path m s
  | .challenge path m => Sys2Proof.Machine.execChallenge path m s
  | .getMeasurements path m => Sys2Proof.Machine.execGetMeasurements path m s
  | .keyExchange path m => Sys2Proof.Machine.execKeyExchange path m s
  | .finish path m => Sys2Proof.Machine.execFinish path m s
  | .heartbeat path m => Sys2Proof.Machine.execHeartbeat path m s
  | .keyUpdate path m => Sys2Proof.Machine.execKeyUpdate path m s
  | .endSession path m => Sys2Proof.Machine.execEndSession path m s
  | .bypass tdi => Sys2Proof.Machine.execBypass tdi s
  | .idcode => Sys2Proof.Machine.execIdcode s
  | .samplePreload v => Sys2Proof.Machine.execSamplePreload v s
  | .extest v => Sys2Proof.Machine.execExtest v s
  | .dbgDict v => Sys2Proof.Machine.execDbgDict v s
  | .nop t f => Sys2Proof.Machine.execNop t f s
  | .bra t f => Sys2Proof.Machine.execBra t f s
  | .brx t f => Sys2Proof.Machine.execBrx t f s
  | .call t f => Sys2Proof.Machine.execCall t f s
  | .ret t f => Sys2Proof.Machine.execRet t f s
  | .join t f => Sys2Proof.Machine.execJoin t f s
  | .bar t f => Sys2Proof.Machine.execBar t f s
  | .exit t f => Sys2Proof.Machine.execExit t f s
  | .trap t f => Sys2Proof.Machine.execTrap t f s
  | .s2r t f sr => Sys2Proof.Machine.execS2r t f sr s
  | .vote t f op flag => Sys2Proof.Machine.execVote t f op flag s
  | .shfl t f => Sys2Proof.Machine.execShfl t f s
  | .iadd t f => Sys2Proof.Machine.execIadd t f s
  | .isub t f => Sys2Proof.Machine.execIsub t f s
  | .imul t f => Sys2Proof.Machine.execImul t f s
  | .imad t f => Sys2Proof.Machine.execImad t f s
  | .idiv t f signed => Sys2Proof.Machine.execIdiv t f signed s
  | .irem t f signed => Sys2Proof.Machine.execIrem t f signed s
  | .imin t f signed => Sys2Proof.Machine.execImin t f signed s
  | .imax t f signed => Sys2Proof.Machine.execImax t f signed s
  | .isetp t f c signed => Sys2Proof.Machine.execIsetp t f c signed s
  | .iaddi t f => Sys2Proof.Machine.execIaddi t f s
  | .andI t f => Sys2Proof.Machine.execAnd t f s
  | .orI t f => Sys2Proof.Machine.execOr t f s
  | .xorI t f => Sys2Proof.Machine.execXor t f s
  | .notI t f => Sys2Proof.Machine.execNot t f s
  | .shl t f => Sys2Proof.Machine.execShl t f s
  | .shr t f => Sys2Proof.Machine.execShr t f s
  | .sar t f => Sys2Proof.Machine.execSar t f s
  | .popc t f => Sys2Proof.Machine.execPopc t f s
  | .clz t f => Sys2Proof.Machine.execClz t f s
  | .bfe t f => Sys2Proof.Machine.execBfe t f s
  | .bfi t f => Sys2Proof.Machine.execBfi t f s
  | .movi t f => Sys2Proof.Machine.execMovi t f s
  | .sel t f flag => Sys2Proof.Machine.execSel t f flag s
  | .mov t f => Sys2Proof.Machine.execMov t f s
  | .fadd t f sg => Sys2Proof.Machine.execFadd t f sg s
  | .fsub t f sg => Sys2Proof.Machine.execFsub t f sg s
  | .fmul t f sg => Sys2Proof.Machine.execFmul t f sg s
  | .ffma t f sg => Sys2Proof.Machine.execFfma t f sg s
  | .fmin t f sg => Sys2Proof.Machine.execFmin t f sg s
  | .fmax t f sg => Sys2Proof.Machine.execFmax t f sg s
  | .fsetp t f c sg => Sys2Proof.Machine.execFsetp t f c sg s
  | .cvt t f src dst rnd sat => Sys2Proof.Machine.execCvt t f src dst rnd sat s
  | .rcp t f => Sys2Proof.Machine.execRcp t f s
  | .sqrt t f => Sys2Proof.Machine.execSqrt t f s
  | .rsq t f => Sys2Proof.Machine.execRsq t f s
  | .ex2 t f => Sys2Proof.Machine.execEx2 t f s
  | .lg2 t f => Sys2Proof.Machine.execLg2 t f s
  | .rcpA t f => Sys2Proof.Machine.execRcpA t f s
  | .rsqA t f => Sys2Proof.Machine.execRsqA t f s
  | .ex2A t f => Sys2Proof.Machine.execEx2A t f s
  | .lg2A t f => Sys2Proof.Machine.execLg2A t f s
  | .lclr t f => Sys2Proof.Machine.execLclr t f s
  | .lacc t f isInt => Sys2Proof.Machine.execLacc t f isInt s
  | .lmul t f => Sys2Proof.Machine.execLmul t f s
  | .ladd t f => Sys2Proof.Machine.execLadd t f s
  | .lfin t f dst bound => Sys2Proof.Machine.execLfin t f dst bound s
  | .lld t f isLocal => Sys2Proof.Machine.execLld t f isLocal s
  | .lst t f isLocal => Sys2Proof.Machine.execLst t f isLocal s
  | .philox t f => Sys2Proof.Machine.execPhilox t f s
  | .rng t f => Sys2Proof.Machine.execRng t f s
  | .ld t f => Sys2Proof.Machine.execLd t f s
  | .st t f => Sys2Proof.Machine.execSt t f s
  | .ldl t f => Sys2Proof.Machine.execLdl t f s
  | .stl t f => Sys2Proof.Machine.execStl t f s
  | .pref t f => Sys2Proof.Machine.execPref t f s
  | .atomAdd t f isLocal => Sys2Proof.Machine.execAtomAdd t f isLocal s
  | .atomAnd t f isLocal => Sys2Proof.Machine.execAtomAnd t f isLocal s
  | .atomOr t f isLocal => Sys2Proof.Machine.execAtomOr t f isLocal s
  | .atomXor t f isLocal => Sys2Proof.Machine.execAtomXor t f isLocal s
  | .atomMin t f isLocal => Sys2Proof.Machine.execAtomMin t f isLocal s
  | .atomMax t f isLocal => Sys2Proof.Machine.execAtomMax t f isLocal s
  | .atomXchg t f isLocal => Sys2Proof.Machine.execAtomXchg t f isLocal s
  | .atomCas t f isLocal => Sys2Proof.Machine.execAtomCas t f isLocal s
  | .atomFadd t f isLocal => Sys2Proof.Machine.execAtomFadd t f isLocal s
  | .laddToMemory t f => Sys2Proof.Machine.execLaddToMemory t f s
  | .bndmax t f => Sys2Proof.Machine.execBndmax t f s
  | .fence t f => Sys2Proof.Machine.execFence t f s
  | .timebaseFrameError => Sys2Proof.Machine.execTimebaseFrameError s
  | .fuseAck data err => Sys2Proof.Machine.execFuseAck data err s
  | .fuseAckTimeout => Sys2Proof.Machine.execFuseAckTimeout s
  | .stackCreditReturn ch count => Sys2Proof.Machine.execStackCreditReturn ch count s
  | .hpMsixAck => Sys2Proof.Machine.execHpMsixAck s
  | .receiverLock p => Sys2Proof.Machine.execReceiverLock p s
  | .trainingFailed p => Sys2Proof.Machine.execTrainingFailed p s
  | .flitSlot p => Sys2Proof.Machine.execFlitSlot p s
  | .capacityRise rate => Sys2Proof.Machine.execCapacityRise rate s
  | .weirMeterRefresh => Sys2Proof.Machine.execWeirMeterRefresh s
  | .abandonedRequestExpiry slot gen => Sys2Proof.Machine.execAbandonedRequestExpiry slot gen s
  | .unitResetEnd herd unit => Sys2Proof.Machine.execUnitResetEnd herd unit s
  | .foldResetResponseLimit n => Sys2Proof.Machine.execFoldResetResponseLimit n s
  | .topologyAgreementTimeout => Sys2Proof.Machine.execTopologyAgreementTimeout s
  | .virminFailureReport code => Sys2Proof.Machine.execVirminFailureReport code s

end Sys2Proof.Machine
end

