-- ==== Sys2Proof/Machine/Step.lean ====
section
/-! DEFINITION. One step: the command at the front of the queue of waiting commands runs with the queue's rest; on an empty
queue one REFCLK_100 edge passes (log entry 31). -/

namespace Sys2Proof.Machine

/-- One step of the block. -/
def step (s : State) : Host.Outcome State Fault Refusal :=
  match s.pending with
  | [] => .next (tick s)
  | c :: rest => exec c { s with pending := rest }

/-- A command put at the front of the queue. -/
def State.enqueueFront (s : State) (c : Instr) : State := { s with pending := c :: s.pending }

/-- The state with the command a table word spells in front; unchanged where the word spells none. -/
def State.withFetchWord (s : State) (nbits w : Nat) : State :=
  match decodeTableWord nbits w with
  | some c => s.enqueueFront c
  | none => s

end Sys2Proof.Machine
end

