-- ==== Sys2Proof/WellFormed.lean ====
section
/-! DEFINITION. Well-formed commands: a descriptor's or request's opcode and op are its row's, a packet's type is its row's, and
every operand names an object the block has. `exec` turns away exactly the commands that are not well formed. -/

namespace Sys2Proof

/-- A queue number (R171, R172): 4,096 queues. -/
def queueOk (q : Nat) : Bool := decide (q < 4096)
/-- A fold number (R225). -/
def foldOk (n : Nat) : Bool := decide (n < 16)
/-- A scale-link port (R333). -/
def portOk (p : Nat) : Bool := decide (p < 2)
/-- The opcode of a descriptor is [63:56] (R175). -/
def opIs (d : BitVec 512) (v : Nat) : Bool := (d.toNat >>> 56) % 256 == v
/-- Field [lo + len - 1 : lo] of a descriptor (R10). -/
def fieldIs (d : BitVec 512) (lo len v : Nat) : Bool := (d.toNat >>> lo) % 2 ^ len == v
/-- The op of a request at 0x4200.20 is [7:0] (R172). -/
def requestIs (r : BitVec 512) (v : Nat) : Bool := (r.toNat >>> 0) % 256 == v
/-- A packet's type (R347). -/
def typeIs (k : Packet) (t : Byte) : Bool := k.ptype == t
/-- A flit carries at most 242 bytes in one of 34 virtual channels (R334). -/
def flitOk (f : Flit) : Bool := decide (f.vc < 34) && decide (f.payload.length ≤ 242)
/-- A logical engine, or a half-group (R73, R101). -/
def unitOk (herd : Bool) (unit : Nat) : Bool := decide (unit < if herd then 16 else 32)
/-- A rail group (R388), or the PWR_WARN pin. -/
def railOk : RailSource → Bool
  | .group i => decide (i < 8)
  | .pwrWarn => true
/-- A gauge (R269). -/
def gaugeOk : GaugeId → Bool
  | .clkArr => true
  | .clkHerd => true
  | .power => true
  | .temp => true
  | .rail i => decide (i < 8)
  | .fold n k => decide (n < 16) && decide (k < 8)

/-- The command is one of its row's. -/
def Instr.wf (i : Instr) : Bool :=
  match i with
  | .tileTask q d => queueOk q && opIs d 1
  | .herdLaunch q d => queueOk q && opIs d 2
  | .moveCopy q d => queueOk q && opIs d 3 && fieldIs d 70 2 0
  | .moveFill q d => queueOk q && opIs d 3 && fieldIs d 70 2 1
  | .moveReduce q d => queueOk q && opIs d 3 && fieldIs d 70 2 2
  | .fenceSignal q d => queueOk q && opIs d 4
  | .fenceWait q d => queueOk q && opIs d 5
  | .semAcquire q d => queueOk q && opIs d 6
  | .semRelease q d => queueOk q && opIs d 7
  | .allReduce q d => queueOk q && opIs d 8 && fieldIs d 340 4 0
  | .reduce q d => queueOk q && opIs d 8 && fieldIs d 340 4 1
  | .broadcast q d => queueOk q && opIs d 8 && fieldIs d 340 4 2
  | .allGather q d => queueOk q && opIs d 8 && fieldIs d 340 4 3
  | .modelLoad q d => queueOk q && opIs d 9
  | .modelEvict q d => queueOk q && opIs d 10
  | .resvLookup q d => queueOk q && opIs d 11 && fieldIs d 92 4 0
  | .resvReserve q d => queueOk q && opIs d 11 && fieldIs d 92 4 1
  | .resvFill q d => queueOk q && opIs d 11 && fieldIs d 92 4 2
  | .resvCommit q d => queueOk q && opIs d 11 && fieldIs d 92 4 3
  | .resvRead q d => queueOk q && opIs d 11 && fieldIs d 92 4 4
  | .resvRelease q d => queueOk q && opIs d 11 && fieldIs d 92 4 5
  | .mark q d => queueOk q && opIs d 12
  | .setRoot q d => queueOk q && opIs d 16 && fieldIs d 128 4 1
  | .frameOwn q d => queueOk q && opIs d 16 && fieldIs d 128 4 2
  | .window q d => queueOk q && opIs d 16 && fieldIs d 128 4 3
  | .resolve q d => queueOk q && opIs d 16 && fieldIs d 128 4 4
  | .invalidate q d => queueOk q && opIs d 17
  | .contextCreate q d => queueOk q && opIs d 18
  | .contextTeardown q d => queueOk q && opIs d 19
  | .foldFreeze q d => queueOk q && opIs d 20 && fieldIs d 132 1 0
  | .foldThaw q d => queueOk q && opIs d 20 && fieldIs d 132 1 1
  | .foldExport q d => queueOk q && opIs d 21
  | .foldImport q d => queueOk q && opIs d 22
  | .suspectReview q d => queueOk q && opIs d 23
  | .engineReset q d => queueOk q && opIs d 24
  | .foldReset q d => queueOk q && opIs d 25
  | .hqiCreate r => requestIs r 1
  | .hqiDestroy r => requestIs r 2
  | .queueCreate r => requestIs r 3
  | .queueDestroy r => requestIs r 4
  | .queueResume r => requestIs r 5
  | .semAlloc r => requestIs r 6
  | .semFree r => requestIs r 7
  | .commit n => foldOk n
  | .cancel n => foldOk n
  | .disable n => foldOk n
  | .enable n => foldOk n
  | .scrub n => foldOk n
  | .delete n => foldOk n
  | .propose => true
  | .promote => true
  | .train p => portOk p
  | .trainFast p => portOk p
  | .down p => portOk p
  | .rekey p => portOk p
  | .journalEnable => true
  | .journalDisable => true
  | .instanceReset => true
  | .powerCycleRequest => true
  | .collectorAck .. => true
  | .configLock .. => true
  | .bundleChunk bytes => bytes.length == 256
  | .bootGo => true
  | .switchEpochWrite .. => true
  | .lenSwitchEpochWrite .. => true
  | .startEpochWrite .. => true
  | .hostCapWrite .. => true
  | .gaugeClear .. => true
  | .dictRead .. => true
  | .dictWrite .. => true
  | .registerWrite .. => true
  | .doorbell h loc _ => decide (h < 256) && decide (loc < 64)
  | .cqHeadWrite h loc _ => decide (h < 256) && decide (loc < 64)
  | .fenceDb h _ => decide (h < 256)
  | .kqEnable => true
  | .faultRingEnable => true
  | .faultRingDisable => true
  | .frRdWrite .. => true
  | .jnlRdWrite .. => true
  | .mbxDataWrite _ ch _ _ => decide (ch < 64)
  | .mbxAck _ ch _ => decide (ch < 64)
  | .debugEnableWrite .. => true
  | .descriptorFetch q => queueOk q
  | .descriptorBatchArrival q => queueOk q
  | .descriptorReadFailure q => queueOk q
  | .taskReady .. => true
  | .tileStart e => decide (e < 32)
  | .tileComplete e => decide (e < 32)
  | .gangPlace core => decide (core < 128)
  | .launchTrapRecord .. => true
  | .memoryResponse .. => true
  | .modelPark n _ => foldOk n
  | .modelReload slot => decide (slot < 512)
  | .boundaryPredictionExpiry => true
  | .syncInPulse => true
  | .load .. => true
  | .check .. => true
  | .rephase .. => true
  | .grazingWindowStart w => decide (w < 64)
  | .unitFillEnd .. => true
  | .teardownDrainEnd slot => decide (slot < 512)
  | .disableDrainEnd n => foldOk n
  | .freezeDrainEnd n => foldOk n
  | .invalidateDrainEnd .. => true
  | .frameOwnDrainEnd .. => true
  | .scrubEnd n => foldOk n
  | .drainLimitExpiry .. => true
  | .drainUnitReset herd unit => unitOk herd unit
  | .unitResetTimeout herd unit => unitOk herd unit
  | .foldResetTimeout n => foldOk n
  | .instanceResetTimeout => true
  | .suspectRerunTimeout .. => true
  | .carriedTaskTimeout .. => true
  | .collectiveTimeout .. => true
  | .resvTimeout .. => true
  | .requestResend n _ => foldOk n
  | .endToEndTimeout n _ => foldOk n
  | .hostCompletionTimeout .. => true
  | .hostCompletion .. => true
  | .moderationTimerExpiry q => queueOk q
  | .weirMissWindowEnd => true
  | .powerEstimateUpdate .. => true
  | .gaugeSample g _ => gaugeOk g
  | .aliveToggle => true
  | .droverWatchdogLapse => true
  | .watchdogRefresh => true
  | .unitRetire bit => decide (bit < 768)
  | .capacityDrop .. => true
  | .domainPowerDown dom => decide (dom < 106)
  | .domainAck dom _ => decide (dom < 106)
  | .domainAckTimeout dom => decide (dom < 106)
  | .railWarning src => railOk src
  | .brownoutRelease => true
  | .railReset i => decide (i < 8)
  | .thermalShutdown => true
  | .resetNAssert => true
  | .resetNRelease => true
  | .hpFlr => true
  | .hpLinkUpChange .. => true
  | .flitReceive p f _ => portOk p && flitOk f
  | .controlFlit p _ => portOk p
  | .controlFlitTimer p => portOk p
  | .linkSilence p => portOk p
  | .laneFailure p lane => portOk p && decide (lane < 8)
  | .rekeyCount p => portOk p
  | .paddingSlot p n _ => portOk p && foldOk n
  | .packetRead k => typeIs k 1
  | .packetWrite k => typeIs k 2
  | .packetAtomic k => typeIs k 3
  | .packetReduce k => typeIs k 4
  | .packetFence k => typeIs k 5
  | .readData k => typeIs k 8
  | .packetAck k => typeIs k 9
  | .refuse k => typeIs k 10
  | .task k => typeIs k 16
  | .taskResult k => typeIs k 17
  | .coll k => typeIs k 18
  | .mgmt p k _ => portOk p && typeIs k 0x31
  | .spdm p _ _ _ => portOk p
  | .prepare n _ _ _ => foldOk n
  | .mapAck n _ => foldOk n
  | .nak n _ => foldOk n
  | .exclude n _ _ => foldOk n
  | .abort n _ => foldOk n
  | .snapshot _ n _ _ => foldOk n
  | .twinDigest .. => true
  | .twinHalt .. => true
  | .spdmFold .. => true
  | .resvReq _ n _ _ => foldOk n.fold
  | .resvAns .. => true
  | .disclaim .. => true
  | .resvResolve _ n _ _ _ => foldOk n
  | .query _ n _ => foldOk n
  | .queryAns _ n _ _ => foldOk n
  | .resolveAns .. => true
  | .drop _ n _ _ => foldOk n
  | .handover _ n _ _ => foldOk n
  | .handoverFillEnd n => foldOk n
  | .stackReadData .. => true
  | .stackWriteAck .. => true
  | .stackPacket src _ => decide (src.vc < 34)
  | .entdaa .. => true
  | .setEndpointId .. => true
  | .getEndpointId .. => true
  | .getEndpointUuid .. => true
  | .getMctpVersionSupport .. => true
  | .getMessageTypeSupport .. => true
  | .mctpResponseExpiry => true
  | .getVersion .. => true
  | .getCapabilities .. => true
  | .negotiateAlgorithms .. => true
  | .getDigests .. => true
  | .getCertificate .. => true
  | .challenge .. => true
  | .getMeasurements .. => true
  | .keyExchange .. => true
  | .finish .. => true
  | .heartbeat .. => true
  | .keyUpdate .. => true
  | .endSession .. => true
  | .bypass .. => true
  | .idcode => true
  | .samplePreload .. => true
  | .extest .. => true
  | .dbgDict .. => true
  | .nop .. => true
  | .bra .. => true
  | .brx .. => true
  | .call .. => true
  | .ret .. => true
  | .join .. => true
  | .bar .. => true
  | .exit .. => true
  | .trap .. => true
  | .s2r .. => true
  | .vote .. => true
  | .shfl .. => true
  | .iadd .. => true
  | .isub .. => true
  | .imul .. => true
  | .imad .. => true
  | .idiv .. => true
  | .irem .. => true
  | .imin .. => true
  | .imax .. => true
  | .isetp .. => true
  | .iaddi .. => true
  | .andI .. => true
  | .orI .. => true
  | .xorI .. => true
  | .notI .. => true
  | .shl .. => true
  | .shr .. => true
  | .sar .. => true
  | .popc .. => true
  | .clz .. => true
  | .bfe .. => true
  | .bfi .. => true
  | .movi .. => true
  | .sel .. => true
  | .mov .. => true
  | .fadd .. => true
  | .fsub .. => true
  | .fmul .. => true
  | .ffma .. => true
  | .fmin .. => true
  | .fmax .. => true
  | .fsetp .. => true
  | .cvt .. => true
  | .rcp .. => true
  | .sqrt .. => true
  | .rsq .. => true
  | .ex2 .. => true
  | .lg2 .. => true
  | .rcpA .. => true
  | .rsqA .. => true
  | .ex2A .. => true
  | .lg2A .. => true
  | .lclr .. => true
  | .lacc .. => true
  | .lmul .. => true
  | .ladd .. => true
  | .lfin .. => true
  | .lld .. => true
  | .lst .. => true
  | .philox .. => true
  | .rng .. => true
  | .ld .. => true
  | .st .. => true
  | .ldl .. => true
  | .stl .. => true
  | .pref .. => true
  | .atomAdd .. => true
  | .atomAnd .. => true
  | .atomOr .. => true
  | .atomXor .. => true
  | .atomMin .. => true
  | .atomMax .. => true
  | .atomXchg .. => true
  | .atomCas .. => true
  | .atomFadd .. => true
  | .laddToMemory .. => true
  | .bndmax .. => true
  | .fence .. => true
  | .timebaseFrameError => true
  | .fuseAck .. => true
  | .fuseAckTimeout => true
  | .stackCreditReturn ch count => decide (ch < 64) && decide (count < 16)
  | .hpMsixAck => true
  | .receiverLock p => portOk p
  | .trainingFailed p => portOk p
  | .flitSlot p => portOk p
  | .capacityRise .. => true
  | .weirMeterRefresh => true
  | .abandonedRequestExpiry slot gen => decide (slot < 512) && decide (gen < 8)
  | .unitResetEnd herd unit => unitOk herd unit
  | .foldResetResponseLimit n => foldOk n
  | .topologyAgreementTimeout => true
  | .virminFailureReport .. => true

end Sys2Proof
end

