-- ==== Sys2Proof/Safety.lean ====
section
/-! DEFINITION. The terms statements use: the canonical form of the state's tables, a block at rest, a thread group that can
issue and what an instruction leaves in its registers, and how a queue is answered. -/

namespace Sys2Proof.Machine

/-! ### The canonical form -/

/-- A thread group's registers, flags and draw counts are canonical tables. -/
def groupCanon (g : Group) : Bool := Tab.wf 0 g.regs && Tab.wf 0 g.flags && Tab.wf 0 g.draws

/-- A gang's local store and its groups are canonical. -/
def gangCanon (x : Gang) : Bool := Tab.wf 0 x.store && x.groups.all groupCanon

/-- The four memories are in canonical form (log entry 2). -/
def memsCanon (s : State) : Bool := Tab.wf 0 s.pond && Tab.wf 0 s.tarn && Tab.wf 0 s.far && Tab.wf 0 s.host

/-- Every memory, every table of indexed objects and every gang is in canonical form, so that equal contents are equal data. -/
def canon (s : State) : Bool :=
  memsCanon s && Tab.wf 0 s.xlate.frames && Tab.wf 0 s.xlate.keyOf && s.herd.gangs.all gangCanon && Tab.wf Fold.reset s.folds && Tab.wf Ctx.reset s.ctxs &&
    Tab.wf Hqi.reset s.hqis && Tab.wf Queue.reset s.queues && Tab.wf Sem.reset s.sems && Tab.wf Engine.reset s.engines &&
    Tab.wf Half.reset s.halves && Tab.wf Port.reset s.ports

/-! ### A block at rest -/

/-- Nothing but accepted commands can go on by itself: no access, request or message waits, no packet is carried out, no fold hands
over or resets or waits for a proposal's record, a unit that is held is under reset or claimed by a command, no domain is down, no
queue waits for READY or to be read again, no reservoir resolution or twin digest is open. -/
def still (s : State) : Bool :=
  s.hostPort.accesses.isEmpty && s.net.outbox.isEmpty && s.net.serving.isEmpty && s.xlate.held.isEmpty &&
    s.resvG.resolutions.isEmpty && s.twin.own.isEmpty && s.power.down == 0 && s.flock.proposing.isNone &&
    (s.folds.all fun p => p.2.state != .resetting && !p.2.resv.leaving) &&
    (s.queues.all fun p => p.2.state != .notReady) &&
    (s.engines.all fun p => p.2.queue.isEmpty &&
      (!p.2.blocked || p.2.resetting || p.2.abandoned || unitClaimed s false p.1)) &&
    (s.halves.all fun p => !p.2.blocked || p.2.resetting || unitClaimed s true p.1)

/-- A block at rest: still, no command accepted and not completed, no context boosted. -/
def atRest (s : State) : Bool := s.cmds.isEmpty && still s && s.ctxs.all fun p => !p.2.boosted

/-! ### Commands of queues -/

/-- The queue and descriptor of a row that is a descriptor. -/
def descriptorOf (i : Instr) : Option (Nat × BitVec 512) :=
  match i with
  | .tileTask q d => some (q, d)
  | .herdLaunch q d => some (q, d)
  | .moveCopy q d => some (q, d)
  | .moveFill q d => some (q, d)
  | .moveReduce q d => some (q, d)
  | .fenceSignal q d => some (q, d)
  | .fenceWait q d => some (q, d)
  | .semAcquire q d => some (q, d)
  | .semRelease q d => some (q, d)
  | .allReduce q d => some (q, d)
  | .reduce q d => some (q, d)
  | .broadcast q d => some (q, d)
  | .allGather q d => some (q, d)
  | .modelLoad q d => some (q, d)
  | .modelEvict q d => some (q, d)
  | .resvLookup q d => some (q, d)
  | .resvReserve q d => some (q, d)
  | .resvFill q d => some (q, d)
  | .resvCommit q d => some (q, d)
  | .resvRead q d => some (q, d)
  | .resvRelease q d => some (q, d)
  | .mark q d => some (q, d)
  | .setRoot q d => some (q, d)
  | .frameOwn q d => some (q, d)
  | .window q d => some (q, d)
  | .resolve q d => some (q, d)
  | .invalidate q d => some (q, d)
  | .contextCreate q d => some (q, d)
  | .contextTeardown q d => some (q, d)
  | .foldFreeze q d => some (q, d)
  | .foldThaw q d => some (q, d)
  | .foldExport q d => some (q, d)
  | .foldImport q d => some (q, d)
  | .suspectReview q d => some (q, d)
  | .engineReset q d => some (q, d)
  | .foldReset q d => some (q, d)
  | _ => none

/-- The descriptor passes the checks of R177 at the head of its queue. -/
def accepts (q : Nat) (d : BitVec 512) (s : State) : Bool :=
  mayRead s q && !(q != 0 && flockClosed s (queueAt s q).tag) && !queueClosed s q && bindingOk (queueAt s q) q d &&
    !(privileged (opcodeOf d) && q != 0) && opcodeAccepted s q (opcodeOf d) && seqOf d == (queueAt s q).nextSeq

/-- A queue's head has passed one descriptor: the state its checks of acceptance leave (R177). -/
def headPassed (q : Nat) (s : State) : State :=
  let x := queueAt s q
  let s1 := setQueue s q { x with sqHead := x.sqHead + 1, batch := x.batch - 1 }
  if x.headWb = 0 then s1 else hostWrite x.headWb.toNat (leBytes 8 (x.sqHead + 1).toNat) s1

/-- The command a queue's descriptor becomes when it is accepted, and the state that holds it (R177). -/
def accepted (q : Nat) (d : BitVec 512) (s : State) : Cmd := newCmd (headPassed q s) q d
def taken (q : Nat) (d : BitVec 512) (s : State) : State := admitCmd q d (headPassed q s)

/-- A descriptor is accepted in a block at rest with no twin enabled, and its fold dispatches: the command starts at once. -/
def alone (q : Nat) (d : BitVec 512) (s : State) : Prop :=
  q < 4096 ∧ accepts q d s = true ∧ canon s = true ∧ atRest s = true ∧ s.twin.state = 0 ∧
    (s.sems.all fun p => p.2.waiters.isEmpty) = true ∧
    ((q = 0 ∧ (queueAt s 0).tag = 0) ∨ (q ≠ 0 ∧ (foldAt s (tagFold (queueAt s q).tag)).state = .active ∧
      (foldAt s (tagFold (queueAt s q).tag)).freezing = none))

/-- A kernel-queue descriptor is accepted in a still block beside one other command. -/
def beside (d : BitVec 512) (s : State) (x : Cmd) : Prop :=
  accepts 0 d s = true ∧ canon s = true ∧ still s = true ∧ s.cmds = [x] ∧ x.uid < s.nextUid ∧ s.twin.state = 0 ∧
    (s.sems.all fun p => p.2.waiters.isEmpty) = true ∧ (queueAt s 0).tag = 0 ∧
    (foldAt s (tagFold x.tag)).freezing = none

/-- The record a queue's completion ring holds for its newest completion (R176, R179). -/
def newestRecord (s : State) (q : Nat) : BitVec 256 :=
  let x := queueAt s q
  BitVec.ofNat 256 (ofLe (hostRead s (x.cring.toNat + ((x.cqTail - 1).toNat % ringEntries x) * 64) 32))

/-! ### Messages -/

/-- The fragments of a message from h's sender that have come on a virtual channel are all new to their sequence windows (R348,
R352). -/
def freshMsg (vc : Nat) (h : MsgHdr) (s : State) : Bool :=
  (fragmentsOf h.senderNode vc s.net.fragments).all fun x => seqJudge s x.2 == .fresh

/-- The state once those fragments are taken and acknowledged; s itself when none has come. -/
def msgTaken (vc : Nat) (h : MsgHdr) (s : State) : State := onMessage vc h (fun x => x) s

/-! ### Thread groups -/

/-- Between two states only what an access may change differs: translation state, the meters and gauges of folds, the stack and host
ports, the far-memory cache, counts of abandoned requests, and the count of free values. -/
def sameButAccess (s t : State) : Prop :=
  t = { s with xlate := t.xlate, folds := t.folds, ctxs := t.ctxs, gauges := t.gauges, weirG := t.weirG, stack := t.stack,
               hostPort := t.hostPort, poison := t.poison, free := t.free }

/-- The group can issue, as `i` shows it, and the word at its pc is read without a fault, an error or a wait; `s1` is the state after
the fetch (R136, R140, R149, R252). -/
def fetched (t : GroupRef) (guard : BitVec 4) (s : State) (i : Issue) (s1 : State) (w : W64) : Prop :=
  issueOf t guard s = some i ∧
    ∃ mem off s0 s2 bs, reach i.place i.cmd.tag i.grp.pc.toNat .fetch s = (.loc mem off, s0) ∧
      locRead i.cmd.tag mem off 8 (onBehalfAt i.cmd.uid i.master (some t) i.grp.pc s0) = (.ok bs, s2) ∧
      s1 = onBehalfOfNone s2 ∧ w = BitVec.ofNat 64 (ofLe bs)

/-- The group can issue under a guard that is not reserved, on a core without an error, and the word at its pc names an instruction
(R137, R138). -/
def issues (t : GroupRef) (guard : BitVec 4) (s : State) (i : Issue) (s1 : State) : Prop :=
  guard ≠ 8 ∧ coreError s1 i.gang.core = false ∧ ∃ w, fetched t guard s i s1 w ∧ wordReserved w = false

/-- Registers that an instruction names lie in the allocation of its launch (R138). -/
def allocated (rs : List Byte) (i : Issue) : Prop := ∀ r ∈ rs, r.toNat < hlRegs i.desc

/-- Two groups agree but for registers, flags and the program counter. -/
def sameControl (g h : Group) : Prop :=
  h.active = g.active ∧ h.alive = g.alive ∧ h.recon = g.recon ∧ h.rets = g.rets ∧ h.draws = g.draws ∧ h.wait = g.wait

/-- What an instruction that writes one register leaves: in each lane the guard selects the register holds the lane's value;
every other register, every flag and the group's control state are as they were; the pc is past the instruction. -/
def wroteReg (i : Issue) (rd : Byte) (v : Nat → W32) (h : Group) : Prop :=
  h.pc = i.grp.pc + 8 ∧ h.flags = i.grp.flags ∧ sameControl i.grp h ∧
    ∀ (lane : Nat) (r : Byte), getReg h lane r.toNat = if lane ∈ i.lanes ∧ r = rd then v lane else getReg i.grp lane r.toNat

/-- A command runs as an instruction of group t that writes one register. -/
def regResult (c : Instr) (t : GroupRef) (s s1 : State) (i : Issue) (rd : Byte) (v : Nat → W32) : Prop :=
  ∃ g, exec c s = .next (setGroup t g s1) ∧ wroteReg i rd v g

/-- What an instruction that writes one flag leaves. -/
def wroteFlag (i : Issue) (k : Nat) (b : Nat → Bool) (h : Group) : Prop :=
  h.pc = i.grp.pc + 8 ∧ h.regs = i.grp.regs ∧ sameControl i.grp h ∧
    ∀ lane j : Nat, (flagsOf h lane).getLsbD j =
      if lane ∈ i.lanes ∧ j + 1 = k then b lane else (flagsOf i.grp lane).getLsbD j

/-- A command runs as an instruction of group t that writes one flag. -/
def flagResult (c : Instr) (t : GroupRef) (s s1 : State) (i : Issue) (k : Nat) (b : Nat → Bool) : Prop :=
  ∃ g, exec c s = .next (setGroup t g s1) ∧ wroteFlag i k b g

/-- The value of a finite number as a rational. -/
def Val.rat : Val → ℚ
  | .fin neg m e => (sgn neg m : ℚ) * (2 : ℚ) ^ e
  | _ => 0

/-- What a ledger instruction leaves: the destination ledger in each selected lane; every register outside its eight, every
flag and the control state as they were; the pc past the instruction. -/
def wroteLedger (i : Issue) (d : Nat) (v : Nat → Ledger) (h : Group) : Prop :=
  h.pc = i.grp.pc + 8 ∧ h.flags = i.grp.flags ∧ sameControl i.grp h ∧ (∀ lane ∈ i.lanes, getLedger h lane d = v lane) ∧
    ∀ (lane : Nat) (r : Byte), ¬ (lane ∈ i.lanes ∧ 8 * d ≤ r.toNat ∧ r.toNat < 8 * d + 8) →
      getReg h lane r.toNat = getReg i.grp lane r.toNat

/-- What an instruction that writes four consecutive registers leaves in registers, flags and the pc. -/
def wroteFour (i : Issue) (rd : Nat) (w : Nat → W32 × W32 × W32 × W32) (h : Group) : Prop :=
  h.pc = i.grp.pc + 8 ∧ h.flags = i.grp.flags ∧
    (∀ lane ∈ i.lanes, getReg h lane rd = (w lane).1 ∧ getReg h lane (rd + 1) = (w lane).2.1 ∧
      getReg h lane (rd + 2) = (w lane).2.2.1 ∧ getReg h lane (rd + 3) = (w lane).2.2.2) ∧
    ∀ (lane : Nat) (r : Byte), ¬ (lane ∈ i.lanes ∧ rd ≤ r.toNat ∧ r.toNat < rd + 4) →
      getReg h lane r.toNat = getReg i.grp lane r.toNat

/-- The group has trapped: it waits as trapped with everything else as it stood, its launch is stopped, counts the trap and
keeps the first one, and nothing else changes (R138, R139, R141). -/
def trapped (t : GroupRef) (detail imm : Nat) (i : Issue) (s s' : State) : Prop :=
  groupAt s' t = some { i.grp with wait := .trapped } ∧
    s' = { s with herd := { s.herd with gangs := s'.herd.gangs }, cmds := s'.cmds } ∧
    s'.cmds = s.cmds.map fun c => if c.uid == t.launch then
      { c with launch := { c.launch with
          trap := some (firstTrap c.launch.trap {
            detail := detail, pc := i.grp.pc, gang := t.gang, group := t.group, lanes := i.grp.active,
            imm := BitVec.ofNat 16 imm, master := i.master, time := now s }),
          traps := c.launch.traps + 1, stopped := true, dataError := c.launch.dataError || detail == 0x29 } } else c

/-! ### Memory -/

/-- The bytes of memory `mem`: 0 pond, 1 tarn, 2 far memory, 3 host memory. -/
def memOf (s : State) (mem : Nat) : Mem :=
  match mem with
  | 0 => s.pond
  | 1 => s.tarn
  | 2 => s.far
  | _ => s.host

/-- Between two states only the bytes [off, off + n) of memory `mem` may differ. -/
def onlyStored (mem off n : Nat) (s t : State) : Prop :=
  ∀ m a, m < 4 → ¬ (m = mem ∧ off ≤ a ∧ a < off + n) → Tab.get 0 (memOf t m) a = Tab.get 0 (memOf s m) a

/-- The one lane an instruction selects has its address aligned to `align` bytes and reaches, at a displacement from it, `n` bytes at
an offset of the pond or the tarn for an access, with no error there, its weir open, and nothing it must wait for; `s2` is the state
after the translation (R114, R115, R118). -/
def laneReaches (t : GroupRef) (f : MFmt) (n align disp : Nat) (a : AccessKind) (s : State) (i : Issue) (lane mem off : Nat)
    (s2 : State) : Prop :=
  ∃ s1, issues t f.guard s i s1 ∧ i.lanes = [lane] ∧ globalAddr i f lane % align = 0 ∧ releaseWaits s1 f t i = false ∧
    reach i.place i.cmd.tag ((globalAddr i f lane + disp) % 2 ^ 64) a (onBehalfAt i.cmd.uid i.master (some t) i.grp.pc s1) =
      (.loc mem off, s2) ∧ mem < 2 ∧
    landOk s2 i.cmd.tag mem off = true ∧ reachable s2 i.cmd.tag mem off n = true ∧ poisoned s2 mem off n = false

end Sys2Proof.Machine
end

