-- ==== Sys2Proof/Certificates/Slice0/Obligations.lean ====
section
/-! DEFINITION. The statements about the block. Each docstring says what the statement claims; OBLIGATIONS.json gives the rules
of spec/ it cites. A clause that rests on a log entry of notes/assumptions names it. -/

open Sys2Proof Sys2Proof.Machine

/-- IADD, ISUB, IMUL, IMAD, IADDI, IMIN, IMAX, AND, OR, XOR, NOT, POPC, CLZ, MOVI, MOV and SEL of a group that can issue
answer a next state in which each lane the guard selects holds the instruction's 32-bit result in rd, the pc is past the
instruction, and every other register, the flags and the control state are as they were; only the group is stored, and
the fetch before it changes only what an access may (translation state, meters, ports, counts). The spec names these
instructions without stating their results (log entry 14); sums and products wrap at 32 bits. -/
def Obligations.IntegerAndMoveResults : Prop :=
  ∀ (t : GroupRef) (f : RFmt) (m : IFmt) (sg : Bool) (fl : BitVec 4) (s s1 : State) (i : Issue),
    Tab.wf 0 i.grp.regs = true →
    (issues t f.guard s i s1 → allocated [f.rd, f.ra, f.rb, f.rc] i →
      regResult (.iadd t f) t s s1 i f.rd (fun l => getReg i.grp l f.ra.toNat + getReg i.grp l f.rb.toNat) ∧
      regResult (.isub t f) t s s1 i f.rd (fun l => getReg i.grp l f.ra.toNat - getReg i.grp l f.rb.toNat) ∧
      regResult (.imul t f) t s s1 i f.rd (fun l => getReg i.grp l f.ra.toNat * getReg i.grp l f.rb.toNat) ∧
      regResult (.imad t f) t s s1 i f.rd
        (fun l => getReg i.grp l f.ra.toNat * getReg i.grp l f.rb.toNat + getReg i.grp l f.rc.toNat) ∧
      regResult (.imin t f sg) t s s1 i f.rd
        (fun l => if intLt sg (getReg i.grp l f.rb.toNat) (getReg i.grp l f.ra.toNat) then getReg i.grp l f.rb.toNat
          else getReg i.grp l f.ra.toNat) ∧
      regResult (.imax t f sg) t s s1 i f.rd
        (fun l => if intLt sg (getReg i.grp l f.ra.toNat) (getReg i.grp l f.rb.toNat) then getReg i.grp l f.rb.toNat
          else getReg i.grp l f.ra.toNat) ∧
      regResult (.andI t f) t s s1 i f.rd (fun l => getReg i.grp l f.ra.toNat &&& getReg i.grp l f.rb.toNat) ∧
      regResult (.orI t f) t s s1 i f.rd (fun l => getReg i.grp l f.ra.toNat ||| getReg i.grp l f.rb.toNat) ∧
      regResult (.xorI t f) t s s1 i f.rd (fun l => getReg i.grp l f.ra.toNat ^^^ getReg i.grp l f.rb.toNat) ∧
      regResult (.notI t f) t s s1 i f.rd (fun l => ~~~ getReg i.grp l f.ra.toNat) ∧
      regResult (.popc t f) t s s1 i f.rd
        (fun l => BitVec.ofNat 32 ((List.range 32).filter fun k => (getReg i.grp l f.ra.toNat).getLsbD k).length) ∧
      regResult (.clz t f) t s s1 i f.rd
        (fun l => BitVec.ofNat 32 ((List.range 32).takeWhile fun k => !(getReg i.grp l f.ra.toNat).getLsbD (31 - k)).length) ∧
      regResult (.mov t f) t s s1 i f.rd (fun l => getReg i.grp l f.ra.toNat) ∧
      (fl ≠ 8 → regResult (.sel t f fl) t s s1 i f.rd
        (fun l => if guardHolds fl i.grp l then getReg i.grp l f.ra.toNat else getReg i.grp l f.rb.toNat))) ∧
    (issues t f.guard s i s1 → sameButAccess s s1) ∧
    (issues t m.guard s i s1 → allocated [m.rd, m.ra] i →
      regResult (.iaddi t m) t s s1 i m.rd (fun l => getReg i.grp l m.ra.toNat + m.imm) ∧
      regResult (.movi t m) t s s1 i m.rd (fun _ => m.imm))

/-- IDIV and IREM of a group that can issue answer a next state, whatever the operands: by zero IDIV writes all ones and
IREM the dividend, signed -2^31 by -1 gives -2^31 with remainder 0, and otherwise the truncated quotient and its
remainder; nothing else of the group changes but the pc. R130 states the division by zero and the overflow; that the
quotient truncates is log entry 14. -/
def Obligations.IntegerDivisionByZeroTrapsNothing : Prop :=
  ∀ (t : GroupRef) (f : RFmt) (s s1 : State) (i : Issue), Tab.wf 0 i.grp.regs = true →
    issues t f.guard s i s1 → allocated [f.rd, f.ra, f.rb] i →
    let a := fun l => getReg i.grp l f.ra.toNat
    let b := fun l => getReg i.grp l f.rb.toNat
    regResult (.idiv t f false) t s s1 i f.rd
      (fun l => if b l = 0 then 0xFFFFFFFF else BitVec.ofNat 32 ((a l).toNat / (b l).toNat)) ∧
    regResult (.irem t f false) t s s1 i f.rd
      (fun l => if b l = 0 then a l else BitVec.ofNat 32 ((a l).toNat % (b l).toNat)) ∧
    regResult (.idiv t f true) t s s1 i f.rd
      (fun l => if b l = 0 then 0xFFFFFFFF else if a l = 0x80000000 ∧ b l = 0xFFFFFFFF then 0x80000000
        else BitVec.ofInt 32 ((a l).toInt.tdiv (b l).toInt)) ∧
    regResult (.irem t f true) t s s1 i f.rd
      (fun l => if b l = 0 then a l else if a l = 0x80000000 ∧ b l = 0xFFFFFFFF then 0
        else BitVec.ofInt 32 ((a l).toInt.tmod (b l).toInt))

/-- SHL, SHR, SAR, BFE and BFI of a group that can issue answer a next state that stores only the group, whatever the
operands; a lane whose shift amount is below 32, or whose field lies in the word, holds the shifted word or the field's
bits; a lane outside those ranges holds a value that nothing constrains but that it depends on the operands alone (log
entry 14; R66 puts these instructions in RA-1), and no other register, flag or control state changes. -/
def Obligations.ShiftsAndFields : Prop :=
  ∃ o : Nat → W32 → W32 → W32 → W32, ∀ (t : GroupRef) (f : RFmt) (s s1 : State) (i : Issue), Tab.wf 0 i.grp.regs = true →
    issues t f.guard s i s1 → allocated [f.rd, f.ra, f.rb, f.rc] i →
    let a := fun l => getReg i.grp l f.ra.toNat
    let b := fun l => getReg i.grp l f.rb.toNat
    let c := fun l => getReg i.grp l f.rc.toNat
    let pos := fun l => (b l).toNat % 256
    let len := fun l => (b l).toNat / 256 % 256
    let inside := fun l => 0 < len l ∧ pos l + len l ≤ 32
    regResult (.shl t f) t s s1 i f.rd (fun l => if (b l).toNat < 32 then a l <<< (b l).toNat else o 1 (a l) (b l) 0) ∧
    regResult (.shr t f) t s s1 i f.rd (fun l => if (b l).toNat < 32 then a l >>> (b l).toNat else o 2 (a l) (b l) 0) ∧
    regResult (.sar t f) t s s1 i f.rd
      (fun l => if (b l).toNat < 32 then (a l).sshiftRight (b l).toNat else o 3 (a l) (b l) 0) ∧
    regResult (.bfe t f) t s s1 i f.rd
      (fun l => if inside l then BitVec.ofNat 32 ((a l).toNat / 2 ^ pos l % 2 ^ len l) else o 4 (a l) (b l) 0) ∧
    (∃ v, regResult (.bfi t f) t s s1 i f.rd v ∧
      (∀ l k, inside l → k < 32 → (v l).getLsbD k =
        if pos l ≤ k ∧ k < pos l + len l then (a l).getLsbD (k - pos l) else (c l).getLsbD k) ∧
      ∀ l, ¬ inside l → v l = o 5 (a l) (b l) (c l))

/-- ISETP and FSETP of a group that can issue, naming a flag 1 to 7, answer a next state in which each selected lane's
flag holds the comparison's outcome, the pc is past the instruction, and every other flag, every register and the control
state are as they were. FSETP with a NaN operand is true exactly for ne and unordered, and unordered is true exactly of a
NaN operand; -0 and +0 compare equal. ISETP with the comparison unordered, and either with rd no flag 1 to 7, answers the
next state in which the group has trapped ILLEGAL. That rd names the flag, and that the integer comparison unordered is
reserved, is log entry 16. -/
def Obligations.ComparisonsWriteOneFlag : Prop :=
  ∀ (t : GroupRef) (f : RFmt) (c : CmpOp) (sg : Bool) (m : SignMods) (s s1 : State) (i : Issue), issues t f.guard s i s1 →
    let a := fun l => getReg i.grp l f.ra.toNat
    let b := fun l => getReg i.grp l f.rb.toNat
    let x := fun l => ofFp32 (signMod m.absA m.negA (a l))
    let y := fun l => ofFp32 (signMod m.absB m.negB (b l))
    let num := fun (p : W32 → Int) l => match c with
      | .eq => decide (p (a l) = p (b l)) | .ne => decide (p (a l) ≠ p (b l)) | .lt => decide (p (a l) < p (b l))
      | .le => decide (p (a l) ≤ p (b l)) | .gt => decide (p (b l) < p (a l)) | .ge => decide (p (b l) ≤ p (a l))
      | .unordered => false
    (allocated [f.ra, f.rb] i → 1 ≤ f.rd.toNat → f.rd.toNat ≤ 7 → Tab.wf 0 i.grp.flags = true →
      (c ≠ .unordered → flagResult (.isetp t f c sg) t s s1 i f.rd.toNat
        (num (if sg then BitVec.toInt else fun w => (w.toNat : Int)))) ∧
      (∃ r, flagResult (.fsetp t f c m) t s s1 i f.rd.toNat r ∧
        (∀ l, x l = .nan ∨ y l = .nan → r l = (c == .ne || c == .unordered)) ∧
        (∀ l, c = .unordered → (r l = true ↔ x l = .nan ∨ y l = .nan)) ∧
        ∀ l j k e e', x l = .fin j 0 e → y l = .fin k 0 e' → r l = (c == .eq || c == .le || c == .ge))) ∧
    (c = .unordered ∨ f.rd = 0 ∨ 7 < f.rd.toNat →
      ∃ s', exec (.isetp t f c sg) s = .next s' ∧ trapped t 0x20 0 i s1 s') ∧
    (f.rd = 0 ∨ 7 < f.rd.toNat → ∃ s', exec (.fsetp t f c m) s = .next s' ∧ trapped t 0x20 0 i s1 s')

/-- S2R of a group that can issue writes the low 32 bits of the special register it names, each of the eight (log entry
15); VOTE writes, in every selected lane, the mask of the selected lanes whose flag operand holds (ballot) or whether
any, or all 16, hold (log entry 12); SHFL writes the value of ra in the lane rb names, 0 when that lane is not selected,
and a value that depends on the operands alone when rb names no lane (log entry 12). Each answers a next state that
stores only the group and writes only rd. VOTE with flag operand 8, and each with a register outside the allocation,
answers the next state in which the group has trapped ILLEGAL. -/
def Obligations.LaneInstructions : Prop :=
  ∃ o : W32 → W32 → W32, ∀ (t : GroupRef) (f : RFmt) (fl : BitVec 4) (op : VoteOp) (sr : SpecialReg) (s s1 : State) (i : Issue),
    Tab.wf 0 i.grp.regs = true → issues t f.guard s i s1 →
    let holds := fun l => l ∈ i.lanes ∧ guardHolds fl i.grp l = true
    let src := fun l => (getReg i.grp l f.rb.toNat).toNat
    let outside := fun (c : Instr) => ∃ s', exec c s = .next s' ∧ trapped t 0x20 0 i s1 s'
    (allocated [f.rd] i → regResult (.s2r t f sr) t s s1 i f.rd (fun l => match sr with
      | .tid => BitVec.ofNat 32 ((t.gang * hlGroups i.cmd.desc + t.group) * 16 + l)
      | .gang => BitVec.ofNat 32 t.gang
      | .group => BitVec.ofNat 32 t.group
      | .lane => BitVec.ofNat 32 l
      | .ngang => BitVec.ofNat 32 (hlGangs i.cmd.desc)
      | .core => BitVec.ofNat 32 ((0x2000 + 256 * (i.gang.core / 16) + i.gang.core % 16) % 2 ^ 16)
      | .clock => s.herd.cycles.setWidth 32
      | .time => s.tb.time.setWidth 32)) ∧
    (allocated [f.rd] i → fl ≠ 8 → ∃ v : W32, regResult (.vote t f op fl) t s s1 i f.rd (fun _ => v) ∧
      (op = .ballot → ∀ l, l < 32 → (v.getLsbD l = true ↔ holds l)) ∧
      (op = .any → ((∃ l, holds l) → v = 1) ∧ (¬ (∃ l, holds l) → v = 0)) ∧
      (op = .all → ((∀ l, l < 16 → holds l) → v = 1) ∧ (¬ (∀ l, l < 16 → holds l) → v = 0))) ∧
    (allocated [f.rd, f.ra, f.rb] i → regResult (.shfl t f) t s s1 i f.rd (fun l =>
      if 16 ≤ src l then o (getReg i.grp l f.ra.toNat) (getReg i.grp l f.rb.toNat)
      else if src l ∈ i.lanes then getReg i.grp (src l) f.ra.toNat else 0)) ∧
    (fl = 8 → outside (.vote t f op fl)) ∧
    (hlRegs i.desc ≤ f.rd.toNat → outside (.s2r t f sr) ∧ outside (.vote t f op fl) ∧ outside (.shfl t f)) ∧
    (hlRegs i.desc ≤ f.ra.toNat ∨ hlRegs i.desc ≤ f.rb.toNat → outside (.shfl t f))

/-- FADD, FSUB, FMUL, FFMA, FMIN and FMAX of a group that can issue answer a next state that stores only the group, with
the value of one rounding of the exact sum or product in rd of each selected lane, and every other register and flag as
it was; no sign modifier applied. A NaN operand makes FADD, FSUB, FMUL and FFMA write 0x7FC00000. FMIN and FMAX return
the other operand when exactly one is NaN, 0x7FC00000 when both are, and order -0 below +0. -/
def Obligations.Fp32ResultsAndCanonicalNaN : Prop :=
  ∀ (t : GroupRef) (f : RFmt) (s s1 : State) (i : Issue), Tab.wf 0 i.grp.regs = true →
    issues t f.guard s i s1 → allocated [f.rd, f.ra, f.rb, f.rc] i →
    let no : SignMods := { absA := false, negA := false, absB := false, negB := false, absC := false, negC := false }
    let a := fun l => getReg i.grp l f.ra.toNat
    let b := fun l => getReg i.grp l f.rb.toNat
    let c := fun l => getReg i.grp l f.rc.toNat
    let nan := fun x => ofFp32 x = .nan
    (∃ v, regResult (.fadd t f no) t s s1 i f.rd v ∧ (∀ l, v l = fp32Add (ofFp32 (a l)) (ofFp32 (b l))) ∧
      ∀ l, nan (a l) ∨ nan (b l) → v l = 0x7FC00000) ∧
    (∃ v, regResult (.fsub t f no) t s s1 i f.rd v ∧ (∀ l, v l = fp32Add (ofFp32 (a l)) (Val.neg (ofFp32 (b l)))) ∧
      ∀ l, nan (a l) ∨ nan (b l) → v l = 0x7FC00000) ∧
    (∃ v, regResult (.fmul t f no) t s s1 i f.rd v ∧ (∀ l, v l = fp32Mul (ofFp32 (a l)) (ofFp32 (b l))) ∧
      ∀ l, nan (a l) ∨ nan (b l) → v l = 0x7FC00000) ∧
    (∃ v, regResult (.ffma t f no) t s s1 i f.rd v ∧
      (∀ l, v l = fp32Fma (ofFp32 (a l)) (ofFp32 (b l)) (ofFp32 (c l))) ∧
      ∀ l, nan (a l) ∨ nan (b l) ∨ nan (c l) → v l = 0x7FC00000) ∧
    (∃ v, regResult (.fmin t f no) t s s1 i f.rd v ∧ ∀ l,
      (nan (a l) ∧ nan (b l) → v l = 0x7FC00000) ∧ (nan (a l) ∧ ¬ nan (b l) → v l = b l) ∧
      (¬ nan (a l) ∧ nan (b l) → v l = a l) ∧ (a l = 0x80000000 ∧ b l = 0 ∨ a l = 0 ∧ b l = 0x80000000 → v l = 0x80000000)) ∧
    (∃ v, regResult (.fmax t f no) t s s1 i f.rd v ∧ ∀ l,
      (nan (a l) ∧ nan (b l) → v l = 0x7FC00000) ∧ (nan (a l) ∧ ¬ nan (b l) → v l = b l) ∧
      (¬ nan (a l) ∧ nan (b l) → v l = a l) ∧ (a l = 0x80000000 ∧ b l = 0 ∨ a l = 0 ∧ b l = 0x80000000 → v l = 0))

/-- For every exact finite value x whose FP32 result is finite, no finite FP32 number lies nearer to x than the result,
and where another FP32 number of a different value lies as near, the result's last bit is 0. FADD, FSUB, FMUL and FFMA
round once by this rule (Fp32ResultsAndCanonicalNaN says that they apply it to the exact sum or product). -/
def Obligations.Fp32RoundsToNearestEven : Prop :=
  ∀ (neg : Bool) (m : Nat) (e : Int) (y : W32), let x := Val.fin neg m e
    (∃ a b c, ofFp32 (toFp32 x) = .fin a b c) → (∃ a b c, ofFp32 y = .fin a b c) →
    |x.rat - (ofFp32 (toFp32 x)).rat| ≤ |x.rat - (ofFp32 y).rat| ∧
    (|x.rat - (ofFp32 (toFp32 x)).rat| = |x.rat - (ofFp32 y).rat| → (ofFp32 y).rat ≠ (ofFp32 (toFp32 x)).rat →
      (toFp32 x).getLsbD 0 = false)

/-- CVT, RCP, SQRT, RSQ, EX2 and LG2 of a group that can issue answer a next state that stores only the group, with the
result in rd of each selected lane. Zeros, infinities, negative operands and NaN give the results of R128's table, LG2(1)
is +0, and EX2 of a zero is 1. CVT from FP32 writes the canonical NaN of a floating-point format that has one and 0
otherwise; an infinity stays one in FP32, BF16, FP16 and E5M2 without saturation and becomes the largest finite value, or
the end of the integer format, otherwise. -/
def Obligations.ConversionsAndFunctions : Prop :=
  ∀ (t : GroupRef) (f : RFmt) (rnd : Rounding) (s s1 : State) (i : Issue), Tab.wf 0 i.grp.regs = true →
    issues t f.guard s i s1 → allocated [f.rd, f.ra] i →
    let a := fun l => getReg i.grp l f.ra.toNat
    let negative := fun l => ∃ m e, ofFp32 (a l) = .fin true m e ∧ 0 < m
    (∃ v, regResult (.rcp t f) t s s1 i f.rd v ∧ ∀ l, (ofFp32 (a l) = .nan → v l = 0x7FC00000) ∧
      (a l = 0 → v l = 0x7F800000) ∧ (a l = 0x80000000 → v l = 0xFF800000) ∧ (a l = 0x7F800000 → v l = 0) ∧
      (a l = 0xFF800000 → v l = 0x80000000)) ∧
    (∃ v, regResult (.sqrt t f) t s s1 i f.rd v ∧ ∀ l, (ofFp32 (a l) = .nan ∨ negative l ∨ a l = 0xFF800000 → v l = 0x7FC00000) ∧
      (a l = 0 ∨ a l = 0x80000000 ∨ a l = 0x7F800000 → v l = a l)) ∧
    (∃ v, regResult (.rsq t f) t s s1 i f.rd v ∧ ∀ l, (ofFp32 (a l) = .nan ∨ negative l ∨ a l = 0xFF800000 → v l = 0x7FC00000) ∧
      (a l = 0 → v l = 0x7F800000) ∧ (a l = 0x80000000 → v l = 0xFF800000) ∧ (a l = 0x7F800000 → v l = 0)) ∧
    (∃ v, regResult (.ex2 t f) t s s1 i f.rd v ∧ ∀ l, (ofFp32 (a l) = .nan → v l = 0x7FC00000) ∧
      (a l = 0 ∨ a l = 0x80000000 → v l = 0x3F800000) ∧ (a l = 0x7F800000 → v l = 0x7F800000) ∧ (a l = 0xFF800000 → v l = 0)) ∧
    (∃ v, regResult (.lg2 t f) t s s1 i f.rd v ∧ ∀ l, (ofFp32 (a l) = .nan ∨ negative l ∨ a l = 0xFF800000 → v l = 0x7FC00000) ∧
      (a l = 0 ∨ a l = 0x80000000 → v l = 0xFF800000) ∧ (a l = 0x7F800000 → v l = 0x7F800000) ∧ (a l = 0x3F800000 → v l = 0)) ∧
    (∀ dst sat, ∃ v, regResult (.cvt t f .fp32 dst rnd sat) t s s1 i f.rd v ∧ ∀ l,
      (ofFp32 (a l) = .nan → v l = match dst with
        | .fp32 => 0x7FC00000 | .bf16 => 0x7FC0 | .fp16 => 0x7E00 | .e4m3 => 0x7F | .e5m2 => 0x7E | _ => 0) ∧
      (a l = 0x7F800000 → v l = match dst with
        | .fp32 => if sat then 0x7F7FFFFF else 0x7F800000 | .bf16 => if sat then 0x7F7F else 0x7F80
        | .fp16 => if sat then 0x7BFF else 0x7C00 | .e4m3 => 0x7E | .e5m2 => if sat then 0x7B else 0x7C
        | .e2m3 => 0x1F | .e3m2 => 0x1F | .e2m1 => 0x7 | .int8 => 0x7F | .int4 => 0x7 | .int32 => 0x7FFFFFFF))

/-- Outside a reproducible context the four approximations of a group that can issue answer a next state that stores only
the group; each selected lane holds a value whose distance from the correctly rounded result is below 2^-22 of it, or
that result itself, whatever the free values are. In a reproducible context the group traps with NOT_REPRODUCIBLE before
any effect. -/
def Obligations.ApproximationsStayNear : Prop :=
  ∀ (t : GroupRef) (f : RFmt) (s s1 : State) (i : Issue), Tab.wf 0 i.grp.regs = true →
    issues t f.guard s i s1 → allocated [f.rd, f.ra] i →
    ∀ p ∈ [(Instr.rcpA t f, rcp), (.rsqA t f, rsq32), (.ex2A t f, ex2), (.lg2A t f, lg2)],
      (i.repro = false → ∃ g v, exec p.1 s = .next { setGroup t g s1 with free := s1.free + 16 } ∧ wroteReg i f.rd v g ∧
        ∀ l, let x := p.2 (ofFp32 (getReg i.grp l f.ra.toNat))
          v l = x ∨ |(ofFp32 x).rat - (ofFp32 (v l)).rat| * 2 ^ 22 < |(ofFp32 x).rat|) ∧
      (i.repro = true → ∃ s', exec p.1 s = .next s' ∧ trapped t 0x24 0 i s1 s')

/-- LCLR gives an empty ledger at the signed anchor imm[9:0]; LACC and LMUL place the value of ra, or the exact product,
at the ledger's anchor and add it; LADD adds the source container under R54; each of a group that can issue answers a
next state that stores only the group, with no other register, flag or control state changed. LFIN writes the converted
element to the low bits of rd, with .B the bound contribution to rd + 1, and sets the launch's RANGE indication exactly
when a selected lane's conversion reports RANGE. -/
def Obligations.LedgerInstructions : Prop :=
  ∀ (t : GroupRef) (f : RFmt) (m : IFmt) (s s1 : State) (i : Issue), groupCanon i.grp = true →
    (issues t m.guard s i s1 → 8 * m.rd.toNat + 8 ≤ hlRegs i.desc →
      ∃ g, exec (.lclr t m) s = .next (setGroup t g s1) ∧
        wroteLedger i m.rd.toNat (fun _ => Ledger.empty ((m.imm.extractLsb' 0 10).toInt)) g) ∧
    (issues t f.guard s i s1 → 8 * f.rd.toNat + 8 ≤ hlRegs i.desc → allocated [f.ra, f.rb] i →
      (∃ g, exec (.lacc t f false) s = .next (setGroup t g s1) ∧ wroteLedger i f.rd.toNat
        (fun l => (getLedger i.grp l f.rd.toNat).accumulate (ofFp32 (getReg i.grp l f.ra.toNat))) g) ∧
      (∃ g, exec (.lacc t f true) s = .next (setGroup t g s1) ∧ wroteLedger i f.rd.toNat
        (fun l => let x := (getReg i.grp l f.ra.toNat).toInt
          (getLedger i.grp l f.rd.toNat).accumulate (.fin (decide (x < 0)) x.natAbs 0)) g) ∧
      (∃ g, exec (.lmul t f) s = .next (setGroup t g s1) ∧ wroteLedger i f.rd.toNat
        (fun l => (getLedger i.grp l f.rd.toNat).accumulate
          (Val.mul (ofFp32 (getReg i.grp l f.ra.toNat)) (ofFp32 (getReg i.grp l f.rb.toNat)))) g)) ∧
    (issues t f.guard s i s1 → 8 * f.rd.toNat + 8 ≤ hlRegs i.desc → 8 * f.ra.toNat + 8 ≤ hlRegs i.desc →
      ∃ g, exec (.ladd t f) s = .next (setGroup t g s1) ∧ wroteLedger i f.rd.toNat
        (fun l => (getLedger i.grp l f.rd.toNat).add (getLedger i.grp l f.ra.toNat)) g) ∧
    (∀ dst, issues t f.guard s i s1 → 8 * f.ra.toNat + 8 ≤ hlRegs i.desc → allocated [f.rd, f.rb] i →
      dst ∈ [CvtFmt.fp32, .bf16, .fp16, .e4m3, .e5m2, .int8, .int32] →
      let res := fun l => lfin1 dst (getLedger i.grp l f.ra.toNat) (getReg i.grp l f.rb.toNat)
      let range := i.lanes.any fun l => (res l).2.1
      ∃ g, wroteReg i f.rd (fun l => BitVec.ofNat 32 (res l).1) g ∧
        exec (.lfin t f dst false) s = .next (if range then modCmd (setGroup t g s1) t.launch fun c =>
          { c with launch := { c.launch with range := true } } else setGroup t g s1)) ∧
    (∀ dst, issues t f.guard s i s1 → 8 * f.ra.toNat + 8 ≤ hlRegs i.desc → allocated [f.rd, f.rb] i →
      f.rd.toNat + 1 < hlRegs i.desc → dst ∈ [CvtFmt.fp32, .bf16, .fp16, .e4m3, .e5m2, .int8, .int32] →
      let res := fun l => lfin1 dst (getLedger i.grp l f.ra.toNat) (getReg i.grp l f.rb.toNat)
      ∃ s' g, exec (.lfin t f dst true) s = .next s' ∧ groupAt s' t = some g ∧ g.pc = i.grp.pc + 8 ∧
        (∀ l ∈ i.lanes, getReg g l f.rd.toNat = BitVec.ofNat 32 (res l).1 ∧ getReg g l (f.rd.toNat + 1) = (res l).2.2) ∧
        ∀ (l : Nat) (r : Byte), ¬ (l ∈ i.lanes ∧ (r.toNat = f.rd.toNat ∨ r.toNat = f.rd.toNat + 1)) →
          getReg g l r.toNat = getReg i.grp l r.toNat)

/-- PHILOX of a group that can issue writes to rd to rd + 3 of each selected lane the generator's words for the counter
in ra to ra + 3 and the key in rb and rb + 1; RNG those for the thread's draw count, its global index, ctr_base and
rng_key, and adds 1 to the draw count of each selected lane and of no other. Each answers a next state that stores only
the group; no other register and no flag changes. -/
def Obligations.PhiloxAndRng : Prop :=
  ∀ (t : GroupRef) (f : RFmt) (s s1 : State) (i : Issue), groupCanon i.grp = true → issues t f.guard s i s1 →
    f.rd.toNat + 3 < hlRegs i.desc →
    (f.ra.toNat + 3 < hlRegs i.desc → f.rb.toNat + 1 < hlRegs i.desc →
      ∃ g, exec (.philox t f) s = .next (setGroup t g s1) ∧ sameControl i.grp g ∧ wroteFour i f.rd.toNat
        (fun l => philox (getReg i.grp l f.ra.toNat) (getReg i.grp l (f.ra.toNat + 1)) (getReg i.grp l (f.ra.toNat + 2))
          (getReg i.grp l (f.ra.toNat + 3)) (getReg i.grp l f.rb.toNat) (getReg i.grp l (f.rb.toNat + 1))) g) ∧
    (∃ g, exec (.rng t f) s = .next (setGroup t g s1) ∧
      (∀ l, Tab.get 0 g.draws l = if l ∈ i.lanes then Tab.get 0 i.grp.draws l + 1 else Tab.get 0 i.grp.draws l) ∧
      wroteFour i f.rd.toNat (fun l =>
        let tid := (t.gang * hlGroups i.desc + t.group) * 16 + l
        philox (Tab.get 0 i.grp.draws l) (BitVec.ofNat 32 tid) (BitVec.ofNat 32 (tid / 2 ^ 32)) (hlCtrBase i.desc)
          (hlKey0 i.desc) (hlKey1 i.desc)) g)

/-- Of a group that can issue, each answers a next state that stores only the group (and counts free choices): NOP passes
on; BRA taken by every active lane goes to its target, by none passes on, by some pushes one reconvergence entry and runs
one of the two paths, and with 16 entries held traps STACK; BRX with one target for all its lanes goes there; CALL by
every active lane pushes the return address and goes to its target, with 16 addresses held it traps STACK; RET by every
active lane pops it; JOIN with the other path done pops the entry and reunites the lanes alive. Offsets count from the
next instruction (log entry 17). -/
def Obligations.BranchesCallsAndJoins : Prop :=
  ∀ (t : GroupRef) (f : BFmt) (s s1 : State) (i : Issue), issues t f.guard s i s1 →
    let target := BitVec.ofNat 64 (((i.grp.pc.toNat : Int) + 8 + 8 * f.off.toInt) % (2 ^ 64 : Int)).toNat
    let all := maskOut i.grp.active i.lanes = 0
    exec (.nop t f) s = .next (setGroup t { i.grp with pc := i.grp.pc + 8 } s1) ∧
    (i.lanes = [] → exec (.bra t f) s = .next (setGroup t { i.grp with pc := i.grp.pc + 8 } { s1 with free := s1.free + 1 })) ∧
    (i.lanes ≠ [] → all → exec (.bra t f) s = .next (setGroup t { i.grp with pc := target } { s1 with free := s1.free + 1 })) ∧
    (i.lanes ≠ [] → ¬ all → i.grp.recon.length < 16 → ∃ g r, exec (.bra t f) s = .next (setGroup t g { s1 with free := s1.free + 1 }) ∧
      g.recon = r :: i.grp.recon ∧ r.mask = i.grp.active ∧ g.regs = i.grp.regs ∧ g.alive = i.grp.alive ∧
      (g.pc = target ∧ g.active = laneMask i.lanes ∧ r.elsePc = i.grp.pc + 8 ∧ r.elseMask = maskOut i.grp.active i.lanes ∨
       g.pc = i.grp.pc + 8 ∧ g.active = maskOut i.grp.active i.lanes ∧ r.elsePc = target ∧ r.elseMask = laneMask i.lanes)) ∧
    (i.lanes ≠ [] → ¬ all → 16 ≤ i.grp.recon.length → ∃ s', exec (.bra t f) s = .next s' ∧
      trapped t 0x25 0 i { s1 with free := s1.free + 1 } s') ∧
    (∀ a, i.lanes ≠ [] → all → (∀ l ∈ i.lanes, getPair i.grp l f.ra.toNat = a) → f.ra.toNat + 1 < hlRegs i.desc →
      exec (.brx t f) s = .next (setGroup t { i.grp with pc := BitVec.ofNat 64 a } { s1 with free := s1.free + 2 })) ∧
    (i.lanes ≠ [] → all → i.grp.rets.length < 16 → exec (.call t f) s =
      .next (setGroup t { i.grp with pc := target, rets := (i.grp.pc + 8) :: i.grp.rets } s1)) ∧
    (i.lanes ≠ [] → 16 ≤ i.grp.rets.length → ∃ s', exec (.call t f) s = .next s' ∧ trapped t 0x25 0 i s1 s') ∧
    (∀ a rest, i.lanes ≠ [] → all → i.grp.rets = a :: rest → exec (.ret t f) s =
      .next (setGroup t { i.grp with pc := a, rets := rest } s1)) ∧
    (∀ e rest, i.lanes ≠ [] → i.grp.recon = e :: rest → e.elseMask &&& i.grp.alive = 0 → exec (.join t f) s =
      .next (setGroup t { i.grp with pc := i.grp.pc + 8, active := e.mask &&& i.grp.alive, recon := rest } s1)) ∧
    (∀ e rest, i.lanes ≠ [] → i.grp.recon = e :: rest → e.elseMask &&& i.grp.alive ≠ 0 → exec (.join t f) s =
      .next (setGroup t { i.grp with
        pc := e.elsePc, active := e.elseMask &&& i.grp.alive, recon := { e with join := i.grp.pc, elseMask := 0 } :: rest } s1))

/-- BAR of a group that can issue with a lane selected waits while another group of its gang has not reached the barrier,
and when every other group waits there all go on past it; EXIT of some of the active lanes removes them from the lanes
alive and active and passes on; EXIT of every active lane, with no path or waiting lanes left, ends the group, and
nothing else of the gang while another group runs; TRAP with a lane selected traps the group with detail 0x27 and its
16-bit immediate, and no effect else. -/
def Obligations.BarrierExitAndSoftwareTrap : Prop :=
  ∀ (t : GroupRef) (f : BFmt) (m : IFmt) (s s1 : State) (i : Issue),
    (issues t f.guard s i s1 → i.lanes ≠ [] →
      ((∃ k g, k ≠ t.group ∧ i.gang.groups[k]? = some g ∧ g.wait ≠ .barrier) →
        exec (.bar t f) s = .next (setGroup t { i.grp with wait := .barrier } s1)) ∧
      ((∀ k g, k ≠ t.group → i.gang.groups[k]? = some g → g.wait = .barrier) → ∃ s' x, exec (.bar t f) s = .next s' ∧
        gangAt s' t.launch t.gang = some x ∧ x.groups.length = i.gang.groups.length ∧
        ∀ (k : Nat) (g : Group), i.gang.groups[k]? = some g → x.groups[k]? = some { g with pc := g.pc + 8, wait := .none }) ∧
      (maskOut i.grp.active i.lanes ≠ 0 →
        exec (.exit t f) s = .next (pump (setGroup t { i.grp with
          pc := i.grp.pc + 8, alive := maskOut i.grp.alive i.lanes, active := maskOut i.grp.active i.lanes } s1))) ∧
      (maskOut i.grp.active i.lanes = 0 → i.grp.recon = [] →
        (∃ k g, k ≠ t.group ∧ i.gang.groups[k]? = some g ∧ g.wait ≠ .exited) →
        exec (.exit t f) s = .next (pump (setGroup t { i.grp with
          alive := maskOut i.grp.alive i.lanes, active := 0, wait := .exited, recon := [] } s1)))) ∧
    (issues t m.guard s i s1 → i.lanes ≠ [] → ∃ s', exec (.trap t m) s = .next s' ∧
      trapped t 0x27 (m.imm.toNat % 2 ^ 16) i s1 s')

/-- For a group that can issue, one selected lane whose aligned bytes lie in the gang's allocation: LDL and LLD load
those bytes into the registers from rd; STL and LST store the registers' bytes there; the local ATOM forms store R120's
new value and return the old one to rd (FADD outside a reproducible context). Each answers a next state in which only the
group and the gang's local store differ, the store only in those bytes, and the pc is past the instruction. A byte beyond
the allocation traps LOCAL_BOUNDS and an unaligned address MISALIGNED. -/
def Obligations.LocalStoreAccesses : Prop :=
  ∀ (t : GroupRef) (f : MFmt) (s s1 : State) (i : Issue) (lane a : Nat), issues t f.guard s i s1 → i.lanes = [lane] →
    localAddr i f lane = (a : Int) →
    let stored := fun (g : Group) (m : Mem) => setBoth t { g with pc := i.grp.pc + 8 } m s1
    let sz := accBytes f
    (f.ty.toNat ≤ 5 → f.ra.toNat < hlRegs i.desc → f.rd.toNat + ceilDiv sz 4 - 1 < hlRegs i.desc →
      (a % sz = 0 → a + sz ≤ hlLocal i.desc →
        exec (.ldl t f) s = .next (stored (setRegs i.grp lane f.rd.toNat (memRead i.gang.store a sz)) i.gang.store) ∧
        exec (.stl t f) s = .next (stored i.grp (memWrite i.gang.store a (regBytes i.grp lane f.rd.toNat sz)))) ∧
      (a % sz = 0 → hlLocal i.desc < a + sz →
        (∃ s', exec (.ldl t f) s = .next s' ∧ trapped t 0x28 0 i s1 s') ∧ ∃ s', exec (.stl t f) s = .next s' ∧ trapped t 0x28 0 i s1 s') ∧
      (a % sz ≠ 0 →
        (∃ s', exec (.ldl t f) s = .next s' ∧ trapped t 0x21 0 i s1 s') ∧ ∃ s', exec (.stl t f) s = .next s' ∧ trapped t 0x21 0 i s1 s')) ∧
    (8 * f.rd.toNat + 8 ≤ hlRegs i.desc → f.ra.toNat < hlRegs i.desc → a % 32 = 0 → a + 32 ≤ hlLocal i.desc →
      exec (.lld t f true) s = .next (stored (setRegs i.grp lane (8 * f.rd.toNat) (memRead i.gang.store a 32)) i.gang.store) ∧
      exec (.lst t f true) s = .next (stored i.grp (memWrite i.gang.store a (regBytes i.grp lane (8 * f.rd.toNat) 32)))) ∧
    (∀ p ∈ [(Instr.atomAdd t f true, AtomOp.add), (.atomAnd t f true, .and), (.atomOr t f true, .or),
        (.atomXor t f true, .xor), (.atomMin t f true, .min), (.atomMax t f true, .max), (.atomXchg t f true, .xchg),
        (.atomCas t f true, .cas), (.atomFadd t f true, .fadd)],
      let n := atomBytes f.ty.toNat
      let old := memRead i.gang.store a n
      let x := (atomArgs p.2 f i.grp lane).1
      let y := (atomArgs p.2 f i.grp lane).2
      i.repro = false → atomLegal p.2 f true i = true → a % n = 0 → a + n ≤ hlLocal i.desc →
      exec p.1 s = .next (stored (setRegs i.grp lane f.rd.toNat old)
        (memWrite i.gang.store a (leBytes n (atomNew p.2 f.ty.toNat (ofLe old) x y)))))

/-- For one selected lane whose aligned bytes are reached in the pond or the tarn: an ordered LD, and an ordered LLD,
loads exactly those bytes into the registers from rd (a relaxed one those bytes or the ones the core's cache holds); ST
and LST store the registers' bytes there and change no other byte of any memory; a load changes no byte of memory. Each
answers a next state whose group is past the instruction with no other register changed. PREF of a group that can issue
only passes on. -/
def Obligations.GlobalLoadsAndStores : Prop :=
  ∀ (t : GroupRef) (f : MFmt) (s s2 : State) (i : Issue) (lane mem off : Nat), canon s2 = true →
    let sz := accBytes f
    (f.ty.toNat ≤ 5 → f.ra.toNat + 1 < hlRegs i.desc → f.rd.toNat + ceilDiv sz 4 - 1 < hlRegs i.desc →
      (laneReaches t f sz sz 0 .read s i lane mem off s2 → ∃ s' bs, exec (.ld t f) s = .next s' ∧
        groupAt s' t = some { setRegs i.grp lane f.rd.toNat bs with pc := i.grp.pc + 8 } ∧ bs.length = sz ∧
        (bs = memRead (memOf s2 mem) off sz ∨ f.order = 0 ∧
          cached (coreCache s2 i.gang.core) (cacheKey i.cmd.tag (globalAddr i f lane)) sz = some bs) ∧
        ∀ m a, m < 4 → Tab.get 0 (memOf s' m) a = Tab.get 0 (memOf s2 m) a) ∧
      (laneReaches t f sz sz 0 .write s i lane mem off s2 → ∃ s', exec (.st t f) s = .next s' ∧
        groupAt s' t = some { i.grp with pc := i.grp.pc + 8 } ∧
        memRead (memOf s' mem) off sz = regBytes i.grp lane f.rd.toNat sz ∧ onlyStored mem off sz s2 s')) ∧
    (8 * f.rd.toNat + 8 ≤ hlRegs i.desc → f.ra.toNat + 1 < hlRegs i.desc →
      (laneReaches t f 32 32 0 .read s i lane mem off s2 → f.order ≠ 0 → ∃ s', exec (.lld t f false) s = .next s' ∧
        groupAt s' t = some { setRegs i.grp lane (8 * f.rd.toNat) (memRead (memOf s2 mem) off 32) with pc := i.grp.pc + 8 } ∧
        ∀ m a, m < 4 → Tab.get 0 (memOf s' m) a = Tab.get 0 (memOf s2 m) a) ∧
      (laneReaches t f 32 32 0 .write s i lane mem off s2 → ∃ s', exec (.lst t f false) s = .next s' ∧
        groupAt s' t = some { i.grp with pc := i.grp.pc + 8 } ∧
        memRead (memOf s' mem) off 32 = regBytes i.grp lane (8 * f.rd.toNat) 32 ∧ onlyStored mem off 32 s2 s')) ∧
    (∀ s1, issues t f.guard s i s1 → f.ra.toNat + 1 < hlRegs i.desc →
      exec (.pref t f) s = .next (setGroup t { i.grp with pc := i.grp.pc + 8 } s1))

/-- For one selected lane whose aligned location is reached in the pond or the tarn: each ATOM form outside a
reproducible context stores the new value of R120 there and returns the old bytes to rd; LADD stores the sum of the
container there and the one in rb to rb + 7 under R54; BNDMAX, whose address is a header's and 64-byte aligned, stores
the larger of the two signed bounds at its bits [319:288]. Each answers a next state in which no other byte of any memory
changes and the group is past the instruction. FENCE of a group that waits for no release passes on, and an acquire at
instance or system scope empties the core's cache. -/
def Obligations.GlobalAtomicsAndFences : Prop :=
  ∀ (t : GroupRef) (f : MFmt) (s s2 : State) (i : Issue) (lane mem off : Nat), canon s2 = true →
    (∀ p ∈ [(Instr.atomAdd t f false, AtomOp.add), (.atomAnd t f false, .and), (.atomOr t f false, .or),
        (.atomXor t f false, .xor), (.atomMin t f false, .min), (.atomMax t f false, .max), (.atomXchg t f false, .xchg),
        (.atomCas t f false, .cas), (.atomFadd t f false, .fadd)],
      let n := atomBytes f.ty.toNat
      let old := memRead (memOf s2 mem) off n
      let x := (atomArgs p.2 f i.grp lane).1
      let y := (atomArgs p.2 f i.grp lane).2
      i.repro = false → atomLegal p.2 f false i = true → laneReaches t f n n 0 .atomic s i lane mem off s2 →
      ∃ s', exec p.1 s = .next s' ∧ groupAt s' t = some { setRegs i.grp lane f.rd.toNat old with pc := i.grp.pc + 8 } ∧
        memRead (memOf s' mem) off n = leBytes n (atomNew p.2 f.ty.toNat (ofLe old) x y) ∧ onlyStored mem off n s2 s') ∧
    (f.rb.toNat + 7 < hlRegs i.desc → f.ra.toNat + 1 < hlRegs i.desc → laneReaches t f 32 32 0 .atomic s i lane mem off s2 →
      ∃ s', exec (.laddToMemory t f) s = .next s' ∧ groupAt s' t = some { i.grp with pc := i.grp.pc + 8 } ∧
        memRead (memOf s' mem) off 32 = (Ledger.add (ledgerOfBytes (memRead (memOf s2 mem) off 32))
          (ledgerOfBytes (regBytes i.grp lane f.rb.toNat 32))).bytes ∧ onlyStored mem off 32 s2 s') ∧
    (f.rb.toNat < hlRegs i.desc → f.ra.toNat + 1 < hlRegs i.desc →
      laneReaches t f 4 64 36 .atomic s i lane mem off s2 →
      ∃ s', exec (.bndmax t f) s = .next s' ∧ groupAt s' t = some { i.grp with pc := i.grp.pc + 8 } ∧
        signed 32 (ofLe (memRead (memOf s' mem) off 4)) =
          max (signed 32 (ofLe (memRead (memOf s2 mem) off 4))) (getReg i.grp lane f.rb.toNat).toInt ∧
        onlyStored mem off 4 s2 s') ∧
    (∀ s1, issues t f.guard s i s1 → releaseWaits s1 f t i = false → ∃ s', exec (.fence t f) s = .next s' ∧
      groupAt s' t = some { i.grp with pc := i.grp.pc + 8 } ∧
      (f.order.getLsbD 0 = true → 2 ≤ f.scope.toNat → Tab.wf [] s1.herd.caches = true → coreCache s' i.gang.core = []) ∧
      (f.order.getLsbD 0 = false → s'.herd.caches = s1.herd.caches))

/-- A group that could issue but whose guard is the reserved code 8, whose word at the pc names no instruction (another
opcode, guard 8, or a reserved modifier), or whose instruction names a register above its launch's allocation, traps with
detail 0x20 and no other effect (IADD, FFMA, LD, ATOM.ADD, LACC and NOP named); on a core with an uncorrectable error of
its own storage it traps with 0x29; an unaligned LD, ST or ATOM of a selected lane traps with 0x21; XCHG and CAS of type
f32 in a reproducible context trap with 0x24. A group that cannot issue (it waits, its launch is stopped, or the instance
is in brownout hold) is left as it stands by every one of these. -/
def Obligations.IllegalHerdInstructionsTrap : Prop :=
  ∀ (t : GroupRef) (f : RFmt) (m : MFmt) (b : BFmt) (s s1 : State) (i : Issue),
    (issues t f.guard s i s1 → hlRegs i.desc ≤ f.rd.toNat → ∀ c ∈ [Instr.iadd t f,
        .ffma t f { absA := false, negA := false, absB := false, negB := false, absC := false, negC := false }],
      ∃ s', exec c s = .next s' ∧ trapped t 0x20 0 i s1 s') ∧
    (issues t f.guard s i s1 → hlRegs i.desc < 8 * f.rd.toNat + 8 → ∃ s', exec (.lacc t f false) s = .next s' ∧ trapped t 0x20 0 i s1 s') ∧
    (issues t m.guard s i s1 → hlRegs i.desc ≤ m.ra.toNat + 1 → ∀ c ∈ [Instr.ld t m, .st t m, .atomAdd t m false],
      ∃ s', exec c s = .next s' ∧ trapped t 0x20 0 i s1 s') ∧
    (∀ w, fetched t b.guard s i s1 w → coreError s1 i.gang.core = false → b.guard = 8 ∨ wordReserved w = true →
      ∃ s', exec (.nop t b) s = .next s' ∧ trapped t 0x20 0 i s1 s') ∧
    (∀ w, fetched t b.guard s i s1 w → coreError s1 i.gang.core = true →
      ∃ s', exec (.nop t b) s = .next s' ∧ trapped t 0x29 0 i s1 s') ∧
    (issues t m.guard s i s1 → accLegal m i = true → pairLegal m i = true →
      (∃ l ∈ i.lanes, globalAddr i m l % accBytes m ≠ 0) → ∀ c ∈ [Instr.ld t m, .st t m],
      ∃ s', exec c s = .next s' ∧ trapped t 0x21 0 i s1 s') ∧
    (issues t m.guard s i s1 → i.repro = true → m.ty = 4 → atomLegal .xchg m false i = true →
      ∃ s', exec (.atomXchg t m false) s = .next s' ∧ trapped t 0x24 0 i s1 s') ∧
    (issues t m.guard s i s1 → i.repro = true → m.ty = 4 → atomLegal .cas m false i = true →
      ∃ s', exec (.atomCas t m false) s = .next s' ∧ trapped t 0x24 0 i s1 s') ∧
    (issueOf t f.guard s = none → exec (.iadd t f) s = .next s) ∧
    (issueOf t m.guard s = none → exec (.ld t m) s = .next s ∧ exec (.st t m) s = .next s ∧ exec (.atomAdd t m false) s = .next s) ∧
    (issueOf t b.guard s = none → exec (.nop t b) s = .next s)

/-- In a block at rest whose checks accept the descriptor: MARK completes with SUCCESS and its marker as the digest;
SEM_ACQUIRE of units that are there takes them for its context, SEM_RELEASE of units it holds returns them, each with
SUCCESS, and changes nothing else than the record; FENCE_SIGNAL at a local slot writes the value and completes with
SUCCESS, or leaves the slot with FENCE_REGRESSION or FENCE_ABANDONED, and at host memory sends one host request;
FENCE_WAIT completes as R185 judges its slot, holds a wait slot, or completes with RANGE at a misaligned slot. -/
def Obligations.FencesSemaphoresMarks : Prop :=
  ∀ (q : Nat) (d : BitVec 512) (s : State), alone q d s →
    let c := accepted q d s
    let s1 := taken q d s
    let a := (operand0 d).toNat
    let asked := fun (x : State) => onBehalf c.uid hostMaster x
    let back := fun (x : State) => { x with xlate := { x.xlate with agent := s.xlate.agent } }
    (opcodeOf d = 0x0C → exec (.mark q d) s = .next (complete c.uid
      { status := 1, digest := operand0 d, failed := false, part := true, result := 0 } s1)) ∧
    (opcodeOf d = 0x06 → ∀ i, semOf s1 c = some i → semFits (semAt s i) c.tag (unitsOf d) = true →
      let x := semAt s i
      exec (.semAcquire q d) s = .next (complete c.uid (.plain stSuccess) (setSem s1 i { x with
        count := x.count - BitVec.ofNat 32 (unitsOf d), holders := addHeld c.tag (unitsOf d) x.holders }))) ∧
    (opcodeOf d = 0x07 → ∀ i, semOf s1 c = some i → unitsOf d ≤ heldBy (semAt s i) c.tag →
      (semAt s i).count.toNat + unitsOf d ≤ (semAt s i).max.toNat →
      let x := semAt s i
      exec (.semRelease q d) s = .next (complete c.uid (.plain stSuccess) (setSem s1 i { x with
        count := x.count + BitVec.ofNat 32 (unitsOf d), holders := subHeld c.tag (unitsOf d) x.holders }))) ∧
    (opcodeOf d = 0x04 → a % 16 = 0 → ∀ mem off s2, reach 8 c.tag a .write (asked s1) = (.loc mem off, s2) →
      landOk s2 c.tag mem off = true →
      (mem ≠ 3 → reachable s2 c.tag mem off 16 = true → poisoned s2 mem off 16 = false →
        let slot : BitVec 128 := BitVec.ofNat 128 (ofLe (memBytes mem off 16 s2).1)
        let s3 := (memBytes mem off 16 s2).2
        exec (.fenceSignal q d) s = .next (back (
          if fsState slot = 1 then complete c.uid (.plain stFenceAbandoned) (charge c.tag mem off 16 true s3)
          else if (operand1 d).toNat < fsValue slot then
            complete c.uid (.plain stFenceRegression) (charge c.tag mem off 16 true s3)
          else complete c.uid (.plain stSuccess)
            (charge c.tag mem off 16 true (memStore mem off (leBytes 8 (operand1 d).toNat) s3))))) ∧
      (mem = 3 → s2.hostPort.atomicOk = true → reachable s2 c.tag 3 off 8 = true →
        exec (.fenceSignal q d) s = .next (back (hostRequest (.fence c.uid) c.tag
          (setPhase (unhold 3 0 (weirCharge c.tag 3 8 s2)) c.uid .busy))))) ∧
    (opcodeOf d = 0x05 → a % 16 = 0 → ∀ mem off s2 bs s3,
      reach 8 c.tag a .read (asked (setPhase s1 c.uid (.reading false))) = (.loc mem off, s2) →
      locRead c.tag mem off 16 s2 = (.ok bs, s3) →
      (∀ st, judgeFence (BitVec.ofNat 128 (ofLe bs)) (operand1 d) = .done st →
        exec (.fenceWait q d) s = .next (back (complete c.uid (.plain st) s3))) ∧
      (judgeFence (BitVec.ofNat 128 (ofLe bs)) (operand1 d) = .keep →
        exec (.fenceWait q d) s =
          .next (back (setPhase s3 c.uid (.waitFence (BitVec.ofNat 64 (paOf s3 mem off)) (operand1 d)))))) ∧
    (opcodeOf d = 0x05 → a % 16 ≠ 0 → exec (.fenceWait q d) s = .next (complete c.uid (.plain stRange) s1))

/-- A MOVE within one beat of 256 bytes of its destination, which (and whose source for COPY and REDUCE) a local memory
admits, accepted in a block at rest by a mover in service, puts the repeated pattern (FILL), the source bytes (COPY; free
bytes when the ranges overlap, log entry 1) or the sums of the containers (REDUCE) at its destination and, its requests
answered, completes with the digest of its range; no other byte of pond or tarn changes. A longer FILL or COPY goes on in
such beats, each at the offset the last one reached. An invalid argument completes with RANGE. -/
def Obligations.MoveCommands : Prop :=
  (∀ (q : Nat) (d : BitVec 512) (s : State), alone q d s → opcodeOf d = 0x03 →
    let c := accepted q d s
    let n := mvLen d
    let s1 := onBehalf c.uid (moverMaster c) (setPhase (taken q d s) c.uid .busy)
    let ends := fun (bs : List Byte) (x : State) =>
      let y := noteServed 5 c.mover (tagFold c.tag) (onBehalfOfNone (modCmd x c.uid fun z => { z with opnd := [(0, bs)], moved := n }))
      if settled y c then complete c.uid (if mvOp d = 2 then .plain stSuccess else .withDigest (crc64 bs)) y else y
    let frame := fun (t : State) (mem off : Nat) => ∀ m a, m < 2 → ¬ (m = mem ∧ off ≤ a ∧ a < off + n) →
      Tab.get 0 (memOf t m) a = Tab.get 0 (memOf s m) a
    (moveOk d = false → (mvOp d = 1 → exec (.moveFill q d) s = .next (complete c.uid (.plain stRange) (taken q d s))) ∧
      (mvOp d = 0 → exec (.moveCopy q d) s = .next (complete c.uid (.plain stRange) (taken q d s))) ∧
      (mvOp d = 2 → exec (.moveReduce q d) s = .next (complete c.uid (.plain stRange) (taken q d s)))) ∧
    (moveOk d = true → mvDst d % 256 + n ≤ 256 → s.poison = [] → c.mover ∈ moversUp s →
      (mvOp d = 1 → ∀ mem off s2 s3, reach (moverPlace c) c.tag (mvDst d) .write s1 = (.loc mem off, s2) →
        locWrite c.tag mem off (pattern (bitsAt d 448 64) 0 n) s2 = (.ok [], s3) →
        let t := ends (pattern (bitsAt d 448 64) 0 n) s3
        exec (.moveFill q d) s = .next t ∧ frame t mem off) ∧
      (mvSrc d % 4096 + n ≤ 4096 → ∀ m1 o1 s2 bs s3, reach (moverPlace c) c.tag (mvSrc d) .read s1 = (.loc m1 o1, s2) →
        locRead c.tag m1 o1 n s2 = (.ok bs, s3) → ∀ mem off s4 s5,
        (mvOp d = 0 →
          reach (moverPlace c) c.tag (mvDst d) .write (moveData c bs s3).2 = (.loc mem off, s4) →
          locWrite c.tag mem off (moveData c bs s3).1 s4 = (.ok [], s5) →
          let t := ends (moveData c bs s3).1 s5
          exec (.moveCopy q d) s = .next t ∧ frame t mem off ∧ (moveOverlaps d = false → (moveData c bs s3).1 = bs)) ∧
        (mvOp d = 2 → reach (moverPlace c) c.tag (mvDst d) .atomic s3 = (.loc mem off, s4) →
          locReduce c.tag mem off bs s4 = (.ok [], s5) →
          let t := ends bs s5
          exec (.moveReduce q d) s = .next t ∧ frame t mem off)))) ∧
  (∀ (s : State) (c : Cmd), cmdAt s c.uid = some c → c.phase = .busy → c.out = [] → c.moved < mvLen c.desc → s.poison = [] →
    let at' := fun (a : Nat) => a + c.moved
    let s1 := onBehalf c.uid (moverMaster c) s
    let left := mvLen c.desc - c.moved
    let n := min left (256 - at' (mvDst c.desc) % 256)
    let went := fun (bs : List Byte) (x : State) => onBehalfOfNone (modCmd x c.uid fun z =>
      { z with opnd := c.opnd ++ [(c.moved, bs)], moved := c.moved + bs.length })
    (mvOp c.desc = 1 → ∀ mem off s2 s3, reach (moverPlace c) c.tag (at' (mvDst c.desc)) .write s1 = (.loc mem off, s2) →
      locWrite c.tag mem off (pattern (bitsAt c.desc 448 64) c.moved n) s2 = (.ok [], s3) →
      moveBeat c s = (true, went (pattern (bitsAt c.desc 448 64) c.moved n) s3)) ∧
    (mvOp c.desc = 0 → moveOverlaps c.desc = false →
      ∀ m1 o1 s2 bs s3 mem off s4 s5, reach (moverPlace c) c.tag (at' (mvSrc c.desc)) .read s1 = (.loc m1 o1, s2) →
      locRead c.tag m1 o1 (min n (4096 - at' (mvSrc c.desc) % 4096)) s2 = (.ok bs, s3) →
      reach (moverPlace c) c.tag (at' (mvDst c.desc)) .write s3 = (.loc mem off, s4) →
      locWrite c.tag mem off bs s4 = (.ok [], s5) → moveBeat c s = (true, went bs s5)))

/-- In a block at rest whose kernel queue accepts the descriptor: SET_ROOT gives the context its root and PASID and
purges its slot; FRAME_OWN writes the frames' owner byte, drops their cached lines and completes, or waits for the
earlier requests of its range; WINDOW and INVALIDATE wait while the next epoch's counter is not 0, else replace or purge,
advance the epoch, and complete once the three epochs have drained, at once or at INVALIDATE_DRAIN_END; RESOLVE frees the
entry it names and lets its groups issue again, a stale identifier changes nothing. FRAME_OWN_DRAIN_END completes a
FRAME_OWN whose requests have ended; drained invalidations complete in the order of their epochs. -/
def Obligations.TranslationCommands : Prop :=
  (∀ (q : Nat) (d : BitVec 512) (s : State), alone q d s →
    let c := accepted q d s
    let s1 := taken q d s
    let tag := targetTag d
    let next := fun (purged : State) => { purged with xlate := { purged.xlate with epoch := s.xlate.epoch + 1 } }
    let ends := fun (purged : State) =>
      if outstanding s (s.xlate.epoch + 1) ≠ 0 then setPhase s1 c.uid .invalWait
      else if drainedTo s s.xlate.epoch then complete c.uid (.plain stSuccess) (next purged)
      else setPhase (next purged) c.uid (.draining s.xlate.epoch)
    (opcodeOf d = 0x10 → mapFunc d = 1 → flagsPlaced s = true → tagLive s tag = true → (arg0 d).toNat % 4096 = 0 →
      isHostPa s (arg0 d).toNat = true →
      exec (.setRoot q d) s = .next (complete c.uid (.plain stSuccess) (purgeSlot (tagSlot tag)
        (setCtx s1 (tagSlot tag) { ctxAt s (tagSlot tag) with root := some (arg0 d), pasid := bitsAt (arg1 d) 0 20 })))) ∧
    (opcodeOf d = 0x10 → mapFunc d = 2 → frameArgsOk s d = true →
      let first := ((arg0 d).toNat - s.xlate.localBase.toNat) / 2 ^ 21
      let owner : Byte := BitVec.ofNat 8 (field (arg2 d) 0 4 + if bitAt (arg2 d) 8 then 128 else 0)
      ∃ fr, (∀ i, Tab.get 0 fr i = if first ≤ i ∧ i < first + frameCount d then owner else Tab.get 0 s.xlate.frames i) ∧
        let s2 := dropFarLines (fun l => decide (first ≤ l.line / 8192) && decide (l.line / 8192 < first + frameCount d))
          { s1 with xlate := { s1.xlate with frames := fr } }
        exec (.frameOwn q d) s = .next (if frameReqs s first (frameCount d) = [] then complete c.uid (.plain stSuccess) s2
          else setPhase s2 c.uid (.frameWait (frameReqs s first (frameCount d))))) ∧
    (opcodeOf d = 0x10 → mapFunc d = 3 → foldExists s (tagFold tag) = true →
      exec (.window q d) s = .next (ends (modFold s1 (tagFold tag) fun f =>
        { f with windows := Tab.set 0 f.windows (field d 448 11) (arg1 d) }))) ∧
    (opcodeOf d = 0x10 → mapFunc d = 4 → s.xlate.parked = [] →
      (∀ e, s.xlate.pending.find? (fun e => e.idx == field d 448 16 % 256 && e.seq.toNat == field d 448 16 / 256) = some e →
        bitAt (arg1 d) 0 = false → (∀ w ∈ e.waiters, ∃ t, w = .group t) →
        ∃ gs, exec (.resolve q d) s = .next (complete c.uid (.plain stSuccess)
            { s1 with herd := { s1.herd with gangs := gs }, xlate := (freePending e.idx s1).xlate }) ∧
          ∀ t g, .group t ∈ e.waiters → groupAt s t = some g → g.wait = .fault e.idx →
            groupAt { s1 with herd := { s1.herd with gangs := gs } } t = some { g with wait := .none }) ∧
      (s.xlate.pending.find? (fun e => e.idx == field d 448 16 % 256 && e.seq.toNat == field d 448 16 / 256) = none →
        exec (.resolve q d) s = .next (complete c.uid (.plain stSuccess) s1))) ∧
    (opcodeOf d = 0x11 → invalOk s d = true →
      exec (.invalidate q d) s = .next (ends (purge
        (fun e => invalSlot s d e.slot && (field d 128 2 != 0 || overlap e.va e.size (field d 448 64) (4096 * field d 416 32)))
        (fun w => invalSlot s d w.slot && (field d 128 2 != 0 ||
          overlap w.va (2 ^ (12 + 9 * (w.level - 1))) (field d 448 64) (4096 * field d 416 32))) s1)))) ∧
  (∀ (s : State) (uid : Nat) (c : Cmd), cmdAt s uid = some c →
    (∀ t, c.phase = .draining t → drainedTo s t = true → (∀ x ∈ s.cmds, ∀ u, x.phase = .draining u → x.uid ≠ uid → t < u) →
      exec (.invalidateDrainEnd uid) s = .next (pump (complete uid (.plain stSuccess) s))) ∧
    (∀ t x u, c.phase = .draining t → cmdAt s x.uid = some x → x.phase = .draining u → u < t → drainedTo s t = true →
      drainedTo s u = true → (∀ y ∈ s.cmds, ∀ v, y.phase = .draining v → y ≠ c → y ≠ x → t < v) →
      (s.cmds.filter fun y => y.uid == uid || y.uid == x.uid).length = 2 →
      exec (.invalidateDrainEnd uid) s =
        .next (pump (complete uid (.plain stSuccess) (complete x.uid (.plain stSuccess) s)))) ∧
    (∀ ids, c.phase = .frameWait ids → (∀ r ∈ s.xlate.reqs, r.id ∉ ids) →
      exec (.frameOwnDrainEnd uid) s = .next (pump (complete uid (.plain stSuccess) s))))

/-- In a block at rest whose kernel queue accepts the descriptor, CONTEXT_CREATE for a fold that exists and is within its
quota makes the slot it names, or the lowest ready one, LIVE for the fold and reports its tag, or completes with SLOTS
when the quota is used or no slot is ready; CONTEXT_TEARDOWN of a live context closes its sluice, fences its queues and
waits as CLOSING. When the context has drained, TEARDOWN_DRAIN_END completes the command and frees the slot with the next
generation and no translation of it left. ABANDONED_REQUEST_EXPIRY ends the slot's abandoned remote requests that are old
enough, in every fold. -/
def Obligations.ContextCommands : Prop :=
  (∀ (q : Nat) (d : BitVec 512) (s : State), alone q d s →
    let c := accepted q d s
    let s1 := taken q d s
    (opcodeOf d = 0x12 →
      let n := field d 400 4
      let want := field d 407 9
      let quota := (foldAt s n).live.ctxQuota
      foldExists s n = true → (foldAt s n).live.role ≠ 1 → field d 448 64 % 8 = 0 →
      (bitAt d 406 = true ∨ (ctxAt s want).state = .free) →
      (quota ≠ 0 → quota.toNat ≤ ctxCount s n → exec (.contextCreate q d) s = .next (complete c.uid (.plain stSlots) s1)) ∧
      ((quota = 0 ∨ ctxCount s n < quota.toNat) →
        let room := if bitAt d 406 then lowest 512 (slotReady s) else if slotReady s want then some want else none
        (room = none → exec (.contextCreate q d) s = .next (complete c.uid (.plain stSlots) s1)) ∧
        (∀ i, room = some i →
          exec (.contextCreate q d) s = .next (complete c.uid
            { Done.plain stSuccess with result := BitVec.ofNat 32 (mkTag n i (ctxAt s i).gen).toNat }
            (modFold (setCtx s1 i {
              state := .live, fold := n, gen := (ctxAt s i).gen, lc := bitAt d 404, reproducible := bitAt d 405,
              root := none, pasid := 0, fenceList := bitsAt d 448 64, fenceLen := bitsAt d 416 32, model := none,
              lastDispatch := 0, sluiceClosed := false, drainUntil := none, boosted := false,
              abandoned := (ctxAt s i).abandoned })
              n fun f => { f with scrubbed := false }))))) ∧
    (opcodeOf d = 0x13 → tagOpen s (targetTag d) = true → s.xlate.pending = [] → s.xlate.parked = [] →
      let slot := tagSlot (targetTag d)
      ∃ t, exec (.contextTeardown q d) s = .next t ∧ (ctxAt t slot).state = .closing ∧
        (ctxAt t slot).sluiceClosed = true ∧
        (ctxAt t slot).drainUntil = earlierOf (ctxAt s slot).drainUntil (drainDeadline s) ∧
        (∀ i, i ≠ slot → ctxAt t i = ctxAt s i) ∧
        (∀ k, (queueAt s k).state ≠ .free → (queueAt s k).tag = targetTag d → (queueAt t k).state = .fenced) ∧
        (∀ k, k ≠ q → (queueAt s k).tag ≠ targetTag d → queueAt t k = queueAt s k) ∧
        t.cmds = [{ c with phase := .teardown slot }])) ∧
  (∀ (s : State) (slot : Nat) (c : Cmd), canon s = true → slot < 512 → teardownOf s slot = some c →
    let x := ctxAt s slot
    x.state = .closing → ctxBusy s (mkTag x.fold slot x.gen) = false → (x.fenceLen = 0 ∨ linkUp s = true) →
    ∃ t, exec (.teardownDrainEnd slot) s = .next (pump t) ∧
      (∃ t0, t = complete c.uid (.plain stSuccess) t0 ∧ ctxAt t0 slot = { Ctx.reset with
        gen := if slot = 0 ∧ x.gen = 7 then 1 else (x.gen + 1) % 8, abandoned := x.abandoned }) ∧
      ctxAt t slot = { Ctx.reset with
        gen := if slot = 0 ∧ x.gen = 7 then 1 else (x.gen + 1) % 8, abandoned := x.abandoned } ∧
      (∀ e ∈ t.xlate.tlb, e.slot ≠ slot) ∧ (∀ w ∈ t.xlate.walks, w.slot ≠ slot)) ∧
  (∀ (s : State) (slot gen : Nat), canon s = true → slot < 512 → gen < 8 →
    ∃ t, exec (.abandonedRequestExpiry slot gen) s = .next (pump t) ∧ ∀ n, n < 16 →
      (foldAt t n).unacked = (foldAt s n).unacked.filter fun e =>
        !(e.abandoned && tagSlot e.tag == slot && tagGen e.tag == gen &&
          decide (e.sentAt.toNat + 2000 * s.flock.collTimeout.toNat ≤ (now s).toNat)))

/-- In a block at rest whose context queue accepts the descriptor: MODEL_LOAD of a resident model of that home and length
counts a hit and completes with its digest; one of a new model with a free directory entry, whose rivals are not in use,
evicts them, copies the image into its home beat by beat, zeroes the pond part and completes with the digest of the
bytes; MODEL_EVICT removes the model and its bindings, or completes with RANGE while another context uses it. MODEL_PARK
parks the one used rival of a waiting load or task; MODEL_RELOAD copies a parked model back for a task or launch that is
ready but for it. -/
def Obligations.ModelCacheCommands : Prop :=
  (∀ (q : Nat) (d : BitVec 512) (s : State), alone q d s → q ≠ 0 →
    let c := accepted q d s
    let s1 := taken q d s
    let n := tagFold c.tag
    let id := mlId d
    let bind := fun (x : State) => if mlBind d then bindModel c.tag id x else x
    (opcodeOf d = 0x09 → loadArgsOk s c = true →
      (∀ m, modelAt s n id = some m → m.home = mlHome d → m.state = 2 → m.length = mlLen d →
        exec (.modelLoad q d) s = .next (complete c.uid (Done.withDigest m.digest)
          (bind (modFold s1 n fun f => { f with sched := { f.sched with hits := f.sched.hits + 1 } })))) ∧
      (modelAt s n id = none → (modelsOf s n).length < 64 →
        let m : Model := { id := id, home := mlHome d, state := 1, length := mlLen d, digest := 0, src := mlSrc d,
                           loader := c.tag, lastDispatch := 0, written := [], saved := [] }
        let s2 := setModels n (modelsOf s n ++ [m]) s1
        let rivals := overlapping s2 n (mlHome d) id
        let s3 := forEach (rivals.map fun m => m.id) (evictModel n) s2
        let home := homeOf (foldAt s n) (mlHome d)
        let loaded := fun (dg : W64) (x : State) => complete c.uid (Done.withDigest dg) (bind
          (modModel n id (fun m => { m with state := 2, digest := dg }) x))
        (∀ x ∈ rivals, modelInUse s2 n x.id = false ∧ x.state ≠ 1) →
        (∀ dg s4, copyImage c n (mlSrc d) (mlLen d) (mlHome d) [] s3 = (.ok dg, s4) → exec (.modelLoad q d) s = .next (loaded dg s4)) ∧
        (∀ bs s4 w s5, homeBase home % 256 + mlLen d ≤ 256 →
          fetchRange c (moverPlace c) (moverMaster c) (mlSrc d).toNat (mlLen d) s3 = (.ok bs, s4) →
          writePa c.tag (homeBase home) (pagesOf (homeBase home) (mlLen d)) bs (onBehalf c.uid (moverMaster c) s4) = (.ok w, s5) →
          exec (.modelLoad q d) s = .next (loaded (crc64 bs) (zeroPond home (onBehalfOfNone s5)))))) ∧
    (opcodeOf d = 0x0A →
      let others := (boundTo s1 n id).any fun i => i != tagSlot c.tag && ctxWorks s1 i
      exec (.modelEvict q d) s = .next (
        if (modelAt s n id).isNone then complete c.uid (.plain stSuccess) s1
        else if others then complete c.uid (.plain stRange) s1
        else complete c.uid (.plain stSuccess) (setModels n ((modelsOf s n).filter fun m => m.id != id)
          (forEach (boundTo s1 n id) (fun i s => modCtx s i fun x => { x with model := none }) s1))))) ∧
  (∀ (s : State) (n uid h i : Nat) (id : W64) (c : Cmd) (m : Model), canon s = true → n < 16 → cmdAt s uid = some c →
    tagFold c.tag = n → wantedHome s c = some (h, id) → parkDue s n h id = true →
    (opcodeOf c.desc = 9 ∨ residencyWaits s c = true ∧
      (opcodeOf c.desc = 2 ∨ ∃ x, cmdAt (dispatchTask c s) uid = some x ∧ x.phase = .ready)) → modelAt s n m.id = some m →
    (overlapping s n h id).filter (fun x => modelInUse s n x.id) = [m] → usersOf s n [m] = [i] →
    ∃ s1 x, exec (.modelPark n uid) s = .next (pump (if opcodeOf c.desc = 9 then startLoad c s1 else reloadFor c s1)) ∧
      modelAt s1 n m.id = some x ∧ x.state = 3 ∧ x.written = [] ∧ (∀ l ∈ m.saved ++ m.written, l ∈ x.saved) ∧
      (foldAt s1 n).sched.parks = (foldAt s n).sched.parks + 1 ∧ s1.cmds = s.cmds) ∧
  (∀ (s : State) (slot : Nat) (c : Cmd) (id : W64) (m : Model), canon s = true → slot < 512 →
    s.cmds.find? (fun c => tagSlot c.tag == slot && residencyWaits s c) = some c →
    (opcodeOf c.desc = 2 ∨ ∃ x, cmdAt (dispatchTask c s) c.uid = some x ∧ x.phase = .ready) →
    (ctxAt s slot).model = some id → modelAt s (tagFold c.tag) id = some m → m.state = 3 →
    let n := tagFold c.tag
    let rivals := overlapping s n m.home id
    (∀ x ∈ rivals, modelInUse s n x.id = false ∧ x.state ≠ 1) → ∀ dg s2,
    copyImage c n m.src m.length m.home m.saved (forEach (rivals.map fun x => x.id) (evictModel n) s) = (.ok dg, s2) →
    exec (.modelReload slot) s =
      .next (pump (modModel n id (fun x => { x with state := 2, digest := dg, written := [] }) s2)))

/-- In a block at rest whose kernel queue accepts the descriptor: FOLD_FREEZE of an ACTIVE fold begins to freeze it under
the drain limit, FREEZE_DRAIN_END makes a quiet fold FROZEN with its time and completes, FOLD_THAW makes it ACTIVE;
FOLD_EXPORT of a frozen fold writes image (sealed for a keyed fold) and save area and counts the export, or asks its peer
for a session; FOLD_IMPORT of a good save area without pending commands leaves the fold FROZEN with the area's contents.
A good end of SPDM_FOLD leaves one session with the sender, a bad one ends the commands that wait for it with RANGE. -/
def Obligations.FreezeAndMigration : Prop :=
  (∀ (q : Nat) (d : BitVec 512) (s : State), alone q d s →
    let c := accepted q d s
    let s1 := taken q d s
    let n := field d 128 4
    let f := foldAt s n
    (opcodeOf d = 0x14 → fzThaw d = false → f.state = .active → f.armed = none → f.freezing = none →
      exec (.foldFreeze q d) s = .next (setPhase (modFold s1 n fun f =>
        { f with freezing := some c.uid, drainUntil := some (drainDeadline s) }) c.uid .freezing)) ∧
    (opcodeOf d = 0x14 → fzThaw d = true → exec (.foldThaw q d) s = .next (
      if f.state = .frozen then complete c.uid (.plain stSuccess) (setFoldState s1 n .active)
      else complete c.uid (.plain stRange) s1)) ∧
    (opcodeOf d = 0x15 → f.state = .frozen → fxSave d % 4096 = 0 → fxImage d % 4096 = 0 → saveSize s1 n ≤ 2 ^ 18 →
      (f.live.keyed = true → hasSession s (fxPeer d) = false → (sessionNodes s).length < 8 → mayRequest s n = true →
        exec (.foldExport q d) s = .next (beginSession n (fxPeer d) (setPhase s1 c.uid .session))) ∧
      ((f.live.keyed = true → hasSession s (fxPeer d) = true) → ∀ bs s2 offs img s3 w1 s4 w2 s5,
        readRange 8 0 (fxFrames d) (8 * fxCount d) s1 = (.ok bs, s2) → frameOffs s2 n bs = some offs →
        gather (imageRanges s2 n 256 512 offs) [] s2 = (.inl img, s3) →
        writeRange 8 0 (fxImage d) (if f.live.keyed then sealImage (transferKey s3 (fxPeer d) (f.exportSerial + 1))
          (f.exportSerial + 1) img else img) s3 = (.ok w1, s4) →
        writeRange 8 0 (fxSave d) (saveArea s4 n (f.exportSerial + 1) offs.length) s4 = (.ok w2, s5) →
        let s6 := modFold s5 n fun f => { f with exportSerial := f.exportSerial + 1 }
        exec (.foldExport q d) s = .next (complete c.uid (.plain stSuccess) (if f.live.keyed then
          setConn (.fold (fxPeer d)) { connOf s6 (.fold (fxPeer d)) with lastUse := now s } s6 else s6)))) ∧
    (opcodeOf d = 0x16 → fxSave d % 4096 = 0 → fxImage d % 4096 = 0 → fxRemap d % 4096 = 0 →
      (f.live.keyed = true → hasSession s (fxPeer d) = true) → ∀ first s2 area s3 fb s4 offs img s5,
      readRange 8 0 (fxSave d) 4096 s1 = (.ok first, s2) → saveLen first ≤ 2 ^ 18 →
      readRange 8 0 (fxSave d) (saveLen first) s2 = (.ok area, s3) →
      let x := parseSave area
      x.good = true → importShape s3 n x c = true → importRoom s3 n x = true → x.cmds = [] →
      readRange 8 0 (fxFrames d) (8 * fxCount d) s3 = (.ok fb, s4) → frameOffs s4 n fb = some offs →
      importImage c x s4 = (.ok img, s5) →
      ∃ t, exec (.foldImport q d) s = .next t ∧ t = importApply c x img offs s5 ∧ t.cmds = [] ∧
        (foldAt t n).state = .frozen ∧ (foldAt t n).frozenTime = now s ∧ (foldAt t n).scrubbed = false ∧
        (∀ p ∈ x.ctxs.zip (importSlots s x.ctxs.length), (ctxAt t p.2).state = .live ∧ (ctxAt t p.2).fold = n ∧
          (ctxAt t p.2).gen = (ctxAt s p.2).gen))) ∧
  (∀ (s : State) (n uid : Nat), canon s = true → n < 16 → (foldAt s n).freezing = some uid → foldQuiet s n = true →
    let s1 := setFold s n { foldAt s n with
      freezing := none, drainUntil := none, frozenTime := now s, state := .frozen,
      stmt := { (foldAt s n).stmt with updateSeq := (foldAt s n).stmt.updateSeq + 2, time := now s } }
    exec (.freezeDrainEnd n) s = .next (pump (complete uid (.plain stSuccess)
      (modFold s1 n fun f => { f with stmt := { f.stmt with page := statementPage s1 n } })))) ∧
  (∀ (s : State) (h : MsgHdr) (m : SpdmMsg) (done good : Bool), freshMsg 33 h s = true →
    let s1 := msgTaken 33 h s
    let p := SpdmPath.fold h.senderNode
    let conn := connOf s1 p
    ∃ t, exec (.spdmFold h m done good) s = .next (pump t) ∧
      (done = false → connOf t p = { conn with version := true, lastUse := now s1, opening := addOnce m.session conn.opening }) ∧
      (done = true → good = true → conn.sessions ≠ [] → connOf t p = { conn with lastUse := now s1 }) ∧
      (done = true → good = true → conn.sessions = [] → (sessionNodes s1).length < 8 →
        (connOf t p).sessions = [m.session] ∧ (connOf t p).lastUse = now s1) ∧
      (done = true → good = false → connOf t p = SpdmConn.closed ∧
        ∀ c ∈ t.cmds, c.phase = .session → fxPeer c.desc ≠ h.senderNode))

/-- Accepted in a block at rest: ENGINE_RESET of a unit that exists and runs nothing puts it under reset; SUSPECT_REVIEW
of a unit that holds nothing completes with SUCCESS; FOLD_RESET of a fold that admits it makes it RESETTING, fences its
queues and resets its units. Beside one running tile ENGINE_RESET holds it as a suspect with the unit under reset; beside
one held task SUSPECT_REVIEW re-runs it; a tile whose headers cannot be read yet waits for them, and one whose headers
and first segment have been fetched anew stands in the array again, but not in a brownout hold. -/
def Obligations.RecoveryCommands : Prop :=
  (∀ (q : Nat) (d : BitVec 512) (s : State), alone q d s →
    let c := accepted q d s
    let s1 := taken q d s
    let herd := rcKind d
    let u := rcUnit d
    let n := rcFold d
    (opcodeOf d = 0x18 → unitExists s herd u = true → suspectsOf s herd u = [] →
      exec (.engineReset q d) s = .next (setPhase (if herd then setHalf s1 u { halfAt s u with
          blocked := true, abandoned := false, resetting := true, resetAt := now s }
        else setEngine s1 u { engineAt s u with
          blocked := true, abandoned := false, resetting := true, resetAt := now s, tile := none, entered := 0, buf := [] })
        c.uid (.unitReset herd u))) ∧
    (opcodeOf d = 0x17 → unitExists s herd u = true → unitResetting s herd u = false → 1 ≤ rcTimeout d →
      rcTimeout d ≤ 10000000 → exec (.suspectReview q d) s = .next (complete c.uid (.plain stSuccess) s1)) ∧
    (opcodeOf d = 0x19 → foldResets s n = true → foldUnits s n ≠ [] → (foldAt s n).freezing = none →
      ∃ t, exec (.foldReset q d) s = .next t ∧ (foldAt t n).state = .resetting ∧ (foldAt t n).resetting = some c.uid ∧
        (foldAt t n).resetAt = now s ∧ t.cmds = [{ c with phase := .foldReset n }] ∧
        (∀ x ∈ foldUnits s n, unitResetting t x.1 x.2 = true) ∧
        ∀ k, (queueAt s k).state ≠ .free → (queueAt s k).hqi ≠ 0 → (hqiAt s (queueAt s k).hqi).fold = n →
          (queueAt t k).state = .fenced)) ∧
  (∀ (d : BitVec 512) (s : State) (x : Cmd), beside d s x →
    let c := accepted 0 d s
    let noWalk := fun (y : Cmd) => y.tag ≠ 0 ∧ y.coll.acc = [] ∧ linkUp s = false ∧ s.xlate.tlb = [] ∧
      (ctxAt s (tagSlot y.tag)).root ≠ none ∧ tlHdrA y.desc < 2 ^ vaBits s
    (opcodeOf d = 0x18 → rcKind d = false → unitExists s false (rcUnit d) = true → opcodeOf x.desc = 1 →
      x.phase = .tile (rcUnit d) → (engineAt s (rcUnit d)).tile = some x.uid →
      ∃ t y z, exec (.engineReset 0 d) s = .next t ∧ cmdAt t x.uid = some y ∧ y.phase = .held false (rcUnit d) ∧
        y.pages = [] ∧ y.desc = x.desc ∧ cmdAt t c.uid = some z ∧ z.phase = .unitReset false (rcUnit d) ∧
        (engineAt t (rcUnit d)).tile = none ∧ (engineAt t (rcUnit d)).resetting = true ∧
        (engineAt t (rcUnit d)).resetAt = now s) ∧
    (opcodeOf d = 0x17 → unitExists s (rcKind d) (rcUnit d) = true → unitResetting s (rcKind d) (rcUnit d) = false →
      1 ≤ rcTimeout d → rcTimeout d ≤ 10000000 → x.phase = .held (rcKind d) (rcUnit d) → rcKind d = true ∨ noWalk x →
      ∃ t y z, exec (.suspectReview 0 d) s = .next t ∧ cmdAt t x.uid = some y ∧
        y.phase = .rerun (rcKind d) (rcUnit d) ∧ y.startAt = now s ∧ cmdAt t c.uid = some z ∧
        z.phase = .review (rcKind d) (rcUnit d) (rcTimeout d) ∧ z.moved = x.uid + 1)) ∧
  (∀ (s : State) (e : Nat) (x : Cmd), rerunOn s e = some x.uid → cmdAt s x.uid = some x → x.coll.acc ≠ [] →
    (engineAt s e).tile = none → (engineAt s e).resetting = false →
    (s.power.brownout = true → rerunGo e s = s) ∧
    (s.power.brownout = false → firstHere s x = true → rerunGo e s = enterArray e x s))

/-- For every state in canonical form in which the event's condition holds, each of UNIT_RESET_END, DRAIN_UNIT_RESET,
UNIT_RESET_TIMEOUT, SUSPECT_RERUN_TIMEOUT, FOLD_RESET_TIMEOUT, FOLD_RESET_RESPONSE_LIMIT, UNIT_RETIRE,
DRAIN_LIMIT_EXPIRY, DISABLE_DRAIN_END, SCRUB_END and UNIT_FILL_END answers the state its rule gives, after which what it
freed goes on (pump). A unit whose reset hangs is retired and its fold RESETTING; commands past the drain limit are gone;
a scrubbed fold's pond and tarn units read zero. -/
def Obligations.UnitAndDrainEvents : Prop :=
  ∀ (s : State), canon s = true →
    (∀ (herd : Bool) (u : Nat), u < (if herd then 16 else 32) →
      (unitResetting s herd u = true → exec (.unitResetEnd herd u) s = .next (pump (
        let s1 := endUnitReset herd u s
        let suspects := (s.cmds.filter fun c => c.phase == .held herd u && isInPlace c.desc).map fun c => c.uid
        if resetsOf s herd u = [] then s1
        else forEach (resetsOf s herd u) (fun r s => complete r.uid (.plain stSuccess) s)
          (forEach suspects (fun x s => complete x (.broken stHangUnreplayable) s) s1)))) ∧
      (unitAbandoned s herd u = true → (herd = true → (unitResetAt s herd u).toNat + 10000 ≤ (now s).toNat) →
        exec (.drainUnitReset herd u) s =
          .next (pump (beginUnitReset herd u (raiseEngine 0xB4 (unitIdentity s herd u) 0 s)))) ∧
      (unitResetting s herd u = true → (unitResetAt s herd u).toNat + 50000 ≤ (now s).toNat →
        ∃ t, exec (.unitResetTimeout herd u) s = .next (pump t) ∧ unitResetting t herd u = false ∧
          (herd = false → t.lmap.retired.getLsbD (736 + enginePhys s u) = true) ∧
          (herd = true → ∃ k, k < 8 ∧ t.lmap.retired.getLsbD (608 + 8 * u + k) = true) ∧
          (∀ n, unitOwner s herd u = some n → foldResets s n = true → (foldAt t n).state = .resetting) ∧
          ∀ c ∈ resetsOf s herd u, cmdAt t c.uid = none)) ∧
    (∀ (uid u limit : Nat) (herd : Bool) (c r : Cmd), cmdAt s uid = some c →
      s.cmds.find? (fun r => opcodeOf r.desc == 0x17 && r.moved == uid + 1) = some r → r.phase = .review herd u limit →
      c.startAt.toNat + 1000 * limit ≤ (now s).toNat →
      ∃ t, exec (.suspectRerunTimeout uid) s = .next (pump t) ∧ cmdAt t uid = none ∧ unitResetting t herd u = true ∧
        ∀ k, (queueAt s k).tag = c.tag → (queueAt t k).state ≠ .active) ∧
    (∀ n, n < 16 → (foldAt s n).state = .resetting →
      ((foldAt s n).resetAt.toNat + 2000000 ≤ (now s).toNat → exec (.foldResetTimeout n) s =
        .next (pump (doReset (raiseFault { cls := 3, detail := 0xB1, fold := some n } s)))) ∧
      ((foldAt s n).resetAt.toNat + min (1000 * s.faults.drainLimit.toNat) 1000000 ≤ (now s).toNat →
        ∃ t, exec (.foldResetResponseLimit n) s = .next (pump t) ∧
          (∀ r ∈ t.xlate.reqs, r.tag ≠ 0 → tagFold r.tag = n → r.abandoned = true) ∧
          ∀ e ∈ (foldAt t n).unacked, e.abandoned = true)) ∧
    (∀ b, 216 ≤ b → b < 768 → s.lmap.retired.getLsbD b = false →
      ∃ t, exec (.unitRetire b) s = .next (pump t) ∧ t.lmap.retired = setBit s.lmap.retired b ∧
        t.lmap.retirements = s.lmap.retirements + 1) ∧
    (∀ slot, due (ctxAt s slot).drainUntil s = true →
      let tag := mkTag (ctxAt s slot).fold slot (ctxAt s slot).gen
      ∃ t, exec (.drainLimitExpiry (.context slot)) s = .next (pump t) ∧ (ctxAt t slot).drainUntil = none ∧
        ∀ c ∈ s.cmds, c.tag = tag → c.q ≠ 0 → cmdAt t c.uid = none) ∧
    (∀ h, due (hqiAt s h).drainUntil s = true →
      ∃ t, exec (.drainLimitExpiry (.hqi h)) s = .next (pump t) ∧ (hqiAt t h).drainUntil = none ∧
        ∀ c ∈ s.cmds, (queueAt s c.q).state ≠ .free → (queueAt s c.q).hqi = h → (queueAt s c.q).destroying = true →
          cmdAt t c.uid = none) ∧
    (∀ n, due (foldAt s n).drainUntil s = true →
      ((foldAt s n).freezing = none → ∃ t, exec (.drainLimitExpiry (.fold n)) s = .next (pump t) ∧
        (foldAt t n).drainUntil = none ∧ ∀ c ∈ s.cmds, c.tag ≠ 0 → tagFold c.tag = n → cmdAt t c.uid = none) ∧
      (∀ v, (foldAt s n).freezing = some v → exec (.drainLimitExpiry (.fold n)) s = .next (pump (complete v
        (.plain stAborted) (setFold s n { foldAt s n with freezing := none, drainUntil := none }))))) ∧
    (due s.faults.drainUntil s = true → ∃ t, exec (.drainLimitExpiry .whole) s = .next (pump t) ∧
      t.faults.drainUntil = none ∧ ∀ c ∈ s.cmds, c.q ≠ 0 → cmdAt t c.uid = none) ∧
    (∀ n, n < 16 → (foldAt s n).state = .closing → foldBusy s n = false → fencesReach s n = true →
      ∃ t, exec (.disableDrainEnd n) s = .next (pump t) ∧ (foldAt t n).state = .disabled ∧
        (foldAt t n).ctlOutcome = stSuccess ∧ (foldAt t n).drainUntil = none ∧
        ∀ slot ∈ foldSlots s n, (ctxAt t slot).state = .free) ∧
    (∀ n, n < 16 → (foldAt s n).state = .scrubbing →
      ∃ t, exec (.scrubEnd n) s = .next (pump t) ∧ (foldAt t n).state = .disabled ∧ (foldAt t n).scrubbed = true ∧
        (foldAt t n).keyId = 0 ∧ (foldAt t n).windows = [] ∧ (foldAt t n).sched.models = [] ∧
        (foldAt t n).ctlOutcome = stSuccess ∧
        (∀ u off, u < 256 → off < 2 ^ 18 → Tab.get 0 t.pond (u * 2 ^ 18 + off) =
          if (foldAt s n).live.pondUnits.getLsbD u then 0 else Tab.get 0 s.pond (u * 2 ^ 18 + off)) ∧
        (∀ u off, u < 512 → off < 2 ^ 20 → Tab.get 0 t.tarn (u * 2 ^ 20 + off) =
          if (foldAt s n).live.tarnUnits.getLsbD u then 0 else Tab.get 0 s.tarn (u * 2 ^ 20 + off)) ∧
        ∀ k, Tab.get 0 t.xlate.frames k =
          if bitAt (Tab.get 0 s.xlate.frames k) 7 ∧ field (Tab.get 0 s.xlate.frames k) 0 4 = n then 0
          else Tab.get 0 s.xlate.frames k) ∧
    (∀ u, u ∈ s.xlate.filling → ∃ t, exec (.unitFillEnd u) s = .next (pump t) ∧
      t.xlate.filling = s.xlate.filling.filter (fun x => x != u) ∧
      (∀ p i, u = .pond p i → t.pond = memZero s.pond ((32 * p + i) * 2 ^ 18) (2 ^ 18) ∧ t.tarn = s.tarn) ∧
      (∀ i, u = .tarn i → t.tarn = memZero s.tarn (i * 2 ^ 20) (2 ^ 20) ∧ t.pond = s.pond))

/-- For every state in canonical form in which the dictionary serves: COMMIT that fails a check leaves only its outcome,
one that passes is armed for its epoch and makes a FREE fold PENDING, a keyed one with a key slot; CANCEL disarms;
DISABLE of an ACTIVE or FROZEN fold makes it CLOSING, its sluice closed under the drain limit; ENABLE makes a DISABLED
fold ACTIVE; SCRUB begins on a DISABLED fold; DELETE is armed. In any other state, and for a DELETE with an HQI bound, an
epoch past or one armed already, the outcome is RANGE and nothing else changes. A change of state rewrites the statement
page. -/
def Obligations.FoldControls : Prop :=
  ∀ (s : State) (n : Nat), canon s = true → n < 16 → bootOnly s = false →
    let f := foldAt s n
    let next := fun (i : Instr) (g : Fold) => exec i s = .next (pump (setFold s n g))
    let inState := fun (g : Fold) (st : FoldState) =>
      let w : Fold := { g with state := st, stmt := { f.stmt with updateSeq := f.stmt.updateSeq + 2, time := now s } }
      { w with stmt := { w.stmt with page := statementPage (setFold s n w) n } }
    (∀ st, commitCheck s n = some st → next (.commit n) { f with ctlOutcome := st }) ∧
    (commitCheck s n = none →
      let g : Fold := { f with ctlOutcome := stSuccess, armed := some (armEpoch s n) }
      (f.state ≠ .free → next (.commit n) g) ∧
      (f.state = .free → f.staged.keyed = false → next (.commit n) (inState g .pending)) ∧
      (f.state = .free → f.staged.keyed = true → ∃ t k, exec (.commit n) s = .next (pump t) ∧ k ∈ freeKeys s ∧
        foldAt t n = { inState g .pending with keySlot := BitVec.ofNat 8 k } ∧
        t.xlate.keySlots = Tab.set 0 s.xlate.keySlots k (n + 1))) ∧
    (f.state ≠ .pending → f.state ≠ .active → f.state ≠ .disabled → next (.cancel n) { f with ctlOutcome := stRange }) ∧
    (f.state = .pending ∨ f.state = .active ∨ f.state = .disabled →
      let g : Fold := { f with 
        ctlOutcome := stSuccess, armed := none, deleting := none,
        commitEpoch := if f.armed.isSome || f.deleting.isSome then 0 else f.commitEpoch }
      (f.state ≠ .pending → next (.cancel n) g) ∧
      (f.state = .pending → f.keySlot = 0xFF → next (.cancel n) (inState g .free)) ∧
      (f.state = .pending → f.keySlot ≠ 0xFF → ∃ t, exec (.cancel n) s = .next (pump t) ∧
        foldAt t n = { inState g .free with keySlot := 0xFF, keyId := 0 } ∧
        t.xlate.keySlots = Tab.set 0 s.xlate.keySlots f.keySlot.toNat 0)) ∧
    (f.state ≠ .active → f.state ≠ .frozen → next (.disable n) { f with ctlOutcome := stRange }) ∧
    (f.state = .active ∨ f.state = .frozen → ∃ t, exec (.disable n) s = .next (pump t) ∧ (foldAt t n).state = .closing ∧
      (foldAt t n).ctlOutcome = 0 ∧ (foldAt t n).freezing = none ∧
      (foldAt t n).drainUntil = earlierOf f.drainUntil (drainDeadline s) ∧
      (∀ k, (queueAt s k).state ≠ .free → (queueAt s k).hqi ≠ 0 → (hqiAt s (queueAt s k).hqi).fold = n →
        (queueAt t k).state = .fenced) ∧
      ∀ c ∈ t.cmds, c.tag ≠ 0 → tagFold c.tag = n → undispatched c = false) ∧
    (f.state ≠ .disabled → next (.enable n) { f with ctlOutcome := stRange } ∧ next (.scrub n) { f with ctlOutcome := stRange } ∧
      next (.delete n) { f with ctlOutcome := stRange }) ∧
    (f.state = .disabled →
      (¬ (f.live.keyed = true ∧ f.keyId = 0) →
        next (.enable n) (inState { f with ctlOutcome := stSuccess, drainUntil := none } .active)) ∧
      (f.live.keyed = true → f.keyId = 0 → ∃ t, exec (.enable n) s = .next (pump t) ∧
        foldAt t n = inState { f with ctlOutcome := stSuccess, drainUntil := none, keyId := s.xlate.nextKey + 1 } .active) ∧
      next (.scrub n) (inState { f with ctlOutcome := 0 } .scrubbing) ∧
      (hqiBound s n = false → f.deleting = none → epochOk s n = true →
        next (.delete n) { f with ctlOutcome := stSuccess, deleting := some (armEpoch s n) }) ∧
      (hqiBound s n = true ∨ f.deleting.isSome ∨ epochOk s n = false → next (.delete n) { f with ctlOutcome := stRange }))

/-- For every state in canonical form in which the dictionary serves and no other access is under way, and a request
whose reserved fields are 0: HQI_CREATE makes a free HQI of a fold that exists and locks the configuration; QUEUE_CREATE
makes a valid queue, ACTIVE or stopped with NOT_READY; HQI_DESTROY and QUEUE_DESTROY of objects without commands, records
to be written, reads of the ring or, for the HQI, outstanding responses free them; QUEUE_RESUME makes a stopped queue
ACTIVE; SEM_ALLOC takes the lowest free number, SEM_FREE frees an unused one. The outcome is SUCCESS, with the number
SEM_ALLOC took. -/
def Obligations.HostObjectRequests : Prop :=
  ∀ (s : State) (r : BitVec 512), canon s = true → bootOnly s = false → s.hostPort.accesses = [] → hoClean r = true →
    let h := hoHqi r
    let q := hoQueue r
    let x := hqiAt s h
    let good := fun (i : Nat) (t : State) =>
      { t with hostPort := { t.hostPort with outcome := BitVec.ofNat 32 (1 + 65536 * i) } }
    (hoOp r = 1 → h ≠ 0 → x.created = false → foldExists s (hoFold r) = true →
      exec (.hqiCreate r) s = .next (pump (good 0 { setHqi s h { x with
        created := true, fold := hoFold r, closed := false, drainUntil := none } with
        boot := { s.boot with locked := true } }))) ∧
    (hoOp r = 2 → h ≠ 0 → x.created = true →
      (∀ k ∈ hqiQueues s h, cmdsOf s k = [] ∧ (∀ y ∈ s.journal.heldBack, y.1 ≠ k) ∧
        ∀ o ∈ s.hostPort.out, o.use ≠ .batch k) → (hqiQueues s h = [] ∨ s.hostPort.posted = []) →
      (∀ o ∈ s.hostPort.out, o.hqi ≠ h) → (∀ x ∈ s.xlate.reqs, x.hqi ≠ h) →
      (∀ p ∈ s.folds, ∀ e ∈ p.2.unacked, e.hqi ≠ h) →
      ∃ t, exec (.hqiDestroy r) s = .next (pump t) ∧
        hqiAt t h = { Hqi.reset with spoof := x.spoof, doorbellBad := x.doorbellBad } ∧
        (∀ k ∈ hqiQueues s h, queueAt t k = Queue.reset) ∧ t.hostPort.outcome = 1) ∧
    (hoOp r = 3 → h ≠ 0 → q ≠ 0 → x.created = true → (queueAt s q).state = .free → tagOpen s (hoTag r) = true →
      tagFold (hoTag r) = x.fold → queueAtSlot s h (hoLoc r) = none → (hoRing r).toNat % 4096 = 0 →
      (hoCring r).toNat % 4096 = 0 → (hoHeadWb r).toNat % 8 = 0 → hoSize r ≤ 12 →
      ((foldAt s x.fold).live.queueQuota = 0 ∨
        (foldQueues s x.fold).length < (foldAt s x.fold).live.queueQuota.toNat) →
      exec (.queueCreate r) s = .next (pump (good 0 (setQueue s q { Queue.reset with
        state := if s.journal.enabled && s.tb.state != .unset then .active else .notReady,
        hqi := h, loc := hoLoc r, tag := hoTag r, ring := hoRing r, cring := hoCring r, headWb := hoHeadWb r,
        size := hoSize r, msix := bitsAt r 232 16, modCount := bitsAt r 216 16, modTime := bitsAt r 200 16 })))) ∧
    (hoOp r = 4 → q ≠ 0 → (queueAt s q).state ≠ .free → cmdsOf s q = [] → (∀ y ∈ s.journal.heldBack, y.1 ≠ q) →
      s.hostPort.posted = [] → (∀ o ∈ s.hostPort.out, o.use ≠ .batch q) →
      ∃ t, exec (.queueDestroy r) s = .next (pump t) ∧ queueAt t q = Queue.reset ∧
        (∀ k, k ≠ q → queueAt t k = queueAt s k) ∧ t.hostPort.outcome = 1) ∧
    (hoOp r = 5 →
      ((queueAt s q).state = .seqGap ∨ (queueAt s q).state = .waitSlots ∨ (queueAt s q).state = .hang ∨
        (queueAt s q).state = .readError) →
      exec (.queueResume r) s = .next (pump (good 0 (setQueue s q { queueAt s q with state := .active })))) ∧
    (hoOp r = 6 → foldExists s (hoFold r) = true → hoMax r ≠ 0 → (hoCount r).toNat ≤ (hoMax r).toNat →
      ((foldAt s (hoFold r)).live.semQuota = 0 ∨
        (foldSems s (hoFold r)).length < (foldAt s (hoFold r)).live.semQuota.toNat) →
      ∀ i, i < 1024 → (semAt s i).created = false → (∀ j, j < i → (semAt s j).created = true) →
        exec (.semAlloc r) s = .next (pump (good i (setSem s i
          { created := true, fold := hoFold r, count := hoCount r, max := hoMax r, holders := [], waiters := [] })))) ∧
    (hoOp r = 7 → (semAt s (hoSem r)).created = true → (semAt s (hoSem r)).holders = [] →
      (semAt s (hoSem r)).waiters = [] →
      exec (.semFree r) s = .next (pump (good 0 (setSem s (hoSem r) Sem.reset))))

/-- For every state in canonical form in which BAR0 answers: a doorbell or CQ_HEAD within bounds moves its pointer and
one that is not, or names no queue or one being destroyed, is counted and changes nothing else; FENCE_DB completes a wait
that the fence satisfies; KQ_CTL enables the kernel queue with pointers and NEXT_SEQ 0; the fault ring is enabled,
disabled and read; JNL_RD moves; JOURNAL_ENABLE and JOURNAL_DISABLE take effect when allowed; a moderation timer raises
the queue's vector. Every refused write leaves the state as it is. -/
def Obligations.RegisterRows : Prop :=
  ∀ s : State, canon s = true → barOn s = true →
    let counted := fun (i : Instr) (h : Nat) =>
      exec i s = .next (pump (setHqi s h { hqiAt s h with doorbellBad := satAdd (hqiAt s h).doorbellBad 1 }))
    (∀ h loc v, h < 256 → loc < 64 →
      (queueAtSlot s h loc = none → counted (.doorbell h loc v) h ∧ counted (.cqHeadWrite h loc v) h) ∧
      ∀ q, queueAtSlot s h loc = some q →
        let x := queueAt s q
        let ahead := (v - x.sqHead).toNat
        (x.destroying = true ∨ 2 ^ (x.size + 4) < ahead ∨ ahead < (x.sqTail - x.sqHead).toNat →
          counted (.doorbell h loc v) h) ∧
        (x.destroying = false → ahead ≤ 2 ^ (x.size + 4) → (x.sqTail - x.sqHead).toNat ≤ ahead →
          exec (.doorbell h loc v) s = .next (pump (setQueue s q { x with sqTail := v }))) ∧
        ((x.cqTail - x.cqHead).toNat < (v - x.cqHead).toNat → counted (.cqHeadWrite h loc v) h) ∧
        ((v - x.cqHead).toNat ≤ (x.cqTail - x.cqHead).toNat →
          exec (.cqHeadWrite h loc v) s = .next (pump (setQueue s q { x with cqHead := v })))) ∧
    (∀ h a, h < 256 → (∀ c ∈ s.cmds, opcodeOf c.desc = 5 → operand0 c.desc ≠ a) →
      exec (.fenceDb h a) s = .next (pump s)) ∧
    (∀ h c pa target mem off s1 bs s2, h < 256 → s.cmds = [c] → (queueAt s c.q).hqi = h → opcodeOf c.desc = 5 →
      c.phase = .waitFence pa target →
      reach 8 c.tag (operand0 c.desc).toNat .read (onBehalf c.uid hostMaster s) = (.loc mem off, s1) →
      locRead c.tag mem off 16 s1 = (.ok bs, s2) →
      (operand1 c.desc).toNat ≤ fsValue (BitVec.ofNat 128 (ofLe bs)) →
      exec (.fenceDb h (operand0 c.desc)) s =
        .next (pump (let t := complete c.uid (.plain stSuccess) s2
          { t with xlate := { t.xlate with agent := s.xlate.agent } }))) ∧
    (let k := s.kpage
      let valid := k.ring.toNat % 4096 = 0 ∧ k.cring.toNat % 4096 = 0 ∧ k.headWb.toNat % 8 = 0 ∧ k.size.toNat ≤ 12;
      (k.enabled = false → valid → exec .kqEnable s = .next (pump (setQueue { s with kpage := { k with enabled := true } } 0
        { queueAt s 0 with
          state := .active, hqi := 0, loc := 0, tag := 0, ring := k.ring, cring := k.cring, headWb := k.headWb,
          size := k.size.toNat, sqHead := 0, sqTail := 0, nextSeq := 0, cqHead := 0, cqTail := 0 }))) ∧
      (k.enabled = true ∨ ¬ valid → exec .kqEnable s = .next (pump s))) ∧
    (let f := s.faults
      let valid := f.frOn = false ∧ f.frBase.toNat % 4096 = 0 ∧ ∃ e, 6 ≤ e ∧ e ≤ 16 ∧ f.frEntries.toNat = 2 ^ e;
      (¬ valid → exec .faultRingEnable s = .next (pump s)) ∧
      exec .faultRingDisable s = .next (pump { s with faults := { f with frOn := false } }) ∧
      (f.buffer = [] → f.waitingB = [] → (∀ e ∈ s.xlate.pending, e.written = true) →
        (valid → exec .faultRingEnable s = .next (pump { s with faults := { f with
          frOn := true, frWr := 0, frRd := 0,
          unacked := f.unacked.filter fun u => match u.place with | .ring _ => false | .dropped => false | _ => true } })) ∧
        ∀ v : W64, f.frRd.toNat ≤ v.toNat → v.toNat ≤ f.frWr.toNat →
          exec (.frRdWrite v) s = .next (pump { s with faults := { f with
            frRd := v
            unacked := f.unacked.filter fun u => match u.place with
              | .ring i => decide (v.toNat ≤ i)
              | .dropped => !(f.frOn && v == f.frWr)
              | _ => true } })) ∧
      ∀ v : W64, v.toNat < f.frRd.toNat ∨ f.frWr.toNat < v.toNat → exec (.frRdWrite v) s = .next (pump s)) ∧
    (let j := s.journal;
      (∀ v : W64, v.toNat < j.rd.toNat ∨ j.wr.toNat < v.toNat → exec (.jnlRdWrite v) s = .next (pump s)) ∧
      (∀ v : W64, j.rd.toNat ≤ v.toNat → v.toNat ≤ j.wr.toNat → j.buffer = [] → j.heldBack = [] →
        exec (.jnlRdWrite v) s = .next (pump { s with journal := { j with rd := v } })) ∧
      (bootOnly s = false →
        let valid := j.base.toNat % 4096 = 0 ∧ ∃ e, 6 ≤ e ∧ e ≤ 24 ∧ j.entries.toNat = 2 ^ e;
        (j.enabled = false → valid → exec .journalEnable s =
          .next (pump { s with journal := { j with enabled := true, wr := 0, rd := 0 } })) ∧
        (j.enabled = true ∨ ¬ valid → exec .journalEnable s = .next (pump s)) ∧
        (let idle := (∀ q, q ≠ 0 → (queueAt s q).state = .free) ∧ j.buffer = [] ∧ j.heldBack = [] ∧
            ∀ c ∈ s.cmds, c.journalled = false;
          (idle → exec .journalDisable s = .next (pump { s with journal := { j with enabled := false } })) ∧
          (¬ idle → exec .journalDisable s = .next (pump s))))) ∧
    ∀ q, q < 4096 →
      let x := queueAt s q
      let due := x.modTime ≠ 0 ∧ x.unannounced ≠ 0 ∧ x.firstAt.toNat + 100 * x.modTime.toNat ≤ (now s).toNat;
      (due → exec (.moderationTimerExpiry q) s = .next (pump (raiseVector x.msix (setQueue s q { x with unannounced := 0 })))) ∧
      (¬ due → exec (.moderationTimerExpiry q) s = .next (pump s))

/-- For every state in which BAR0 answers, a 4-byte write in an HQI's doorbell page is the doorbell, or CQ_HEAD, of its
slot, and an 8-byte write at 0x800 is FENCE_DB; the kernel page's ring settings take effect while the queue is not
enabled; KQ_CTL, FR_CTL, FR_RD and JNL_RD act as their rows; DW_HDR and DW_DATA take four bytes while the window is not
busy, the reserved bits [47:40] of DW_HDR aside (R11); a statement page takes nothing. A write of another size or
alignment is ignored and counted in bad_target. While BAR0 does not answer, no write changes anything. -/
def Obligations.RegisterMap : Prop :=
  ∀ (s : State) (v : W64),
    let lo : W32 := v.extractLsb' 0 32
    let k := s.kpage
    let kept := fun (j : Nat) (w : W32) => if j = 1 then w &&& 0xFFFF00FF else w;
    (barOn s = false → ∀ off size, exec (.registerWrite off size v) s = .next (pump s)) ∧
    (barOn s = true →
      (∀ off size, ¬ (size = 4 ∧ off % 4 = 0) → ¬ (size = 8 ∧ off % 8 = 0) →
        exec (.registerWrite off size v) s =
          .next (pump { s with hostPort := { s.hostPort with badTarget := s.hostPort.badTarget + 1 } })) ∧
      (∀ h loc, h < 256 → loc < 64 →
        exec (.registerWrite (4096 * h + 32 * loc) 4 v) s = exec (.doorbell h loc lo) s ∧
        exec (.registerWrite (4096 * h + 32 * loc + 0x10) 4 v) s = exec (.cqHeadWrite h loc lo) s) ∧
      (∀ h, h < 256 → exec (.registerWrite (4096 * h + 0x800) 8 v) s = exec (.fenceDb h v) s) ∧
      (∀ off, 0x100000 ≤ off → off + 8 ≤ 0x200000 → off % 8 = 0 → exec (.registerWrite off 8 v) s = .next (pump s)) ∧
      (let put := fun (off size : Nat) (t : State) =>
          exec (.registerWrite off size v) s = .next (pump (if k.enabled then s else t));
        put 0x200000 8 { s with kpage := { k with ring := v } } ∧
        put 0x200008 8 { s with kpage := { k with cring := v } } ∧
        put 0x200010 8 { s with kpage := { k with headWb := v } } ∧
        put 0x200018 4 { s with kpage := { k with size := v.extractLsb' 0 8 } } ∧
        put 0x200000 4 { s with kpage := { k with ring := k.ring.extractLsb' 32 32 ++ lo } } ∧
        put 0x200004 4 { s with kpage := { k with ring := lo ++ k.ring.extractLsb' 0 32 } }) ∧
      exec (.registerWrite 0x200020 4 v) s = .next (pump { s with kpage := { k with msix := v.extractLsb' 0 16 } }) ∧
      exec (.registerWrite 0x20001C 4 v) s = (if v.getLsbD 0 then exec .kqEnable s else .next (pump s)) ∧
      (s.faults.frOn = false →
        exec (.registerWrite 0x201000 8 v) s = .next (pump { s with faults := { s.faults with frBase := v } }) ∧
        exec (.registerWrite 0x201008 4 v) s = .next (pump { s with faults := { s.faults with frEntries := lo } })) ∧
      (s.faults.frOn = true → exec (.registerWrite 0x201000 8 v) s = .next (pump s) ∧
        exec (.registerWrite 0x201008 4 v) s = .next (pump s)) ∧
      exec (.registerWrite 0x20100C 4 v) s = (if v.getLsbD 0 then exec .faultRingEnable s else exec .faultRingDisable s) ∧
      exec (.registerWrite 0x201018 8 v) s = exec (.frRdWrite v) s ∧
      exec (.registerWrite 0x202008 8 v) s = exec (.jnlRdWrite v) s ∧
      (k.dwBusy = true → (∀ i, i < 4 → exec (.registerWrite (0x200100 + 4 * i) 4 v) s = .next (pump s)) ∧
        ∀ i, i < 64 → exec (.registerWrite (0x200200 + 4 * i) 4 v) s = .next (pump s)) ∧
      (k.dwBusy = false →
        (∀ i, i < 3 → ∃ t, exec (.registerWrite (0x200100 + 4 * i) 4 v) s = .next (pump t) ∧
          t = { s with kpage := { k with dwHdr := t.kpage.dwHdr } } ∧
          ∀ j, j < 4 → t.kpage.dwHdr.extractLsb' (32 * j) 32 =
            kept j (if j = i then lo else k.dwHdr.extractLsb' (32 * j) 32)) ∧
        ∀ i, i < 64 → ∃ t, exec (.registerWrite (0x200200 + 4 * i) 4 v) s = .next (pump t) ∧
          t = { s with kpage := { k with dwData := t.kpage.dwData } } ∧
          t.kpage.dwData.length = 256 ∧
          ∀ j, j < 256 → t.kpage.dwData.getD j 0 =
            if 4 * i ≤ j ∧ j < 4 * i + 4 then v.extractLsb' (8 * (j - 4 * i)) 8 else k.dwData.getD j 0))

/-- For every state in which the dictionary serves and no access waits: a read of an entry in its shape answers its bytes
with status 0 on the management port and in the window, and a write-only entry reads as zeros; a write answers the status
of the first check it fails: no entry, shape, read only, locked, a BOOL above 1; a good one takes effect. Only the
management port writes debug_enable. DBG_DICT is BYPASS while it is disabled; enabled, it reads up to four bytes into its
register. A path that is closed changes nothing. -/
def Obligations.DictionaryAccesses : Prop :=
  ∀ s : State, bootOnly s = false → s.hostPort.accesses = [] →
    let answer := fun (tag : Byte) (a : DictAccess) (st : Byte) (data : List Byte) (t : State) =>
      { t with mgmt := { t.mgmt with
        responses := t.mgmt.responses ++ [(t.tb.cycle, [0x7E] ++ beBytes 4 Config.vendorId.toNat ++ [2, tag, 0] ++
          ([if a.write then 2 else 1, st] ++ leBytes 2 a.index ++ [BitVec.ofNat 8 a.sub, 0] ++ leBytes 2 a.length ++
            leBytes 4 a.offset) ++ data)]
        ibiCount := t.mgmt.ibiCount + 1 } }
    let shown := fun (st : Byte) (data : List Byte) (t : State) =>
      { t with kpage := { t.kpage with dwBusy := false, dwStatus := st, dwData := data ++ (pad 256 t.kpage.dwData).drop data.length } }
    (∀ p, pathOpen s p = false → ∀ index sub off,
      (∀ n, exec (.dictRead p index sub off n) s = .next (pump s)) ∧ ∀ bs, exec (.dictWrite p index sub off bs) s = .next (pump s)) ∧
    (∀ (index : W16) (sub : Byte) (e : Entry), dictEntry s index.toNat sub.toNat = some e →
      let bytes := if e.right = .wo then List.replicate e.size 0 else e.value
      (∀ tag off n, mgmtOn s = true → 1 ≤ n → n ≤ 256 → off + n ≤ e.size → (e.scalar = true → off = 0 ∧ n = e.size) →
        exec (.dictRead (.mgmt tag) index sub off n) s =
          .next (pump (answer tag (readAccess index sub off n) 0 ((bytes.drop off).take n) s))) ∧
      (∀ off n, barOn s = true → s.kpage.dwBusy = false → 1 ≤ n → n ≤ 256 → off + n ≤ e.size →
        (e.scalar = true → off = 0 ∧ n = e.size) →
        exec (.dictRead .window index sub off n) s = .next (pump (shown 0 ((bytes.drop off).take n) s))) ∧
      ∀ tag bs, mgmtOn s = true →
        let refused := fun st => exec (.dictWrite (.mgmt tag) index sub 0 bs) s =
          .next (pump (answer tag (writeAccess index sub 0 bs) st [] s))
        (e.scalar = true → bs.length ≠ e.size → refused 6) ∧
        (1 ≤ e.size → e.size ≤ 256 → bs.length = e.size →
          ((e.right = .ro ∨ e.right = .const) → refused 2) ∧
          (e.right = .rwl → s.boot.locked = true → refused 3) ∧
          (e.right = .rw → e.isBool = true → 1 < ofLe bs → refused 4))) ∧
    (∀ (index : W16) (sub : Byte) tag off, mgmtOn s = true → dictEntry s index.toNat sub.toNat = none →
      (∀ n, exec (.dictRead (.mgmt tag) index sub off n) s = .next (pump (answer tag (readAccess index sub off n) 1 [] s))) ∧
      ∀ bs, exec (.dictWrite (.mgmt tag) index sub off bs) s = .next (pump (answer tag (writeAccess index sub off bs) 1 [] s))) ∧
    (∀ tag (v : W16), mgmtOn s = true →
      let a := writeAccess 0x2000 0x30 0 (bytesOf 2 v)
      exec (.dictWrite (.mgmt tag) 0x2000 0x30 0 (bytesOf 2 v)) s = .next (pump (
        if 500 ≤ v.toNat ∧ v.toNat ≤ 900 then answer tag a 0 [] { s with weirG := { s.weirG with derate := v } }
        else answer tag a 4 [] s))) ∧
    (∀ v : W64, barOn s = true → s.kpage.dwBusy = false →
      exec (.dictWrite .window 0x3100 0x03 0 (bytesOf 8 v)) s = .next (pump (
        if s.journal.enabled then shown 5 [] s
        else shown 0 [] { s with journal := { s.journal with base := v } }))) ∧
    (∀ tag (b : Bool), mgmtOn s = true →
      exec (.debugEnableWrite (.mgmt tag) (if b then 1 else 0)) s = .next (pump (answer tag
        (writeAccess 0x7100 1 0 [if b then 1 else 0]) 0 [] { s with dbg := { s.dbg with enable := b } }))) ∧
    (∀ b : Bool, barOn s = true → s.kpage.dwBusy = false →
      exec (.debugEnableWrite .window (if b then 1 else 0)) s = .next (pump (shown 7 [] s))) ∧
    ∀ v : BitVec 96,
      (s.dbg.enable = false → exec (.dbgDict v) s =
        .next (pump { s with dbg := { s.dbg with ir := 0x10, bypassBit := v.getLsbD 0, driving := false } })) ∧
      ∀ e, s.dbg.enable = true → v.extractLsb' 88 8 = 1#8 →
        dictEntry s (v.extractLsb' 64 16).toNat (v.extractLsb' 56 8).toNat = some e → e.right ≠ .wo →
        let off := (v.extractLsb' 32 16).toNat
        (e.size ≤ 4 ∧ e.scalar = true ∧ off = 0) ∨ (4 < e.size ∧ off % 4 = 0 ∧ off < e.size) → 1 ≤ e.size →
        exec (.dbgDict v) s = .next (pump { s with dbg := { s.dbg with
          ir := 0x10, driving := false, accesses := s.dbg.accesses + 1,
          dictReg := place 1 88 8 ||| place (v.extractLsb' 64 16).toNat 64 16 ||| place (v.extractLsb' 56 8).toNat 56 8 |||
            place off 32 16 ||| place (ofLe ((e.value.drop off).take (min 4 (e.size - off)))) 0 32 } })

/-- For every state in which the dictionary serves: 0x4C sets the configuration lock and any other value changes nothing;
a write of host_cap before the lock sets both entries, one of host_cap_now sets that entry alone, and a change is
counted; GAUGE_CLEAR resets the gauges of the folds and of the instance it names; switch_epoch is armed when the plan is
valid and otherwise counted as refused; len_switch_epoch and start_epoch take 0 and epochs ahead only, and start_epoch
needs the licence and a fold that is its flock's bellwether. -/
def Obligations.SingleEntryWrites : Prop :=
  ∀ s : State, bootOnly s = false →
    (∀ v : Byte, exec (.configLock v) s =
      .next (pump (if v = 0x4C then { s with boot := { s.boot with locked := true } } else s))) ∧
    (∀ v : W32, s.boot.locked = false → ∃ t, exec (.hostCapWrite false v) s = .next (pump t) ∧ t.weirG.hostCap = v ∧
      t.weirG.hostCapNow = v ∧
      t.weirG.capacityEvents = s.weirG.capacityEvents + (if v = s.weirG.hostCapNow then 0 else 1)) ∧
    (∀ v : W32, s.boot.locked = true → exec (.hostCapWrite false v) s = .next (pump s)) ∧
    (∀ v : W32, ∃ t, exec (.hostCapWrite true v) s = .next (pump t) ∧ t.weirG.hostCap = s.weirG.hostCap ∧
      t.weirG.hostCapNow = v ∧
      t.weirG.capacityEvents = s.weirG.capacityEvents + (if v = s.weirG.hostCapNow then 0 else 1)) ∧
    (∀ v : W32, ∃ t, exec (.gaugeClear v) s = .next (pump t) ∧
      (∀ n k, k < 8 → Tab.get Gauge.reset t.gauges.folds (8 * n + k) =
        if n < 16 ∧ v.getLsbD n then Gauge.reset else Tab.get Gauge.reset s.gauges.folds (8 * n + k)) ∧
      (let g := t.gauges
        let old := s.gauges
        if v.getLsbD 16 then g.clkArr = Gauge.reset ∧ g.clkHerd = Gauge.reset ∧ g.power = Gauge.reset ∧ g.temp = Gauge.reset ∧
          ∀ i, Tab.get Gauge.reset g.rails i = Gauge.reset
        else g.clkArr = old.clkArr ∧ g.clkHerd = old.clkHerd ∧ g.power = old.power ∧ g.temp = old.temp ∧ g.rails = old.rails) ∧
      t.gauges.clockChanges = s.gauges.clockChanges ∧ t.gauges.correctable = s.gauges.correctable) ∧
    (∀ v : W64,
      let g := s.graze
      let n := if g.activeBank = 0 then g.count1.toNat else g.count0.toNat
      let word := fun i => Tab.get 0 (if g.activeBank = 0 then g.bank1 else g.bank0) i
      let start := fun i => ((word i).extractLsb' 0 16).toNat
      let valid := s.tb.epoch.toNat < v.toNat ∧ 1 ≤ n ∧ n ≤ 64 ∧ start 0 = 0 ∧ (∀ i, i + 1 < n → start i < start (i + 1)) ∧
        ∀ i, i < n → ∀ j, j < 16 → (word i).getLsbD (16 + j) = true →
          foldExists s j = true ∧ (foldAt s j).live.sealed = false;
      (v = 0 ∨ valid → exec (.switchEpochWrite v) s = .next (pump { s with graze := { g with switchEpoch := v } })) ∧
      (v ≠ 0 → ¬ valid → exec (.switchEpochWrite v) s = .next (pump { s with graze := { g with refusals := g.refusals + 1 } }))) ∧
    (∀ v : W64, exec (.lenSwitchEpochWrite v) s = .next (pump (
      if v = 0 ∨ s.tb.epoch.toNat < v.toNat then { s with tb := { s.tb with lenSwitch := v } } else s))) ∧
    ∀ v : W64,
      let t := s.twin
      let valid := s.ident.features.getLsbD 4 = true ∧ t.fold.toNat < 16 ∧ (foldAt s t.fold.toNat).member.lead = 1 ∧
        s.tb.epoch.toNat < v.toNat;
      (v = 0 → exec (.startEpochWrite v) s = .next (pump { s with twin := { t with startEpoch := 0, state := 0 } })) ∧
      (v ≠ 0 → valid → exec (.startEpochWrite v) s = .next (pump { s with twin := { t with
        startEpoch := v, state := 1, own := [], partnerHeld := [], outgoing := [], done := [], silent := 0, heard := false,
        haltPending := false } })) ∧
      (v ≠ 0 → ¬ valid → exec (.startEpochWrite v) s = .next (pump s))

/-- For every state in which the management port answers: ENTDAA gives an address to a target that has none; Set Endpoint
ID takes any ID but 0x00 and 0xFF, which are answered with completion code 0x02; Get Endpoint ID, UUID, versions and
message types answer a request to this endpoint or to the null one, and a request to another is discarded and counted.
Every answer waits at the port and counts an in-band interrupt. Responses not read within 100 ms are discarded and
counted. While the port does not answer, a request changes nothing. The layout of the answers is the model's (log entry
54). -/
def Obligations.ManagementPort : Prop :=
  ∀ s : State,
    let reply := fun (bs : List Byte) (t : State) =>
      { t with mgmt := { t.mgmt with responses := t.mgmt.responses ++ [(t.tb.cycle, bs)], ibiCount := t.mgmt.ibiCount + 1 } }
    let on := mgmtOn s = true;
    (∀ addr : BitVec 7, (on → s.mgmt.dynAddr = 0 → exec (.entdaa addr) s =
        .next { s with mgmt := { s.mgmt with dynAddr := addr.setWidth 8 } }) ∧
      (¬ (on ∧ s.mgmt.dynAddr = 0) → exec (.entdaa addr) s = .next s)) ∧
    (∀ src eid : Byte, on →
      (eid = 0 ∨ eid = 0xFF → exec (.setEndpointId src eid) s = .next (reply [0, 1, 2, 0, s.mgmt.eid, 0] s)) ∧
      (eid ≠ 0 → eid ≠ 0xFF → exec (.setEndpointId src eid) s = .next (reply [0, 1, 0, 0, eid, 0]
        { s with mgmt := { s.mgmt with eid := eid, busOwner := src } }))) ∧
    (∀ src dst mtype : Byte,
      let asked := fun (i : Instr) (bs : List Byte) =>
        (on → dst = 0 ∨ (s.mgmt.eid ≠ 0 ∧ dst = s.mgmt.eid) → exec i s = .next (reply bs s)) ∧
        (on → dst ≠ 0 → s.mgmt.eid = 0 ∨ dst ≠ s.mgmt.eid →
          exec i s = .next { s with mgmt := { s.mgmt with discarded := s.mgmt.discarded + 1 } }) ∧
        (¬ on → exec i s = .next s)
      asked (.getEndpointId src dst) [0, 2, 0, s.mgmt.eid, 0, 0] ∧
      asked (.getEndpointUuid src dst) ([0, 3, 0] ++ leBytes 16 Config.endpointUuid.toNat) ∧
      asked (.getMctpVersionSupport src dst mtype) ([0, 4, 0] ++ Config.mctpVersions mtype) ∧
      asked (.getMessageTypeSupport src dst) [0, 5, 0, 3, 0x05, 0x06, 0x7E]) ∧
    (¬ on → ∀ src eid, exec (.setEndpointId src eid) s = .next s) ∧
    ∃ t, exec .mctpResponseExpiry s = .next t ∧ t = { s with mgmt := { s.mgmt with
        responses := t.mgmt.responses, discarded := t.mgmt.discarded } } ∧
      (∀ r, r ∈ t.mgmt.responses ↔ r ∈ s.mgmt.responses ∧ s.tb.cycle < r.1 + 10000000) ∧
      t.mgmt.discarded = s.mgmt.discarded + BitVec.ofNat 32 (s.mgmt.responses.length - t.mgmt.responses.length)

/-- For every state and path: before the identity is valid every request is answered with ERROR Unspecified; one that the
standard does not accept, with its error; an accepted one with its response, after which the connection's transcript
holds the request. GET_VERSION begins a connection anew, GET_CAPABILITIES and NEGOTIATE_ALGORITHMS are noted,
KEY_EXCHANGE opens a session while the path is below its limit (4, 1 or 8) and is answered SessionLimitExceeded at it,
FINISH makes an opened session stand, END_SESSION ends one, and the others change nothing more. What the standard accepts
and the bytes of a body are constants of Config (log entry 6). -/
def Obligations.SpdmRequests : Prop :=
  ∀ (s : State) (p : SpdmPath) (m : SpdmMsg),
    let c := connOf s p
    let error := fun code => spdmSend p [0x13, 0x7F, code, 0] s
    let heard : SpdmConn := { c with transcript := ofLe (Config.sha384 (leBytes 48 c.transcript ++ m.bytes)), lastUse := now s }
    let served := fun (i : Instr) (code : Nat) (extra : List Byte) (after : SpdmConn) =>
      (s.ident.idState ≠ 1 → exec i s = .next (error 0x05)) ∧
      (s.ident.idState = 1 → Config.spdmAccepts code m.bytes c.transcript = false →
        exec i s = .next (spdmSend p (Config.spdmBody 0x7F m.bytes c.transcript) s)) ∧
      (s.ident.idState = 1 → Config.spdmAccepts code m.bytes c.transcript = true →
        exec i s = .next (spdmSend p
          ([0x13, BitVec.ofNat 8 (code - 0x80)] ++ Config.spdmBody code (m.bytes ++ extra) c.transcript) (setConn p after s)))
    let five := measurement s 1 ++ (measurement s 2 ++ (measurement s 3 ++ (measurement s 4 ++ measurement s 5)))
    let chain := s.ident.rootDer ++ s.ident.interDer ++ s.ident.deviceCertDer ++ s.ident.aliasCertDer
    served (.getVersion p m) 0x84 [] { SpdmConn.closed with
      version := true, transcript := heard.transcript, lastUse := heard.lastUse } ∧
    served (.getCapabilities p m) 0xE1 [] { heard with caps := true } ∧
    served (.negotiateAlgorithms p m) 0xE3 [] { heard with algs := true } ∧
    served (.getDigests p m) 0x81 (Config.sha384 chain) heard ∧
    served (.getCertificate p m) 0x82 chain heard ∧
    served (.challenge p m) 0x83
      (Config.sha384 five ++ Config.ecdsaSign s.ident.aliasKey (Config.sha384 (m.bytes ++ five))) heard ∧
    (m.param = 0xFF → served (.getMeasurements p m) 0xE0 five heard) ∧
    (m.param ≠ 0xFF → served (.getMeasurements p m) 0xE0 (measurement s m.param) heard) ∧
    (let full := (match p with | .mgmt => 4 | .link _ => 1 | .fold _ => 8) ≤ sessionsOn s p;
      (s.ident.idState = 1 → full → exec (.keyExchange p m) s = .next (error 0x0A)) ∧
      (s.ident.idState ≠ 1 ∨ ¬ full → served (.keyExchange p m) 0xE4 (Config.sha384 five)
        { heard with opening := if m.session ∈ c.opening then c.opening else c.opening ++ [m.session] })) ∧
    (m.session ∈ c.opening → served (.finish p m) 0xE5 [] { heard with
      opening := c.opening.filter fun x => x != m.session
      sessions := if m.session ∈ c.sessions then c.sessions else c.sessions ++ [m.session] }) ∧
    (m.session ∉ c.opening → served (.finish p m) 0xE5 [] heard) ∧
    served (.heartbeat p m) 0xE8 [] heard ∧
    served (.keyUpdate p m) 0xE9 [] heard ∧
    served (.endSession p m) 0xEC [] { heard with sessions := c.sessions.filter fun x => x != m.session }

/-- For every state each instruction of the test access port selects itself, stops driving the pins and touches nothing
but the port: BYPASS takes one bit; IDCODE reads the device code and loads nothing; SAMPLE/PRELOAD loads the boundary
register; EXTEST loads it and drives the pins in FAILED and up to step 2 of the boot, and otherwise acts as BYPASS. -/
def Obligations.TestAccessPort : Prop :=
  ∀ (s : State) (b : Bool) (v : W64),
    let put := fun (d : Debug) => (.next { s with dbg := d } : Host.Outcome State Fault Refusal)
    exec (.bypass b) s = put { s.dbg with ir := 0xFF, bypassBit := b, driving := false } ∧
    exec .idcode s = put { s.dbg with ir := 0x01, driving := false } ∧
    exec (.samplePreload v) s = put { s.dbg with ir := 0x02, boundary := v, driving := false } ∧
    (s.boot.state = .failed ∨ s.boot.step.toNat ≤ 2 →
      exec (.extest v) s = put { s.dbg with ir := 0x00, boundary := v, driving := true }) ∧
    (s.boot.state ≠ .failed → 2 < s.boot.step.toNat →
      exec (.extest v) s = put { s.dbg with ir := 0x00, bypassBit := v.getLsbD 0, driving := false })

/-- For every state whose mailbox table is canonical and every channel below 64: a data write by the channel's sender
fills an empty channel and notifies the receiver, and into a full one it is refused, counted and flagged; a write by
another master, of another size or to an unbound channel is counted as foreign and shows nowhere else. An acknowledgement
by the receiver clears full and, when asked, overflow and the count, and notifies the sender when it emptied the channel.
The host is notified by the channel's vector, a drover core by its mailbox interrupt. -/
def Obligations.Mailboxes : Prop :=
  ∀ (s : State) (m : W16) (ch : Nat), ch < 64 → Tab.wf Mailbox.reset s.mbx.channels = true →
    let word := Tab.get 0 s.mbx.bindings ch
    let sender : W16 := word.extractLsb' 16 16
    let receiver : W16 := word.extractLsb' 0 16
    let x := Tab.get Mailbox.reset s.mbx.channels ch
    let put := fun (y : Mailbox) (t : State) =>
      { t with mbx := { t.mbx with channels := Tab.set Mailbox.reset t.mbx.channels ch y } }
    let told := fun (who : W16) (t : State) => if who = 0x5F00 then raiseVector x.vector t
      else { t with mbx := { t.mbx with drover := t.mbx.drover ++ [(who.toNat % 256) * 64 + ch] } }
    let foreign : Host.Outcome State Fault Refusal :=
      .next { s with mbx := { s.mbx with foreign := satAdd s.mbx.foreign 1 } }
    (∀ (size : Nat) (v : W64),
      (word = 0 ∨ m ≠ sender ∨ size ≠ 8 → exec (.mbxDataWrite m ch size v) s = foreign) ∧
      (word ≠ 0 → m = sender → size = 8 → x.full = true →
        exec (.mbxDataWrite m ch size v) s = .next (put { x with overflow := true, refused := satAdd x.refused 1 } s)) ∧
      (word ≠ 0 → m = sender → size = 8 → x.full = false →
        exec (.mbxDataWrite m ch size v) s = .next (told receiver (put { x with data := v, full := true, sender := m } s)))) ∧
    ∀ v : W32,
      let y : Mailbox := { x with
        full := x.full && !v.getLsbD 0, overflow := x.overflow && !v.getLsbD 1,
        refused := if v.getLsbD 1 then 0 else x.refused }
      (word = 0 ∨ m ≠ receiver → exec (.mbxAck m ch v) s = foreign) ∧
      (word ≠ 0 → m = receiver → x.full = true → v.getLsbD 0 = true →
        exec (.mbxAck m ch v) s = .next (told sender (put y s))) ∧
      (word ≠ 0 → m = receiver → x.full = false ∨ v.getLsbD 0 = false → exec (.mbxAck m ch v) s = .next (put y s))

/-- For every state: an accepted vector leaves the list of those presented; ALIVE_OUT changes level at a 128 µs mark of a
running instance while it toggles, and toggles again once the collector is clear and no instance sluice is closed; a
refresh of the watchdog notes the cycle; its lapse after 10 ms re-arms it and writes detail 0xA0; Virmin's report writes
detail 0xA1 with its code. Each record is counted for class G and, while the ring has room and nothing waits, is the
ring's newest. -/
def Obligations.SidebandEvents : Prop :=
  ∀ s : State, canon s = true →
    let record := fun (i : Instr) (detail address : Nat) (s0 : State) => ∃ t, exec i s = .next t ∧
      Tab.get 0 t.faults.counts 6 = satAdd (Tab.get 0 s.faults.counts 6) 1 ∧
      t.faults.unacked.map (fun u => (u.cls, u.level)) =
        s.faults.unacked.map (fun u => (u.cls, u.level)) ++ [(6, levelOf s 6 detail)] ∧ t.pins.watchdog = s0.pins.watchdog ∧
      (ringRoom s = true → s.faults.buffer = [] → linkUp s = true →
        t.faults.frWr = s.faults.frWr + 1 ∧
        hostRead t (s.faults.frBase.toNat + (s.faults.frWr.toNat % s.faults.frEntries.toNat) * 64) 64 =
          leBytes 64 (address * 2 ^ 448 + s.tb.time.toNat * 2 ^ 384 + 2 ^ 352 + levelOf s 6 detail % 8 * 2 ^ 264 + 7 * 2 ^ 56 +
            detail * 2 ^ 48 + 1))
    exec .hpMsixAck s = .next { s with hostPort := { s.hostPort with vectors := s.hostPort.vectors.drop 1 } } ∧
    (let mark := (s.boot.state = .ready ∨ s.boot.state = .degraded) ∧ s.pins.aliveAt + 12800 ≤ s.tb.cycle
     let go := s.pins.toggling || (s.faults.collector == 0 && !s.faults.sluiceClosed)
     (mark → exec .aliveToggle s = .next { s with pins := { s.pins with
       toggling := go, alive := s.pins.alive ^^ go, aliveAt := s.tb.cycle } }) ∧
     (¬ mark → exec .aliveToggle s = .next s)) ∧
    exec .watchdogRefresh s = .next { s with pins := { s.pins with watchdog := s.tb.cycle } } ∧
    (let lapsed := 3 ≤ s.boot.step.toNat ∧ s.boot.state ≠ .failed ∧ s.pins.watchdog + 1000000 ≤ s.tb.cycle
     (lapsed → record .droverWatchdogLapse 0xA0 0 { s with pins := { s.pins with watchdog := s.tb.cycle } }) ∧
     (¬ lapsed → exec .droverWatchdogLapse s = .next s)) ∧
    ∀ code : W64, record (.virminFailureReport code) 0xA1 code.toNat s

/-- For every state: COLLECTOR_ACK with the current collector word leaves the word 0 and acknowledges exactly the latched
faults, all else unchanged; with any other value it changes nothing. A line event changes the word (until its count has
reached 63), so that a write of the word read before the event is refused. -/
def Obligations.CollectorAcknowledge : Prop :=
  ∀ (s : State) (v : W32),
    (v = s.faults.collector → exec (.collectorAck v) s = .next { s with faults := { s.faults with
      collector := 0, unacked := s.faults.unacked.filter fun u => !u.latched } }) ∧
    (v ≠ s.faults.collector → exec (.collectorAck v) s = .next s) ∧
    ∀ source cls detail level : Nat, v.getLsbD 31 = false ∨ (v.extractLsb' 24 6).toNat < 63 →
      s.faults.collector = collectorEvent source cls detail level v → exec (.collectorAck v) s = .next s

/-- For every state: a chunk of 256 bytes joins the bundle while delivery is open and there is room; BOOT_GO ends
delivery, and in step 2 the reading of the key hash at fuse word 55 begins; a fuse acknowledge stores the word read, in
step 3 the next word is read, and FUSE_ERR or no acknowledge within 8 cycles ends the boot FAILED with cause 3, only the
domains of steps 1 to 3 powered; 250 ms after step 8 began the wait of step 9 ends: a port that does not agree sets
degraded cause bit 1, and the instance is READY, or READY_DEGRADED when a cause is set. Where its condition does not
hold, an event changes nothing. -/
def Obligations.BootDelivery : Prop :=
  ∀ s : State,
    let b := s.boot
    let open' := b.goDone = false ∧ b.state = .booting
    let idle := s.pins.resetLow = false ∧ b.resetting = false ∧ s.fuse.reading = false
    let failed := fun (t : State) (cause : Byte) => t.boot = { b with state := .failed, failCause := cause } ∧
      t.fuse = { s.fuse with reading := false } ∧ t.power = { s.power with requests := t.power.requests, wanted := [] } ∧
      ∀ d, t.power.requests.getLsbD d = (s.power.requests.getLsbD d && (d == 98 || d == 99));
    (∀ bs : List Byte, bs.length = 256 →
      (open' → b.chunks.length + 256 ≤ 3 * 2 ^ 20 →
        exec (.bundleChunk bs) s = .next { s with boot := { b with chunks := b.chunks ++ bs } }) ∧
      (¬ (open' ∧ b.chunks.length + 256 ≤ 3 * 2 ^ 20) → exec (.bundleChunk bs) s = .next s)) ∧
    (¬ open' → exec .bootGo s = .next s) ∧
    (open' → ∃ t, exec .bootGo s = .next t ∧ t.boot.goDone = true) ∧
    (open' → idle → b.step = 2 → s.fuse.addr.toNat ≤ 55 → exec .bootGo s = .next { s with
      boot := { b with goDone := true }, fuse := { s.fuse with reading := true, addr := 55, readAt := s.tb.cycle } }) ∧
    (∀ data : W32,
      (s.fuse.reading = false → ∀ err, exec (.fuseAck data err) s = .next s) ∧
      (s.fuse.reading = true → ∃ t, exec (.fuseAck data true) s = .next t ∧ failed t 3) ∧
      (s.fuse.reading = true → s.pins.resetLow = false → b.resetting = false → b.state = .booting → b.step = 3 →
        s.fuse.addr.toNat < 78 → exec (.fuseAck data false) s = .next { s with fuse := { s.fuse with
          addr := s.fuse.addr + 1, words := Tab.set 0 s.fuse.words s.fuse.addr.toNat data, readAt := s.tb.cycle } })) ∧
    (s.fuse.reading = true → s.fuse.readAt + 32 ≤ s.tb.cycle → ∃ t, exec .fuseAckTimeout s = .next t ∧ failed t 3) ∧
    (s.fuse.reading = false ∨ s.tb.cycle < s.fuse.readAt + 32 → exec .fuseAckTimeout s = .next s) ∧
    (let late := b.state = .booting ∧ b.step = 9 ∧ b.topoAt + 25000000 ≤ s.tb.cycle
     (¬ late → exec .topologyAgreementTimeout s = .next s) ∧
     (late → idle → ∃ t, exec .topologyAgreementTimeout s = .next t ∧
       t.boot.state = (if t.boot.degradedCause = 0 then .ready else .degraded) ∧
       (∀ p e, p < 2 → topoPartner s p = some e → ¬ (portUp (portAt s p) = true ∧ (portAt s p).partner = e) →
         t.boot.degradedCause.getLsbD 1 = true) ∧
       t.boot.readyTime = s.tb.time ∧ t.faults.armed = true ∧ t.mbx.locked = true ∧ (hqiAt t 0).created = true ∧
       t.pins.alive = true ∧ t.pins.toggling = true ∧ t.pins.aliveAt = s.tb.cycle))

/-- For every state: a rail below its threshold, a junction above t_shutdown, INSTANCE_RESET and HP_FLR each leave every
entry at its default, every request, queue and context gone and the pond lost, with tarn, far and host memory the pins'
levels and FUSE_SEAL kept; the loader waits until every domain is acknowledged off, and then requests domain 99. RESET_N
does the same and ends a power-cycle request and FUSE_SEAL; its release restarts the loader. A power-cycle request
asserts the pin and, while the management port has an owner, sends the notice; an instance reset that has not ended
within 20 ms asks for one. What the reset values are where the manual gives none is the model's choice (log entries 1 to
4). -/
def Obligations.ResetsOfTheInstance : Prop :=
  ∀ s : State,
    let r := State.reset
    let after : State := { r with
      tarn := s.tarn, far := s.far, host := s.host, poison := s.poison.filter (fun p => p.1 == 1 || p.1 == 2 || p.1 == 3), plant := s.plant,
      free := s.free, pending := s.pending,
      xlate := { r.xlate with keyOf := s.xlate.keyOf, nextKey := s.xlate.nextKey },
      pins := { r.pins with resetLow := s.pins.resetLow, pwrCycReq := s.pins.pwrCycReq, flr := s.pins.flr },
      power := { r.power with domainsOn := s.power.domainsOn },
      fuse := { r.fuse with sealed := s.fuse.sealed },
      hostPort := { r.hostPort with link := s.hostPort.link },
      boot := { r.boot with resetting := true } }
    let begun := fun (t : State) => { t with
      boot := { t.boot with resetting := false }, power := { t.power with
        requests := setBit 0 99, reqAt := Tab.set 0 [] 99 t.tb.cycle, nextReq := t.tb.cycle + 50 } }
    let cycled := fun (t : State) => if t.mgmt.eid = 0 then { t with pins := { t.pins with pwrCycReq := true } } else
      { t with
        pins := { t.pins with pwrCycReq := true }
        mgmt := { t.mgmt with
          ibiCount := t.mgmt.ibiCount + 1
          responses := t.mgmt.responses ++ [(t.tb.cycle, [0x7E] ++ beBytes 4 Config.vendorId.toNat ++ [3, 0, 0] ++
            leBytes 4 t.mgmt.node.toNat ++ leBytes 4 t.faults.collector.toNat ++ leBytes 8 t.tb.time.toNat)] } }
    (∀ i, i < 8 → exec (.railReset i) s = exec .instanceReset s) ∧
    exec .thermalShutdown s = exec .instanceReset s ∧
    (s.power.domainsOn ≠ 0 ∨ s.pins.resetLow = true → exec .instanceReset s = .next after ∧
      exec .hpFlr s = .next { after with pins := { after.pins with flr := true } }) ∧
    (s.power.domainsOn = 0 → s.pins.resetLow = false → exec .instanceReset s = .next (begun after) ∧
      exec .hpFlr s = .next (begun { after with pins := { after.pins with flr := true } })) ∧
    exec .resetNAssert s = .next { after with
      pins := { after.pins with resetLow := true, pwrCycReq := false, flr := false },
      fuse := { after.fuse with sealed := false } } ∧
    ((s.boot.resetting = true ∧ s.power.domainsOn ≠ 0) ∨ (s.boot.resetting = false ∧ s.boot.state ≠ .booting) →
      exec .resetNRelease s = .next { s with pins := { s.pins with resetLow := false } }) ∧
    (s.boot.state = .booting → s.boot.step = 1 → s.boot.resetting = true → s.power.domainsOn = 0 → s.power.requests = 0 →
      s.power.reqAt = [] → s.power.wanted = [] → s.power.nextReq ≤ s.tb.cycle → s.power.brownout = false →
      s.fuse.reading = false → exec .resetNRelease s = .next (begun { s with pins := { s.pins with resetLow := false } })) ∧
    exec .powerCycleRequest s = .next (cycled s) ∧
    (s.boot.resetting = true → 2000000 ≤ s.tb.cycle → exec .instanceResetTimeout s = .next (cycled s)) ∧
    (s.boot.resetting = false ∨ s.tb.cycle < 2000000 → exec .instanceResetTimeout s = .next s)

/-- For every state of a running instance and every domain below 106: a domain that nothing needs is powered down, its
request dropped, while no request of its units is outstanding; an acknowledge that rises while the request is high shows
the domain on, and what returns starts from reset, a pond reading zero and without errors, a core with an empty data
cache; one that falls while the request is high, or does not rise within 10 µs, drops the request, counts a failure and
retires the domain's units. The last acknowledge to fall in an instance reset restarts the loader. -/
def Obligations.PowerDomains : Prop :=
  ∀ (s : State) (d : Nat), d < 106 →
    let p := s.power
    let running := s.boot.state = .ready ∨ s.boot.state = .degraded
    let dropped : Power := { p with requests := clearBit p.requests d, reqAt := Tab.set 0 p.reqAt d 0,
                                    wanted := p.wanted.filter fun w => w.1 != d }
    let fails := fun (i : Instr) => ∃ t, exec i s = .next (pump t) ∧ t.power.requests.getLsbD d = false ∧
      t.power.domainsOn.getLsbD d = false ∧ t.power.domainFailures = p.domainFailures + 1 ∧
      ∀ u ∈ domainUnits d, t.lmap.retired.getLsbD u = true
    (running → p.requests.getLsbD d = true → domainNeeded s d = false → domainBusy s d = false →
      exec (.domainPowerDown d) s = .next { s with power := { dropped with down := setBit p.down d } }) ∧
    (¬ running ∨ p.requests.getLsbD d = false ∨ domainNeeded s d = true ∨ domainBusy s d = true →
      exec (.domainPowerDown d) s = .next s) ∧
    (p.requests.getLsbD d = false → exec (.domainAck d true) s = .next (pump s)) ∧
    (running → p.requests.getLsbD d = true → p.down.getLsbD d = false → exec (.domainAck d true) s =
      .next (pump { s with power := { p with domainsOn := setBit p.domainsOn d, down := clearBit p.down d } })) ∧
    (running → p.requests.getLsbD d = true → p.down.getLsbD d = true → d < 72 → d % 9 = 6 →
      ∃ t, exec (.domainAck d true) s = .next (pump t) ∧ t = { s with
        pond := t.pond, poison := t.poison,
        power := { p with domainsOn := setBit p.domainsOn d, down := clearBit p.down d } } ∧
        (∀ x, x ∈ t.poison ↔ x ∈ s.poison ∧ ¬ (x.1 = 0 ∧ x.2 / 2 ^ 17 = d / 9)) ∧
        ∀ a, Tab.get 0 t.pond a =
          if d / 9 * 2 ^ 23 ≤ a ∧ a < d / 9 * 2 ^ 23 + 2 ^ 23 then 0 else Tab.get 0 s.pond a) ∧
    (running → p.requests.getLsbD d = true → p.down.getLsbD d = true → d < 72 → (d % 9 = 4 ∨ d % 9 = 5) →
      ∃ t, exec (.domainAck d true) s = .next (pump t) ∧ t = { s with
        herd := { s.herd with caches := t.herd.caches }, poison := t.poison,
        power := { p with domainsOn := setBit p.domainsOn d, down := clearBit p.down d } } ∧
        ∀ c, c / 8 = 2 * (d / 9) + (d % 9 - 4) → coreCache t c = []) ∧
    (running → p.requests.getLsbD d = true → p.domainsOn.getLsbD d = true → fails (.domainAck d false)) ∧
    (running → p.requests.getLsbD d = false → s.boot.resetting = false → exec (.domainAck d false) s =
      .next (pump { s with power := { p with domainsOn := clearBit p.domainsOn d } })) ∧
    (s.boot.state = .booting → s.boot.step = 1 → s.boot.resetting = true → s.pins.resetLow = false → p.requests = 0 →
      p.wanted = [] → p.brownout = false → s.fuse.reading = false → clearBit p.domainsOn d = 0 →
      exec (.domainAck d false) s = .next (pump (requestDomain 99 { s with
        boot := { s.boot with resetting := false }, power := { p with domainsOn := 0 } }))) ∧
    (running → p.requests.getLsbD d = true → p.domainsOn.getLsbD d = false → Tab.get 0 p.reqAt d + 1000 ≤ s.tb.cycle →
      fails (.domainAckTimeout d)) ∧
    (p.requests.getLsbD d = false ∨ p.domainsOn.getLsbD d = true ∨ s.tb.cycle < Tab.get 0 p.reqAt d + 1000 →
      exec (.domainAckTimeout d) s = .next (pump s))

/-- For every state: a rail below warning or PWR_WARN_IN begins a brownout hold at the lowest clocks, counted once while
it lasts, and its release ends it; an update above t_shutdown resets the instance; each of the power limit and the
thermal limit keeps clocks of its own: above it CLK_ARR steps down by 100 MHz, then CLK_HERD by 125 MHz, and the tenth
update in a row that allows it steps them up; the lower of the two applies (log entry 46). Entering the throttle and
critical ranges is counted, and the critical range puts the thermal clocks to their lowest. A capacity that falls or
rises takes the value the units in service, the granted rate or the port's state give it, and a change is counted. -/
def Obligations.ClocksAndCapacities : Prop :=
  ∀ s : State,
    let p := s.power
    let counted := fun (t : State) (same : Bool) =>
      t.weirG.capacityEvents = s.weirG.capacityEvents + (if same then 0 else 1)
    (∀ src : RailSource, (∀ i, src = .group i → i < 8) →
      let warned : W32 := match src with | .pwrWarn => 1 | .group _ => 0
      (s.pins.resetLow = true → exec (.railWarning src) s = .next s) ∧
      (s.pins.resetLow = false → p.brownout = true → exec (.railWarning src) s =
        .next { s with power := { p with pwrWarnEvents := p.pwrWarnEvents + warned } }) ∧
      (s.pins.resetLow = false → p.brownout = false → ∃ t, exec (.railWarning src) s = .next t ∧ t.power = { p with
          pwrWarnEvents := p.pwrWarnEvents + warned, brownout := true, brownouts := p.brownouts + 1, underLimit := 0,
          coolFor := 0, powArr := 400, powHerd := 500, heatArr := 400, heatHerd := 500, clkArr := 400, clkHerd := 500 } ∧
        t.boot = { s.boot with hold := setBit s.boot.hold 0 } ∧ t.hostPort = (raiseVector p.warnVector s).hostPort)) ∧
    (s.boot.state ≠ .booting → exec .brownoutRelease s = .next (raiseDue (if p.brownout then { s with
      power := { p with brownout := false }, boot := { s.boot with hold := clearBit s.boot.hold 0 } } else s))) ∧
    (∀ estimate temp, p.shutdown.toNat < temp → exec (.powerEstimateUpdate estimate temp) s = exec .thermalShutdown s) ∧
    (∀ estimate temp, temp ≤ p.shutdown.toNat → temp < 2 ^ 16 → p.throttle.toNat ≤ p.critical.toNat →
      ∃ t, exec (.powerEstimateUpdate estimate temp) s = .next t ∧ t.power.tNow.toNat = temp ∧
        (let hotT := p.throttle.toNat < temp
         let hotC := p.critical.toNat < temp
         let entered := hotC ∧ p.aboveCritical = false
         let limit := p.powerLimit.toNat
         let step := fun (down up : Bool) (count arr herd : Nat) =>
           if down then
             (if 400 < arr then (arr - 100, herd, 0) else if 500 < herd then (arr, herd - 125, 0) else (arr, herd, 0))
           else if up then
             (if count < 9 then (arr, herd, count + 1)
              else if herd < 2000 then (arr, herd + 125, 0) else if arr < 1600 then (arr + 100, herd, 0) else (arr, herd, 0))
           else (arr, herd, 0)
         let q := t.power;
         (q.aboveThrottle = true ↔ hotT) ∧ (q.aboveCritical = true ↔ hotC) ∧
         q.throttleEvents = p.throttleEvents + (if hotT ∧ p.aboveThrottle = false then 1 else 0) ∧
         q.criticalEvents = p.criticalEvents + (if entered then 1 else 0) ∧
         (entered → q.heatArr = 400 ∧ q.heatHerd = 500 ∧ t.boot.hold.getLsbD 1 = true) ∧
         (¬ hotC → t.boot.hold.getLsbD 1 = false) ∧
         (q.overPower = true ↔ limit < estimate ∨ (p.overPower = true ∧ estimate = limit)) ∧
         (p.brownout = false → q.clkArr = min q.powArr q.heatArr ∧ q.clkHerd = min q.powHerd q.heatHerd ∧
           (q.powArr, q.powHerd, q.underLimit) = step (decide (limit < estimate ∨ (p.overPower = true ∧ estimate = limit)))
             (decide (estimate * 20 ≤ limit * 19)) p.underLimit p.powArr p.powHerd ∧
           (¬ entered → (q.heatArr, q.heatHerd, q.coolFor) =
             step (decide (p.throttle.toNat < temp)) (decide (temp + 50 ≤ p.throttle.toNat)) p.coolFor p.heatArr p.heatHerd)))) ∧
    (let g := s.weirG
     let far := g.farCap.toNat * inService s 304 8 / 8
     let stack := 819200 * inService s 312 16 - 204800 * (64 - inService s 240 64)
     let farTo := fun (i : Instr) (v r : Nat) => ∃ t, exec i s = .next t ∧ t.weirG.farCapNow = BitVec.ofNat 32 v ∧
       t.weirG.farRate.toNat = r ∧ t.weirG.stackCapNow = g.stackCapNow ∧ counted t (BitVec.ofNat 32 v == g.farCapNow)
     let stackTo := fun (i : Instr) (v : Nat) => ∃ t, exec i s = .next t ∧ t.weirG.stackCapNow = BitVec.ofNat 32 v ∧
       t.weirG.farCapNow = g.farCapNow ∧ counted t (BitVec.ofNat 32 v == g.stackCapNow)
     let rate := g.farRate.toNat
     farTo (.capacityDrop .farCtl) (min g.farCapNow.toNat (min far rate)) rate ∧
     stackTo (.capacityDrop .tarnBank) (min g.stackCapNow.toNat stack) ∧
     stackTo (.capacityDrop .stackChannel) (min g.stackCapNow.toNat stack) ∧
     (∀ r : W32, farTo (.capacityDrop (.farRate r)) (min g.farCapNow.toNat r.toNat) (min rate r.toNat)) ∧
     (∀ p x4, p < 2 → ∃ t, exec (.capacityDrop (.link p x4)) s = .next t ∧
       let v : W32 := if (portAt s p).state = 3 then 200000 else if (portAt s p).state = 4 then 100000 else 0
       (if p = 0 then t.weirG.linkCapNow0 else t.weirG.linkCapNow1) = v ∧
       counted t (v == if p = 0 then g.linkCapNow0 else g.linkCapNow1)) ∧
     (∀ r : W32, rate < r.toNat → farTo (.capacityRise r) (min far r.toNat) r.toNat) ∧
     ∀ r : W32, r.toNat ≤ rate → exec (.capacityRise r) s = .next s)

/-- For every well-formed row that is a descriptor of queue q and every state: nothing happens unless the queue may be
read; else SQ_HEAD advances and the checks of R177 follow in order: a closed sluice answers REFUSED_FENCED and fences the
queue, a wrong binding or privilege SPOOF, counted, an opcode not admitted RANGE, a sequence behind DUPLICATE, one ahead
RANGE with the queue stopped; a descriptor that passes is accepted with its time and CRC-64, NEXT_SEQ raised, an
unjournalled one counted. A record stays behind records of its queue that are held back. A ring read asks for its batch
once, in the rotation of one batch per queue per turn; its arrival takes the descriptor at SQ_HEAD; its failure answers
DATA_ERROR and stops a queue that is not fenced. -/
def Obligations.DescriptorsOfQueues : Prop :=
  (∀ (i : Instr) (q : Nat) (d : BitVec 512) (s : State), i.wf = true → descriptorOf i = some (q, d) →
    let x := queueAt s q
    let marker := if opcodeOf d = 0x0C then (operand0 d).toNat else 0
    let answered := fun (st : Byte) => putRecord q (BitVec.ofNat 256 (marker * 2 ^ 192 + s.tb.time.toNat * 2 ^ 128 +
      (seqOf d).toNat * 2 ^ 64 + q * 2 ^ 52 + opcodeOf d * 2 ^ 44 + 2 ^ 8 + st.toNat)) (headPassed q s)
    let inState := fun (st : QState) (t : State) => setQueue t q { queueAt t q with state := st }
    let spoofed := fun (t : State) => setHqi t x.hqi { hqiAt t x.hqi with spoof := satAdd (hqiAt t x.hqi).spoof 1 }
    let excluded := q ≠ 0 ∧ flockClosed s x.tag = true
    let bound := bindingOk x q d = true
    let mine := ¬ (0x10 ≤ opcodeOf d ∧ opcodeOf d ≤ 0x1F ∧ q ≠ 0)
    let dist := (x.nextSeq - seqOf d).toNat
    (mayRead s q = false → exec i s = .next (pump s)) ∧
    (mayRead s q = true →
      (excluded → exec i s = .next (pump (answered 0x02))) ∧
      (¬ excluded → queueClosed s q = true → exec i s = .next (pump (inState .fenced (answered 0x02)))) ∧
      (¬ excluded → queueClosed s q = false →
        (¬ (bound ∧ mine) → exec i s = .next (pump (spoofed (answered 0x05)))) ∧
        (bound → mine → opcodeAccepted s q (opcodeOf d) = false → exec i s = .next (pump (answered 0x07))) ∧
        (bound → mine → opcodeAccepted s q (opcodeOf d) = true →
          (1 ≤ dist → dist ≤ 65536 → exec i s = .next (pump (answered 0x04))) ∧
          (65536 < dist → exec i s = .next (pump (
            let t := answered 0x07
            setQueue t q { queueAt t q with state := .seqGap, batch := 0 }))) ∧
          (dist = 0 → opcodeOf d ≠ 5 → exec i s = .next (pump (taken q d s)) ∧
            (taken q d s).cmds = (headPassed q s).cmds ++ [accepted q d s] ∧
            (accepted q d s).acceptTime = s.tb.time ∧ (accepted q d s).digest = crc64 (leBytes 64 d.toNat) ∧
            (accepted q d s).tag = x.tag ∧ (accepted q d s).journalled = s.journal.enabled ∧
            (queueAt (taken q d s) q).nextSeq = x.nextSeq + 1 ∧ (queueAt (taken q d s) q).sqHead = x.sqHead + 1 ∧
            (taken q d s).journal.unjournalled = s.journal.unjournalled + (if s.journal.enabled then 0 else 1)))))) ∧
  ∀ (q : Nat) (s : State), q < 4096 →
    let x := queueAt s q
    let entry := x.ring.toNat + (x.sqHead.toNat % 2 ^ (x.size + 4)) * 64
    let reading := ∃ r ∈ s.hostPort.out, r.use = .batch q
    let due := fun (k : Nat) => mayRead s k = true ∧ ∀ r ∈ s.hostPort.out, r.use ≠ .batch k
    let early := q ∈ s.hostPort.served ∧ ∃ k, due k ∧ k ∉ s.hostPort.served
    let s1 := { s with hostPort := { s.hostPort with out := s.hostPort.out.filter fun r => r.use != .batch q } }
    (¬ due q ∨ early → exec (.descriptorFetch q) s = .next s) ∧
    (due q → ¬ early → ∃ t r, exec (.descriptorFetch q) s = .next t ∧
      t.hostPort = { s.hostPort with
        out := s.hostPort.out ++ [r]
        served := if q ∈ s.hostPort.served then [q] else s.hostPort.served ++ [q] } ∧ r.use = .batch q ∧ r.since = s.tb.cycle ∧
      (queueAt t q).batch * 64 ≤ s.hostPort.maxRead.toNat ∧
      x.sqHead.toNat % 2 ^ (x.size + 4) + (queueAt t q).batch ≤ 2 ^ (x.size + 4) ∧
      (queueAt t q).batch ≤ (x.sqTail - x.sqHead).toNat ∧ (queueAt t q).batch ≤ answerable s q) ∧
    (¬ reading → exec (.descriptorBatchArrival q) s = .next (pump s) ∧ exec (.descriptorReadFailure q) s = .next (pump s)) ∧
    (reading → x.batch = 1 →
      let d : BitVec 512 := BitVec.ofNat 512 (ofLe (hostRead s entry 64))
      accepts q d s1 = true → opcodeOf d ≠ 5 → exec (.descriptorBatchArrival q) s = .next (pump (
        let t := taken q d s1
        setQueue t q { queueAt t q with batch := 0 }))) ∧
    (reading → exec (.descriptorReadFailure q) s = .next (pump (
      let t := raiseData 0x43 entry 0x5F00 x.tag (putRecord q
        (BitVec.ofNat 256 (s.tb.time.toNat * 2 ^ 128 + q * 2 ^ 52 + 2 ^ 8 + 8)) s1)
      setQueue t q { queueAt t q with
        state := if (queueAt t q).state = .fenced then .fenced else .readError, batch := 0 })))

/-- In a block at rest TILE_TASK is accepted and only accepted. TASK_READY of an accepted task that may start ends it
with REFUSED_FENCED behind a closed sluice, leaves it while its model is not resident, ends it with RANGE and its record
on a failing check, LICENCE, NOT_REPRODUCIBLE or UNIT_RETIRED, else, when its headers and footprint translate, holds the
translation epoch for it and makes it ready now. TILE_START of a free engine takes its next task, on a fold's engine the
head of its queue, on a commons engine one that fits its window of the fold next after the last one served, once its
first segment is in the operand buffer; until then the engine waits. TILE_COMPLETE waits for the operands; an error in
the engine's arrays ends the task with DATA_ERROR; else the engine is free, the rows go out in row order in beats, and
the task keeps SUCCESS, or RANGE where a row says so, with the CRC-64 over its bytes by ascending address, and what C's
header takes. Once its writes are accepted, bound and count are merged into C's header, and it ends as it keeps. -/
def Obligations.TileTasks : Prop :=
  (∀ (q : Nat) (d : BitVec 512) (s : State), alone q d s → opcodeOf d = 1 → exec (.tileTask q d) s = .next (taken q d s)) ∧
  (∀ (uid : Nat) (s : State) (c : Cmd), cmdAt s uid = some c → opcodeOf c.desc = 1 → mayStart s c = true →
    let fails := fun (st : Byte) => exec (.taskReady uid) s = .next (pump (tileFail c st s))
    let ranges := fun (k : Nat) (m : W16) => exec (.taskReady uid) s = .next (pump (raiseEngine k m c.tag (tileFail c 7 s)))
    (tagClosed s c.tag = true → fails 2) ∧
    (tagClosed s c.tag = false → residencyOk s c.tag = false → exec (.taskReady uid) s = .next (pump s)) ∧
    (tagClosed s c.tag = false → residencyOk s c.tag = true →
      let named := if tlEngine c.desc = anyEngine then none else some (tlEngine c.desc)
      let own := flockContext s c.tag = false
      (∀ i, named = some i → own → (foldEngines s (tagFold c.tag))[i]? = none → ranges 0x0A hostMaster) ∧
      (∀ i e, named = some i → own → (foldEngines s (tagFold c.tag))[i]? = some e → engineBound s e = false → fails 0x11) ∧
      ((named = none ∨ own ∧ ∃ i e, named = some i ∧ (foldEngines s (tagFold c.tag))[i]? = some e ∧ engineBound s e = true) →
        let e := readyEngine s c named
        (∀ k, descCheck c.desc = some k → ranges k (engineMaster s e)) ∧
        (descCheck c.desc = none →
          (licenceOk s c.desc = false → fails 0x10) ∧
          (licenceOk s c.desc = true → (ctxAt s (tagSlot c.tag)).reproducible = true → tlFast c.desc = true → fails 0x0E) ∧
          (licenceOk s c.desc = true → ((ctxAt s (tagSlot c.tag)).reproducible && tlFast c.desc) = false →
            ∀ (s0 s1 s2 s3 : State) (h0 h1 h2 : List TlbEntry) (bs : List Byte),
              let c1 := { c with
                coll := { c.coll with acc := bs, parts := [] }
                launch := { c.launch with next := match named with | some i => i + 1 | none => 0 } }
              let e1 := readyEngine s1 c1 named
              preTranslate c (enginePlace s e) .read (pagesOfAll (headerRanges c.desc)) [] s = (.ok [], h0, s0) →
              fetchAll { c with pages := [] } (enginePlace s e) (engineMaster s e) (headerRanges c.desc) s0 = (.ok bs, s1) →
              (∀ k, readyCheck s1 c1 = some k → exec (.taskReady uid) s =
                .next (pump (raiseEngine k (engineMaster s1 e1) c.tag (tileFail c 7 s1)))) ∧
              (readyCheck s1 c1 = none →
                preTranslate c1 (enginePlace s1 e1) .read (pagesOfAll (headerRanges c.desc ++ readRanges c.desc (hdrsOf c1))) [] s1 =
                  (.ok [], h1, s2) →
                preTranslate c1 (enginePlace s1 e1) (outAccess c.desc) (pagesOfAll (writeRanges c.desc (hdrsOf c1))) h1 s2 =
                  (.ok [], h2, s3) →
                exec (.taskReady uid) s = .next (pump (modCmd
                  { s3 with xlate := { s3.xlate with
                      holders := s3.xlate.holders ++ [{ epoch := s3.xlate.epoch, tag := c.tag, owner := .task uid }] } }
                  uid fun x => { x with
                    phase := .ready, pages := h2, coll := { x.coll with acc := bs }, launch := c1.launch, readyAt := s3.tb.time,
                    judged := false, asked := 0, opnd := [], seg := 0, out := [], setting := none })))))))) ∧
  (∀ (e u : Nat) (s : State) (c : Cmd), e < 32 → nextTask s e = some u → cmdAt s u = some c →
    (engineAt s e).tile = none → (engineAt s e).blocked = false → s.power.brownout = false → engineBound s e = true →
    enginePowered s e = true →
    let s1 := modEngine s e fun x => { x with queue := x.queue.filter fun v => v != u }
    let pieces := (piecesTo c.desc (hdrsOf c) 1).length
    let here := c.asked = pieces ∧ c.opnd.length = pieces ∧ settled s c = true
    (engineHeld s e = true → (engineAt s e).queue.head? = some u) ∧
    (engineHeld s e = false → u ∈ (engineAt s e).queue ∧ commonsMay s e c = true ∧
      let turn := fun (x : Cmd) => (tagFold x.tag + 31 - (engineAt s e).lastFold % 16) % 16
      ∀ v ∈ (engineAt s e).queue, ∀ x, cmdAt s v = some x → commonsMay s e x = true → turn c ≤ turn x) ∧
    (tagClosed s c.tag = true → exec (.tileStart e) s = .next (pump (tileFail c 2 s1))) ∧
    (tagClosed s c.tag = false → ¬ here → exec (.tileStart e) s = .next (pump s)) ∧
    (tagClosed s c.tag = false → here → exec (.tileStart e) s = .next (pump (noteDispatch c.tag (modCmd
        (modEngine s1 e fun x => { x with tile := some c.uid, entered := 0, lastFold := tagFold c.tag }) u fun x => { x with
          phase := .tile e, startAt := s.tb.time, setting := some (foldAt s (tagFold c.tag)).live,
          launch := { x.launch with cores := [e] } }))))) ∧
  (∀ (e u : Nat) (s : State) (c : Cmd), e < 32 → (engineAt s e).tile = some u → cmdAt s u = some c →
    let d := c.desc
    let h := hdrsOf c
    let pieces := (piecesTo d h (segCount d h + 1)).length
    let here := c.asked = pieces ∧ c.opnd.length = pieces ∧ settled s c = true
    let failing := ∃ p ∈ s.poison, (p.1 = 4 ∨ p.1 = 5) ∧ p.2 = e
    let rows := tileRowsOut d h s.free (joinBufs d h ((c.opnd.insertionSort fun a b => a.1 ≤ b.1).map fun x => x.2))
    let segs := tileSegments d h rows
    let st : Byte := if rows.any fun r => r.range then 7 else 1
    (¬ here → exec (.tileComplete e) s = .next (pump s)) ∧
    (here → failing → exec (.tileComplete e) s = .next (pump (raiseData 0x42 0 (engineMaster s e) c.tag
      (modEngine (tileFail c 8 s) e fun x => { x with tile := none, entered := 0 })))) ∧
    (here → ¬ failing → ∃ t y, exec (.tileComplete e) s = .next (pump (engineWrites u (cutBeats segs).length t)) ∧
      (engineAt t e).tile = none ∧ cmdAt t u = some y ∧ y = { c with
        phase := .busy, asked := 0, opnd := [], moved := 0, out := cutBeats segs, coll := { c.coll with acc := y.coll.acc } } ∧
      keptDone y = (if tlFmtOut d = fmtContainer then { status := 1, digest := 0, failed := false, part := true, result := 0 }
        else { status := st, failed := false, part := false, result := 0,
               digest := crc64 ((segs.insertionSort fun a b => a.1 ≤ b.1).flatMap fun x => x.2) }) ∧
      keptSat y = (rows.map fun r => r.sat).sum % 2 ^ 64 ∧
      keptBound y = (rows.foldl (fun b r => maxBound b r.bound) none).map fun x => signed 32 (wrapInt 32 x))) ∧
  ∀ (u : Nat) (s : State) (c : Cmd), cmdAt s u = some c → opcodeOf c.desc = 1 → c.phase = .busy → c.out = [] →
    settled s c = true → stalled s u = false →
    let done := fun (t : State) => complete u (keptDone c) (endHolder (.task u) t)
    (c.moved = 2 ∨ tlFmtOut c.desc = fmtContainer → tileSettle u s = done s) ∧
    ∀ mem off s1, c.moved ≠ 2 → tlFmtOut c.desc ≠ fmtContainer →
      cmdReach c (enginePlace s (ranOn c)) (tlHdrC c.desc + 32) .write (onBehalf u (engineMaster s (ranOn c)) s) = (.loc mem off, s1) →
      mem ≠ 3 → landOk s1 c.tag mem off = true → reachable s1 c.tag mem off 8 = true → poisoned s1 mem off 8 = false →
      let old := (memBytes mem off 8 s1).1
      let new := leBytes 4 (min 0xFFFFFFFF (ofLe (old.take 4) + keptSat c)) ++ (match keptBound c with
        | none => old.drop 4
        | some x => leBytes 4 (wrapInt 32 (max x (signed 32 (ofLe (old.drop 4))))))
      let t := onBehalfOfNone (charge c.tag mem off 8 true (memStore mem off new (memBytes mem off 8 s1).2))
      tileSettle u s = if settled t c then done t else modCmd t u fun x => { x with moved := 2 }

/-- In a block at rest HERD_LAUNCH ends with RANGE and a class D record on a failing check, with UNIT_RETIRED when every
half-group it selects is vacant, waits while its model is not resident, else is dispatched now. GANG_PLACE takes the next
gang of the launch whose turn it is on the half-group, latency-critical first, and puts it on a core with room: the
argument block stands at the bottom of a zeroed local store, every group at the code address with all lanes active and
registers zero. LAUNCH_TRAP_RECORD records the earliest trap and the count and ends the launch with the trap's status,
DATA_ERROR when any trap was 0x29, once nothing of it is outstanding. MEMORY_RESPONSE ends its request, and what waited
for it goes on; an error is recorded, traps the group that issued it at that instruction, and fails any other requester. -/
def Obligations.HerdLaunches : Prop :=
  (∀ (q : Nat) (d : BitVec 512) (s : State), alone q d s → opcodeOf d = 2 →
    let c := accepted q d s
    let s1 := taken q d s
    let s2 := noteDispatch c.tag s1
    (residencyOk s c.tag = false → exec (.herdLaunch q d) s = .next s1) ∧
    (residencyOk s c.tag = true →
      (∀ k, launchCheck s c = some k → exec (.herdLaunch q d) s =
        .next (raiseEngine k hostMaster c.tag (complete c.uid (.broken 7) s2))) ∧
      (launchCheck s c = none →
        let vacant := ∀ h ∈ launchHalves s (tagFold c.tag) (hlMask d), halfVacant s h = true
        (vacant → exec (.herdLaunch q d) s = .next (complete c.uid (.broken 0x11) s2)) ∧
        (¬ vacant → exec (.herdLaunch q d) s =
          .next (modCmd s2 c.uid fun x => { x with phase := .launched, readyAt := s.tb.time }))))) ∧
  (∀ (core : Nat) (s : State), core < 128 →
    let h := core / 8
    (nextLaunch s h = none → exec (.gangPlace core) s = .next (pump s)) ∧
    ∀ c, nextLaunch s h = some c →
      let unfit := coreUnusable s core = true ∨ halfVacant s h = true ∨ bitAt s.power.down (9 * (h / 2) + 4 + h % 2) = true ∨
        coreRoom s core c.desc = false
      c ∈ s.cmds ∧ mayPlace s h c = true ∧ (∀ x ∈ s.cmds, mayPlace s h x = true → cmdLc s x = true → cmdLc s c = true) ∧
      (unfit → exec (.gangPlace core) s = .next (pump s)) ∧
      (¬ unfit → ∀ (args : List Byte) (s1 : State),
        fetchRange c (core / 16) (coreMaster core) (hlArgBase c.desc) (hlArgLen c.desc) s = (.ok args, s1) →
        ∃ caches halves, exec (.gangPlace core) s = .next (pump
          (modCmd { s1 with
              herd := { s1.herd with
                gangs := s1.herd.gangs ++ [{
                  launch := c.uid, gang := c.launch.next, core := core, store := memWrite [] 0 args,
                  groups := List.replicate (hlGroups c.desc) {
                    pc := hlCode c.desc, active := 0xFFFF, alive := 0xFFFF, regs := [], flags := [], recon := [], rets := [],
                    draws := [], wait := .none } }]
                caches := caches }
              halves := halves } c.uid fun y => { y with
            startAt := if y.launch.next = 0 then s1.tb.time else y.startAt
            coll := { y.coll with parts := [] }
            launch := { y.launch with next := y.launch.next + 1, cores := addOnce core y.launch.cores } })) ∧
          (core ∈ c.launch.cores → caches = s1.herd.caches) ∧
          (core ∉ c.launch.cores → Tab.wf [] s1.herd.caches = true →
            (∀ p ∈ Tab.get [] caches core, p.1 / 2 ^ 57 ≠ c.tag.toNat) ∧
            ∀ k, k ≠ core → Tab.get [] caches k = Tab.get [] s1.herd.caches k))) ∧
  (∀ (uid : Nat) (s : State) (c : Cmd) (tr : Trap), cmdAt s uid = some c → c.launch.trap = some tr →
    let waits := (∃ r ∈ s.xlate.reqs, r.uid = uid ∧ r.abandoned = false) ∨ unackedOf s (tagFold c.tag) uid ≠ 0
    let st : Byte := if c.launch.dataError then 8 else if tr.detail = 0x22 ∨ tr.detail = 0x23 then 6 else if tr.detail = 0x24 then 0x0E
      else if tr.detail = 0x29 then 8 else 7
    (waits → exec (.launchTrapRecord uid) s = .next (pump s)) ∧
    (¬ waits → exec (.launchTrapRecord uid) s = .next (pump (complete uid (.broken st) (dropGangs uid (raiseFault {
      cls := 3, detail := tr.detail, master := tr.master, tag := c.tag, fold := some (tagFold c.tag),
      address := tr.pc.toNat, count := c.launch.traps, gang := tr.gang, group := tr.group, lanes := tr.lanes.toNat,
      imm := tr.imm.toNat, time := some tr.time } s)))))) ∧
  ∀ (id : Nat) (err : Bool) (s : State),
    (s.xlate.reqs.find? (fun r => r.id == id) = none → exec (.memoryResponse id err) s = .next (pump s)) ∧
    ∀ r, s.xlate.reqs.find? (fun r => r.id == id) = some r →
      let s1 := endReq id s
      s1.xlate.reqs = s.xlate.reqs.filter (fun x => x.id != id) ∧
      s1.xlate.holders = s.xlate.holders.filter (fun x => x.owner != .request id) ∧
      (err = false ∨ r.abandoned = true → exec (.memoryResponse id err) s = .next (pump (afterResponse r.uid s1))) ∧
      (err = true → r.abandoned = false →
        let s2 := raiseData (if r.cls = 3 then 0x43 else 0x42) (reqAddress s1 r) r.master r.tag s1
        (r.grp = none → r.uid = 0 → exec (.memoryResponse id err) s = .next (pump (afterResponse 0 s2))) ∧
        (r.grp = none → r.uid ≠ 0 →
          exec (.memoryResponse id err) s = .next (pump (afterResponse r.uid (cmdFailed r.uid s2)))) ∧
        ∀ t, r.grp = some t → exec (.memoryResponse id err) s =
          .next (pump (afterResponse r.uid (trapLate t r.pc r.master 0x29 s2))))

/-- For RESV_LOOKUP, RESV_RESERVE, RESV_FILL, RESV_COMMIT, RESV_READ and RESV_RELEASE accepted in a block at rest:
invalid fields or no member of the named rank end the command with RANGE; when its buffer is reached (a FILL's bytes are
read, and charged to the client's weir within the module) and the message may be sent, the command waits for its peer
from now on and the descriptor, with a FILL's bytes, goes as message 0x20 to the fold of the member ranked for the key.
RESV_TIMEOUT ends one that has waited coll_timeout with TIMEOUT_PEER, counted, and leaves an earlier one. -/
def Obligations.ReservoirCommands : Prop :=
  (∀ (q : Nat) (d : BitVec 512) (s : State) (i : Instr),
    i ∈ [.resvLookup q d, .resvReserve q d, .resvFill q d, .resvCommit q d, .resvRead q d, .resvRelease q d] → i.wf = true →
    alone q d s →
    let c := accepted q d s
    let s1 := taken q d s
    let n := tagFold c.tag
    let member := rvRanked (rvKey d) (rvMembers s n) (rvRank d)
    let bad := rvFieldsOk d = false ∨ member = none
    (bad → exec i s = .next (complete c.uid (.plain 7) s1)) ∧
    (¬ bad → ∀ m, member = some m →
      let p := mePeer (mapEntry s n m)
      let begun := fun (t : State) => modCmd t c.uid fun x => { x with phase := .peers, startAt := s.tb.time }
      let msg := fun (vc : Nat) (bytes : List Byte) => ({
        hdr := rvHdr s n 0, mtype := 0x20, node := peerNode p, fold := peerFold p, count := 1,
        payload := leBytes 64 d.toNat ++ bytes, vc := vc } : Msg)
      ∀ (w : List Byte) (s2 : State), peerValid p = true →
        rvReach c (if rvOp d = 2 then .read else .write) (pagesOf (rvBuf d) (rvSpan d)) s1 = (.ok w, s2) →
        (rvOp d ≠ 2 → mayRequest s2 n = true → exec i s = .next (sendMsg (msg 33 []) (begun s2))) ∧
        (rvOp d = 2 → ∀ (bytes : List Byte) (s3 : State),
          fetchRange c niPlace niMaster (rvBuf d) (rvBytes d) s2 = (.ok bytes, s3) →
          let t := if toModule s (peerNode p) then weirCharge c.tag 0 bytes.length (begun s3) else begun s3
          let k := msg (2 * n + if cmdLc s c then 0 else 1) bytes
          mayPost t k = true → exec i s = .next (sendMsg k t)))) ∧
  ∀ (uid : Nat) (s : State) (c : Cmd), cmdAt s uid = some c → opcodeOf c.desc = 0x0B → c.phase = .peers →
    let due := c.startAt.toNat + 1000 * s.flock.collTimeout.toNat ≤ s.tb.time.toNat
    (¬ due → exec (.resvTimeout uid) s = .next (pump s)) ∧
    (due → exec (.resvTimeout uid) s = .next (pump (complete uid (.plain 0x0F)
      { s with flock := { s.flock with peerTimeouts := s.flock.peerTimeouts + 1 } })))

/-- For each COLLECTIVE accepted in a block at rest: a map with an excluded entry, invalid fields, or a sub-flock with
hop count 0 ends it with RANGE and the record 0x0C, 0x0D or 0x0B. Otherwise, where the sources are plain members, the
fold has sequence room for every page and its weir and the port's entries admit the requests, the command waits for its
sources from now on and for each page of each source one READ of those bytes, to the member's node and tag at the map's
version, is unacknowledged. COLLECTIVE_TIMEOUT of the issuer's own ends it with TIMEOUT_PEER, counted; of a part of a
larger collective it answers TASK_RESULT TIMEOUT_PEER and drops it; an earlier one is left. -/
def Obligations.Collectives : Prop :=
  (∀ (q : Nat) (d : BitVec 512) (s : State) (i : Instr),
    i ∈ [.allReduce q d, .reduce q d, .broadcast q d, .allGather q d] → i.wf = true → alone q d s →
    let c := accepted q d s
    let s1 := taken q d s
    let n := tagFold c.tag
    let range := fun (k : Nat) => exec i s = .next (raiseEngine k hostMaster c.tag (complete c.uid (.broken 7) s1))
    let excluded := anyExcluded s n = true
    let valid := collFieldsOk s n d false = true
    let nested := ∃ p ∈ collMembers s n, meSub p.2 = true
    (excluded → range 0x0C) ∧
    (¬ excluded → ¬ valid → range 0x0D) ∧
    (¬ excluded → valid → nested → hopCount d = 0 → range 0x0B) ∧
    (¬ excluded → valid → ¬ nested →
      let ms := collSources s n d
      let pages := pagesOf (clSrc d) (clLen d)
      ms ≠ [] → (∀ m ∈ ms, 0 < partLen d (mapEntry s n m)) →
      let f := foldAt s n
      let total := ms.length * pages.length
      let roomAt := fun (k : Nat) => usedAt s k 0 n + total ≤ reserveOf s f k ∨ (f.live.sealed = false ∧ total ≤ poolFree s k 0)
      let openWay := fun (node : BitVec 18) => node = myNode s ∨
        (toModule s node = true ∧ ¬ (f.live.sealed = true ∧ (weirOf f 0).guarantee = 0) ∧
          (ceilingOf f 0 = 0 ∨ (40000 * total : Nat) ≤ (meterOf f 0).cTokens)) ∨
        (node ≠ myNode s ∧ toModule s node = false ∧ roomAt (requestKey s { blankPacket s with destNode := node }))
      f.unacked.length + total ≤ 1024 → (∀ m ∈ ms, openWay (meNode (mapEntry s n m))) →
      ∃ t, exec i s = .next t ∧
        cmdAt t c.uid = some { c with phase := .peers, startAt := s.tb.time, coll := { c.coll with waiting := ms } } ∧
        ∀ m ∈ ms, ∀ p ∈ pages, ∃ e ∈ (foldAt t n).unacked, e.uid = c.uid ∧ e.abandoned = false ∧ e.packet.ptype = 1 ∧
          e.packet.destNode = meNode (mapEntry s n m) ∧ e.packet.destTag = meTag (mapEntry s n m) ∧
          e.packet.mapVersion = (foldAt s n).member.version ∧ e.packet.address = BitVec.ofNat 64 p.1 ∧
          e.packet.payload = leBytes 8 p.2 ∧ e.packet.srcFold = BitVec.ofNat 4 n)) ∧
  ∀ (uid : Nat) (s : State) (c : Cmd), cmdAt s uid = some c → opcodeOf c.desc = 8 → c.phase = .peers →
    let due := c.startAt.toNat + 1000 * s.flock.collTimeout.toNat ≤ s.tb.time.toNat
    let counted' := { s with flock := { s.flock with peerTimeouts := s.flock.peerTimeouts + 1 } }
    (¬ due → exec (.collectiveTimeout uid) s = .next (pump s)) ∧
    (due → c.coll.origin = none → exec (.collectiveTimeout uid) s = .next (pump (complete uid (.broken 0x0F)
      { counted' with xlate := { s.xlate with holders := s.xlate.holders.filter fun h => h.owner != .task uid } }))) ∧
    (due → ∀ k, c.coll.origin = some k → exec (.collectiveTimeout uid) s = .next (pump
      (dropCmd (sendReply k 0x11 0x0F (taskResultBytes (.plain 0x0F)) (recordSeq k 0x0F 0 counted')) uid)))

/-- A proposal whose record cannot be read yet stays to be read again; one that reads ill or fails a check of R282 leaves
RANGE; a good one is kept for the epoch after next, goes as PREPARE to every fold of the old and the new map and as
SNAPSHOT to its joiners, a PROMOTE with the silent members excluded. A message whose fragments are new: PREPARE is
refused with the first reason and counted, or held for header epoch + 2 and acknowledged to its three leaders, by a
joiner when the change's SNAPSHOT is whole, its state then becoming 1; one whose epoch has begun is answered and not
held; of two senders of one version the lower rank is kept. MAP_ACK adds its sender; NAK SUPERSEDED aborts the proposer's
change once; EXCLUDE of the bellwether marks the entries, of a later version makes a member excluded and drops what it
held, else it is counted; ABORT drops the held change of its sender; SNAPSHOT from the fold that may admit the receiver
fills its copy of that change and is refused otherwise. -/
def Obligations.FlockMessages : Prop :=
  (∀ (s : State) (promote : Bool), bootOnly s = false →
    let i : Instr := if promote then .promote else .propose
    let n := s.flock.proposeFold.toNat
    ∀ (g : Got) (op : Option Proposal) (s1 : State),
      readProposal { s with flock := { s.flock with proposing := none } } = (g, op, s1) →
      (g = .wait → exec i s = .next (pump { s1 with flock := { s1.flock with proposing := some promote } })) ∧
      (g ≠ .wait → op = none → exec i s = .next (pump { s1 with flock := { s1.flock with outcome := 7 } })) ∧
      ∀ p, g ≠ .wait → op = some p →
        (proposalOk s1 n promote p = false → exec i s = .next (pump { s1 with flock := { s1.flock with outcome := 7 } })) ∧
        (proposalOk s1 n promote p = true →
          let last := p.hdr.lastMember.toNat
          let recs := if promote then unanswered s1 n p.recs last else p.recs
          let new := newValid s1 n recs last
          let h := flockHdr s1 n p.flock (p.base + 1) (if promote then rankOf s1 n else 0) 0
          let kept := modFold { s1 with flock := { s1.flock with outcome := 0, epoch := s1.tb.epoch + 2 } } n fun f => { f with
            member := { f.member with
              proposed := some {
                version := p.base + 1, hdr := h, mapHdr := p.hdr, recs := recs, applyAt := s1.tb.epoch + 2, forParent := false,
                acks := [] }
              abortNak := false } }
          exec i s = .next (pump (forEach (joiners s1 n new) (fun x => tell n x 6 h (last + 1) (snapshotBytes s1 n recs last))
            (forEach (recipients s1 n new) (fun x => tell n x 1 h recs.length (mapHdrBytes p.hdr ++ recs.flatMap changeBytes))
              kept))))) ∧
  ∀ (s : State) (n : Nat) (h : MsgHdr), n < 16 → freshMsg 33 h s = true → canon s = true →
    let t := msgTaken 33 h s
    let m := (foldAt t n).member
    let inMember := fun (x : State) (g : Member → Member) => modFold x n fun f => { f with member := g f.member }
    let refused := fun (x : State) => { x with flock := { x.flock with msgsRefused := x.flock.msgsRefused + 1 } }
    let raised := fun (g : Member → Member) (x : State) => raiseVector m.vector (inMember x g)
    (∀ (mh : MapHdr) (recs : List ChangeRec),
      let does := fun (u : State) => exec (.prepare n h mh recs) s = .next (pump u)
      let x : HeldMap := {
        version := h.version, hdr := h, mapHdr := mh, recs := recs, applyAt := h.epoch + 2, forParent := asParent t n h, acks := [] }
      let begun := x.applyAt.toNat ≤ t.tb.epoch.toNat
      (rivalOf t n h = none →
        (∀ r, nakReason t n h mh recs = some r → does (refused (answer n h mh 3 r t))) ∧
        (nakReason t n h mh recs = none →
          (asParent t n h = true →
            let said := answer n h mh 2 0 (inMember t fun y => { y with heldParent := some x, parentAnswered := some h.version })
            (joinsParent t n = true → parentWhole m x = false →
              does (inMember t fun y => { y with heldParent := some x, parentAnswered := none })) ∧
            (joinsParent t n = false ∨ parentWhole m x = true →
              (¬ begun → does said) ∧ (begun → does (inMember said dropParent)))) ∧
          (asParent t n h = false →
            let said := answer n h mh 2 0 (inMember t fun y => { y with held := some x, answered := some h.version })
            (m.state = 2 → ¬ begun → does said) ∧
            (m.state ≠ 2 → snapshotWhole m x = false →
              does (inMember t fun y => { y with held := some x, answered := none })) ∧
            (m.state ≠ 2 → m.state ≠ 1 → snapshotWhole m x = true → ¬ begun → does (raised (fun y => { y with state := 1 }) said)) ∧
            (m.state = 1 → snapshotWhole m x = true → ¬ begun → does said) ∧
            (m.state = 2 ∨ snapshotWhole m x = true → begun → does (inMember said dropHeld))))) ∧
      (∀ y, rivalOf t n h = some y →
        let without := fun (z : Member) => if y.forParent then { z with heldParent := none, parentAnswered := none }
          else { z with held := none, answered := none }
        (senderOf y.hdr = senderOf h → does t) ∧
        (senderOf y.hdr ≠ senderOf h → y.hdr.senderRank.toNat ≤ h.senderRank.toNat → does (refused (answer n h mh 3 4 t))) ∧
        (senderOf y.hdr ≠ senderOf h → h.senderRank.toNat < y.hdr.senderRank.toNat →
          does (judgePrepare n h mh recs (refused (answer n y.hdr y.mapHdr 3 4 (inMember t without))))))) ∧
    (let note := fun (x : HeldMap) => if x.version = h.version ∧ x.hdr.flockId = h.flockId
        then { x with acks := addOnce (senderOf h).toNat x.acks } else x;
      exec (.mapAck n h) s = .next (pump (inMember t fun y => { y with
        proposed := y.proposed.map note, held := y.held.map note }))) ∧
    (let hit := fun (p : HeldMap) => m.proposed = some p ∧ p.version = h.version ∧ p.hdr.flockId = h.flockId ∧ h.detail = 4 ∧
        m.abortNak = false;
      (∀ p, hit p → exec (.nak n h) s = .next (pump (forEach (recipients t n (newValid t n p.recs p.mapHdr.lastMember.toNat))
        (fun x => tell n x 5 p.hdr 0 []) (inMember t fun y => { y with abortNak := true })))) ∧
      ((∀ p, ¬ hit p) → exec (.nak n h) s = .next (pump t))) ∧
    (∀ ms : List Nat, (∀ e ∈ ms, e ≤ m.lastMember.toNat) →
      let does := fun (u : State) => exec (.exclude n h ms) s = .next (pump u)
      let own := m.state ≠ 0 ∧ m.flockId = h.flockId
      let parents := m.parentVersion ≠ 0 ∧ h.flockId = m.parentFlock ∧ senderOf h = m.parentHdr.bellwether ∧
        h.version = m.parentVersion
      (own → senderOf h = m.bellwether → h.version = m.version → ∃ u, does u ∧
        (∀ e, e < 65536 → mapEntry u n e = if e ∈ ms ∧ meValid (mapEntry t n e) = true then setBit (mapEntry t n e) 125
          else mapEntry t n e) ∧
        (foldAt u n).member = if m.memberNo.toNat ∈ ms ∧ m.state = 2 then { dropHeld m with state := 4 } else m) ∧
      (own → m.version.toNat < h.version.toNat → m.state = 2 → does (raised (fun y => { dropHeld y with state := 4 }) t)) ∧
      (asParent t n h = false → ¬ own ∨ (m.version.toNat = h.version.toNat ∧ senderOf h ≠ m.bellwether) ∨
          h.version.toNat < m.version.toNat ∨ (m.version.toNat < h.version.toNat ∧ m.state ≠ 2) → does (refused t)) ∧
      (asParent t n h = true → parents → does (inMember t fun y => { y with
        parentMap := y.parentMap.map fun p => if p.1 ∈ ms ∧ meValid p.2 = true then (p.1, setBit p.2 125) else p })) ∧
      (asParent t n h = true → ¬ parents → does (refused t))) ∧
    (let does := fun (u : State) => exec (.abort n h) s = .next (pump u);
      let mine := fun (x : HeldMap) => x.version = h.version ∧ senderOf x.hdr = senderOf h ∧ x.hdr.flockId = h.flockId;
      (∀ x, m.held = some x → mine x →
        (m.state ≠ 1 → does (inMember t dropHeld)) ∧
        (m.state = 1 → does (raised (fun y => { dropHeld y with state := if m.flockId = 0 then 0 else 4 }) t))) ∧
      ((∀ x, m.held = some x → ¬ mine x) →
        (∀ x, m.heldParent = some x → mine x → does (inMember t dropParent)) ∧
        ((∀ x, m.heldParent = some x → ¬ mine x) → does t))) ∧
    ∀ (first : Nat) (es : List (BitVec 128)),
      let does := fun (u : State) => exec (.snapshot h n first es) s = .next (pump u)
      let known := senderOf h = m.admitBell ∧ h.flockId = m.admitFlock ∧ m.admitFlock ≠ 0
      (asParent t n h = false → m.state = 2 ∨ ¬ known → does (refused t)) ∧
      (asParent t n h = true → joinsParent t n = false ∨ senderOf h ≠ m.admitParentBell ∨ h.flockId ≠ m.admitParent →
        does (refused t)) ∧
      (asParent t n h = false → m.state ≠ 2 → known → Tab.wf 0 m.snapshot = true →
        let old := if m.snapshotOf = some (msgKey h) then m.snapshot else []
        let count := (if m.snapshotOf = some (msgKey h) then m.snapshotCount else 0) + es.length
        ∃ sn, (∀ k e, es[k]? = some e → Tab.get 0 sn (first + k) = e) ∧
          (∀ k, (k < first ∨ first + es.length ≤ k) → Tab.get 0 sn k = Tab.get 0 old k) ∧
          (let put := fun (y : Member) => { y with snapshot := sn, snapshotCount := count, snapshotOf := some (msgKey h) };
            (m.held = none → does (inMember t put)) ∧
            ∀ x, m.held = some x → m.state ≠ 1 → m.answered = none → msgKey x.hdr = msgKey h →
              x.mapHdr.lastMember.toNat < count → t.tb.epoch.toNat < x.applyAt.toNat →
              does (raised (fun y => { y with state := 1 }) (answer n x.hdr x.mapHdr 2 0
                (inMember t fun y => { put y with answered := some x.version }))))) ∧
      (asParent t n h = true → joinsParent t n = true → senderOf h = m.admitParentBell → h.flockId = m.admitParent →
        m.heldParent = none →
        let more := m.parentSnapshotOf == some (msgKey h)
        does (inMember t fun y => { y with
          parentSnapshot := putEntries (if more then y.parentSnapshot else []) first es
          parentSnapshotCount := (if more then y.parentSnapshotCount else 0) + es.length
          parentSnapshotOf := some (msgKey h) }))

/-- TWIN_DIGEST and TWIN_HALT from any other node are refused and counted. The partner's digests are kept, one more than
an epoch apart counted late; while twinned an own block whose digest has come is compared: equal ones are counted and
gone, a differing pair is counted, kept as last_mismatch and recorded, and with halt mode both sides halt at their next
boundary; TWIN_HALT changes nothing at a side that is disarmed or has halted. REQUEST_RESEND sends an unacknowledged
request again after resend_us as it first was, one to another instance of the module charged to class 0;
END_TO_END_TIMEOUT and CARRIED_TASK_TIMEOUT end what has waited coll_timeout and its command with TIMEOUT_PEER, counted,
the part of a larger collective reporting it to its origin; before their time they leave the state. -/
def Obligations.TwinAndTimeouts : Prop :=
  (∀ (s : State) (h : MsgHdr) (recs : List (BitVec 128)), freshMsg 33 h s = true →
    let t := msgTaken 33 h s
    let w := t.twin
    let refused := { t with flock := { t.flock with msgsRefused := t.flock.msgsRefused + 1 } }
    let near := h.epoch.toNat ≤ t.tb.epoch.toNat + 1 ∧ t.tb.epoch.toNat ≤ h.epoch.toNat + 1
    let kept := { t with twin := { w with
      partnerHeld := w.partnerHeld ++ recs, heard := true, late := if near then w.late else w.late + 1 } }
    (senderOf h ≠ w.partner ∨ peerValid w.partner = false → exec (.twinHalt h) s = .next (pump refused)) ∧
    (senderOf h = w.partner → peerValid w.partner = true →
      (w.state = 0 ∨ w.state = 3 → exec (.twinHalt h) s = .next (pump t)) ∧
      (w.state ≠ 0 → w.state ≠ 3 →
        exec (.twinHalt h) s = .next (pump { t with twin := { w with haltPending := true } }))) ∧
    (peerNode w.partner ≠ h.senderNode ∨ peerValid w.partner = false →
      exec (.twinDigest h recs) s = .next (pump refused)) ∧
    (peerNode w.partner = h.senderNode → peerValid w.partner = true →
      (w.state ≠ 2 → exec (.twinDigest h recs) s = .next (pump kept)) ∧
      ∀ d, w.state = 2 → w.own = [d] →
        ((∀ x ∈ w.partnerHeld ++ recs, twinKey x ≠ twinKey d) → exec (.twinDigest h recs) s = .next (pump kept)) ∧
        ∀ x, (w.partnerHeld ++ recs).find? (fun x => twinKey x == twinKey d) = some x →
          let taken' := { kept with twin := { kept.twin with
            own := [], partnerHeld := (w.partnerHeld ++ recs).filter fun y => twinKey y != twinKey d } }
          (field x 0 64 = field d 0 64 → exec (.twinDigest h recs) s = .next (pump
            { taken' with twin := { taken'.twin with compared := w.compared + 1 } })) ∧
          (field x 0 64 ≠ field d 0 64 →
            let word : BitVec 256 := BitVec.ofNat 256 (field d 0 64 * 2 ^ 192 + field x 0 64 * 2 ^ 128 +
              t.tb.epoch.toNat * 2 ^ 64 + field d 116 12 * 2 ^ 52 + field d 90 26 * 2 ^ 26)
            let said := raiseVector w.vector (raiseFault { cls := 0, detail := 0x40, tag := w.tag, fold := some (tagFold w.tag) }
              { taken' with twin := { taken'.twin with mismatches := w.mismatches + 1, lastMismatch := word } })
            (bitAt w.mode 0 = false → exec (.twinDigest h recs) s = .next (pump said)) ∧
            (bitAt w.mode 0 = true → exec (.twinDigest h recs) s = .next (pump
              (tellTwin 0x11 1 0 [] { said with twin := { said.twin with haltPending := true } })))))) ∧
  (∀ (n : Nat) (seq : W32) (s : State) (e : E2E), n < 16 →
    (foldAt s n).unacked.find? (fun e => e.seq == seq && !e.abandoned) = some e →
    let port := portAt s (field (Tab.get 0 s.net.route (moduleOf e.packet.destNode)) 4 1)
    let again := e.sentAt.toNat + 1000 * port.resendUs.toNat ≤ s.tb.time.toNat
    let over' := e.firstAt.toNat + 1000 * s.flock.collTimeout.toNat ≤ s.tb.time.toNat
    let gone := endE2E n e s
    let counted' := { gone with flock := { gone.flock with peerTimeouts := gone.flock.peerTimeouts + 1 } }
    (¬ again → exec (.requestResend n seq) s = .next (pump s)) ∧
    (again →
      let sent := routePacket e.vc e.packet (modFold s n fun f => { f with
        unacked := f.unacked.map fun x => if x.seq = seq then { x with sentAt := s.tb.time } else x })
      (toModule sent e.packet.destNode = false → exec (.requestResend n seq) s = .next (pump sent)) ∧
      (toModule sent e.packet.destNode = true → exec (.requestResend n seq) s =
        .next (pump (unhold 0 0 (weirCharge e.tag 0 (32 + e.packet.payload.length) sent))))) ∧
    (¬ over' → exec (.endToEndTimeout n seq) s = .next (pump s)) ∧
    (over' → cmdAt gone e.uid = none → exec (.endToEndTimeout n seq) s = .next (pump gone)) ∧
    (over' → ∀ c, cmdAt gone e.uid = some c →
      (opcodeOf c.desc = 2 → exec (.endToEndTimeout n seq) s =
        .next (pump (complete e.uid (.broken 0x0F) (dropGangs e.uid counted')))) ∧
      (opcodeOf c.desc ≠ 2 → opcodeOf c.desc ≠ 8 ∨ c.coll.origin = none → exec (.endToEndTimeout n seq) s =
        .next (pump (complete e.uid (endedDone c 0x0F) (endHolder (.task e.uid) counted')))) ∧
      ∀ k, opcodeOf c.desc = 8 → c.coll.origin = some k → exec (.endToEndTimeout n seq) s = .next (pump (dropCmd
        (sendReply k 0x11 0x0F (taskResultBytes (.broken 0x0F)) (recordSeq k 0x0F 0 counted')) e.uid)))) ∧
  ∀ (uid : Nat) (s : State) (c : Cmd) (k : Nat), cmdAt s uid = some c → c.phase = .carried k → opcodeOf c.desc = 1 →
    let due := c.readyAt.toNat + 1000 * s.flock.collTimeout.toNat ≤ s.tb.time.toNat
    let n := tagFold c.tag
    (¬ due → exec (.carriedTaskTimeout uid) s = .next (pump s)) ∧
    (due → (∀ e ∈ (foldAt s n).unacked, e.uid ≠ uid) → exec (.carriedTaskTimeout uid) s = .next (pump
      (complete uid (.broken 0x0F) (endHolder (.task uid)
        { s with flock := { s.flock with peerTimeouts := s.flock.peerTimeouts + 1 } })))) ∧
    (due → ∀ e, (foldAt s n).unacked.filter (fun e => e.uid == uid) = [e] →
      let gone := endE2E n e s
      cmdAt gone uid = some c → exec (.carriedTaskTimeout uid) s = .next (pump
        (complete uid (.broken 0x0F) (endHolder (.task uid)
          { gone with flock := { gone.flock with peerTimeouts := gone.flock.peerTimeouts + 1 } }))))

/-- A RESV_REQ of a version held, one its member's weirs do not admit, or a RELEASE of a record that a READ holds, stays
where it is. A version refused is counted and answered REFUSED_FENCED, as is a closed member. Else the answer says the
record: LOOKUP and READ count a hit or a miss and mark the use; RESERVE finds the record or takes a way of the key's set,
a free one where there is one, with a new token and a zeroed page, else answers SLOTS, and at a member that leaves is
fenced; FILL and COMMIT of a key and token that no record has are disclaimed, counted, of a committed record DUPLICATE;
FILL stores the bytes and COMMIT fixes length and CRC-64, both charged to the member; READ answers the page's bytes in
the client's class; a page with an uncorrectable error answers DATA_ERROR, recorded; RELEASE frees the record of its
token. A hand-over in progress goes on. -/
def Obligations.ReservoirRequests : Prop :=
  ∀ (s : State) (n : Nat) (lc : Bool) (h : MsgHdr) (d : BitVec 512) (bytes : List Byte), n < 16 →
    freshMsg (dataChannel h.senderFold.toNat lc bytes) h s = true →
    let t := msgTaken (dataChannel h.senderFold.toNat lc bytes) h s
    let r := (foldAt t n).resv
    let key := rvKey d
    let does := fun (u : State) => exec (.resvReq h ⟨n, lc⟩ d bytes) s = .next (pump u)
    let refused := fun (u : State) => does (rvTell n (senderOf h) 0x21 2 1 (leBytes 32 0) u)
    let tells := fun (st : Byte) (rec' : BitVec 256) (u : State) =>
      does (handRun n (rvTell n (senderOf h) 0x21 st 1 (leBytes 32 rec'.toNat) u))
    let record := recOf t n key
    let same := matchOf t n key (rvToken d)
    let at' := fun (i : Nat) => pageOff t n i (256 * rvOff d)
    let disclaimed := does (rvTell n (senderOf h) 0x22 0 0 [] { t with resvG := { t.resvG with
      disclaims := satAdd t.resvG.disclaims 1 } })
    let spoilt := fun (off : Nat) => tells 8 0 (raiseData 0x42 (paOf t 2 (badUnit t 2 off (rvBytes d))) niMaster 0 t)
    (rvWaits s n h d = true → does s) ∧
    (rvWaits s n h d = false →
      let judged := judgeVersion t n false h.senderNode h.senderFold.toNat h.version
      (judged = .refuse → ∃ u, refused u ∧ u.flock.staleRefused = t.flock.staleRefused + 1 ∧
        (foldAt u n).resv = r ∧ u.far = t.far ∧ u.tarn = t.tarn) ∧
      (judged ≠ .refuse → rvClosed t n = true → refused t) ∧
      (judged ≠ .refuse → rvClosed t n = false →
        (rvOp d = 0 →
          (record = none → tells 1 (answerRec t n 0 0 0 0) (countHit n false t)) ∧
          ∀ i x, record = some (i, x) →
            (x.committed = true → tells 1 (answerRec t n x.token x.digest 2 x.length) (countHit n true (touch n i t))) ∧
            (x.committed = false → tells 1 (answerRec t n x.token 0 (if x.request = rvRequest d then 1 else 3) 0)
              (countHit n false t))) ∧
        (rvOp d = 1 → r.leaving = true → tells 2 0 t) ∧
        (rvOp d = 1 → r.leaving = false →
          (∀ i x, record = some (i, x) → tells 1 (answerOf t n x (rvRequest d)) t) ∧
          (record = none → takeWay n key t = none → tells 0x12 0 t ∧
            ∀ i ∈ waysOf t n key, ∃ x, (i, x) ∈ r.slots ∧ (x.committed = true → readHeld t x = true)) ∧
          (record = none → ∀ i u, takeWay n key t = some (i, u) → i ∈ waysOf t n key ∧
            ((∃ x, (i, x) ∈ r.slots) → (∀ j ∈ waysOf t n key, ∃ y, (j, y) ∈ r.slots) ∧
              ∃ x, (i, x) ∈ r.slots ∧ x.committed = true ∧ readHeld t x = false) ∧
            let token := mkToken u.tb.epoch (foldAt u n).member.memberNo i (Tab.get 0 (foldAt u n).resv.gens i)
            tells 1 (answerRec u n token 0 1 0) (putSlot n i {
                committed := false, gen := Tab.get 0 (foldAt u n).resv.gens i, token := token, key := key,
                request := rvRequest d, length := 0, digest := 0, lastUse := 0, reads := 0, dropAt := none, sent := false }
              (memStore 2 (pageOff u n i 0) (List.replicate 16384 0) u)))) ∧
        (rvOp d = 2 ∨ rvOp d = 3 →
          (same = none → disclaimed) ∧
          ∀ i x, same = some (i, x) →
            (x.committed = true → tells 4 (answerRec t n x.token x.digest 2 x.length) t) ∧
            (x.committed = false →
              (rvOp d = 2 → tells 1 (answerOf t n x (rvRequest d)) (rvCharge n i (256 * rvOff d) (rvBytes d) true
                (memStore 2 (at' i) (bytes.take (rvBytes d)) t))) ∧
              (rvOp d = 3 → poisoned t 2 (pageOff t n i 0) (rvBytes d) = true → spoilt (pageOff t n i 0)) ∧
              (rvOp d = 3 → poisoned t 2 (pageOff t n i 0) (rvBytes d) = false →
                let page := (memBytes 2 (pageOff t n i 0) (rvBytes d) t).1
                let y := { x with committed := true, length := rvBytes d, digest := crc64 page }
                tells 1 (answerRec t n x.token (crc64 page) 2 (rvBytes d)) (rvCharge n i 0 (rvBytes d) false
                  (touch n i (modSlot n i (fun _ => y) { t with free := t.free + rvBytes d })))))) ∧
        (rvOp d = 4 →
          let misses := tells 1 (answerRec t n 0 0 0 0) (countHit n false t)
          (record = none → misses) ∧
          ∀ i x, record = some (i, x) →
            (x.committed = false → misses) ∧
            (x.committed = true → poisoned t 2 (at' i) (rvBytes d) = true → spoilt (at' i)) ∧
            (x.committed = true → poisoned t 2 (at' i) (rvBytes d) = false →
              let page := (memBytes 2 (at' i) (rvBytes d) t).1
              let vc := 2 * h.senderFold.toNat + (if lc then 0 else 1)
              let u := rvCharge n i (256 * rvOff d) (rvBytes d) false
                (countHit n true (touch n i { t with free := t.free + rvBytes d }))
              does (handRun n (noteRead n d h.senderNode vc (rvSend vc n (senderOf h) 0x21 1
                (leBytes 32 (answerRec t n x.token x.digest 2 x.length).toNat ++ page) u))))) ∧
        (5 ≤ rvOp d →
          (same = none → tells 1 0 t) ∧
          ∀ i x, same = some (i, x) → readHeld t x = false → tells 1 0 (freeSlot n i t))))

/-- RESV_ANS ends the op that waits for it with its status and a COMMIT's digest; a LOOKUP's or RESERVE's record and a
READ's bytes, digested, are kept and written at buf; DISCLAIM tries the other rank once, then asks the bellwether.
RESV_RESOLVE of a version held waits, of one refused is counted and answered REFUSED_FENCED; at the bellwether it queries
every reservoir member, elsewhere does nothing; QUERY answers every record found; the last QUERY_ANS answers the client
with the committed record of highest token, dropping the others, or LEASE_EXPIRED; RESOLVE_ANS ends the op. DROP frees a
committed record of its token, counted, a reservation at the boundary lease_epochs later. HANDOVER stores a record a fold
lacks, beside a reservation and in place of a committed one of lower token, and is counted where the fold is closed;
HANDOVER_FILL_END zeroes pages and index. -/
def Obligations.ReservoirMessages : Prop :=
  (∀ (s : State) (h : MsgHdr) (uid : Nat) (c : Cmd) (st : Byte) (rec' : BitVec 256) (bytes : List Byte),
    let v := dataChannel (tagFold c.tag) (cmdLc s c) bytes
    let t := msgTaken v h s
    let d := c.desc
    cmdAt s uid = some c → freshMsg v h s = true → cmdAt t uid = some c → opcodeOf d = 0x0B → c.phase = .peers → c.moved ≠ 2 →
    let does := fun (u : State) => exec (.resvAns h uid st rec' bytes) s = .next (pump u)
    let ends := fun (r : Done) (out : List Byte) => modCmd t uid fun x => { x with
      phase := .busy, out := cutBeats [(rvBuf d, out)], coll := { x.coll with acc := taskResultBytes r } }
    let plain : Done := { status := st, digest := 0, failed := false, part := true, result := 0 }
    let told := fun (digest : W64) => ({ status := st, digest := digest, failed := false, part := false, result := 0 } : Done)
    (settled t c = true →
      (st ≠ 1 → (rvOp d = 3 → st ≠ 4) → does (doFor uid niMaster (complete uid plain) (ends plain []))) ∧
      (rvOp d = 3 → st = 1 ∨ st = 4 →
        does (doFor uid niMaster (complete uid (told (bitsAt rec' 64 64))) (ends (told (bitsAt rec' 64 64)) []))) ∧
      (st = 1 → rvOp d = 2 ∨ rvOp d = 5 → does (doFor uid niMaster (complete uid plain) (ends plain [])))) ∧
    (st = 1 → rvOp d ≤ 1 → does (rvSettle uid (ends plain (leBytes 32 rec'.toNat)))) ∧
    (st = 1 → rvOp d = 4 → bytes ≠ [] →
      let out := bytes.take (rvBytes d)
      does (rvSettle uid (ends (told (crc64 out)) out)))) ∧
  (∀ (s : State) (h : MsgHdr) (uid : Nat) (c : Cmd) (st : Byte), freshMsg 33 h s = true →
    let t := msgTaken 33 h s
    let n := tagFold c.tag
    let d := c.desc
    cmdAt t uid = some c → opcodeOf d = 0x0B → c.phase = .peers →
    (rvOp d = 2 ∨ rvOp d = 3 →
      let other := rvRanked (rvKey d) (rvMembers t n) ((rvRank d + 1) % 2)
      let c1 := { c with moved := 1 }
      let tried := modCmd t uid fun x => { x with phase := .accepted, moved := 1 }
      let does := fun (u : State) => exec (.disclaim h uid) s = .next (pump u)
      (rvOp d = 3 → c.moved = 0 → other ≠ none → does (rvAsk c1 [] tried)) ∧
      (rvOp d = 2 → c.moved = 0 → other ≠ none → ∀ (w page : List Byte) (u0 u : State),
        rvReach c1 .read (pagesOf (rvBuf d) (rvBytes d)) tried = (.ok w, u0) →
        fetchRange c1 niPlace niMaster (rvBuf d) (rvBytes d) u0 = (.ok page, u) → does (rvAsk c1 page u)) ∧
      (c.moved ≠ 0 ∨ other = none → does
        (rvTell n (foldAt t n).member.bellwether 0x23 0 1 (leBytes 16 (rvKey d).toNat ++ leBytes 8 (rvRequest d).toNat ++
          leBytes 16 (rvToken d).toNat ++ List.replicate 8 0)
          (modCmd t uid fun x => { x with moved := 2, startAt := t.tb.time })))) ∧
    (c.moved = 2 → ∀ (token : BitVec 128) (digest : W64), exec (.resolveAns h uid st token digest) s = .next (pump (complete uid
      (if st = 4 then { status := 4, digest := digest, failed := false, part := false, result := 0 }
        else { status := st, digest := 0, failed := false, part := true, result := 0 }) t)))) ∧
  (∀ (s : State) (h : MsgHdr) (n : Nat) (key token : BitVec 128) (req : W64), n < 16 → freshMsg 33 h s = true →
    let t := msgTaken 33 h s
    let f := foldAt t n
    let asked := rvMembers t n
    let lent : Resolution := {
      key := key, request := req, fold := n, client := h, uid := 0, since := t.tb.time, waiting := asked, found := [] }
    let judged := judgeVersion t n false h.senderNode h.senderFold.toNat h.version
    let waits := judgeVersion s n false h.senderNode h.senderFold.toNat h.version = .hold
    (waits → exec (.resvResolve h n key req token) s = .next (pump s)) ∧
    (¬ waits → judged = .refuse → ∃ u, exec (.resvResolve h n key req token) s = .next (pump
      (rvTell n (senderOf h) 0x26 2 0 (List.replicate 24 0) u)) ∧ u.flock.staleRefused = t.flock.staleRefused + 1 ∧
      u.resvG = t.resvG) ∧
    (¬ waits → judged ≠ .refuse → f.member.bellwether ≠ myPeer t n →
      exec (.resvResolve h n key req token) s = .next (pump t)) ∧
    (¬ waits → judged ≠ .refuse → f.member.bellwether = myPeer t n → asked ≠ [] → exec (.resvResolve h n key req token) s = .next (pump
      (forEach asked (fun m u => rvTell n (mePeer (mapEntry u n m)) 0x24 0 1 (leBytes 16 key.toNat) u)
        { t with resvG := { t.resvG with resolutions := t.resvG.resolutions ++ [lent] } }))) ∧
    (let found := if f.live.role = 1 then (recsOf t n key).map fun p => ({
        token := p.2.token, request := p.2.request, committed := p.2.committed, digest := p.2.digest,
        member := f.member.memberNo } : ResvFound) else [];
      exec (.query h n key) s = .next (pump
        (rvTell n (senderOf h) 0x25 0 found.length (leBytes 16 key.toNat ++ found.flatMap foundBytes) t))) ∧
    (matchOf t n key token = none → exec (.drop h n key token) s = .next (pump t)) ∧
    (∀ i x, matchOf t n key token = some (i, x) →
      (x.committed = true → exec (.drop h n key token) s = .next (pump (modResv n (fun r => { r with dropped := satAdd r.dropped 1 })
        (freeSlot n i t)))) ∧
      (x.committed = false → exec (.drop h n key token) s = .next (pump (modSlot n i
        (fun x => { x with dropAt := some (h.epoch + BitVec.ofNat 64 t.resvG.leaseEpochs.toNat) }) t)))) ∧
    (∀ (r : Resolution) (m : Nat) (recs : List ResvFound),
      t.resvG.resolutions.find? (fun r => r.fold == n && r.key == key) = some r →
      memberOf t n h.senderNode h.senderFold.toNat = some m → m ∈ r.waiting →
      let mine := recs.map fun f => { f with member := BitVec.ofNat 16 m }
      let r' := { r with waiting := r.waiting.filter fun x => x != m, found := r.found ++ mine }
      let rest := t.resvG.resolutions.map fun x => if x = r then r' else x
      (r'.waiting ≠ [] → exec (.queryAns h n key recs) s = .next (pump { t with resvG := { t.resvG with resolutions := rest } })) ∧
      (r'.waiting = [] →
        let done := { t with resvG := { t.resvG with
          resolutions := rest.filter fun x => x != r', resolves := satAdd t.resvG.resolves 1 } }
        let drop := fun (f : ResvFound) (u : State) =>
          rvTell n (mePeer (mapEntry u n f.member.toNat)) 0x27 0 1 (leBytes 16 key.toNat ++ leBytes 16 f.token.toNat) u
        ((∀ x ∈ r'.found, x.committed = false) → exec (.queryAns h n key recs) s = .next (pump
          (rvTell n (senderOf r.client) 0x26 0x14 0 (List.replicate 24 0)
            (forEach (r'.found.filter fun x => x.request == r.request) drop done)))) ∧
        ∀ best ∈ r'.found, best.committed = true →
          (∀ x ∈ r'.found, x.committed = true → x ≠ best → tokenRank x.token < tokenRank best.token) →
          exec (.queryAns h n key recs) s = .next (pump
            (rvTell n (senderOf r.client) 0x26 4 1 (leBytes 16 best.token.toNat ++ leBytes 8 best.digest.toNat)
              (forEach (r'.found.filter fun x => x.committed && tokenRank x.token < tokenRank best.token) drop done))))) ∧
    (∀ (hr : HandRec) (page : List Byte),
      let counted' := modResv n (fun r => { r with dropped := satAdd r.dropped 1 }) t
      let closed := rvClosed t n = true ∨ f.resv.leaving = true
      (closed → exec (.handover h n hr page) s = .next (pump counted')) ∧
      (¬ closed →
        (recOf t n hr.key = none → exec (.handover h n hr page) s = .next (pump (handStore n hr page t))) ∧
        ∀ i x, recOf t n hr.key = some (i, x) →
          (x.committed = false → exec (.handover h n hr page) s = .next (pump (handStore n hr page t))) ∧
          (x.committed = true → tokenRank x.token < tokenRank hr.token →
            exec (.handover h n hr page) s = .next (pump (handStore n hr page (freeSlot n i t)))) ∧
          (x.committed = true → tokenRank hr.token ≤ tokenRank x.token → exec (.handover h n hr page) s = .next (pump t))))) ∧
  ∀ (s : State) (n : Nat), n < 16 →
    let r := (foldAt s n).resv
    let page := pageOff s n 0 0
    let index := r.indexBase.toNat - s.xlate.localBase.toNat - 2 ^ 42
    (r.filling = false → exec (.handoverFillEnd n) s = .next (pump s)) ∧
    (r.filling = true → canon s = true → ∃ u, exec (.handoverFillEnd n) s = .next (pump u) ∧
      (foldAt u n).resv = { r with filling := false, filled := true } ∧ u.pond = s.pond ∧
      (∀ a, Tab.get 0 u.far a = if page ≤ a ∧ a < page + 16384 * r.slotCount then 0 else Tab.get 0 s.far a) ∧
      ∀ a, Tab.get 0 u.tarn a = if index ≤ a ∧ a < index + 64 * r.slotCount then 0 else Tab.get 0 s.tarn a)

/-- Training starts at step 1 with every flit, credit and key of the port cleared, fast when the blob is accepted, and
only at a licensed port of an instance with a node number. The receivers' lock drops a half with a bad lane and begins
the plain exchange, or takes the port down without a good half; the partner's version and lanes must agree before the
session is secured; the session's end makes the port up, ×4 on half its lanes, or down. A failed step falls back from
fast to full, else the port is down; 10 µs of silence take it down; a lost lane of a full port leaves the other half, of
a ×4 port takes it down. REKEY, and the counter's limit, switch the key of a port that is up. -/
def Obligations.LinkControl : Prop :=
  ∀ (s : State) (p : Nat), p < 2 →
    let x := portAt s p
    let becomes := fun (i : Instr) (t : State) => exec i s = .next t
    let fallsAt := fun (i : Instr) (cls detail : Nat) (t : State) => becomes i (portFault p cls detail (portDown p) t)
    let trains := fun (fast : Bool) => requestDomain (96 + p) (refreshLinkCap p (closeLinkSpdm p (setPort s p { portClear x with
      state := 1, trainStep := 1, fast := fast, retrained := false, lanes := 0, badLanes := 0, tagFails := [],
      heardAt := s.tb.cycle, ctlSent := s.tb.cycle })))
    let may := portLicensed s p = true ∧ nodeValid s = true
    (¬ may → becomes (.train p) s ∧ becomes (.trainFast p) s) ∧
    (may → becomes (.train p) (trains false) ∧ becomes (.trainFast p) (trains (blobOk s p x.settings))) ∧
    (portLicensed s p = false → becomes (.down p) s) ∧
    (portLicensed s p = true → becomes (.down p) (refreshLinkCap p (closeLinkSpdm p (setPort s p { portClear x with
      state := 0, trainStep := 0, keyEpoch := 0, rxEpoch := 0, lanes := 0 })))) ∧
    (portLicensed s p = true → portUp x = true → becomes (.rekey p) (setPort s p { x with mustSwitch := true })) ∧
    (portLicensed s p = false ∨ portUp x = false → becomes (.rekey p) s) ∧
    (portUp x = true → x.rekeyFlits.toNat ≤ x.txCounter.toNat → becomes (.rekeyCount p) (setPort s p { x with mustSwitch := true })) ∧
    (portUp x = false ∨ x.txCounter.toNat < x.rekeyFlits.toNat → becomes (.rekeyCount p) s) ∧
    (x.state = 1 → x.trainStep = 1 → bitAt s.power.domainsOn (96 + p) = true →
      let l := lanesOf (goodLanes s p)
      let s1 := setPort s p { x with
        lanes := l, trainStep := 3, heardAt := s.tb.cycle, ctlSent := s.tb.cycle, mustControl := true }
      (l = 0 → fallsAt (.receiverLock p) 2 0x50 s) ∧
      (l ≠ 0 → becomes (.receiverLock p) (partnerSend p 0x31 (helloBytes s1 p) s1))) ∧
    (x.state ≠ 1 ∨ x.trainStep ≠ 1 ∨ bitAt s.power.domainsOn (96 + p) = false → becomes (.receiverLock p) s) ∧
    (let step := x.state = 1 ∨ x.state = 2;
      let fastOnce := x.trainStep = 1 ∧ x.fast = true ∧ x.retrained = false;
      (¬ step → becomes (.trainingFailed p) s) ∧
      (step → fastOnce → becomes (.trainingFailed p) (setPort s p { x with fast := false })) ∧
      (step → ¬ fastOnce → fallsAt (.trainingFailed p) 2 0x50 s)) ∧
    (∀ (k : Packet) (m : PortHello), k.ptype = 0x31 →
      let t := takeIn k s
      let exchange := x.state = 1 ∧ x.trainStep = 3
      let agree := m.major = 3 ∧ m.lanes = x.lanes
      (¬ exchange → becomes (.mgmt p k m) t) ∧
      (exchange → ¬ agree → fallsAt (.mgmt p k m) 2 0x50 t) ∧
      (exchange → agree → becomes (.mgmt p k m) (secure p (setPort t p { x with partner := peerOf (bitsAt m.node 0 18) 0 })))) ∧
    (∀ (m : SpdmMsg) (done good : Bool),
      let t := takeSpdm m s
      let securing := x.state = 2 ∧ x.trainStep = 4
      (¬ securing → becomes (.spdm p m done good) t) ∧
      (securing → done = false → becomes (.spdm p m done good) (setConn (.link p) (spdmHeard t m (connOf t (.link p))) t)) ∧
      (securing → done = true → good = false → fallsAt (.spdm p m done good) 5 0x55 t) ∧
      (securing → done = true → good = true → canon s = true → ∃ u y, becomes (.spdm p m done good) u ∧ portAt u p = y ∧
        y.state = (if x.lanes = 0xFF then 3 else 4) ∧ y.trainStep = 0 ∧ y.keyEpoch = 0 ∧ y.rxEpoch = 0 ∧ y.txCounter = 0 ∧
        y.rxCounter = 0 ∧ y.kept = [] ∧ y.consumed = [] ∧ y.session = true ∧ y.mustControl = true ∧ y.streams = x.streams ∧
        y.saved = blobOf t p x.lanes ∧ ∀ v, v < 34 → Tab.get 0 y.creditOut v = allocOf x v)) ∧
    (portOn x = true → x.heardAt + 1000 ≤ s.tb.cycle → fallsAt (.linkSilence p) 2 0x52 s) ∧
    (portOn x = false ∨ s.tb.cycle < x.heardAt + 1000 → becomes (.linkSilence p) s) ∧
    ∀ lane, lane < 8 →
      let used := portUp x = true ∧ bitAt x.lanes lane = true
      let s1 := retireUnit (224 + 8 * p + lane) (setPort s p { x with badLanes := setBit x.badLanes lane })
      (¬ used → becomes (.laneFailure p lane) s) ∧
      (used → x.state = 3 → becomes (.laneFailure p lane) (portFault p 2 0x51 (fun t => refreshLinkCap p (setPort t p
        { portAt t p with state := 4, lanes := if lane < 4 then 0xF0 else 0x0F })) s1)) ∧
      (used → x.state = 4 → fallsAt (.laneFailure p lane) 2 0x52 s1)

/-- A port that is off answers nothing. A good flit advances the expected counter, ends the replay wait and makes a
control flit due after 64; data joins its channel's stream, whole packets pass on and its credit becomes returnable; a
control flit's credits, acknowledgement, nak and key switch take effect. A flit lost outside a replay wait begins one and
asks for replay. Every slot of a port that is on sends one flit: the next of a replay under way as it was, else a control
flit due, else at most 242 bytes of a channel first in order, which costs a credit when up, else an idle flit; each new
flit is sealed under the present key epoch and counter and kept, and its 256 bytes enter the symbol stream of the lanes.
A padded fold's slot within its link guarantee carries its data, or a padding flit that consumes no credit. -/
def Obligations.LinkFlits : Prop :=
  ∀ (s : State) (p : Nat), p < 2 → canon s = true →
    let x := portAt s p
    let becomes := fun (i : Instr) (t : State) => exec i s = .next t
    let accepted' : Port := { x with
      rxCounter := x.rxCounter + 1, replayWait := false, mustNak := false, naksSame := 0, sinceControl := x.sinceControl + 1,
      mustControl := x.mustControl || decide (64 ≤ x.sinceControl + 1) }
    let onLine := fun (k : Kept) => lineAfter (countBits 8 x.lanes) (flitSealed s p k) x.line
    (∀ f : Flit, f.vc < 34 → f.payload.length ≤ 242 →
      (portOn x = false → ∀ good, becomes (.flitReceive p f good) s) ∧
      (portOn x = true →
        (x.replayWait = true → becomes (.flitReceive p f false) s) ∧
        (x.replayWait = false → ∃ t, becomes (.flitReceive p f false) t ∧ (Config.freeChoice s.free = false →
          t = setPort { s with free := s.free + 1 } p { x with
            replayWait := true, mustControl := true, mustNak := true, fecUncorrected := x.fecUncorrected + 1 })) ∧
        (f.kind = 0 →
          let bs := Tab.get [] x.rxStreams f.vc ++ f.payload
          let r := packetsOf (bs.length / 32 + 1) bs
          becomes (.flitReceive p f true) (forEach r.1 (deliver f.vc) (setPort (setPort s p accepted') p { accepted' with
            rxStreams := Tab.set [] x.rxStreams f.vc r.2
            creditOut := Tab.set 0 x.creditOut f.vc (Tab.get 0 x.creditOut f.vc + 1)
            creditAt := if x.creditAt = none then some s.tb.cycle else x.creditAt }))) ∧
        (f.kind = 1 → exec (.flitReceive p f true) s = exec (.controlFlit p (ctlOf f.payload)) s) ∧
        (2 ≤ f.kind.toNat → becomes (.flitReceive p f true) (setPort s p accepted')))) ∧
    (∀ c : CtlFlit,
      (portOn x = false → becomes (.controlFlit p c) s) ∧
      (portOn x = true → ∃ t y, becomes (.controlFlit p c) t ∧ t = setPort s p y ∧
        (∀ v, v < 34 → Tab.get 0 y.returned v = c.creditRet.getD v 0) ∧ y.acked = c.ackNext ∧ y.heardAt = s.tb.cycle ∧
        y.txCounter = x.txCounter ∧ y.keyEpoch = x.keyEpoch ∧ y.replayWait = false ∧
        y.kept = x.kept.filter (fun k => !flitBefore (k.epoch, k.counter) (ackEpoch x c.ackNext, c.ackNext)) ∧
        (c.nak = true → y.replayAt = firstFlit (unackedFlits y)) ∧ (c.nak = false → y.replayAt = x.replayAt) ∧
        (c.keySwitch = true → y.rxEpoch = c.keyEpochNext ∧ y.rxCounter = 0) ∧
        (c.keySwitch = false → y.rxEpoch = x.rxEpoch ∧ y.rxCounter = x.rxCounter + 1) ∧
        y.mustSwitch = (x.mustSwitch || (c.retrain && portUp x)))) ∧
    (let due := 64 ≤ x.sinceControl ∨ x.ctlSent + 100 ≤ s.tb.cycle ∨ ∃ c, x.creditAt = some c ∧ c + 10 ≤ s.tb.cycle;
      (portOn x = true → due → becomes (.controlFlitTimer p) (setPort s p { x with mustControl := true })) ∧
      (portOn x = false ∨ ¬ due → becomes (.controlFlitTimer p) s)) ∧
    (let controls := (x.mustControl = true ∨ (x.mustSwitch = true ∧ portUp x = true)) ∧ x.kept.length < 4096;
      let kept' : Flit → Kept := fun f => { counter := x.txCounter, epoch := x.keyEpoch, flit := f };
      (portOn x = false → becomes (.flitSlot p) s) ∧
      (portOn x = true →
        (∀ f, replayPlace x = some f → ∃ t y k, becomes (.flitSlot p) t ∧ t = setPort s p y ∧ y.onLanes = some k ∧
          y.line = onLine k ∧ k.epoch = f.1 ∧ k.counter = f.2 ∧ y.txCounter = x.txCounter ∧ y.kept = x.kept ∧ y.streams = x.streams ∧
          y.replayAt = firstFlit ((unackedFlits x).filter fun g => flitBefore f g)) ∧
        (replayPlace x = none → controls →
          ∃ t c, becomes (.flitSlot p) t ∧ c.ackNext = x.rxCounter ∧ c.nak = (x.replayWait || x.mustNak) ∧
            c.keySwitch = (x.mustSwitch && portUp x) ∧ (∀ v, v < 34 → c.creditRet.getD v 0 = Tab.get 0 x.creditOut v) ∧
            (x.replayWait = false → x.mustNak = false → x.mustSwitch = false → t = setPort s p { x with
              txCounter := x.txCounter + 1, onLanes := some (kept' { kind := 1, vc := 0, payload := ctlBytes c })
              line := onLine (kept' { kind := 1, vc := 0, payload := ctlBytes c })
              kept := x.kept ++ [kept' { kind := 1, vc := 0, payload := ctlBytes c }]
              mustControl := false, sinceControl := 0, ctlSent := s.tb.cycle, creditAt := none })) ∧
        (replayPlace x = none → ¬ controls →
          ((∀ v, v < 34 → vcMay s p v = false) → becomes (.flitSlot p) (noteVcs p (setPort s p { x with
            txCounter := x.txCounter + 1, onLanes := some (kept' { kind := 3, vc := 0, payload := [] })
            line := onLine (kept' { kind := 3, vc := 0, payload := [] })
            idles := x.idles ++ [(x.keyEpoch, x.txCounter)] }))) ∧
          ((∃ v, v < 34 ∧ vcMay s p v = true) → ∃ t v y, becomes (.flitSlot p) t ∧ v < 34 ∧ vcMay s p v = true ∧
            (∀ w, w < 34 → vcMay s p w = true → vcOrder s p v ≤ vcOrder s p w) ∧ portAt t p = y ∧
            let bs := Tab.get [] x.streams v
            let k := kept' { kind := 0, vc := v, payload := bs.take 242 }
            y.onLanes = some k ∧ y.line = onLine k ∧ y.kept = x.kept ++ [k] ∧ y.txCounter = x.txCounter + 1 ∧
            (Tab.wf [] x.streams = true → Tab.get [] y.streams v = bs.drop 242) ∧
            (portUp x = true → Tab.wf 0 x.consumed = true →
              Tab.get 0 y.consumed v = Tab.get 0 x.consumed v + 1))))) ∧
    ∀ (n : Nat) (lc : Bool), n < 16 →
      let v := 2 * n + if lc then 0 else 1
      let ready := portUp x = true ∧ (foldAt s n).live.padded = true ∧ withinGuarantee (foldAt s n) (linkKey p) = true ∧ replayPlace x = none ∧ dataRoom x = true
      let sends := Tab.get [] x.streams v ≠ [] ∧ Tab.get 0 x.returned v ≠ Tab.get 0 x.consumed v
      (¬ ready → becomes (.paddingSlot p n lc) s) ∧
      (ready → sends → becomes (.paddingSlot p n lc) (sendData p v s)) ∧
      (ready → ¬ sends →
        let k : Kept := { counter := x.txCounter, epoch := x.keyEpoch, flit := { kind := 2, vc := v, payload := [] } }
        becomes (.paddingSlot p n lc) (linkCharge p v (setPort s p { x with
          txCounter := x.txCounter + 1, onLanes := some k, line := onLine k, kept := x.kept ++ [k] })))

/-- A packet for another instance changes nothing: the ports route it. A request beyond the windows is refused with 0x04
and counted, one behind them is counted, a second copy that is no READ is answered as recorded, or dropped while it is
being carried out. A fresh one of a source without the right or of a wrong version is refused, one of a held version
waits. READ answers its bytes; WRITE stores and is acknowledged; REDUCE adds containers; ATOMIC takes one step and its
acknowledgement carries the old value; FENCE takes the signal step; each is recorded and answered when the accesses it
made have been. What its weir or link holds waits, what its target refuses is refused, an uncorrectable error is recorded
and answered DATA_ERROR. An access outside one page, or misaligned, is refused. TASK is taken on as a command of its
context, or of its flock's, or answered REFUSED_FENCED; COLL, of a version in force at its level, carries a part of a
collective or reports why not, refuses that part where its fold is frozen or behind a closed sluice,
keeps the bytes awaited, or is acknowledged. -/
def Obligations.PacketRequests : Prop :=
  ∀ (s : State) (k : Packet),
    let row : Nat → Option Instr := fun t => match t with
      | 1 => some (.packetRead k)
      | 2 => some (.packetWrite k)
      | 3 => some (.packetAtomic k)
      | 4 => some (.packetReduce k)
      | 5 => some (.packetFence k)
      | 0x10 => some (.task k)
      | 0x12 => some (.coll k)
      | _ => none
    ∀ i, row k.ptype.toNat = some i →
      let does := fun (u : State) => exec i s = .next (pump u)
      let t := takeIn k s
      let n := tagFold k.destTag
      let a := k.address.toNat
      (k.destNode ≠ myNode s → exec i s = .next s) ∧
      (k.destNode = myNode s →
        let begun := ∃ v, servingOf t k = some v ∧ v.waits = false
        (k.ptype.toNat ≤ 5 → begun → does t) ∧
        (5 < k.ptype.toNat ∨ ¬ begun →
          (seqJudge t k = .noWindow →
            does (sendReply k 0x0A 4 [] { t with net := { t.net with windowsBusy := t.net.windowsBusy + 1 } })) ∧
          (seqJudge t k = .stale → does { t with net := { t.net with duplicates := t.net.duplicates + 1 } }) ∧
          (∀ st old, seqJudge t k = .dup st old → 2 ≤ k.ptype.toNat → k.ptype.toNat ≤ 5 →
            (st = 0 → does t) ∧ (st ≠ 0 → does (sendReply k 9 st (leBytes 8 old.toNat) t)))) ∧
        (¬ begun → seqJudge t k = .fresh ∨ (k.ptype = 1 ∧ ∃ st old, seqJudge t k = .dup st old) → k.ptype.toNat ≤ 5 →
          (memGate t k = .hold → does (keepIn k t)) ∧
          (memGate t k = .refuse 1 → does (sendReply k 0x0A 1 [] t)) ∧
          (memGate t k = .refuse 2 → does (sendReply k 0x0A 2 [] (refuseVersion n false k.mapVersion t))) ∧
          (memGate t k = .pass →
            let uid := (beginServing k t).1
            let t1 := onBehalf uid niMaster (beginServing k t).2
            let refuses := fun (u : State) => does (sendReply k 0x0A 1 [] (dropServing uid (onBehalfOfNone u)))
            let waits := fun (u : State) => does (keepIn k (onBehalfOfNone u))
            let answers := fun (y st : Byte) (bs : List Byte) (u0 : State) =>
              let u := onBehalfOfNone u0
              (reqsOut u uid = true → does (answerServing uid k y st bs u)) ∧
              (reqsOut u uid = false → does (sendReply k y (if y = 9 then st else 0) bs
                (recordSeq k st (BitVec.ofNat 64 (ofLe bs % 2 ^ 64)) (dropServing uid u))))
            let meets := fun (x : Access × State) (good : List Byte → State → Prop) =>
              (∀ bs u, x = (.ok bs, u) → good bs u) ∧ (∀ u, x = (.refused, u) → refuses u) ∧
              (∀ c q u, x = (.error c q, u) → answers 9 8 [] (raiseData c q niMaster k.destTag u)) ∧
              ∀ u, x = (.wait, u) → waits u
            let lands := fun (x : AccessKind) (act : Nat → Nat → State → Prop) =>
              (∀ mem off r s1, remoteSpot k x t1 = (some (mem, off), r, s1) → act mem off s1) ∧
              (∀ s1, remoteSpot k x t1 = (none, .refuse 1, s1) → refuses s1) ∧
              (∀ s1, remoteSpot k x t1 = (none, .status 8 none, s1) → answers 9 8 [] s1) ∧
              ∀ s1, remoteSpot k x t1 = (none, .later, s1) → waits s1
            (k.ptype = 1 → inPage a (ofLe k.payload) = false → refuses t1) ∧
            (k.ptype = 2 ∨ k.ptype = 4 → inPage a k.payload.length = false → refuses t1) ∧
            (k.ptype = 4 → (k.payload.length % 32 ≠ 0 ∨ a % 32 ≠ 0) → refuses t1) ∧
            (k.ptype = 5 → a % 16 ≠ 0 → answers 9 7 [] t1) ∧
            (k.ptype = 1 → inPage a (ofLe k.payload) = true → lands .read fun mem off s1 =>
              meets (locRead k.destTag mem off (ofLe k.payload) s1) fun bs u => answers 8 1 bs u) ∧
            (k.ptype = 2 → inPage a k.payload.length = true → lands .write fun mem off s1 =>
              meets (locWrite k.destTag mem off k.payload s1) fun _ u => answers 9 1 [] u) ∧
            (k.ptype = 4 → inPage a k.payload.length = true → k.payload.length % 32 = 0 → a % 32 = 0 → lands .atomic fun mem off s1 =>
              meets (locReduce k.destTag mem off k.payload s1) fun _ u => answers 9 1 [] u) ∧
            (k.ptype = 3 → atomOf k.op = none → refuses t1) ∧
            (k.ptype = 3 → ∀ op, atomOf k.op = some op →
              let ty := k.op.toNat % 8
              let flag := bitAt k.op 3
              let wide := flag && op == .fadd
              let m := atomBytes ty
              let size := if wide then 32 else m
              let x := ofLe (k.payload.take m)
              let sound := atomTyped op ty = true ∧ (flag = true → op = .fadd ∨ (op = .add ∧ ty = 0)) ∧ a % size = 0 ∧
                m ≤ k.payload.length
              let step := fun (old : List Byte) => if flag = true ∧ op = .add then leBytes 4 (min 0xFFFFFFFF (ofLe old + x))
                else (atomStep op flag ty old x (ofLe ((k.payload.drop m).take m))).1
              (¬ sound → refuses t1) ∧
              (sound → lands .atomic fun mem off s1 => meets (locUpdate k.destTag mem off size step s1) fun old u =>
                answers 9 1 (leBytes 8 (if wide then 0 else ofLe old)) u)) ∧
            (k.ptype = 5 → a % 16 = 0 → lands .write fun mem off s1 =>
              (mem ≠ 3 → ∀ x st s2, signalHere k.destTag mem off (BitVec.ofNat 64 (ofLe k.payload)) s1 = (x, st, s2) →
                meets (x, s2) fun _ u => answers 9 st [] u) ∧
              (mem = 3 → landOk s1 k.destTag mem off = false → refuses s1) ∧
              (mem = 3 → landOk s1 k.destTag mem off = true → s1.hostPort.atomicOk = false → answers 9 7 [] s1) ∧
              (mem = 3 → landOk s1 k.destTag mem off = true → s1.hostPort.atomicOk = true → reachable s1 k.destTag 3 off 8 = true →
                does (dropServing uid (onBehalfOfNone (hostRequest (.packet k) k.destTag (recordSeq k 0 0
                  (unhold 3 0 (weirCharge k.destTag 3 8 s1)))))))))) ∧
        (seqJudge t k = .fresh → k.ptype = 0x10 →
          let parent := field k.destTag 0 12 = 0
          let tag := if parent then meTag (mapEntry t n (foldAt t n).member.memberNo.toNat) else k.destTag
          let d : BitVec 512 := BitVec.ofNat 512 (ofLe k.payload)
          (parent ∨ tagLive t tag = true → gate t n (decide parent) k = .pass →
            let closed := foldClosed t n = true ∨ (foldAt t n).state = .frozen ∨ (foldAt t n).freezing ≠ none ∨
              tagOpen t tag = false ∨ (ctxAt t (tagSlot tag)).sluiceClosed = true ∨ t.faults.sluiceClosed = true
            let r := digestFlags d (.broken 2)
            (closed → does (sendReply k 0x11 2 (taskResultBytes r) (recordSeq k (resultByte r) 0 t))) ∧
            (¬ closed →
              let s1 := recordSeq k 0 0 t
              does { s1 with
                cmds := s1.cmds ++ [{ newCmd s1 4096 d with tag := tag, journalled := false, carriedIn := some k }]
                nextUid := s1.nextUid + 1, free := s1.free + 1 }))) ∧
        (seqJudge t k = .fresh → k.ptype = 0x12 →
          let d : BitVec 512 := BitVec.ofNat 512 (ofLe (k.payload.take 64))
          (k.payload.length = 64 → foldClosed t n = true ∨ (foldAt t n).state = .frozen ∨ t.faults.sluiceClosed = true →
            does (sendReply k 0x0A 1 [] t)) ∧
          (k.payload.length = 64 → foldClosed t n = false → (foldAt t n).state ≠ .frozen → t.faults.sluiceClosed = false →
            gate t n true k = .pass →
            let tag := meTag (mapEntry t n (foldAt t n).member.memberNo.toNat)
            let c := newCmd t 4096 d
            (∀ x, collCheck t n d true = some x →
              does (sendReply k 0x11 7 (reportBytes 7 x) (recordSeq k 7 (BitVec.ofNat 64 x) t))) ∧
            (collCheck t n d true = none → does (collRun c.uid (recordSeq k 0 0 { t with
              cmds := t.cmds ++ [{ c with
                tag := tag, journalled := false, phase := .peers, startAt := t.tb.time,
                coll := { CollState.reset with origin := some k, waiting := collSources t n d } }]
              nextUid := t.nextUid + 1, free := t.free + 1 })))) ∧
          (k.payload.length ≠ 64 →
            (gate t n (subMember t n k).isNone k = .hold → does (keepIn k t)) ∧
            (gate t n (subMember t n k).isNone k = .pass →
              (∀ m c, subMember t n k = some m → awaiting t n m d = some c → does (collRun c.uid (sendReply k 9 1 []
                (recordSeq k 1 0 (keepPart c.uid (partKey m (field k.address 0 40)) (k.payload.drop 64) t))))) ∧
              (subMember t n k = none → partHere t n d = none → does (sendReply k 9 1 [] (recordSeq k 1 0 t)))))))

/-- An answer that names no request of the fold changes nothing. Otherwise the request is numbered no longer and its
latency is noted (a REFUSE 0x04 only has it sent again later); of an abandoned one nothing more happens. READ_DATA gives
a waiting lane's register its bytes, or a command the bytes it asked for. An ACK ends a FENCE_SIGNAL with its status,
gives a lane an atomic's old value, or lets the command go on; one that reports DATA_ERROR is recorded with this side's
master and address and fails the request. REFUSE is recorded as REMOTE_REFUSED with the requester's master, address and
walk level, an unreachable node also as 0x56, and fails the request; a task refused for its version is carried once more.
TASK_RESULT ends a carried task with its status, digest and flags; of a collective's part it reports a failure, upward
where the fold only coordinates a part. -/
def Obligations.PacketAnswers : Prop :=
  ∀ (s : State) (k : Packet), k.destNode = myNode s →
    let t := takeIn k s
    let n := k.srcFold.toNat
    let answers := fun (y : Byte) (i : Instr) (u : State) => k.ptype = y → exec i s = .next (pump u)
    (requestOf t k = none → answers 8 (.readData k) t ∧ answers 9 (.packetAck k) t ∧ answers 0x0A (.refuse k) t) ∧
    (∀ e, requestOf t k = some e →
      let gone := endAnswered n e t
      let told := if k.op = 3 then raiseFault {
        cls := 2, detail := 0x56, master := e.master, tag := e.tag, fold := some n, address := e.va } gone else gone
      (e.abandoned = true → answers 8 (.readData k) gone ∧ answers 9 (.packetAck k) gone ∧
        (k.op ≠ 4 → answers 0x0A (.refuse k) told)) ∧
      (k.op = 4 → answers 0x0A (.refuse k) (modFold t n fun f => { f with unacked := f.unacked.map fun x =>
        if x.seq = e.seq then { x with sentAt := t.tb.time } else x })) ∧
      (e.abandoned = false →
        (∀ g lane rd ty, e.use = .lane g lane rd ty → ty < 8 →
          answers 8 (.readData k) (groupAnswered g (match groupAt gone g with
            | none => gone
            | some x => setGroup g (setRegs x lane rd (k.payload.take (2 ^ ty))) gone)) ∧
          (k.op ≠ 8 → ∀ c, cmdAt gone e.uid = some c → opcodeOf c.desc = 2 →
            (e.packet.ptype = 3 → answers 9 (.packetAck k) (requestDone e.uid (laneArrive g lane rd ty k.payload gone))) ∧
            (e.packet.ptype ≠ 3 → answers 9 (.packetAck k) (requestDone e.uid (groupAnswered g gone))))) ∧
        (∀ key len c, e.use = .piece key len → cmdAt gone e.uid = some c →
          (opcodeOf c.desc = 1 → key < c.asked → answers 8 (.readData k) (operandArrive c key k.payload gone)) ∧
          (opcodeOf c.desc = 3 → answers 8 (.readData k) (moveArrive c key k.payload gone)) ∧
          (opcodeOf c.desc = 5 → answers 8 (.readData k) (fenceArrive c k.payload gone)) ∧
          ((opcodeOf c.desc = 1 → c.asked ≤ key) → opcodeOf c.desc ≠ 3 → opcodeOf c.desc ≠ 5 →
            answers 8 (.readData k) (keepPart e.uid key k.payload gone))) ∧
        (k.op = 8 → answers 9 (.packetAck k)
          (raiseData 0x43 e.va e.master e.tag (failRequest e 8 trDataError (releaseLane e gone)))) ∧
        (∀ c, cmdAt gone e.uid = some c →
          (k.op ≠ 8 → opcodeOf c.desc = 4 → answers 9 (.packetAck k) (complete e.uid (.plain k.op) gone)) ∧
          (k.op ≠ 8 → opcodeOf c.desc ≠ 4 → e.use = .none → answers 9 (.packetAck k) (requestDone e.uid gone)) ∧
          (opcodeOf c.desc = 3 → k.op = 8 → e.use = .none → answers 9 (.packetAck k)
            (raiseData 0x43 e.va e.master e.tag (complete e.uid (.broken 8) gone)))) ∧
        (∀ c, cmdAt told e.uid = some c → k.op ≠ 4 → e.packet.ptype ≠ 0x20 → e.packet.ptype ≠ 0x12 →
          let refused := fun (u : State) =>
            raiseAccess e.va e.tag e.master (packetAccess e.packet.ptype) .remoteRefused (noteWalk e.va e.level u)
          (∀ x, c.phase = .carried x → k.op = 2 → answers 0x0A (.refuse k) (recarry c x told)) ∧
          ((∀ x, c.phase = .carried x → k.op ≠ 2) →
            answers 0x0A (.refuse k) (refused (failRequest e 6 trAccess (releaseLane e told))) ∧
            (opcodeOf c.desc = 3 → e.use = .none → answers 0x0A (.refuse k) (refused (complete e.uid (.broken 6) told))))))) ∧
    ∀ e, requestOf t k = some e → requestOf s k = some e →
      let gone := endAnswered n e t
      ∀ c, cmdAt s e.uid = some c →
        (e.abandoned = true → answers 0x11 (.taskResult k) gone) ∧
        (e.abandoned = false → cmdAt gone e.uid = some c →
          let st := k.payload.getD 0 0
          let detail := (k.payload.getD 2 0).toNat
          let timed := { gone with flock := { gone.flock with peerTimeouts := gone.flock.peerTimeouts + 1 } }
          (∀ x, c.phase = .carried x → opcodeOf c.desc ≠ 8 → answers 0x11 (.taskResult k) (complete e.uid
            { status := st, digest := BitVec.ofNat 64 (ofLe ((k.payload.drop 8).take 8)),
              part := bitAt (k.payload.getD 1 0) 0, failed := bitAt (k.payload.getD 1 0) 1, result := 0 } gone)) ∧
          (opcodeOf c.desc = 8 → st = 1 → answers 0x11 (.taskResult k) gone) ∧
          (opcodeOf c.desc = 8 → c.coll.origin = none →
            (st = 7 → answers 0x11 (.taskResult k) (collRange c detail gone)) ∧
            (st = 0x0F → answers 0x11 (.taskResult k) (complete e.uid (.broken 0x0F) (endHolder (.task e.uid) timed))) ∧
            (st ≠ 1 → st ≠ 7 → st ≠ 0x0F → answers 0x11 (.taskResult k) (complete e.uid (.broken st) gone))) ∧
          (∀ o, opcodeOf c.desc = 8 → c.coll.origin = some o → st ≠ 1 → answers 0x11 (.taskResult k) (dropCmd
            (sendReply o 0x11 st (reportBytes st detail)
              (recordSeq o st (BitVec.ofNat 64 detail) (if st = 0x0F then timed else gone))) e.uid)))

/-- A response ends the transaction of its channel and tag and the request behind it, good or with the error recorded and
its group trapped, or its command ended, and the bytes of a write that failed are undefined; what waited for the last
response goes on; one of no transaction, or of a reserved status, breaks the surroundings' duty. Returned credits rise
and send what waits. A packet of another instance is for this one's inbox, a fragment for its channel's, for a neighbour,
or goes out by its route. A completion ends the host request of its tag: a FENCE_SIGNAL takes its step on host memory and
ends with its status, with RANGE where atomics are unsupported, else with DATA_ERROR and a record; a failed ring read
stops its queue; an error is counted, a late completion is discarded. After 50 ms without one the request ends as an
error, counted, and its tag rests 100 ms. A link change shows in hp_link, and what was posted is written when the link is
up. -/
def Obligations.HostAndStackPorts : Prop :=
  (∀ (s : State) (ch tag : Nat) (status : BitVec 3) (write : Bool),
    let i : Instr := if write then .stackWriteAck ch tag status else .stackReadData ch tag status
    (stackReqAt s ch tag write = none → ∃ m, exec i s = .fault (.breach m)) ∧
    ∀ r, stackReqAt s ch tag write = some r →
      let s1 := { s with stack := { s.stack with out := s.stack.out.filter fun x => x != r } }
      (2 < status.toNat → ∃ m, exec i s = .fault (.breach m)) ∧
      (status = 0 → (∀ q ∈ s.xlate.reqs, q.id ≠ r.req) → exec i s = .next (pump s1)) ∧
      ∀ q, s.xlate.reqs.find? (fun q => q.id == r.req) = some q →
        (status = 0 → exec i s = .next (pump (afterResponse q.uid (endReq r.req s1)))) ∧
        (status = 1 ∨ status = 2 →
          let s2 := endReq r.req (if write then scrambleWrite r.req s1 else s1)
          let s3 := raiseData (if q.cls = 3 then 0x43 else 0x42) (reqAddress s2 q) q.master q.tag s2
          let ends := fun (u : State) => exec i s = .next (pump (afterResponse q.uid u))
          (q.abandoned = true → ends s2) ∧
          (q.abandoned = false → q.grp = none → q.uid = 0 → ends s3) ∧
          (q.abandoned = false → q.grp = none → q.uid ≠ 0 → ends (cmdFailed q.uid s3)) ∧
          ∀ g, q.abandoned = false → q.grp = some g → ends (trapLate g q.pc q.master 0x29 s3))) ∧
  (∀ (s : State) (ch count : Nat), ch < 64 → count < 16 →
    let credits := Tab.set 0 s.stack.credits ch (Tab.get 0 s.stack.credits ch + count)
    let does := fun (k : Stack) => exec (.stackCreditReturn ch count) s = .next (pump (packetsCross { s with stack := k }))
    ((∀ r ∈ s.stack.waiting, r.ch ≠ ch) → does { s.stack with credits := credits }) ∧
    ∀ r, s.stack.waiting = [r] → r.ch = ch → Tab.wf 0 s.stack.credits = true →
      let room := Tab.get 0 s.stack.sent ch < Tab.get 0 s.stack.credits ch + count
      (¬ room → does { s.stack with credits := credits }) ∧
      (room → does { s.stack with
        credits := credits, waiting := [], out := s.stack.out ++ [r]
        sent := Tab.set 0 s.stack.sent ch (Tab.get 0 s.stack.sent ch + stackBeats r) })) ∧
  (∀ (s : State) (src : BitVec 4) (vc : Nat) (k : Packet), vc < 34 →
    let does := fun (u : State) => exec (.stackPacket ⟨src, vc⟩ k) s = .next u
    (k.destNode = myNode s → k.ptype = 0x20 → does { s with net := { s.net with fragments := s.net.fragments ++ [(vc, k)] } }) ∧
    (k.destNode = myNode s → k.ptype ≠ 0x20 → does { s with net := { s.net with inbox := s.net.inbox ++ [k] } }) ∧
    (k.destNode ≠ myNode s → moduleOf k.destNode = moduleOf (myNode s) →
      does (packetToStack (BitVec.ofNat 4 (instanceOf k.destNode)) k s)) ∧
    (moduleOf k.destNode ≠ moduleOf (myNode s) →
      let r := Tab.get 0 s.net.route (moduleOf k.destNode)
      bitAt r 7 = true → k.ttl ≠ 0 →
        (field r 0 4 = instanceOf (myNode s) → does (portSend (field r 4 1) vc (packetBytes { k with ttl := k.ttl - 1 }) s)) ∧
        (field r 0 4 ≠ instanceOf (myNode s) → does (packetToStack (BitVec.ofNat 4 (field r 0 4)) k s)))) ∧
  (∀ (s : State) (tag : Nat) (status : HostStatus) (r : HostReq),
    let got := exec (.hostCompletion tag status) s
    let late := exec (.hostCompletionTimeout tag) s
    let ended := { s with hostPort := { s.hostPort with out := s.hostPort.out.filter fun x => x.tag != tag } }
    let failed := { ended with hostPort := { ended.hostPort with cplErrors := s.hostPort.cplErrors + 1 } }
    let rested := { ended with hostPort := { ended.hostPort with
      cplTimeouts := s.hostPort.cplTimeouts + 1, heldTags := s.hostPort.heldTags ++ [(tag, s.tb.cycle + 10000000)] } }
    (hostReqAt s tag = none → got = .next (pump s) ∧ late = .next (pump s)) ∧
    (hostReqAt s tag = some r → s.tb.cycle < r.since + 5000000 → late = .next (pump s)) ∧
    (hostReqAt s tag = some r →
      let due := r.since + 5000000 ≤ s.tb.cycle
      (∀ q, r.use = .batch q → (status ≠ .good → got = .next (pump (readFailed q failed))) ∧
        (due → late = .next (pump (readFailed q rested))) ∧
        (status = .good → got = .next (pump (modQueue (batchIn q ended) q fun x => { x with batch := 0 })))) ∧
      (∀ uid c, r.use = .fence uid → cmdAt s uid = some c →
        let a := (operand0 c.desc).toNat
        let dataError := fun (u : State) => raiseData 0x43 a hostMaster c.tag (complete uid (.plain 8) u)
        (status = .unsupported → got = .next (pump (complete uid (.plain 7) failed))) ∧
        (status ≠ .good → status ≠ .unsupported → got = .next (pump (dataError failed))) ∧
        (due → late = .next (pump (dataError rested))) ∧
        (status = .good → ∀ mem off s1, reach 8 c.tag a .write ended = (.loc mem off, s1) →
          got = .next (pump (complete uid (.plain (signalAt mem off (operand1 c.desc) s1).1)
            (signalAt mem off (operand1 c.desc) s1).2)))) ∧
      (∀ k, r.use = .packet k →
        let says' := fun (st : Byte) (u : State) => sendReply k 9 st [] (recordSeq k st 0 u)
        let dataError := fun (u : State) => says' 8 (raiseData 0x43 k.address.toNat niMaster k.destTag u)
        (status = .unsupported → got = .next (pump (says' 7 failed))) ∧
        (status ≠ .good → status ≠ .unsupported → got = .next (pump (dataError failed))) ∧
        (due → late = .next (pump (dataError rested))) ∧
        (status = .good → ∀ mem off w s1, remoteSpot k .write ended = (some (mem, off), w, s1) →
          let step' := signalAt mem off (BitVec.ofNat 64 (ofLe k.payload)) s1
          got = .next (pump (says' step'.1 step'.2)))))) ∧
  ∀ (s : State) (up : Bool) (speed : BitVec 3) (width : BitVec 5), s.boot.state ≠ .booting →
    let link : W16 := BitVec.ofNat 16 ((if up then 1 else 0) + 2 * speed.toNat + 16 * width.toNat)
    let shown := { s with hostPort := { s.hostPort with link := link } }
    (up = false → exec (.hpLinkUpChange up speed width) s = .next (pump shown)) ∧
    (up = true → exec (.hpLinkUpChange up speed width) s = .next (pump (s.hostPort.posted.foldl
      (fun u w => presentTlp { write := true, relaxed := false, address := w.1, length := w.2.length, pasid := none }
        (clearPoison 3 w.1 w.2.length { u with host := memWrite u.host w.1 w.2 }))
      { shown with hostPort := { shown.hostPort with posted := [] } })))

/-- While RESET_N is high: a good frame waits for the first edge at least 1 µs later, the one it replaces counts as an
error; a bad one is counted and recorded. In UNSET an edge acts only with a LOAD, which sets time and epoch and locks. In
LOCKED an edge within L/8 of the prediction begins the next epoch there, corrected by a CHECK that describes it, any
other is recorded 0x60; a REPHASE past half the epoch corrects, counts the epochs skipped and begins the later one. An
empty window begins the epoch at its end, slips, and the fourth in a row free-runs. A window of the plan begins in turn,
the commons tiles still in their arrays counted as overruns; a miss window ends every 10 µs of the epoch and judges each
class; a refresh adds 64 ns of guarantee and of ceiling up to 2 µs; a sample enters its gauge, a fold's being its ready
tasks or its held requests. -/
def Obligations.TimebaseAndWindows : Prop :=
  ∀ s : State, s.pins.resetLow = false →
    let does := fun (i : Instr) (u : State) => exec i s = .next (pump u)
    let b := s.tb
    let error := fun (u : State) => raiseH 0x63 { u with tb := { u.tb with frameErrors := u.tb.frameErrors + 1 } }
    let fresh := if b.frame = none then s else error s
    let waits := fun (ty : FrameType) (time epoch : W64) =>
      { fresh with tb := { fresh.tb with frame := some (ty, time, epoch, fresh.tb.cycle + 100) } }
    let due : Option (FrameType × W64 × W64) := match b.frame with
      | some (ty, time, epoch, from') => if from' ≤ b.cycle then some (ty, time, epoch) else none
      | none => none
    let s1 := if due = none then s else { s with tb := { b with frame := none } }
    let ends := fun (e : W64) (at' : Nat) (u : State) => predictFrom at' (boundary e at' u)
    let near := b.predicted ≤ b.cycle + syncW s ∧ b.cycle ≤ b.predicted + syncW s
    (∀ time epoch, does (.load time epoch) (waits .load time epoch) ∧ does (.check time epoch) (waits .check time epoch) ∧
      does (.rephase time epoch) (waits .rephase time epoch)) ∧
    does .timebaseFrameError (error s) ∧
    (b.state = .unset →
      (due = none → does .syncInPulse s) ∧
      (∀ time epoch, due = some (.load, time, epoch) → does .syncInPulse (ends epoch b.cycle
        { s1 with tb := { s1.tb with time := time, state := .locked, slew := 0, consecutive := 0 } })) ∧
      (∀ ty time epoch, due = some (ty, time, epoch) → ty ≠ .load → does .syncInPulse (error s1))) ∧
    (b.state = .locked →
      let locked := fun (u : State) => { u with tb := { u.tb with state := .locked, consecutive := 0, realign := false } }
      (due = none →
        (near → does .syncInPulse (ends (b.epoch + 1) b.cycle (locked s))) ∧
        (¬ near → does .syncInPulse (raiseH 0x60 s))) ∧
      (∀ time epoch, due = some (.check, time, epoch) →
        (near → epoch = b.epoch + 1 → b.time.toNat ≤ time.toNat + 10 → time.toNat ≤ b.time.toNat + 10 →
          does .syncInPulse (ends (b.epoch + 1) b.cycle (locked { s1 with tb := { s1.tb with
            lastOffset := BitVec.ofInt 32 ((time.toNat : Int) - b.time.toNat), slew := 0 } }))) ∧
        (¬ near → does .syncInPulse (raiseH 0x60 (error s1)))) ∧
      (∀ time epoch, due = some (.rephase, time, epoch) → b.boundaryCycle + lenCycles s / 2 ≤ b.cycle →
        b.epoch.toNat < epoch.toNat → b.time.toNat ≤ time.toNat + 10 → time.toNat ≤ b.time.toNat + 10 →
        does .syncInPulse (ends epoch b.cycle (locked { s1 with tb := { s1.tb with
          skipped := b.skipped + BitVec.ofNat 32 (epoch.toNat - (b.epoch.toNat + 1))
          lastOffset := BitVec.ofInt 32 ((time.toNat : Int) - b.time.toNat), slew := 0 } }))) ∧
      (b.cycle < b.predicted + syncW s → does .boundaryPredictionExpiry s) ∧
      (b.predicted + syncW s ≤ b.cycle →
        let u := predictFrom b.predicted (boundary (b.epoch + 1) (b.predicted + syncW s) s)
        let n := u.tb.consecutive + 1
        let slipped := raiseH 0x60 { u with tb := { u.tb with slips := u.tb.slips + 1, consecutive := n } }
        (n ≠ 4 → does .boundaryPredictionExpiry slipped) ∧
        (n = 4 → does .boundaryPredictionExpiry (raiseH 0x61 { slipped with tb := { slipped.tb with
          state := .freeRun, freeRunEntries := slipped.tb.freeRunEntries + 1, realign := false } })))) ∧
    (∀ w, w < 64 →
      let begins := w = s.graze.window + 1 ∧ w < planCount s ∧ windowStart s w ≤ sinceBoundary s ∧ b.state ≠ .unset
      (begins → does (.grazingWindowStart w)
        (let u := noteOverruns s; ungranted { u with graze := { u.graze with window := w } })) ∧
      (¬ begins → does (.grazingWindowStart w) s)) ∧
    (let over' := b.state ≠ .unset ∧ sinceBoundary s ≠ 0 ∧ sinceBoundary s % 10000 = 0;
      (¬ over' → does .weirMissWindowEnd s) ∧
      (over' → (∀ n, n < 16 → foldExists s n = false) → does .weirMissWindowEnd s) ∧
      ∀ n k, over' → n < 16 → k < 4 → canon s = true →
        (∀ m, m < 16 → m ≠ n → foldExists s m = false ∨ (foldAt s m).meters = []) → foldExists s n = true →
        (foldAt s n).meters = [(k, meterOf (foldAt s n) k)] → k ≠ 2 →
        fellShort (foldAt s n) k 10000 = true ∨ lateNow (foldAt s n) k = true →
        ∃ u, does .weirMissWindowEnd u ∧ (meterOf (foldAt u n) k).misses = satAdd (meterOf (foldAt s n) k).misses 1 ∧
          (meterOf (foldAt u n) k).announced = true ∧ (meterOf (foldAt u n) k).winBytes = 0) ∧
    ((∀ n, n < 16 → foldExists s n = false) → does .weirMeterRefresh s) ∧
    (∀ n k, n < 16 → k < 5 → canon s = true → foldExists s n = true →
      Tab.wf Meter.reset (foldAt s n).meters = true → ∃ u, does .weirMeterRefresh u ∧
        let rate := (weirOf (foldAt s n) (classOf k)).guarantee.toNat
        let top := ceilingOf (foldAt s n) (classOf k)
        (meterOf (foldAt u n) k).gTokens = min ((2000 * rate : Nat) : Int) ((meterOf (foldAt s n) k).gTokens + (64 * rate : Nat)) ∧
        (meterOf (foldAt u n) k).cTokens = min ((2000 * top : Nat) : Int) ((meterOf (foldAt s n) k).cTokens + (64 * top : Nat))) ∧
    ∀ v : Nat,
      does (.gaugeSample .clkArr v) { s with gauges := { s.gauges with clkArr := gaugeAdd s.power.clkArr s.gauges.clkArr } } ∧
      does (.gaugeSample .clkHerd v) { s with gauges := { s.gauges with clkHerd := gaugeAdd s.power.clkHerd s.gauges.clkHerd } } ∧
      does (.gaugeSample .temp v) { s with gauges := { s.gauges with temp := gaugeAdd s.power.tNow.toNat s.gauges.temp } } ∧
      does (.gaugeSample .power v) { s with gauges := { s.gauges with power := gaugeAdd v s.gauges.power } } ∧
      (∀ i, i < 8 → does (.gaugeSample (.rail i) v) { s with gauges := { s.gauges with
        rails := Tab.set Gauge.reset s.gauges.rails i (gaugeAdd v (Tab.get Gauge.reset s.gauges.rails i)) } }) ∧
      ∀ n, n < 16 → does (.gaugeSample (.fold n 6) v)
          (foldGauge n 6 (s.cmds.filter fun c => c.phase == .ready && tagFold c.tag == n).length s) ∧
        does (.gaugeSample (.fold n 7) v) (foldGauge n 7
          ((heldIn s n 0).length + (heldIn s n 1).length + (heldIn s n 2).length + (heldIn s n 3).length +
            (heldIn s n 4).length) s)

/-- For every state whose queue of waiting commands begins with a command, the step is exec of that command on the state
with the queue's rest. On an empty queue the step answers the state one REFCLK_100 edge later (the model's choice, log
entry 31): the count of edges rises by one and, while RESET_N is high, the timebase by 10 ns, or by 11 or 9 while an
offset is slewed off; what passes with time is counted in the figures of folds and engines, and a power-domain request
that is due is raised. Nothing is taken from the queue, and no queue, command, translation or memory changes; with no
command, no held request, no tile and no domain wanted only time and cycles go on. -/
def Obligations.StepRunsFront : Prop :=
  (∀ (c : Instr) (rest : List Instr) (s : State), s.pending = c :: rest → step s = exec c { s with pending := rest }) ∧
  ∀ s : State, s.pending = [] → ∃ t, step s = .next t ∧ t.pending = [] ∧ t.tb.cycle = s.tb.cycle + 1 ∧
    (s.pins.resetLow = true → t = { s with tb := { s.tb with cycle := s.tb.cycle + 1 } }) ∧
    (s.pins.resetLow = false →
      (s.tb.slew = 0 → t.tb.time = s.tb.time + 10) ∧
      (0 < s.tb.slew → t.tb.time = s.tb.time + 11 ∧ t.tb.slew = s.tb.slew - 1) ∧
      (s.tb.slew < 0 → t.tb.time = s.tb.time + 9 ∧ t.tb.slew = s.tb.slew + 1)) ∧
    t = { s with tb := t.tb, herd := { s.herd with cycles := t.herd.cycles }, folds := t.folds, engines := t.engines,
                 power := t.power } ∧
    t.power = { s.power with requests := t.power.requests, reqAt := t.power.reqAt, wanted := t.power.wanted,
                             nextReq := t.power.nextReq } ∧
    (canon s = true → ∀ n, foldAt t n = { foldAt s n with
      sched := (foldAt t n).sched, meters := (foldAt t n).meters, stmt := (foldAt t n).stmt }) ∧
    (s.cmds = [] → s.xlate.held = [] → (∀ p ∈ s.engines, p.2.tile = none) → s.power.wanted = [] →
      t = { s with tb := t.tb, herd := { s.herd with cycles := t.herd.cycles } })

/-- State.reset is canonical; no fold, HQI, queue, semaphore or command exists and none waits; context slot 0 stands at
generation 1 and every other at 0, all FREE; the timebase is UNSET at time and epoch 0; bank 0 of the grazing plan is
active with one window that grants every engine to every fold; the journal is disabled; no collector is set and the fault
levels stand at their defaults; the ports are down; the test access port selects IDCODE; resend_us is 500, coll_timeout
10,000. -/
def Obligations.ResetState : Prop :=
  let s := State.reset
  canon s = true ∧ s.pending = [] ∧ s.cmds = [] ∧
    (∀ n, n < 16 → (foldAt s n).state = .free) ∧
    (∀ h, (hqiAt s h).created = false) ∧ (∀ q, (queueAt s q).state = .free) ∧ (∀ i, (semAt s i).created = false) ∧
    (∀ i, (ctxAt s i).state = .free ∧ (ctxAt s i).gen = if i = 0 then 1 else 0) ∧
    s.tb.state = .unset ∧ s.tb.time = 0 ∧ s.tb.epoch = 0 ∧
    s.graze.activeBank = 0 ∧ planCount s = 1 ∧
    (∀ e n, e < 16 → n < 16 → bitAt (planWindow s 0) (32 + e) = true ∧ bitAt (planWindow s 0) (16 + n) = true) ∧
    s.journal.enabled = false ∧ s.faults.collector = 0 ∧
    (∀ c, c < 8 → Tab.get 0 s.faults.base c = Faults.baseDefault c ∧ Tab.get 0 s.faults.cap c = Faults.capDefault c) ∧
    (∀ p, (portAt s p).state = 0 ∧ (portAt s p).resendUs = 500) ∧ s.dbg.ir = 0x01 ∧ s.flock.collTimeout = 10000

/-- For every state in canonical form and whatever the step runs (a command at the front of the queue, or a clock edge on
an empty queue): if the step answers a next state, that state is in canonical form. Canonical form says of the four
memories, of the tables of folds, contexts, host queue interfaces, queues, semaphores, engines, half-groups and ports, of
frame owners and keys, and of every gang's local store, registers, flags and draw counts that indexes rise strictly and
no entry equals what an unlisted index reads as (log entries 2 and 3: the model's form of memory). With ResetState every
reachable state is canonical. -/
def Obligations.TablesStayCanonical : Prop :=
  ∀ s t : State, canon s = true → step s = .next t → canon t = true

/-- Where BAR0 answers: a read of 8 bytes at 0x20_2000 gives JNL_WR and at 0x20_2008 JNL_RD; a write at 0x20_2000 changes
nothing; a write of 8 bytes to JNL_RD that lies behind its last value or beyond JNL_WR is ignored, any other makes JNL_RD
the whole value written in one step; a successful ENABLE in 0x3100 sets both to 0. -/
def Obligations.JournalPointers : Prop :=
  ∀ s : State, barOn s = true →
    let j := s.journal
    barRead s 0x202000 8 = some j.wr.toNat ∧ barRead s 0x202008 8 = some j.rd.toNat ∧
    (∀ v : W64, exec (.registerWrite 0x202000 8 v) s = .next (pump s)) ∧
    (∀ v : W64, v.toNat < j.rd.toNat ∨ j.wr.toNat < v.toNat →
      exec (.registerWrite 0x202008 8 v) s = .next (pump s) ∧ exec (.jnlRdWrite v) s = .next (pump s)) ∧
    (∀ v : W64, j.rd.toNat ≤ v.toNat → v.toNat ≤ j.wr.toNat →
      ∃ t, exec (.registerWrite 0x202008 8 v) s = .next (pump t) ∧ exec (.jnlRdWrite v) s = .next (pump t) ∧ t.journal.rd = v) ∧
    (bootOnly s = false → j.enabled = false → j.base.toNat % 4096 = 0 → (∃ e, 6 ≤ e ∧ e ≤ 24 ∧ j.entries.toNat = 2 ^ e) →
      exec .journalEnable s = .next (pump { s with journal := { j with enabled := true, wr := 0, rd := 0 } }))
end

