-- ==== Sys2Proof/Laws/Tab.lean ====
section
/-! SUPPORT. The sparse table: what a read after a write gives, and that every operation keeps the canonical form; the same for
the memory operations built on it (log entries 2 and 3). -/

namespace Sys2Proof

variable {α : Type}

theorem Tab.get_erase_ne (d : α) (m : Tab α) (a b : Nat) (h : a ≠ b) : Tab.get d (Tab.erase m a) b = Tab.get d m b := by
  induction m with
  | nil => rfl
  | cons c m ih =>
    obtain ⟨k, v⟩ := c
    by_cases h1 : a = k
    · have h2 : b ≠ k := fun e => h (h1.trans e.symm)
      simp [Tab.erase, Tab.get, h1, h2]
    · simp [Tab.erase, Tab.get, h1, ih]

theorem Tab.get_put_self (d : α) (m : Tab α) (a : Nat) (x : α) : Tab.get d (Tab.put m a x) a = x := by
  induction m with
  | nil => simp [Tab.put, Tab.get]
  | cons c m ih =>
    obtain ⟨k, v⟩ := c
    unfold Tab.put
    split
    · simp [Tab.get]
    · split
      · rename_i h2; simp [Tab.get, h2]
      · rename_i h2; simp [Tab.get, h2, ih]

theorem Tab.get_put_ne (d : α) (m : Tab α) (a b : Nat) (x : α) (h : a ≠ b) :
    Tab.get d (Tab.put m a x) b = Tab.get d m b := by
  induction m with
  | nil => simp [Tab.put, Tab.get, Ne.symm h]
  | cons c m ih =>
    obtain ⟨k, v⟩ := c
    unfold Tab.put
    split
    · simp [Tab.get, Ne.symm h]
    · split
      · rename_i h2
        have h3 : b ≠ k := fun e => h (h2.trans e.symm)
        simp [Tab.get, h3]
      · simp [Tab.get, ih]

section wf
variable [DecidableEq α]

theorem Tab.wfFrom_le (d : α) {lo lo' : Nat} {m : Tab α} (hl : lo ≤ lo') (h : Tab.wfFrom d lo' m = true) :
    Tab.wfFrom d lo m = true := by
  cases m with
  | nil => rfl
  | cons c m =>
    obtain ⟨k, v⟩ := c
    simp only [Tab.wfFrom, Bool.and_eq_true, decide_eq_true_eq] at h ⊢
    exact ⟨⟨le_trans hl h.1.1, h.1.2⟩, h.2⟩

/-- Nothing is listed below the bound. -/
theorem Tab.get_below (d : α) {m : Tab α} : ∀ {lo a : Nat}, Tab.wfFrom d lo m = true → a < lo → Tab.get d m a = d := by
  induction m with
  | nil => intros; rfl
  | cons c m ih =>
    obtain ⟨k, v⟩ := c
    intro lo a h ha
    simp only [Tab.wfFrom, Bool.and_eq_true, decide_eq_true_eq] at h
    have h1 : a ≠ k := by omega
    simp only [Tab.get, h1, if_false]
    exact ih h.2 (by omega)

theorem Tab.get_erase_self (d : α) {m : Tab α} : ∀ {lo : Nat} (a : Nat), Tab.wfFrom d lo m = true →
    Tab.get d (Tab.erase m a) a = d := by
  induction m with
  | nil => intros; rfl
  | cons c m ih =>
    obtain ⟨k, v⟩ := c
    intro lo a h
    simp only [Tab.wfFrom, Bool.and_eq_true, decide_eq_true_eq] at h
    unfold Tab.erase
    split
    · rename_i h1
      exact Tab.get_below d h.2 (by omega)
    · rename_i h1
      simp only [Tab.get, h1, if_false]
      exact ih a h.2

theorem Tab.erase_wfFrom (d : α) {m : Tab α} : ∀ {lo : Nat} (a : Nat), Tab.wfFrom d lo m = true →
    Tab.wfFrom d lo (Tab.erase m a) = true := by
  induction m with
  | nil => intros; rfl
  | cons c m ih =>
    obtain ⟨k, v⟩ := c
    intro lo a h
    simp only [Tab.wfFrom, Bool.and_eq_true, decide_eq_true_eq] at h
    unfold Tab.erase
    split
    · exact Tab.wfFrom_le d (by omega) h.2
    · simp only [Tab.wfFrom, Bool.and_eq_true, decide_eq_true_eq]
      exact ⟨h.1, ih a h.2⟩

theorem Tab.put_wfFrom (d : α) {m : Tab α} : ∀ {lo a : Nat} {x : α}, Tab.wfFrom d lo m = true → lo ≤ a → x ≠ d →
    Tab.wfFrom d lo (Tab.put m a x) = true := by
  induction m with
  | nil => intro lo a x _ hl hx; simp [Tab.put, Tab.wfFrom, hl, hx]
  | cons c m ih =>
    obtain ⟨k, v⟩ := c
    intro lo a x h hl hx
    simp only [Tab.wfFrom, Bool.and_eq_true, decide_eq_true_eq] at h
    unfold Tab.put
    split
    · rename_i h1
      simp only [Tab.wfFrom, Bool.and_eq_true, decide_eq_true_eq]
      exact ⟨⟨hl, hx⟩, ⟨by omega, h.1.2⟩, h.2⟩
    · split
      · rename_i h1 h2
        simp only [Tab.wfFrom, Bool.and_eq_true, decide_eq_true_eq]
        exact ⟨⟨h.1.1, hx⟩, h.2⟩
      · rename_i h1 h2
        simp only [Tab.wfFrom, Bool.and_eq_true, decide_eq_true_eq]
        exact ⟨h.1, ih h.2 (by omega) hx⟩

/-- A write keeps the canonical form. -/
theorem Tab.set_wf (d : α) {m : Tab α} (a : Nat) (x : α) (h : Tab.wf d m = true) : Tab.wf d (Tab.set d m a x) = true := by
  unfold Tab.set
  split
  · exact Tab.erase_wfFrom d a h
  · rename_i hx; exact Tab.put_wfFrom d h (Nat.zero_le a) hx

/-- A read after a write to the same key gives what was written. -/
theorem Tab.get_set_self (d : α) {m : Tab α} (a : Nat) (x : α) (h : Tab.wf d m = true) : Tab.get d (Tab.set d m a x) a = x := by
  unfold Tab.set
  split
  · rename_i hx; rw [hx]; exact Tab.get_erase_self d a h
  · exact Tab.get_put_self d m a x

/-- A write leaves every other key alone. -/
theorem Tab.get_set_ne (d : α) (m : Tab α) {a b : Nat} (x : α) (h : a ≠ b) :
    Tab.get d (Tab.set d m a x) b = Tab.get d m b := by
  unfold Tab.set
  split
  · exact Tab.get_erase_ne d m a b h
  · exact Tab.get_put_ne d m a b x h

theorem Tab.nil_wf (d : α) : Tab.wf d [] = true := rfl

theorem Tab.filter_wfFrom (d : α) (p : Nat × α → Bool) {m : Tab α} : ∀ {lo : Nat}, Tab.wfFrom d lo m = true →
    Tab.wfFrom d lo (m.filter p) = true := by
  induction m with
  | nil => intros; rfl
  | cons c m ih =>
    obtain ⟨k, v⟩ := c
    intro lo h
    simp only [Tab.wfFrom, Bool.and_eq_true, decide_eq_true_eq] at h
    by_cases hp : p (k, v)
    · rw [List.filter_cons_of_pos hp]
      simp only [Tab.wfFrom, Bool.and_eq_true, decide_eq_true_eq]
      exact ⟨h.1, ih h.2⟩
    · rw [List.filter_cons_of_neg hp]
      exact Tab.wfFrom_le d (by omega) (ih h.2)

theorem Tab.get_filter (d : α) (p : Nat × α → Bool) (q : Nat → Bool) (hq : ∀ k v, p (k, v) = q k) {m : Tab α} :
    ∀ {lo : Nat} (a : Nat), Tab.wfFrom d lo m = true →
    Tab.get d (m.filter p) a = if q a then Tab.get d m a else d := by
  induction m with
  | nil => intro lo a _; simp [Tab.get]
  | cons c m ih =>
    obtain ⟨k, v⟩ := c
    intro lo a h
    simp only [Tab.wfFrom, Bool.and_eq_true, decide_eq_true_eq] at h
    by_cases hp : p (k, v)
    · rw [List.filter_cons_of_pos hp]
      by_cases ha : a = k
      · subst ha; rw [hq] at hp; simp [Tab.get, hp]
      · simp only [Tab.get, ha, if_false]; exact ih a h.2
    · rw [List.filter_cons_of_neg hp]
      by_cases ha : a = k
      · subst ha; rw [hq] at hp
        rw [ih a h.2]; simp [hp]
      · simp only [Tab.get, ha, if_false]; exact ih a h.2

end wf

namespace Machine

/-! ### Memories -/

/-- Every byte write keeps a memory canonical. -/
theorem memWrite_wf (bs : List Byte) : ∀ {m : Mem} (a : Nat), Tab.wf 0 m = true → Tab.wf 0 (memWrite m a bs) = true := by
  induction bs with
  | nil => intro m a h; exact h
  | cons b bs ih => intro m a h; exact ih (a + 1) (Tab.set_wf 0 a b h)

/-- Zeroing a range keeps a memory canonical. -/
theorem memZero_wf {m : Mem} (a n : Nat) (h : Tab.wf 0 m = true) : Tab.wf 0 (memZero m a n) = true :=
  Tab.filter_wfFrom 0 _ h

/-- A byte outside the range written reads as before. -/
theorem get_memWrite_out (bs : List Byte) : ∀ (m : Mem) (a b : Nat), (b < a ∨ a + bs.length ≤ b) →
    Tab.get 0 (memWrite m a bs) b = Tab.get 0 m b := by
  induction bs with
  | nil => intros; rfl
  | cons x bs ih =>
    intro m a b h
    simp only [List.length_cons] at h
    simp only [memWrite]
    rw [ih _ _ _ (by omega)]
    exact Tab.get_set_ne 0 m x (by omega)

/-- A byte inside the range written reads as what was written. -/
theorem get_memWrite_in (bs : List Byte) : ∀ {m : Mem} (a i : Nat), Tab.wf 0 m = true → (h : i < bs.length) →
    Tab.get 0 (memWrite m a bs) (a + i) = bs[i] := by
  induction bs with
  | nil => intro m a i _ h; simp at h
  | cons x bs ih =>
    intro m a i hm h
    simp only [memWrite]
    cases i with
    | zero =>
      rw [get_memWrite_out bs _ _ _ (by omega)]
      exact Tab.get_set_self 0 a x hm
    | succ j =>
      have := ih (m := Tab.set 0 m a x) (a + 1) j (Tab.set_wf 0 a x hm) (by simpa using h)
      simpa [Nat.add_assoc, Nat.add_comm 1 j] using this

/-- A zeroed range reads as 0, every other byte as before. -/
theorem get_memZero {m : Mem} (a n b : Nat) (h : Tab.wf 0 m = true) :
    Tab.get 0 (memZero m a n) b = if a ≤ b ∧ b < a + n then 0 else Tab.get 0 m b := by
  unfold memZero
  rw [Tab.get_filter 0 _ (fun k => decide (k < a) || decide (a + n ≤ k)) (fun _ _ => rfl) b h]
  by_cases h1 : a ≤ b ∧ b < a + n
  · have h2 : ¬ b < a := by omega
    have h3 : ¬ a + n ≤ b := by omega
    simp [h1, h2, h3]
  · have h2 : b < a ∨ a + n ≤ b := by omega
    simp [h1, h2]

/-- What was written reads back. -/
theorem memRead_memWrite {m : Mem} (a : Nat) (bs : List Byte) (h : Tab.wf 0 m = true) :
    memRead (memWrite m a bs) a bs.length = bs := by
  apply List.ext_getElem
  · simp [memRead]
  · intro i h1 h2
    simp only [memRead, List.getElem_map, List.getElem_range]
    exact get_memWrite_in bs a i h h2

theorem memRead_length (m : Mem) (a n : Nat) : (memRead m a n).length = n := by simp [memRead]

end Machine
end Sys2Proof
end

