-- ==== Sys2Proof/Laws/State.lean ====
section
/-! SUPPORT. What each named update of the state does to each field, so that no proof unfolds a record update, and what reading
an indexed object after storing one gives. -/

namespace Sys2Proof.Machine

/-! ### setFold -/

@[simp] theorem setFold_boot (s : State) (n : Nat) (f : Fold) : (setFold s n f).boot = s.boot := rfl
@[simp] theorem setFold_fuse (s : State) (n : Nat) (f : Fold) : (setFold s n f).fuse = s.fuse := rfl
@[simp] theorem setFold_ident (s : State) (n : Nat) (f : Fold) : (setFold s n f).ident = s.ident := rfl
@[simp] theorem setFold_spdm (s : State) (n : Nat) (f : Fold) : (setFold s n f).spdm = s.spdm := rfl
@[simp] theorem setFold_mgmt (s : State) (n : Nat) (f : Fold) : (setFold s n f).mgmt = s.mgmt := rfl
@[simp] theorem setFold_dbg (s : State) (n : Nat) (f : Fold) : (setFold s n f).dbg = s.dbg := rfl
@[simp] theorem setFold_lmap (s : State) (n : Nat) (f : Fold) : (setFold s n f).lmap = s.lmap := rfl
@[simp] theorem setFold_power (s : State) (n : Nat) (f : Fold) : (setFold s n f).power = s.power := rfl
@[simp] theorem setFold_pins (s : State) (n : Nat) (f : Fold) : (setFold s n f).pins = s.pins := rfl
@[simp] theorem setFold_plant (s : State) (n : Nat) (f : Fold) : (setFold s n f).plant = s.plant := rfl
@[simp] theorem setFold_xlate (s : State) (n : Nat) (f : Fold) : (setFold s n f).xlate = s.xlate := rfl
@[simp] theorem setFold_weirG (s : State) (n : Nat) (f : Fold) : (setFold s n f).weirG = s.weirG := rfl
@[simp] theorem setFold_folds (s : State) (n : Nat) (f : Fold) : (setFold s n f).folds = Tab.set Fold.reset s.folds n f := rfl
@[simp] theorem setFold_ctxs (s : State) (n : Nat) (f : Fold) : (setFold s n f).ctxs = s.ctxs := rfl
@[simp] theorem setFold_hqis (s : State) (n : Nat) (f : Fold) : (setFold s n f).hqis = s.hqis := rfl
@[simp] theorem setFold_queues (s : State) (n : Nat) (f : Fold) : (setFold s n f).queues = s.queues := rfl
@[simp] theorem setFold_sems (s : State) (n : Nat) (f : Fold) : (setFold s n f).sems = s.sems := rfl
@[simp] theorem setFold_cmds (s : State) (n : Nat) (f : Fold) : (setFold s n f).cmds = s.cmds := rfl
@[simp] theorem setFold_nextUid (s : State) (n : Nat) (f : Fold) : (setFold s n f).nextUid = s.nextUid := rfl
@[simp] theorem setFold_journal (s : State) (n : Nat) (f : Fold) : (setFold s n f).journal = s.journal := rfl
@[simp] theorem setFold_engines (s : State) (n : Nat) (f : Fold) : (setFold s n f).engines = s.engines := rfl
@[simp] theorem setFold_halves (s : State) (n : Nat) (f : Fold) : (setFold s n f).halves = s.halves := rfl
@[simp] theorem setFold_herd (s : State) (n : Nat) (f : Fold) : (setFold s n f).herd = s.herd := rfl
@[simp] theorem setFold_graze (s : State) (n : Nat) (f : Fold) : (setFold s n f).graze = s.graze := rfl
@[simp] theorem setFold_flock (s : State) (n : Nat) (f : Fold) : (setFold s n f).flock = s.flock := rfl
@[simp] theorem setFold_twin (s : State) (n : Nat) (f : Fold) : (setFold s n f).twin = s.twin := rfl
@[simp] theorem setFold_resvG (s : State) (n : Nat) (f : Fold) : (setFold s n f).resvG = s.resvG := rfl
@[simp] theorem setFold_ports (s : State) (n : Nat) (f : Fold) : (setFold s n f).ports = s.ports := rfl
@[simp] theorem setFold_net (s : State) (n : Nat) (f : Fold) : (setFold s n f).net = s.net := rfl
@[simp] theorem setFold_stack (s : State) (n : Nat) (f : Fold) : (setFold s n f).stack = s.stack := rfl
@[simp] theorem setFold_hostPort (s : State) (n : Nat) (f : Fold) : (setFold s n f).hostPort = s.hostPort := rfl
@[simp] theorem setFold_tb (s : State) (n : Nat) (f : Fold) : (setFold s n f).tb = s.tb := rfl
@[simp] theorem setFold_faults (s : State) (n : Nat) (f : Fold) : (setFold s n f).faults = s.faults := rfl
@[simp] theorem setFold_gauges (s : State) (n : Nat) (f : Fold) : (setFold s n f).gauges = s.gauges := rfl
@[simp] theorem setFold_mbx (s : State) (n : Nat) (f : Fold) : (setFold s n f).mbx = s.mbx := rfl
@[simp] theorem setFold_kpage (s : State) (n : Nat) (f : Fold) : (setFold s n f).kpage = s.kpage := rfl
@[simp] theorem setFold_pond (s : State) (n : Nat) (f : Fold) : (setFold s n f).pond = s.pond := rfl
@[simp] theorem setFold_tarn (s : State) (n : Nat) (f : Fold) : (setFold s n f).tarn = s.tarn := rfl
@[simp] theorem setFold_far (s : State) (n : Nat) (f : Fold) : (setFold s n f).far = s.far := rfl
@[simp] theorem setFold_host (s : State) (n : Nat) (f : Fold) : (setFold s n f).host = s.host := rfl
@[simp] theorem setFold_poison (s : State) (n : Nat) (f : Fold) : (setFold s n f).poison = s.poison := rfl
@[simp] theorem setFold_free (s : State) (n : Nat) (f : Fold) : (setFold s n f).free = s.free := rfl
@[simp] theorem setFold_pending (s : State) (n : Nat) (f : Fold) : (setFold s n f).pending = s.pending := rfl

theorem foldAt_setFold_self (s : State) (n : Nat) (f : Fold) (h : Tab.wf Fold.reset s.folds = true) : foldAt (setFold s n f) n = f :=
  Tab.get_set_self _ _ _ h
theorem foldAt_setFold_ne (s : State) {k n : Nat} (f : Fold) (h : n ≠ k) : foldAt (setFold s n f) k = foldAt s k :=
  Tab.get_set_ne _ _ _ h

/-! ### setCtx -/

@[simp] theorem setCtx_boot (s : State) (n : Nat) (f : Ctx) : (setCtx s n f).boot = s.boot := rfl
@[simp] theorem setCtx_fuse (s : State) (n : Nat) (f : Ctx) : (setCtx s n f).fuse = s.fuse := rfl
@[simp] theorem setCtx_ident (s : State) (n : Nat) (f : Ctx) : (setCtx s n f).ident = s.ident := rfl
@[simp] theorem setCtx_spdm (s : State) (n : Nat) (f : Ctx) : (setCtx s n f).spdm = s.spdm := rfl
@[simp] theorem setCtx_mgmt (s : State) (n : Nat) (f : Ctx) : (setCtx s n f).mgmt = s.mgmt := rfl
@[simp] theorem setCtx_dbg (s : State) (n : Nat) (f : Ctx) : (setCtx s n f).dbg = s.dbg := rfl
@[simp] theorem setCtx_lmap (s : State) (n : Nat) (f : Ctx) : (setCtx s n f).lmap = s.lmap := rfl
@[simp] theorem setCtx_power (s : State) (n : Nat) (f : Ctx) : (setCtx s n f).power = s.power := rfl
@[simp] theorem setCtx_pins (s : State) (n : Nat) (f : Ctx) : (setCtx s n f).pins = s.pins := rfl
@[simp] theorem setCtx_plant (s : State) (n : Nat) (f : Ctx) : (setCtx s n f).plant = s.plant := rfl
@[simp] theorem setCtx_xlate (s : State) (n : Nat) (f : Ctx) : (setCtx s n f).xlate = s.xlate := rfl
@[simp] theorem setCtx_weirG (s : State) (n : Nat) (f : Ctx) : (setCtx s n f).weirG = s.weirG := rfl
@[simp] theorem setCtx_folds (s : State) (n : Nat) (f : Ctx) : (setCtx s n f).folds = s.folds := rfl
@[simp] theorem setCtx_ctxs (s : State) (n : Nat) (f : Ctx) : (setCtx s n f).ctxs = Tab.set Ctx.reset s.ctxs n f := rfl
@[simp] theorem setCtx_hqis (s : State) (n : Nat) (f : Ctx) : (setCtx s n f).hqis = s.hqis := rfl
@[simp] theorem setCtx_queues (s : State) (n : Nat) (f : Ctx) : (setCtx s n f).queues = s.queues := rfl
@[simp] theorem setCtx_sems (s : State) (n : Nat) (f : Ctx) : (setCtx s n f).sems = s.sems := rfl
@[simp] theorem setCtx_cmds (s : State) (n : Nat) (f : Ctx) : (setCtx s n f).cmds = s.cmds := rfl
@[simp] theorem setCtx_nextUid (s : State) (n : Nat) (f : Ctx) : (setCtx s n f).nextUid = s.nextUid := rfl
@[simp] theorem setCtx_journal (s : State) (n : Nat) (f : Ctx) : (setCtx s n f).journal = s.journal := rfl
@[simp] theorem setCtx_engines (s : State) (n : Nat) (f : Ctx) : (setCtx s n f).engines = s.engines := rfl
@[simp] theorem setCtx_halves (s : State) (n : Nat) (f : Ctx) : (setCtx s n f).halves = s.halves := rfl
@[simp] theorem setCtx_herd (s : State) (n : Nat) (f : Ctx) : (setCtx s n f).herd = s.herd := rfl
@[simp] theorem setCtx_graze (s : State) (n : Nat) (f : Ctx) : (setCtx s n f).graze = s.graze := rfl
@[simp] theorem setCtx_flock (s : State) (n : Nat) (f : Ctx) : (setCtx s n f).flock = s.flock := rfl
@[simp] theorem setCtx_twin (s : State) (n : Nat) (f : Ctx) : (setCtx s n f).twin = s.twin := rfl
@[simp] theorem setCtx_resvG (s : State) (n : Nat) (f : Ctx) : (setCtx s n f).resvG = s.resvG := rfl
@[simp] theorem setCtx_ports (s : State) (n : Nat) (f : Ctx) : (setCtx s n f).ports = s.ports := rfl
@[simp] theorem setCtx_net (s : State) (n : Nat) (f : Ctx) : (setCtx s n f).net = s.net := rfl
@[simp] theorem setCtx_stack (s : State) (n : Nat) (f : Ctx) : (setCtx s n f).stack = s.stack := rfl
@[simp] theorem setCtx_hostPort (s : State) (n : Nat) (f : Ctx) : (setCtx s n f).hostPort = s.hostPort := rfl
@[simp] theorem setCtx_tb (s : State) (n : Nat) (f : Ctx) : (setCtx s n f).tb = s.tb := rfl
@[simp] theorem setCtx_faults (s : State) (n : Nat) (f : Ctx) : (setCtx s n f).faults = s.faults := rfl
@[simp] theorem setCtx_gauges (s : State) (n : Nat) (f : Ctx) : (setCtx s n f).gauges = s.gauges := rfl
@[simp] theorem setCtx_mbx (s : State) (n : Nat) (f : Ctx) : (setCtx s n f).mbx = s.mbx := rfl
@[simp] theorem setCtx_kpage (s : State) (n : Nat) (f : Ctx) : (setCtx s n f).kpage = s.kpage := rfl
@[simp] theorem setCtx_pond (s : State) (n : Nat) (f : Ctx) : (setCtx s n f).pond = s.pond := rfl
@[simp] theorem setCtx_tarn (s : State) (n : Nat) (f : Ctx) : (setCtx s n f).tarn = s.tarn := rfl
@[simp] theorem setCtx_far (s : State) (n : Nat) (f : Ctx) : (setCtx s n f).far = s.far := rfl
@[simp] theorem setCtx_host (s : State) (n : Nat) (f : Ctx) : (setCtx s n f).host = s.host := rfl
@[simp] theorem setCtx_poison (s : State) (n : Nat) (f : Ctx) : (setCtx s n f).poison = s.poison := rfl
@[simp] theorem setCtx_free (s : State) (n : Nat) (f : Ctx) : (setCtx s n f).free = s.free := rfl
@[simp] theorem setCtx_pending (s : State) (n : Nat) (f : Ctx) : (setCtx s n f).pending = s.pending := rfl

theorem ctxAt_setCtx_self (s : State) (n : Nat) (f : Ctx) (h : Tab.wf Ctx.reset s.ctxs = true) : ctxAt (setCtx s n f) n = f :=
  Tab.get_set_self _ _ _ h
theorem ctxAt_setCtx_ne (s : State) {k n : Nat} (f : Ctx) (h : n ≠ k) : ctxAt (setCtx s n f) k = ctxAt s k :=
  Tab.get_set_ne _ _ _ h

/-! ### setHqi -/

@[simp] theorem setHqi_boot (s : State) (n : Nat) (f : Hqi) : (setHqi s n f).boot = s.boot := rfl
@[simp] theorem setHqi_fuse (s : State) (n : Nat) (f : Hqi) : (setHqi s n f).fuse = s.fuse := rfl
@[simp] theorem setHqi_ident (s : State) (n : Nat) (f : Hqi) : (setHqi s n f).ident = s.ident := rfl
@[simp] theorem setHqi_spdm (s : State) (n : Nat) (f : Hqi) : (setHqi s n f).spdm = s.spdm := rfl
@[simp] theorem setHqi_mgmt (s : State) (n : Nat) (f : Hqi) : (setHqi s n f).mgmt = s.mgmt := rfl
@[simp] theorem setHqi_dbg (s : State) (n : Nat) (f : Hqi) : (setHqi s n f).dbg = s.dbg := rfl
@[simp] theorem setHqi_lmap (s : State) (n : Nat) (f : Hqi) : (setHqi s n f).lmap = s.lmap := rfl
@[simp] theorem setHqi_power (s : State) (n : Nat) (f : Hqi) : (setHqi s n f).power = s.power := rfl
@[simp] theorem setHqi_pins (s : State) (n : Nat) (f : Hqi) : (setHqi s n f).pins = s.pins := rfl
@[simp] theorem setHqi_plant (s : State) (n : Nat) (f : Hqi) : (setHqi s n f).plant = s.plant := rfl
@[simp] theorem setHqi_xlate (s : State) (n : Nat) (f : Hqi) : (setHqi s n f).xlate = s.xlate := rfl
@[simp] theorem setHqi_weirG (s : State) (n : Nat) (f : Hqi) : (setHqi s n f).weirG = s.weirG := rfl
@[simp] theorem setHqi_folds (s : State) (n : Nat) (f : Hqi) : (setHqi s n f).folds = s.folds := rfl
@[simp] theorem setHqi_ctxs (s : State) (n : Nat) (f : Hqi) : (setHqi s n f).ctxs = s.ctxs := rfl
@[simp] theorem setHqi_hqis (s : State) (n : Nat) (f : Hqi) : (setHqi s n f).hqis = Tab.set Hqi.reset s.hqis n f := rfl
@[simp] theorem setHqi_queues (s : State) (n : Nat) (f : Hqi) : (setHqi s n f).queues = s.queues := rfl
@[simp] theorem setHqi_sems (s : State) (n : Nat) (f : Hqi) : (setHqi s n f).sems = s.sems := rfl
@[simp] theorem setHqi_cmds (s : State) (n : Nat) (f : Hqi) : (setHqi s n f).cmds = s.cmds := rfl
@[simp] theorem setHqi_nextUid (s : State) (n : Nat) (f : Hqi) : (setHqi s n f).nextUid = s.nextUid := rfl
@[simp] theorem setHqi_journal (s : State) (n : Nat) (f : Hqi) : (setHqi s n f).journal = s.journal := rfl
@[simp] theorem setHqi_engines (s : State) (n : Nat) (f : Hqi) : (setHqi s n f).engines = s.engines := rfl
@[simp] theorem setHqi_halves (s : State) (n : Nat) (f : Hqi) : (setHqi s n f).halves = s.halves := rfl
@[simp] theorem setHqi_herd (s : State) (n : Nat) (f : Hqi) : (setHqi s n f).herd = s.herd := rfl
@[simp] theorem setHqi_graze (s : State) (n : Nat) (f : Hqi) : (setHqi s n f).graze = s.graze := rfl
@[simp] theorem setHqi_flock (s : State) (n : Nat) (f : Hqi) : (setHqi s n f).flock = s.flock := rfl
@[simp] theorem setHqi_twin (s : State) (n : Nat) (f : Hqi) : (setHqi s n f).twin = s.twin := rfl
@[simp] theorem setHqi_resvG (s : State) (n : Nat) (f : Hqi) : (setHqi s n f).resvG = s.resvG := rfl
@[simp] theorem setHqi_ports (s : State) (n : Nat) (f : Hqi) : (setHqi s n f).ports = s.ports := rfl
@[simp] theorem setHqi_net (s : State) (n : Nat) (f : Hqi) : (setHqi s n f).net = s.net := rfl
@[simp] theorem setHqi_stack (s : State) (n : Nat) (f : Hqi) : (setHqi s n f).stack = s.stack := rfl
@[simp] theorem setHqi_hostPort (s : State) (n : Nat) (f : Hqi) : (setHqi s n f).hostPort = s.hostPort := rfl
@[simp] theorem setHqi_tb (s : State) (n : Nat) (f : Hqi) : (setHqi s n f).tb = s.tb := rfl
@[simp] theorem setHqi_faults (s : State) (n : Nat) (f : Hqi) : (setHqi s n f).faults = s.faults := rfl
@[simp] theorem setHqi_gauges (s : State) (n : Nat) (f : Hqi) : (setHqi s n f).gauges = s.gauges := rfl
@[simp] theorem setHqi_mbx (s : State) (n : Nat) (f : Hqi) : (setHqi s n f).mbx = s.mbx := rfl
@[simp] theorem setHqi_kpage (s : State) (n : Nat) (f : Hqi) : (setHqi s n f).kpage = s.kpage := rfl
@[simp] theorem setHqi_pond (s : State) (n : Nat) (f : Hqi) : (setHqi s n f).pond = s.pond := rfl
@[simp] theorem setHqi_tarn (s : State) (n : Nat) (f : Hqi) : (setHqi s n f).tarn = s.tarn := rfl
@[simp] theorem setHqi_far (s : State) (n : Nat) (f : Hqi) : (setHqi s n f).far = s.far := rfl
@[simp] theorem setHqi_host (s : State) (n : Nat) (f : Hqi) : (setHqi s n f).host = s.host := rfl
@[simp] theorem setHqi_poison (s : State) (n : Nat) (f : Hqi) : (setHqi s n f).poison = s.poison := rfl
@[simp] theorem setHqi_free (s : State) (n : Nat) (f : Hqi) : (setHqi s n f).free = s.free := rfl
@[simp] theorem setHqi_pending (s : State) (n : Nat) (f : Hqi) : (setHqi s n f).pending = s.pending := rfl

theorem hqiAt_setHqi_self (s : State) (n : Nat) (f : Hqi) (h : Tab.wf Hqi.reset s.hqis = true) : hqiAt (setHqi s n f) n = f :=
  Tab.get_set_self _ _ _ h
theorem hqiAt_setHqi_ne (s : State) {k n : Nat} (f : Hqi) (h : n ≠ k) : hqiAt (setHqi s n f) k = hqiAt s k :=
  Tab.get_set_ne _ _ _ h

/-! ### setQueue -/

@[simp] theorem setQueue_boot (s : State) (n : Nat) (f : Queue) : (setQueue s n f).boot = s.boot := rfl
@[simp] theorem setQueue_fuse (s : State) (n : Nat) (f : Queue) : (setQueue s n f).fuse = s.fuse := rfl
@[simp] theorem setQueue_ident (s : State) (n : Nat) (f : Queue) : (setQueue s n f).ident = s.ident := rfl
@[simp] theorem setQueue_spdm (s : State) (n : Nat) (f : Queue) : (setQueue s n f).spdm = s.spdm := rfl
@[simp] theorem setQueue_mgmt (s : State) (n : Nat) (f : Queue) : (setQueue s n f).mgmt = s.mgmt := rfl
@[simp] theorem setQueue_dbg (s : State) (n : Nat) (f : Queue) : (setQueue s n f).dbg = s.dbg := rfl
@[simp] theorem setQueue_lmap (s : State) (n : Nat) (f : Queue) : (setQueue s n f).lmap = s.lmap := rfl
@[simp] theorem setQueue_power (s : State) (n : Nat) (f : Queue) : (setQueue s n f).power = s.power := rfl
@[simp] theorem setQueue_pins (s : State) (n : Nat) (f : Queue) : (setQueue s n f).pins = s.pins := rfl
@[simp] theorem setQueue_plant (s : State) (n : Nat) (f : Queue) : (setQueue s n f).plant = s.plant := rfl
@[simp] theorem setQueue_xlate (s : State) (n : Nat) (f : Queue) : (setQueue s n f).xlate = s.xlate := rfl
@[simp] theorem setQueue_weirG (s : State) (n : Nat) (f : Queue) : (setQueue s n f).weirG = s.weirG := rfl
@[simp] theorem setQueue_folds (s : State) (n : Nat) (f : Queue) : (setQueue s n f).folds = s.folds := rfl
@[simp] theorem setQueue_ctxs (s : State) (n : Nat) (f : Queue) : (setQueue s n f).ctxs = s.ctxs := rfl
@[simp] theorem setQueue_hqis (s : State) (n : Nat) (f : Queue) : (setQueue s n f).hqis = s.hqis := rfl
@[simp] theorem setQueue_queues (s : State) (n : Nat) (f : Queue) : (setQueue s n f).queues = Tab.set Queue.reset s.queues n f := rfl
@[simp] theorem setQueue_sems (s : State) (n : Nat) (f : Queue) : (setQueue s n f).sems = s.sems := rfl
@[simp] theorem setQueue_cmds (s : State) (n : Nat) (f : Queue) : (setQueue s n f).cmds = s.cmds := rfl
@[simp] theorem setQueue_nextUid (s : State) (n : Nat) (f : Queue) : (setQueue s n f).nextUid = s.nextUid := rfl
@[simp] theorem setQueue_journal (s : State) (n : Nat) (f : Queue) : (setQueue s n f).journal = s.journal := rfl
@[simp] theorem setQueue_engines (s : State) (n : Nat) (f : Queue) : (setQueue s n f).engines = s.engines := rfl
@[simp] theorem setQueue_halves (s : State) (n : Nat) (f : Queue) : (setQueue s n f).halves = s.halves := rfl
@[simp] theorem setQueue_herd (s : State) (n : Nat) (f : Queue) : (setQueue s n f).herd = s.herd := rfl
@[simp] theorem setQueue_graze (s : State) (n : Nat) (f : Queue) : (setQueue s n f).graze = s.graze := rfl
@[simp] theorem setQueue_flock (s : State) (n : Nat) (f : Queue) : (setQueue s n f).flock = s.flock := rfl
@[simp] theorem setQueue_twin (s : State) (n : Nat) (f : Queue) : (setQueue s n f).twin = s.twin := rfl
@[simp] theorem setQueue_resvG (s : State) (n : Nat) (f : Queue) : (setQueue s n f).resvG = s.resvG := rfl
@[simp] theorem setQueue_ports (s : State) (n : Nat) (f : Queue) : (setQueue s n f).ports = s.ports := rfl
@[simp] theorem setQueue_net (s : State) (n : Nat) (f : Queue) : (setQueue s n f).net = s.net := rfl
@[simp] theorem setQueue_stack (s : State) (n : Nat) (f : Queue) : (setQueue s n f).stack = s.stack := rfl
@[simp] theorem setQueue_hostPort (s : State) (n : Nat) (f : Queue) : (setQueue s n f).hostPort = s.hostPort := rfl
@[simp] theorem setQueue_tb (s : State) (n : Nat) (f : Queue) : (setQueue s n f).tb = s.tb := rfl
@[simp] theorem setQueue_faults (s : State) (n : Nat) (f : Queue) : (setQueue s n f).faults = s.faults := rfl
@[simp] theorem setQueue_gauges (s : State) (n : Nat) (f : Queue) : (setQueue s n f).gauges = s.gauges := rfl
@[simp] theorem setQueue_mbx (s : State) (n : Nat) (f : Queue) : (setQueue s n f).mbx = s.mbx := rfl
@[simp] theorem setQueue_kpage (s : State) (n : Nat) (f : Queue) : (setQueue s n f).kpage = s.kpage := rfl
@[simp] theorem setQueue_pond (s : State) (n : Nat) (f : Queue) : (setQueue s n f).pond = s.pond := rfl
@[simp] theorem setQueue_tarn (s : State) (n : Nat) (f : Queue) : (setQueue s n f).tarn = s.tarn := rfl
@[simp] theorem setQueue_far (s : State) (n : Nat) (f : Queue) : (setQueue s n f).far = s.far := rfl
@[simp] theorem setQueue_host (s : State) (n : Nat) (f : Queue) : (setQueue s n f).host = s.host := rfl
@[simp] theorem setQueue_poison (s : State) (n : Nat) (f : Queue) : (setQueue s n f).poison = s.poison := rfl
@[simp] theorem setQueue_free (s : State) (n : Nat) (f : Queue) : (setQueue s n f).free = s.free := rfl
@[simp] theorem setQueue_pending (s : State) (n : Nat) (f : Queue) : (setQueue s n f).pending = s.pending := rfl

theorem queueAt_setQueue_self (s : State) (n : Nat) (f : Queue) (h : Tab.wf Queue.reset s.queues = true) : queueAt (setQueue s n f) n = f :=
  Tab.get_set_self _ _ _ h
theorem queueAt_setQueue_ne (s : State) {k n : Nat} (f : Queue) (h : n ≠ k) : queueAt (setQueue s n f) k = queueAt s k :=
  Tab.get_set_ne _ _ _ h

/-! ### setSem -/

@[simp] theorem setSem_boot (s : State) (n : Nat) (f : Sem) : (setSem s n f).boot = s.boot := rfl
@[simp] theorem setSem_fuse (s : State) (n : Nat) (f : Sem) : (setSem s n f).fuse = s.fuse := rfl
@[simp] theorem setSem_ident (s : State) (n : Nat) (f : Sem) : (setSem s n f).ident = s.ident := rfl
@[simp] theorem setSem_spdm (s : State) (n : Nat) (f : Sem) : (setSem s n f).spdm = s.spdm := rfl
@[simp] theorem setSem_mgmt (s : State) (n : Nat) (f : Sem) : (setSem s n f).mgmt = s.mgmt := rfl
@[simp] theorem setSem_dbg (s : State) (n : Nat) (f : Sem) : (setSem s n f).dbg = s.dbg := rfl
@[simp] theorem setSem_lmap (s : State) (n : Nat) (f : Sem) : (setSem s n f).lmap = s.lmap := rfl
@[simp] theorem setSem_power (s : State) (n : Nat) (f : Sem) : (setSem s n f).power = s.power := rfl
@[simp] theorem setSem_pins (s : State) (n : Nat) (f : Sem) : (setSem s n f).pins = s.pins := rfl
@[simp] theorem setSem_plant (s : State) (n : Nat) (f : Sem) : (setSem s n f).plant = s.plant := rfl
@[simp] theorem setSem_xlate (s : State) (n : Nat) (f : Sem) : (setSem s n f).xlate = s.xlate := rfl
@[simp] theorem setSem_weirG (s : State) (n : Nat) (f : Sem) : (setSem s n f).weirG = s.weirG := rfl
@[simp] theorem setSem_folds (s : State) (n : Nat) (f : Sem) : (setSem s n f).folds = s.folds := rfl
@[simp] theorem setSem_ctxs (s : State) (n : Nat) (f : Sem) : (setSem s n f).ctxs = s.ctxs := rfl
@[simp] theorem setSem_hqis (s : State) (n : Nat) (f : Sem) : (setSem s n f).hqis = s.hqis := rfl
@[simp] theorem setSem_queues (s : State) (n : Nat) (f : Sem) : (setSem s n f).queues = s.queues := rfl
@[simp] theorem setSem_sems (s : State) (n : Nat) (f : Sem) : (setSem s n f).sems = Tab.set Sem.reset s.sems n f := rfl
@[simp] theorem setSem_cmds (s : State) (n : Nat) (f : Sem) : (setSem s n f).cmds = s.cmds := rfl
@[simp] theorem setSem_nextUid (s : State) (n : Nat) (f : Sem) : (setSem s n f).nextUid = s.nextUid := rfl
@[simp] theorem setSem_journal (s : State) (n : Nat) (f : Sem) : (setSem s n f).journal = s.journal := rfl
@[simp] theorem setSem_engines (s : State) (n : Nat) (f : Sem) : (setSem s n f).engines = s.engines := rfl
@[simp] theorem setSem_halves (s : State) (n : Nat) (f : Sem) : (setSem s n f).halves = s.halves := rfl
@[simp] theorem setSem_herd (s : State) (n : Nat) (f : Sem) : (setSem s n f).herd = s.herd := rfl
@[simp] theorem setSem_graze (s : State) (n : Nat) (f : Sem) : (setSem s n f).graze = s.graze := rfl
@[simp] theorem setSem_flock (s : State) (n : Nat) (f : Sem) : (setSem s n f).flock = s.flock := rfl
@[simp] theorem setSem_twin (s : State) (n : Nat) (f : Sem) : (setSem s n f).twin = s.twin := rfl
@[simp] theorem setSem_resvG (s : State) (n : Nat) (f : Sem) : (setSem s n f).resvG = s.resvG := rfl
@[simp] theorem setSem_ports (s : State) (n : Nat) (f : Sem) : (setSem s n f).ports = s.ports := rfl
@[simp] theorem setSem_net (s : State) (n : Nat) (f : Sem) : (setSem s n f).net = s.net := rfl
@[simp] theorem setSem_stack (s : State) (n : Nat) (f : Sem) : (setSem s n f).stack = s.stack := rfl
@[simp] theorem setSem_hostPort (s : State) (n : Nat) (f : Sem) : (setSem s n f).hostPort = s.hostPort := rfl
@[simp] theorem setSem_tb (s : State) (n : Nat) (f : Sem) : (setSem s n f).tb = s.tb := rfl
@[simp] theorem setSem_faults (s : State) (n : Nat) (f : Sem) : (setSem s n f).faults = s.faults := rfl
@[simp] theorem setSem_gauges (s : State) (n : Nat) (f : Sem) : (setSem s n f).gauges = s.gauges := rfl
@[simp] theorem setSem_mbx (s : State) (n : Nat) (f : Sem) : (setSem s n f).mbx = s.mbx := rfl
@[simp] theorem setSem_kpage (s : State) (n : Nat) (f : Sem) : (setSem s n f).kpage = s.kpage := rfl
@[simp] theorem setSem_pond (s : State) (n : Nat) (f : Sem) : (setSem s n f).pond = s.pond := rfl
@[simp] theorem setSem_tarn (s : State) (n : Nat) (f : Sem) : (setSem s n f).tarn = s.tarn := rfl
@[simp] theorem setSem_far (s : State) (n : Nat) (f : Sem) : (setSem s n f).far = s.far := rfl
@[simp] theorem setSem_host (s : State) (n : Nat) (f : Sem) : (setSem s n f).host = s.host := rfl
@[simp] theorem setSem_poison (s : State) (n : Nat) (f : Sem) : (setSem s n f).poison = s.poison := rfl
@[simp] theorem setSem_free (s : State) (n : Nat) (f : Sem) : (setSem s n f).free = s.free := rfl
@[simp] theorem setSem_pending (s : State) (n : Nat) (f : Sem) : (setSem s n f).pending = s.pending := rfl

theorem semAt_setSem_self (s : State) (n : Nat) (f : Sem) (h : Tab.wf Sem.reset s.sems = true) : semAt (setSem s n f) n = f :=
  Tab.get_set_self _ _ _ h
theorem semAt_setSem_ne (s : State) {k n : Nat} (f : Sem) (h : n ≠ k) : semAt (setSem s n f) k = semAt s k :=
  Tab.get_set_ne _ _ _ h

/-! ### setEngine -/

@[simp] theorem setEngine_boot (s : State) (n : Nat) (f : Engine) : (setEngine s n f).boot = s.boot := rfl
@[simp] theorem setEngine_fuse (s : State) (n : Nat) (f : Engine) : (setEngine s n f).fuse = s.fuse := rfl
@[simp] theorem setEngine_ident (s : State) (n : Nat) (f : Engine) : (setEngine s n f).ident = s.ident := rfl
@[simp] theorem setEngine_spdm (s : State) (n : Nat) (f : Engine) : (setEngine s n f).spdm = s.spdm := rfl
@[simp] theorem setEngine_mgmt (s : State) (n : Nat) (f : Engine) : (setEngine s n f).mgmt = s.mgmt := rfl
@[simp] theorem setEngine_dbg (s : State) (n : Nat) (f : Engine) : (setEngine s n f).dbg = s.dbg := rfl
@[simp] theorem setEngine_lmap (s : State) (n : Nat) (f : Engine) : (setEngine s n f).lmap = s.lmap := rfl
@[simp] theorem setEngine_power (s : State) (n : Nat) (f : Engine) : (setEngine s n f).power = s.power := rfl
@[simp] theorem setEngine_pins (s : State) (n : Nat) (f : Engine) : (setEngine s n f).pins = s.pins := rfl
@[simp] theorem setEngine_plant (s : State) (n : Nat) (f : Engine) : (setEngine s n f).plant = s.plant := rfl
@[simp] theorem setEngine_xlate (s : State) (n : Nat) (f : Engine) : (setEngine s n f).xlate = s.xlate := rfl
@[simp] theorem setEngine_weirG (s : State) (n : Nat) (f : Engine) : (setEngine s n f).weirG = s.weirG := rfl
@[simp] theorem setEngine_folds (s : State) (n : Nat) (f : Engine) : (setEngine s n f).folds = s.folds := rfl
@[simp] theorem setEngine_ctxs (s : State) (n : Nat) (f : Engine) : (setEngine s n f).ctxs = s.ctxs := rfl
@[simp] theorem setEngine_hqis (s : State) (n : Nat) (f : Engine) : (setEngine s n f).hqis = s.hqis := rfl
@[simp] theorem setEngine_queues (s : State) (n : Nat) (f : Engine) : (setEngine s n f).queues = s.queues := rfl
@[simp] theorem setEngine_sems (s : State) (n : Nat) (f : Engine) : (setEngine s n f).sems = s.sems := rfl
@[simp] theorem setEngine_cmds (s : State) (n : Nat) (f : Engine) : (setEngine s n f).cmds = s.cmds := rfl
@[simp] theorem setEngine_nextUid (s : State) (n : Nat) (f : Engine) : (setEngine s n f).nextUid = s.nextUid := rfl
@[simp] theorem setEngine_journal (s : State) (n : Nat) (f : Engine) : (setEngine s n f).journal = s.journal := rfl
@[simp] theorem setEngine_engines (s : State) (n : Nat) (f : Engine) : (setEngine s n f).engines = Tab.set Engine.reset s.engines n f := rfl
@[simp] theorem setEngine_halves (s : State) (n : Nat) (f : Engine) : (setEngine s n f).halves = s.halves := rfl
@[simp] theorem setEngine_herd (s : State) (n : Nat) (f : Engine) : (setEngine s n f).herd = s.herd := rfl
@[simp] theorem setEngine_graze (s : State) (n : Nat) (f : Engine) : (setEngine s n f).graze = s.graze := rfl
@[simp] theorem setEngine_flock (s : State) (n : Nat) (f : Engine) : (setEngine s n f).flock = s.flock := rfl
@[simp] theorem setEngine_twin (s : State) (n : Nat) (f : Engine) : (setEngine s n f).twin = s.twin := rfl
@[simp] theorem setEngine_resvG (s : State) (n : Nat) (f : Engine) : (setEngine s n f).resvG = s.resvG := rfl
@[simp] theorem setEngine_ports (s : State) (n : Nat) (f : Engine) : (setEngine s n f).ports = s.ports := rfl
@[simp] theorem setEngine_net (s : State) (n : Nat) (f : Engine) : (setEngine s n f).net = s.net := rfl
@[simp] theorem setEngine_stack (s : State) (n : Nat) (f : Engine) : (setEngine s n f).stack = s.stack := rfl
@[simp] theorem setEngine_hostPort (s : State) (n : Nat) (f : Engine) : (setEngine s n f).hostPort = s.hostPort := rfl
@[simp] theorem setEngine_tb (s : State) (n : Nat) (f : Engine) : (setEngine s n f).tb = s.tb := rfl
@[simp] theorem setEngine_faults (s : State) (n : Nat) (f : Engine) : (setEngine s n f).faults = s.faults := rfl
@[simp] theorem setEngine_gauges (s : State) (n : Nat) (f : Engine) : (setEngine s n f).gauges = s.gauges := rfl
@[simp] theorem setEngine_mbx (s : State) (n : Nat) (f : Engine) : (setEngine s n f).mbx = s.mbx := rfl
@[simp] theorem setEngine_kpage (s : State) (n : Nat) (f : Engine) : (setEngine s n f).kpage = s.kpage := rfl
@[simp] theorem setEngine_pond (s : State) (n : Nat) (f : Engine) : (setEngine s n f).pond = s.pond := rfl
@[simp] theorem setEngine_tarn (s : State) (n : Nat) (f : Engine) : (setEngine s n f).tarn = s.tarn := rfl
@[simp] theorem setEngine_far (s : State) (n : Nat) (f : Engine) : (setEngine s n f).far = s.far := rfl
@[simp] theorem setEngine_host (s : State) (n : Nat) (f : Engine) : (setEngine s n f).host = s.host := rfl
@[simp] theorem setEngine_poison (s : State) (n : Nat) (f : Engine) : (setEngine s n f).poison = s.poison := rfl
@[simp] theorem setEngine_free (s : State) (n : Nat) (f : Engine) : (setEngine s n f).free = s.free := rfl
@[simp] theorem setEngine_pending (s : State) (n : Nat) (f : Engine) : (setEngine s n f).pending = s.pending := rfl

theorem engineAt_setEngine_self (s : State) (n : Nat) (f : Engine) (h : Tab.wf Engine.reset s.engines = true) : engineAt (setEngine s n f) n = f :=
  Tab.get_set_self _ _ _ h
theorem engineAt_setEngine_ne (s : State) {k n : Nat} (f : Engine) (h : n ≠ k) : engineAt (setEngine s n f) k = engineAt s k :=
  Tab.get_set_ne _ _ _ h

/-! ### setHalf -/

@[simp] theorem setHalf_boot (s : State) (n : Nat) (f : Half) : (setHalf s n f).boot = s.boot := rfl
@[simp] theorem setHalf_fuse (s : State) (n : Nat) (f : Half) : (setHalf s n f).fuse = s.fuse := rfl
@[simp] theorem setHalf_ident (s : State) (n : Nat) (f : Half) : (setHalf s n f).ident = s.ident := rfl
@[simp] theorem setHalf_spdm (s : State) (n : Nat) (f : Half) : (setHalf s n f).spdm = s.spdm := rfl
@[simp] theorem setHalf_mgmt (s : State) (n : Nat) (f : Half) : (setHalf s n f).mgmt = s.mgmt := rfl
@[simp] theorem setHalf_dbg (s : State) (n : Nat) (f : Half) : (setHalf s n f).dbg = s.dbg := rfl
@[simp] theorem setHalf_lmap (s : State) (n : Nat) (f : Half) : (setHalf s n f).lmap = s.lmap := rfl
@[simp] theorem setHalf_power (s : State) (n : Nat) (f : Half) : (setHalf s n f).power = s.power := rfl
@[simp] theorem setHalf_pins (s : State) (n : Nat) (f : Half) : (setHalf s n f).pins = s.pins := rfl
@[simp] theorem setHalf_plant (s : State) (n : Nat) (f : Half) : (setHalf s n f).plant = s.plant := rfl
@[simp] theorem setHalf_xlate (s : State) (n : Nat) (f : Half) : (setHalf s n f).xlate = s.xlate := rfl
@[simp] theorem setHalf_weirG (s : State) (n : Nat) (f : Half) : (setHalf s n f).weirG = s.weirG := rfl
@[simp] theorem setHalf_folds (s : State) (n : Nat) (f : Half) : (setHalf s n f).folds = s.folds := rfl
@[simp] theorem setHalf_ctxs (s : State) (n : Nat) (f : Half) : (setHalf s n f).ctxs = s.ctxs := rfl
@[simp] theorem setHalf_hqis (s : State) (n : Nat) (f : Half) : (setHalf s n f).hqis = s.hqis := rfl
@[simp] theorem setHalf_queues (s : State) (n : Nat) (f : Half) : (setHalf s n f).queues = s.queues := rfl
@[simp] theorem setHalf_sems (s : State) (n : Nat) (f : Half) : (setHalf s n f).sems = s.sems := rfl
@[simp] theorem setHalf_cmds (s : State) (n : Nat) (f : Half) : (setHalf s n f).cmds = s.cmds := rfl
@[simp] theorem setHalf_nextUid (s : State) (n : Nat) (f : Half) : (setHalf s n f).nextUid = s.nextUid := rfl
@[simp] theorem setHalf_journal (s : State) (n : Nat) (f : Half) : (setHalf s n f).journal = s.journal := rfl
@[simp] theorem setHalf_engines (s : State) (n : Nat) (f : Half) : (setHalf s n f).engines = s.engines := rfl
@[simp] theorem setHalf_halves (s : State) (n : Nat) (f : Half) : (setHalf s n f).halves = Tab.set Half.reset s.halves n f := rfl
@[simp] theorem setHalf_herd (s : State) (n : Nat) (f : Half) : (setHalf s n f).herd = s.herd := rfl
@[simp] theorem setHalf_graze (s : State) (n : Nat) (f : Half) : (setHalf s n f).graze = s.graze := rfl
@[simp] theorem setHalf_flock (s : State) (n : Nat) (f : Half) : (setHalf s n f).flock = s.flock := rfl
@[simp] theorem setHalf_twin (s : State) (n : Nat) (f : Half) : (setHalf s n f).twin = s.twin := rfl
@[simp] theorem setHalf_resvG (s : State) (n : Nat) (f : Half) : (setHalf s n f).resvG = s.resvG := rfl
@[simp] theorem setHalf_ports (s : State) (n : Nat) (f : Half) : (setHalf s n f).ports = s.ports := rfl
@[simp] theorem setHalf_net (s : State) (n : Nat) (f : Half) : (setHalf s n f).net = s.net := rfl
@[simp] theorem setHalf_stack (s : State) (n : Nat) (f : Half) : (setHalf s n f).stack = s.stack := rfl
@[simp] theorem setHalf_hostPort (s : State) (n : Nat) (f : Half) : (setHalf s n f).hostPort = s.hostPort := rfl
@[simp] theorem setHalf_tb (s : State) (n : Nat) (f : Half) : (setHalf s n f).tb = s.tb := rfl
@[simp] theorem setHalf_faults (s : State) (n : Nat) (f : Half) : (setHalf s n f).faults = s.faults := rfl
@[simp] theorem setHalf_gauges (s : State) (n : Nat) (f : Half) : (setHalf s n f).gauges = s.gauges := rfl
@[simp] theorem setHalf_mbx (s : State) (n : Nat) (f : Half) : (setHalf s n f).mbx = s.mbx := rfl
@[simp] theorem setHalf_kpage (s : State) (n : Nat) (f : Half) : (setHalf s n f).kpage = s.kpage := rfl
@[simp] theorem setHalf_pond (s : State) (n : Nat) (f : Half) : (setHalf s n f).pond = s.pond := rfl
@[simp] theorem setHalf_tarn (s : State) (n : Nat) (f : Half) : (setHalf s n f).tarn = s.tarn := rfl
@[simp] theorem setHalf_far (s : State) (n : Nat) (f : Half) : (setHalf s n f).far = s.far := rfl
@[simp] theorem setHalf_host (s : State) (n : Nat) (f : Half) : (setHalf s n f).host = s.host := rfl
@[simp] theorem setHalf_poison (s : State) (n : Nat) (f : Half) : (setHalf s n f).poison = s.poison := rfl
@[simp] theorem setHalf_free (s : State) (n : Nat) (f : Half) : (setHalf s n f).free = s.free := rfl
@[simp] theorem setHalf_pending (s : State) (n : Nat) (f : Half) : (setHalf s n f).pending = s.pending := rfl

theorem halfAt_setHalf_self (s : State) (n : Nat) (f : Half) (h : Tab.wf Half.reset s.halves = true) : halfAt (setHalf s n f) n = f :=
  Tab.get_set_self _ _ _ h
theorem halfAt_setHalf_ne (s : State) {k n : Nat} (f : Half) (h : n ≠ k) : halfAt (setHalf s n f) k = halfAt s k :=
  Tab.get_set_ne _ _ _ h

/-! ### setPort -/

@[simp] theorem setPort_boot (s : State) (n : Nat) (f : Port) : (setPort s n f).boot = s.boot := rfl
@[simp] theorem setPort_fuse (s : State) (n : Nat) (f : Port) : (setPort s n f).fuse = s.fuse := rfl
@[simp] theorem setPort_ident (s : State) (n : Nat) (f : Port) : (setPort s n f).ident = s.ident := rfl
@[simp] theorem setPort_spdm (s : State) (n : Nat) (f : Port) : (setPort s n f).spdm = s.spdm := rfl
@[simp] theorem setPort_mgmt (s : State) (n : Nat) (f : Port) : (setPort s n f).mgmt = s.mgmt := rfl
@[simp] theorem setPort_dbg (s : State) (n : Nat) (f : Port) : (setPort s n f).dbg = s.dbg := rfl
@[simp] theorem setPort_lmap (s : State) (n : Nat) (f : Port) : (setPort s n f).lmap = s.lmap := rfl
@[simp] theorem setPort_power (s : State) (n : Nat) (f : Port) : (setPort s n f).power = s.power := rfl
@[simp] theorem setPort_pins (s : State) (n : Nat) (f : Port) : (setPort s n f).pins = s.pins := rfl
@[simp] theorem setPort_plant (s : State) (n : Nat) (f : Port) : (setPort s n f).plant = s.plant := rfl
@[simp] theorem setPort_xlate (s : State) (n : Nat) (f : Port) : (setPort s n f).xlate = s.xlate := rfl
@[simp] theorem setPort_weirG (s : State) (n : Nat) (f : Port) : (setPort s n f).weirG = s.weirG := rfl
@[simp] theorem setPort_folds (s : State) (n : Nat) (f : Port) : (setPort s n f).folds = s.folds := rfl
@[simp] theorem setPort_ctxs (s : State) (n : Nat) (f : Port) : (setPort s n f).ctxs = s.ctxs := rfl
@[simp] theorem setPort_hqis (s : State) (n : Nat) (f : Port) : (setPort s n f).hqis = s.hqis := rfl
@[simp] theorem setPort_queues (s : State) (n : Nat) (f : Port) : (setPort s n f).queues = s.queues := rfl
@[simp] theorem setPort_sems (s : State) (n : Nat) (f : Port) : (setPort s n f).sems = s.sems := rfl
@[simp] theorem setPort_cmds (s : State) (n : Nat) (f : Port) : (setPort s n f).cmds = s.cmds := rfl
@[simp] theorem setPort_nextUid (s : State) (n : Nat) (f : Port) : (setPort s n f).nextUid = s.nextUid := rfl
@[simp] theorem setPort_journal (s : State) (n : Nat) (f : Port) : (setPort s n f).journal = s.journal := rfl
@[simp] theorem setPort_engines (s : State) (n : Nat) (f : Port) : (setPort s n f).engines = s.engines := rfl
@[simp] theorem setPort_halves (s : State) (n : Nat) (f : Port) : (setPort s n f).halves = s.halves := rfl
@[simp] theorem setPort_herd (s : State) (n : Nat) (f : Port) : (setPort s n f).herd = s.herd := rfl
@[simp] theorem setPort_graze (s : State) (n : Nat) (f : Port) : (setPort s n f).graze = s.graze := rfl
@[simp] theorem setPort_flock (s : State) (n : Nat) (f : Port) : (setPort s n f).flock = s.flock := rfl
@[simp] theorem setPort_twin (s : State) (n : Nat) (f : Port) : (setPort s n f).twin = s.twin := rfl
@[simp] theorem setPort_resvG (s : State) (n : Nat) (f : Port) : (setPort s n f).resvG = s.resvG := rfl
@[simp] theorem setPort_ports (s : State) (n : Nat) (f : Port) : (setPort s n f).ports = Tab.set Port.reset s.ports n f := rfl
@[simp] theorem setPort_net (s : State) (n : Nat) (f : Port) : (setPort s n f).net = s.net := rfl
@[simp] theorem setPort_stack (s : State) (n : Nat) (f : Port) : (setPort s n f).stack = s.stack := rfl
@[simp] theorem setPort_hostPort (s : State) (n : Nat) (f : Port) : (setPort s n f).hostPort = s.hostPort := rfl
@[simp] theorem setPort_tb (s : State) (n : Nat) (f : Port) : (setPort s n f).tb = s.tb := rfl
@[simp] theorem setPort_faults (s : State) (n : Nat) (f : Port) : (setPort s n f).faults = s.faults := rfl
@[simp] theorem setPort_gauges (s : State) (n : Nat) (f : Port) : (setPort s n f).gauges = s.gauges := rfl
@[simp] theorem setPort_mbx (s : State) (n : Nat) (f : Port) : (setPort s n f).mbx = s.mbx := rfl
@[simp] theorem setPort_kpage (s : State) (n : Nat) (f : Port) : (setPort s n f).kpage = s.kpage := rfl
@[simp] theorem setPort_pond (s : State) (n : Nat) (f : Port) : (setPort s n f).pond = s.pond := rfl
@[simp] theorem setPort_tarn (s : State) (n : Nat) (f : Port) : (setPort s n f).tarn = s.tarn := rfl
@[simp] theorem setPort_far (s : State) (n : Nat) (f : Port) : (setPort s n f).far = s.far := rfl
@[simp] theorem setPort_host (s : State) (n : Nat) (f : Port) : (setPort s n f).host = s.host := rfl
@[simp] theorem setPort_poison (s : State) (n : Nat) (f : Port) : (setPort s n f).poison = s.poison := rfl
@[simp] theorem setPort_free (s : State) (n : Nat) (f : Port) : (setPort s n f).free = s.free := rfl
@[simp] theorem setPort_pending (s : State) (n : Nat) (f : Port) : (setPort s n f).pending = s.pending := rfl

theorem portAt_setPort_self (s : State) (n : Nat) (f : Port) (h : Tab.wf Port.reset s.ports = true) : portAt (setPort s n f) n = f :=
  Tab.get_set_self _ _ _ h
theorem portAt_setPort_ne (s : State) {k n : Nat} (f : Port) (h : n ≠ k) : portAt (setPort s n f) k = portAt s k :=
  Tab.get_set_ne _ _ _ h

/-! ### modCmd, dropCmd, setGang, setGroup, drawBits -/

@[simp] theorem modCmd_boot (s : State) (u : Nat) (g : Cmd → Cmd) : (modCmd s u g).boot = s.boot := rfl
@[simp] theorem dropCmd_boot (s : State) (u : Nat) : (dropCmd s u).boot = s.boot := rfl
@[simp] theorem setGang_boot (x : Gang) (s : State) : (setGang x s).boot = s.boot := rfl
@[simp] theorem setGroup_boot (t : GroupRef) (g : Group) (s : State) : (setGroup t g s).boot = s.boot := by
  unfold setGroup; split <;> rfl
@[simp] theorem modCmd_fuse (s : State) (u : Nat) (g : Cmd → Cmd) : (modCmd s u g).fuse = s.fuse := rfl
@[simp] theorem dropCmd_fuse (s : State) (u : Nat) : (dropCmd s u).fuse = s.fuse := rfl
@[simp] theorem setGang_fuse (x : Gang) (s : State) : (setGang x s).fuse = s.fuse := rfl
@[simp] theorem setGroup_fuse (t : GroupRef) (g : Group) (s : State) : (setGroup t g s).fuse = s.fuse := by
  unfold setGroup; split <;> rfl
@[simp] theorem modCmd_ident (s : State) (u : Nat) (g : Cmd → Cmd) : (modCmd s u g).ident = s.ident := rfl
@[simp] theorem dropCmd_ident (s : State) (u : Nat) : (dropCmd s u).ident = s.ident := rfl
@[simp] theorem setGang_ident (x : Gang) (s : State) : (setGang x s).ident = s.ident := rfl
@[simp] theorem setGroup_ident (t : GroupRef) (g : Group) (s : State) : (setGroup t g s).ident = s.ident := by
  unfold setGroup; split <;> rfl
@[simp] theorem modCmd_spdm (s : State) (u : Nat) (g : Cmd → Cmd) : (modCmd s u g).spdm = s.spdm := rfl
@[simp] theorem dropCmd_spdm (s : State) (u : Nat) : (dropCmd s u).spdm = s.spdm := rfl
@[simp] theorem setGang_spdm (x : Gang) (s : State) : (setGang x s).spdm = s.spdm := rfl
@[simp] theorem setGroup_spdm (t : GroupRef) (g : Group) (s : State) : (setGroup t g s).spdm = s.spdm := by
  unfold setGroup; split <;> rfl
@[simp] theorem modCmd_mgmt (s : State) (u : Nat) (g : Cmd → Cmd) : (modCmd s u g).mgmt = s.mgmt := rfl
@[simp] theorem dropCmd_mgmt (s : State) (u : Nat) : (dropCmd s u).mgmt = s.mgmt := rfl
@[simp] theorem setGang_mgmt (x : Gang) (s : State) : (setGang x s).mgmt = s.mgmt := rfl
@[simp] theorem setGroup_mgmt (t : GroupRef) (g : Group) (s : State) : (setGroup t g s).mgmt = s.mgmt := by
  unfold setGroup; split <;> rfl
@[simp] theorem modCmd_dbg (s : State) (u : Nat) (g : Cmd → Cmd) : (modCmd s u g).dbg = s.dbg := rfl
@[simp] theorem dropCmd_dbg (s : State) (u : Nat) : (dropCmd s u).dbg = s.dbg := rfl
@[simp] theorem setGang_dbg (x : Gang) (s : State) : (setGang x s).dbg = s.dbg := rfl
@[simp] theorem setGroup_dbg (t : GroupRef) (g : Group) (s : State) : (setGroup t g s).dbg = s.dbg := by
  unfold setGroup; split <;> rfl
@[simp] theorem modCmd_lmap (s : State) (u : Nat) (g : Cmd → Cmd) : (modCmd s u g).lmap = s.lmap := rfl
@[simp] theorem dropCmd_lmap (s : State) (u : Nat) : (dropCmd s u).lmap = s.lmap := rfl
@[simp] theorem setGang_lmap (x : Gang) (s : State) : (setGang x s).lmap = s.lmap := rfl
@[simp] theorem setGroup_lmap (t : GroupRef) (g : Group) (s : State) : (setGroup t g s).lmap = s.lmap := by
  unfold setGroup; split <;> rfl
@[simp] theorem modCmd_power (s : State) (u : Nat) (g : Cmd → Cmd) : (modCmd s u g).power = s.power := rfl
@[simp] theorem dropCmd_power (s : State) (u : Nat) : (dropCmd s u).power = s.power := rfl
@[simp] theorem setGang_power (x : Gang) (s : State) : (setGang x s).power = s.power := rfl
@[simp] theorem setGroup_power (t : GroupRef) (g : Group) (s : State) : (setGroup t g s).power = s.power := by
  unfold setGroup; split <;> rfl
@[simp] theorem modCmd_pins (s : State) (u : Nat) (g : Cmd → Cmd) : (modCmd s u g).pins = s.pins := rfl
@[simp] theorem dropCmd_pins (s : State) (u : Nat) : (dropCmd s u).pins = s.pins := rfl
@[simp] theorem setGang_pins (x : Gang) (s : State) : (setGang x s).pins = s.pins := rfl
@[simp] theorem setGroup_pins (t : GroupRef) (g : Group) (s : State) : (setGroup t g s).pins = s.pins := by
  unfold setGroup; split <;> rfl
@[simp] theorem modCmd_plant (s : State) (u : Nat) (g : Cmd → Cmd) : (modCmd s u g).plant = s.plant := rfl
@[simp] theorem dropCmd_plant (s : State) (u : Nat) : (dropCmd s u).plant = s.plant := rfl
@[simp] theorem setGang_plant (x : Gang) (s : State) : (setGang x s).plant = s.plant := rfl
@[simp] theorem setGroup_plant (t : GroupRef) (g : Group) (s : State) : (setGroup t g s).plant = s.plant := by
  unfold setGroup; split <;> rfl
@[simp] theorem modCmd_xlate (s : State) (u : Nat) (g : Cmd → Cmd) : (modCmd s u g).xlate = s.xlate := rfl
@[simp] theorem dropCmd_xlate (s : State) (u : Nat) : (dropCmd s u).xlate = s.xlate := rfl
@[simp] theorem setGang_xlate (x : Gang) (s : State) : (setGang x s).xlate = s.xlate := rfl
@[simp] theorem setGroup_xlate (t : GroupRef) (g : Group) (s : State) : (setGroup t g s).xlate = s.xlate := by
  unfold setGroup; split <;> rfl
@[simp] theorem modCmd_weirG (s : State) (u : Nat) (g : Cmd → Cmd) : (modCmd s u g).weirG = s.weirG := rfl
@[simp] theorem dropCmd_weirG (s : State) (u : Nat) : (dropCmd s u).weirG = s.weirG := rfl
@[simp] theorem setGang_weirG (x : Gang) (s : State) : (setGang x s).weirG = s.weirG := rfl
@[simp] theorem setGroup_weirG (t : GroupRef) (g : Group) (s : State) : (setGroup t g s).weirG = s.weirG := by
  unfold setGroup; split <;> rfl
@[simp] theorem modCmd_folds (s : State) (u : Nat) (g : Cmd → Cmd) : (modCmd s u g).folds = s.folds := rfl
@[simp] theorem dropCmd_folds (s : State) (u : Nat) : (dropCmd s u).folds = s.folds := rfl
@[simp] theorem setGang_folds (x : Gang) (s : State) : (setGang x s).folds = s.folds := rfl
@[simp] theorem setGroup_folds (t : GroupRef) (g : Group) (s : State) : (setGroup t g s).folds = s.folds := by
  unfold setGroup; split <;> rfl
@[simp] theorem modCmd_ctxs (s : State) (u : Nat) (g : Cmd → Cmd) : (modCmd s u g).ctxs = s.ctxs := rfl
@[simp] theorem dropCmd_ctxs (s : State) (u : Nat) : (dropCmd s u).ctxs = s.ctxs := rfl
@[simp] theorem setGang_ctxs (x : Gang) (s : State) : (setGang x s).ctxs = s.ctxs := rfl
@[simp] theorem setGroup_ctxs (t : GroupRef) (g : Group) (s : State) : (setGroup t g s).ctxs = s.ctxs := by
  unfold setGroup; split <;> rfl
@[simp] theorem modCmd_hqis (s : State) (u : Nat) (g : Cmd → Cmd) : (modCmd s u g).hqis = s.hqis := rfl
@[simp] theorem dropCmd_hqis (s : State) (u : Nat) : (dropCmd s u).hqis = s.hqis := rfl
@[simp] theorem setGang_hqis (x : Gang) (s : State) : (setGang x s).hqis = s.hqis := rfl
@[simp] theorem setGroup_hqis (t : GroupRef) (g : Group) (s : State) : (setGroup t g s).hqis = s.hqis := by
  unfold setGroup; split <;> rfl
@[simp] theorem modCmd_queues (s : State) (u : Nat) (g : Cmd → Cmd) : (modCmd s u g).queues = s.queues := rfl
@[simp] theorem dropCmd_queues (s : State) (u : Nat) : (dropCmd s u).queues = s.queues := rfl
@[simp] theorem setGang_queues (x : Gang) (s : State) : (setGang x s).queues = s.queues := rfl
@[simp] theorem setGroup_queues (t : GroupRef) (g : Group) (s : State) : (setGroup t g s).queues = s.queues := by
  unfold setGroup; split <;> rfl
@[simp] theorem modCmd_sems (s : State) (u : Nat) (g : Cmd → Cmd) : (modCmd s u g).sems = s.sems := rfl
@[simp] theorem dropCmd_sems (s : State) (u : Nat) : (dropCmd s u).sems = s.sems := rfl
@[simp] theorem setGang_sems (x : Gang) (s : State) : (setGang x s).sems = s.sems := rfl
@[simp] theorem setGroup_sems (t : GroupRef) (g : Group) (s : State) : (setGroup t g s).sems = s.sems := by
  unfold setGroup; split <;> rfl
@[simp] theorem setGang_cmds (x : Gang) (s : State) : (setGang x s).cmds = s.cmds := rfl
@[simp] theorem setGroup_cmds (t : GroupRef) (g : Group) (s : State) : (setGroup t g s).cmds = s.cmds := by
  unfold setGroup; split <;> rfl
@[simp] theorem modCmd_nextUid (s : State) (u : Nat) (g : Cmd → Cmd) : (modCmd s u g).nextUid = s.nextUid := rfl
@[simp] theorem dropCmd_nextUid (s : State) (u : Nat) : (dropCmd s u).nextUid = s.nextUid := rfl
@[simp] theorem setGang_nextUid (x : Gang) (s : State) : (setGang x s).nextUid = s.nextUid := rfl
@[simp] theorem setGroup_nextUid (t : GroupRef) (g : Group) (s : State) : (setGroup t g s).nextUid = s.nextUid := by
  unfold setGroup; split <;> rfl
@[simp] theorem modCmd_journal (s : State) (u : Nat) (g : Cmd → Cmd) : (modCmd s u g).journal = s.journal := rfl
@[simp] theorem dropCmd_journal (s : State) (u : Nat) : (dropCmd s u).journal = s.journal := rfl
@[simp] theorem setGang_journal (x : Gang) (s : State) : (setGang x s).journal = s.journal := rfl
@[simp] theorem setGroup_journal (t : GroupRef) (g : Group) (s : State) : (setGroup t g s).journal = s.journal := by
  unfold setGroup; split <;> rfl
@[simp] theorem modCmd_engines (s : State) (u : Nat) (g : Cmd → Cmd) : (modCmd s u g).engines = s.engines := rfl
@[simp] theorem dropCmd_engines (s : State) (u : Nat) : (dropCmd s u).engines = s.engines := rfl
@[simp] theorem setGang_engines (x : Gang) (s : State) : (setGang x s).engines = s.engines := rfl
@[simp] theorem setGroup_engines (t : GroupRef) (g : Group) (s : State) : (setGroup t g s).engines = s.engines := by
  unfold setGroup; split <;> rfl
@[simp] theorem modCmd_halves (s : State) (u : Nat) (g : Cmd → Cmd) : (modCmd s u g).halves = s.halves := rfl
@[simp] theorem dropCmd_halves (s : State) (u : Nat) : (dropCmd s u).halves = s.halves := rfl
@[simp] theorem setGang_halves (x : Gang) (s : State) : (setGang x s).halves = s.halves := rfl
@[simp] theorem setGroup_halves (t : GroupRef) (g : Group) (s : State) : (setGroup t g s).halves = s.halves := by
  unfold setGroup; split <;> rfl
@[simp] theorem modCmd_herd (s : State) (u : Nat) (g : Cmd → Cmd) : (modCmd s u g).herd = s.herd := rfl
@[simp] theorem dropCmd_herd (s : State) (u : Nat) : (dropCmd s u).herd = s.herd := rfl
@[simp] theorem modCmd_graze (s : State) (u : Nat) (g : Cmd → Cmd) : (modCmd s u g).graze = s.graze := rfl
@[simp] theorem dropCmd_graze (s : State) (u : Nat) : (dropCmd s u).graze = s.graze := rfl
@[simp] theorem setGang_graze (x : Gang) (s : State) : (setGang x s).graze = s.graze := rfl
@[simp] theorem setGroup_graze (t : GroupRef) (g : Group) (s : State) : (setGroup t g s).graze = s.graze := by
  unfold setGroup; split <;> rfl
@[simp] theorem modCmd_flock (s : State) (u : Nat) (g : Cmd → Cmd) : (modCmd s u g).flock = s.flock := rfl
@[simp] theorem dropCmd_flock (s : State) (u : Nat) : (dropCmd s u).flock = s.flock := rfl
@[simp] theorem setGang_flock (x : Gang) (s : State) : (setGang x s).flock = s.flock := rfl
@[simp] theorem setGroup_flock (t : GroupRef) (g : Group) (s : State) : (setGroup t g s).flock = s.flock := by
  unfold setGroup; split <;> rfl
@[simp] theorem modCmd_twin (s : State) (u : Nat) (g : Cmd → Cmd) : (modCmd s u g).twin = s.twin := rfl
@[simp] theorem dropCmd_twin (s : State) (u : Nat) : (dropCmd s u).twin = s.twin := rfl
@[simp] theorem setGang_twin (x : Gang) (s : State) : (setGang x s).twin = s.twin := rfl
@[simp] theorem setGroup_twin (t : GroupRef) (g : Group) (s : State) : (setGroup t g s).twin = s.twin := by
  unfold setGroup; split <;> rfl
@[simp] theorem modCmd_resvG (s : State) (u : Nat) (g : Cmd → Cmd) : (modCmd s u g).resvG = s.resvG := rfl
@[simp] theorem dropCmd_resvG (s : State) (u : Nat) : (dropCmd s u).resvG = s.resvG := rfl
@[simp] theorem setGang_resvG (x : Gang) (s : State) : (setGang x s).resvG = s.resvG := rfl
@[simp] theorem setGroup_resvG (t : GroupRef) (g : Group) (s : State) : (setGroup t g s).resvG = s.resvG := by
  unfold setGroup; split <;> rfl
@[simp] theorem modCmd_ports (s : State) (u : Nat) (g : Cmd → Cmd) : (modCmd s u g).ports = s.ports := rfl
@[simp] theorem dropCmd_ports (s : State) (u : Nat) : (dropCmd s u).ports = s.ports := rfl
@[simp] theorem setGang_ports (x : Gang) (s : State) : (setGang x s).ports = s.ports := rfl
@[simp] theorem setGroup_ports (t : GroupRef) (g : Group) (s : State) : (setGroup t g s).ports = s.ports := by
  unfold setGroup; split <;> rfl
@[simp] theorem modCmd_net (s : State) (u : Nat) (g : Cmd → Cmd) : (modCmd s u g).net = s.net := rfl
@[simp] theorem dropCmd_net (s : State) (u : Nat) : (dropCmd s u).net = s.net := rfl
@[simp] theorem setGang_net (x : Gang) (s : State) : (setGang x s).net = s.net := rfl
@[simp] theorem setGroup_net (t : GroupRef) (g : Group) (s : State) : (setGroup t g s).net = s.net := by
  unfold setGroup; split <;> rfl
@[simp] theorem modCmd_stack (s : State) (u : Nat) (g : Cmd → Cmd) : (modCmd s u g).stack = s.stack := rfl
@[simp] theorem dropCmd_stack (s : State) (u : Nat) : (dropCmd s u).stack = s.stack := rfl
@[simp] theorem setGang_stack (x : Gang) (s : State) : (setGang x s).stack = s.stack := rfl
@[simp] theorem setGroup_stack (t : GroupRef) (g : Group) (s : State) : (setGroup t g s).stack = s.stack := by
  unfold setGroup; split <;> rfl
@[simp] theorem modCmd_hostPort (s : State) (u : Nat) (g : Cmd → Cmd) : (modCmd s u g).hostPort = s.hostPort := rfl
@[simp] theorem dropCmd_hostPort (s : State) (u : Nat) : (dropCmd s u).hostPort = s.hostPort := rfl
@[simp] theorem setGang_hostPort (x : Gang) (s : State) : (setGang x s).hostPort = s.hostPort := rfl
@[simp] theorem setGroup_hostPort (t : GroupRef) (g : Group) (s : State) : (setGroup t g s).hostPort = s.hostPort := by
  unfold setGroup; split <;> rfl
@[simp] theorem modCmd_tb (s : State) (u : Nat) (g : Cmd → Cmd) : (modCmd s u g).tb = s.tb := rfl
@[simp] theorem dropCmd_tb (s : State) (u : Nat) : (dropCmd s u).tb = s.tb := rfl
@[simp] theorem setGang_tb (x : Gang) (s : State) : (setGang x s).tb = s.tb := rfl
@[simp] theorem setGroup_tb (t : GroupRef) (g : Group) (s : State) : (setGroup t g s).tb = s.tb := by
  unfold setGroup; split <;> rfl
@[simp] theorem modCmd_faults (s : State) (u : Nat) (g : Cmd → Cmd) : (modCmd s u g).faults = s.faults := rfl
@[simp] theorem dropCmd_faults (s : State) (u : Nat) : (dropCmd s u).faults = s.faults := rfl
@[simp] theorem setGang_faults (x : Gang) (s : State) : (setGang x s).faults = s.faults := rfl
@[simp] theorem setGroup_faults (t : GroupRef) (g : Group) (s : State) : (setGroup t g s).faults = s.faults := by
  unfold setGroup; split <;> rfl
@[simp] theorem modCmd_gauges (s : State) (u : Nat) (g : Cmd → Cmd) : (modCmd s u g).gauges = s.gauges := rfl
@[simp] theorem dropCmd_gauges (s : State) (u : Nat) : (dropCmd s u).gauges = s.gauges := rfl
@[simp] theorem setGang_gauges (x : Gang) (s : State) : (setGang x s).gauges = s.gauges := rfl
@[simp] theorem setGroup_gauges (t : GroupRef) (g : Group) (s : State) : (setGroup t g s).gauges = s.gauges := by
  unfold setGroup; split <;> rfl
@[simp] theorem modCmd_mbx (s : State) (u : Nat) (g : Cmd → Cmd) : (modCmd s u g).mbx = s.mbx := rfl
@[simp] theorem dropCmd_mbx (s : State) (u : Nat) : (dropCmd s u).mbx = s.mbx := rfl
@[simp] theorem setGang_mbx (x : Gang) (s : State) : (setGang x s).mbx = s.mbx := rfl
@[simp] theorem setGroup_mbx (t : GroupRef) (g : Group) (s : State) : (setGroup t g s).mbx = s.mbx := by
  unfold setGroup; split <;> rfl
@[simp] theorem modCmd_kpage (s : State) (u : Nat) (g : Cmd → Cmd) : (modCmd s u g).kpage = s.kpage := rfl
@[simp] theorem dropCmd_kpage (s : State) (u : Nat) : (dropCmd s u).kpage = s.kpage := rfl
@[simp] theorem setGang_kpage (x : Gang) (s : State) : (setGang x s).kpage = s.kpage := rfl
@[simp] theorem setGroup_kpage (t : GroupRef) (g : Group) (s : State) : (setGroup t g s).kpage = s.kpage := by
  unfold setGroup; split <;> rfl
@[simp] theorem modCmd_pond (s : State) (u : Nat) (g : Cmd → Cmd) : (modCmd s u g).pond = s.pond := rfl
@[simp] theorem dropCmd_pond (s : State) (u : Nat) : (dropCmd s u).pond = s.pond := rfl
@[simp] theorem setGang_pond (x : Gang) (s : State) : (setGang x s).pond = s.pond := rfl
@[simp] theorem setGroup_pond (t : GroupRef) (g : Group) (s : State) : (setGroup t g s).pond = s.pond := by
  unfold setGroup; split <;> rfl
@[simp] theorem modCmd_tarn (s : State) (u : Nat) (g : Cmd → Cmd) : (modCmd s u g).tarn = s.tarn := rfl
@[simp] theorem dropCmd_tarn (s : State) (u : Nat) : (dropCmd s u).tarn = s.tarn := rfl
@[simp] theorem setGang_tarn (x : Gang) (s : State) : (setGang x s).tarn = s.tarn := rfl
@[simp] theorem setGroup_tarn (t : GroupRef) (g : Group) (s : State) : (setGroup t g s).tarn = s.tarn := by
  unfold setGroup; split <;> rfl
@[simp] theorem modCmd_far (s : State) (u : Nat) (g : Cmd → Cmd) : (modCmd s u g).far = s.far := rfl
@[simp] theorem dropCmd_far (s : State) (u : Nat) : (dropCmd s u).far = s.far := rfl
@[simp] theorem setGang_far (x : Gang) (s : State) : (setGang x s).far = s.far := rfl
@[simp] theorem setGroup_far (t : GroupRef) (g : Group) (s : State) : (setGroup t g s).far = s.far := by
  unfold setGroup; split <;> rfl
@[simp] theorem modCmd_host (s : State) (u : Nat) (g : Cmd → Cmd) : (modCmd s u g).host = s.host := rfl
@[simp] theorem dropCmd_host (s : State) (u : Nat) : (dropCmd s u).host = s.host := rfl
@[simp] theorem setGang_host (x : Gang) (s : State) : (setGang x s).host = s.host := rfl
@[simp] theorem setGroup_host (t : GroupRef) (g : Group) (s : State) : (setGroup t g s).host = s.host := by
  unfold setGroup; split <;> rfl
@[simp] theorem modCmd_poison (s : State) (u : Nat) (g : Cmd → Cmd) : (modCmd s u g).poison = s.poison := rfl
@[simp] theorem dropCmd_poison (s : State) (u : Nat) : (dropCmd s u).poison = s.poison := rfl
@[simp] theorem setGang_poison (x : Gang) (s : State) : (setGang x s).poison = s.poison := rfl
@[simp] theorem setGroup_poison (t : GroupRef) (g : Group) (s : State) : (setGroup t g s).poison = s.poison := by
  unfold setGroup; split <;> rfl
@[simp] theorem modCmd_free (s : State) (u : Nat) (g : Cmd → Cmd) : (modCmd s u g).free = s.free := rfl
@[simp] theorem dropCmd_free (s : State) (u : Nat) : (dropCmd s u).free = s.free := rfl
@[simp] theorem setGang_free (x : Gang) (s : State) : (setGang x s).free = s.free := rfl
@[simp] theorem setGroup_free (t : GroupRef) (g : Group) (s : State) : (setGroup t g s).free = s.free := by
  unfold setGroup; split <;> rfl
@[simp] theorem modCmd_pending (s : State) (u : Nat) (g : Cmd → Cmd) : (modCmd s u g).pending = s.pending := rfl
@[simp] theorem dropCmd_pending (s : State) (u : Nat) : (dropCmd s u).pending = s.pending := rfl
@[simp] theorem setGang_pending (x : Gang) (s : State) : (setGang x s).pending = s.pending := rfl
@[simp] theorem setGroup_pending (t : GroupRef) (g : Group) (s : State) : (setGroup t g s).pending = s.pending := by
  unfold setGroup; split <;> rfl

end Sys2Proof.Machine
end

