-- ==== Sys2Proof/Laws/Herd.lean ====
section
/-! SUPPORT. What issuing a herd instruction comes to: its meaning on the state after the fetch; what an instruction that writes
one register leaves in its group; a group read after it is stored. -/

namespace Sys2Proof.Machine

/-- A group that can issue a legal instruction runs it on the state after its fetch. -/
theorem issue_next {t : GroupRef} {guard : BitVec 4} {s s1 : State} {i : Issue} {legal : Issue → Bool}
    {run : Issue → State → State} (h : issues t guard s i s1) (hl : legal i = true) :
    issue t guard legal run s = run { i with free := s1.free } s1 := by
  obtain ⟨hg, hc, w, ⟨hi, mem, off, s0, s2, bs, hr, hb, rfl, rfl⟩, hw⟩ := h
  unfold issue
  rw [hi]
  have hg' : (guard == 8) = false := beq_eq_false_iff_ne.mpr hg
  simp only [hr, hb, issueWord, hc, hw, hl, hg', Bool.or_false, Bool.not_true, Bool.false_eq_true, if_false]

/-- A group that cannot issue is left as it stands. -/
theorem issue_none {t : GroupRef} {guard : BitVec 4} {s : State} {legal : Issue → Bool}
    {run : Issue → State → State} (h : issueOf t guard s = none) : issue t guard legal run s = s := by
  unfold issue; rw [h]

theorem regsOk_of_allocated {rs : List Byte} {i : Issue} (h : allocated rs i) : regsOk (rs.map BitVec.toNat) i = true := by
  unfold regsOk
  simp only [List.all_map, List.all_eq_true, Function.comp, decide_eq_true_eq]
  exact h

theorem getReg_setReg (g : Group) (lane lane' : Nat) (r r' : Byte) (v : W32) (h : Tab.wf 0 g.regs = true) :
    getReg (setReg g lane r.toNat v) lane' r'.toNat = if lane' = lane ∧ r' = r then v else getReg g lane' r'.toNat := by
  have e : lane * 256 + r.toNat = lane' * 256 + r'.toNat ↔ lane' = lane ∧ r' = r := by
    have h1 := r.isLt
    have h2 := r'.isLt
    constructor
    · intro e
      have e1 : lane' = lane := by omega
      refine ⟨e1, BitVec.eq_of_toNat_eq ?_⟩
      omega
    · rintro ⟨rfl, rfl⟩; rfl
  unfold getReg setReg
  simp only
  split
  · rename_i hc
    rw [← e.mpr hc]
    exact Tab.get_set_self 0 _ v h
  · rename_i hc
    exact Tab.get_set_ne 0 g.regs v fun he => hc (e.mp he)

theorem setReg_regs_wf (g : Group) (lane r : Nat) (v : W32) (h : Tab.wf 0 g.regs = true) :
    Tab.wf 0 (setReg g lane r v).regs = true := Tab.set_wf 0 _ v h

/-- Writing one register in each lane of a list. -/
theorem eachLane_setReg (rd : Byte) (v : Nat → W32) : ∀ (l : List Nat) (g : Group), Tab.wf 0 g.regs = true →
    Tab.wf 0 (eachLane l (fun lane g => setReg g lane rd.toNat (v lane)) g).regs = true ∧
    (∀ (lane : Nat) (r : Byte), getReg (eachLane l (fun lane g => setReg g lane rd.toNat (v lane)) g) lane r.toNat =
      if lane ∈ l ∧ r = rd then v lane else getReg g lane r.toNat) ∧
    (eachLane l (fun lane g => setReg g lane rd.toNat (v lane)) g).pc = g.pc ∧
    (eachLane l (fun lane g => setReg g lane rd.toNat (v lane)) g).flags = g.flags ∧
    sameControl g (eachLane l (fun lane g => setReg g lane rd.toNat (v lane)) g) := by
  intro l
  induction l with
  | nil => intro g h; exact ⟨h, fun _ _ => by simp [eachLane], rfl, rfl, rfl, rfl, rfl, rfl, rfl, rfl⟩
  | cons x l ih =>
    intro g h
    have h1 := ih (setReg g x rd.toNat (v x)) (setReg_regs_wf g x _ _ h)
    refine ⟨h1.1, ?_, h1.2.2.1, h1.2.2.2.1, h1.2.2.2.2⟩
    intro lane r
    have h2 := h1.2.1 lane r
    rw [getReg_setReg g x lane rd r (v x) h] at h2
    show getReg (eachLane l _ (setReg g x rd.toNat (v x))) lane r.toNat = _
    rw [h2]
    by_cases hl : lane ∈ l <;> by_cases hx : lane = x <;> by_cases hr : r = rd <;> simp [hl, hx, hr]

/-- The group an instruction that writes one register leaves. -/
theorem wroteReg_eachLane (i : Issue) (rd : Byte) (v : Nat → W32) (h : Tab.wf 0 i.grp.regs = true) :
    wroteReg i rd v (nextPc (eachLane i.lanes (fun lane g => setReg g lane rd.toNat (v lane)) i.grp)) := by
  obtain ⟨_, h1, h2, h3, h4⟩ := eachLane_setReg rd v i.lanes i.grp h
  refine ⟨?_, h3, h4, h1⟩
  simp only [nextPc, h2]

/-- An instruction that writes one register from the registers of its lane: its next state. -/
theorem alu1_next {t : GroupRef} {guard : BitVec 4} {s s1 : State} {i : Issue} {rd : Byte} {rs : List Byte}
    {f : Issue → Nat → W32} (h : issues t guard s i s1) (hr : allocated (rd :: rs) i) (hc : Tab.wf 0 i.grp.regs = true) :
    ∃ g, alu1 t guard rd rs f s = setGroup t g s1 ∧ wroteReg i rd (f { i with free := s1.free }) g := by
  refine ⟨nextPc (eachLane i.lanes (fun lane g => setReg g lane rd.toNat (f { i with free := s1.free } lane)) i.grp), ?_,
    wroteReg_eachLane i rd _ hc⟩
  unfold alu1 alu
  rw [issue_next h (regsOk_of_allocated hr)]

/-- Two gangs of a launch are told apart by their numbers, so a stored gang is the one read back. -/
theorem gangAt_setGang {s : State} {x y : Gang} {l g : Nat} (h : gangAt s l g = some x) (hl : y.launch = x.launch)
    (hg : y.gang = x.gang) : gangAt (setGang y s) l g = some y := by
  have hx : isGang l g x = true := List.find?_some h
  unfold isGang at hx
  simp only [Bool.and_eq_true, beq_iff_eq] at hx
  unfold gangAt at *
  have key : ∀ z : Gang, isGang y.launch y.gang z = isGang l g z := by
    intro z; unfold isGang; rw [hl, hg, hx.1, hx.2]
  have hy : isGang l g y = true := by unfold isGang; simp [hl, hg, hx.1, hx.2]
  show List.find? (isGang l g) (s.herd.gangs.map fun z => if isGang y.launch y.gang z then y else z) = some y
  rw [show (fun z => if isGang y.launch y.gang z = true then y else z) = fun z => if isGang l g z then y else z from
    funext fun z => by rw [key]]
  generalize s.herd.gangs = zs at h
  induction zs with
  | nil => simp at h
  | cons z zs ih =>
    by_cases hz : isGang l g z
    · simp [hz, hy]
    · rw [List.find?_cons_of_neg (by simpa using hz)] at h
      rw [List.map_cons, if_neg (by simpa using hz), List.find?_cons_of_neg (by simpa using hz)]
      exact ih h

theorem listSet_getElem {α : Type} : ∀ (l : List α) (n : Nat) (y : α), n < l.length → (listSet l n y)[n]? = some y := by
  intro l
  induction l with
  | nil => intro n y h; simp at h
  | cons a l ih =>
    intro n y h
    cases n with
    | zero => rfl
    | succ n => simpa [listSet] using ih n y (by simpa using h)

/-- A group stored is the one read back. -/
theorem groupAt_setGroup {s : State} {t : GroupRef} {g g' : Group} (h : groupAt s t = some g) :
    groupAt (setGroup t g' s) t = some g' := by
  unfold groupAt at h
  cases hx : gangAt s t.launch t.gang with
  | none => rw [hx] at h; simp at h
  | some x =>
    rw [hx] at h
    simp only at h
    have hlen : t.group < x.groups.length := by
      by_contra hc
      rw [List.getElem?_eq_none (by omega)] at h
      simp at h
    unfold setGroup groupAt
    rw [hx]
    simp only
    rw [gangAt_setGang (y := { x with groups := listSet x.groups t.group g' }) hx rfl rfl]
    exact listSet_getElem x.groups t.group g' hlen

/-- What a group that can issue is. -/
theorem issueOf_some {t : GroupRef} {guard : BitVec 4} {s : State} {i : Issue} (h : issueOf t guard s = some i) :
    cmdAt s t.launch = some i.cmd ∧ gangAt s t.launch t.gang = some i.gang ∧ groupAt s t = some i.grp ∧
      i.lanes = guarded guard i.grp ∧ i.free = s.free ∧ i.repro = (ctxAt s (tagSlot i.cmd.tag)).reproducible ∧
      i.grp.wait = .none ∧ i.cmd.launch.stopped = false ∧ s.power.brownout = false := by
  unfold issueOf at h
  split at h
  · rename_i c x g h1 h2 h3
    extract_lets runs at h
    split at h
    · rename_i hc
      simp only [Option.some.injEq] at h
      subst h
      simp only [Bool.and_eq_true, Bool.not_eq_true', beq_iff_eq] at hc
      exact ⟨h1, h2, h3, rfl, rfl, rfl, hc.1.2, hc.1.1.2, by simpa [brownedOut] using hc.2⟩
    · simp at h
  · simp at h

end Sys2Proof.Machine
end

