-- ==== Sys2Proof/Laws/Pump.lean ====
section
/-! SUPPORT. What goes on by itself after a command: nothing in a block at rest, and in a still block with one command, that
command's work when it leaves the block at rest. -/

namespace Sys2Proof.Machine

theorem Tab.get_of_all {α : Type} (d : α) (p : α → Bool) (m : Tab α) (a : Nat) (hd : p d = true)
    (h : (m.all fun e => p e.2) = true) : p (Tab.get d m a) = true := by
  induction m with
  | nil => exact hd
  | cons c m ih =>
    obtain ⟨k, v⟩ := c
    simp only [List.all_cons, Bool.and_eq_true] at h
    unfold Tab.get
    split
    · exact h.1
    · exact ih h.2

theorem forEach_nil {α : Type} (g : α → State → State) (s : State) : forEach [] g s = s := rfl

theorem forEach_cons {α : Type} (x : α) (l : List α) (g : α → State → State) (s : State) :
    forEach (x :: l) g s = forEach l g (g x s) := rfl

/-- A state that no element changes is carried through a list unchanged. -/
theorem forEach_id {α : Type} (l : List α) (g : α → State → State) (s : State) (h : ∀ x ∈ l, g x s = s) :
    forEach l g s = s := by
  induction l with
  | nil => rfl
  | cons x l ih =>
    rw [forEach_cons, h x (by simp)]
    exact ih fun y hy => h y (by simp [hy])

section still
variable {s : State} (h : still s = true)
include h

theorem still_accesses : s.hostPort.accesses = [] := by simp_all [still]
theorem still_outbox : s.net.outbox = [] := by simp_all [still]
theorem still_serving : s.net.serving = [] := by simp_all [still]
theorem still_held : s.xlate.held = [] := by simp_all [still]
theorem still_proposing : s.flock.proposing = none := by simp_all [still]
theorem still_resolutions : s.resvG.resolutions = [] := by simp_all [still]
theorem still_own : s.twin.own = [] := by simp_all [still]
theorem still_down : s.power.down = 0 := by simp_all [still]
theorem still_folds : (s.folds.all fun p => p.2.state != .resetting && !p.2.resv.leaving) = true := by
  unfold still at h; simp only [Bool.and_eq_true] at h; simpa using h.1.1.1.2
theorem still_queues : (s.queues.all fun p => p.2.state != .notReady) = true := by
  unfold still at h; simp only [Bool.and_eq_true] at h; exact h.1.1.2
theorem still_engines : (s.engines.all fun p => p.2.queue.isEmpty &&
    (!p.2.blocked || p.2.resetting || p.2.abandoned || unitClaimed s false p.1)) = true := by
  unfold still at h; simp only [Bool.and_eq_true] at h; exact h.1.2
theorem still_halves : (s.halves.all fun p => !p.2.blocked || p.2.resetting || unitClaimed s true p.1) = true := by
  unfold still at h; simp only [Bool.and_eq_true] at h; exact h.2

theorem still_foldAt (n : Nat) : (foldAt s n).state ≠ .resetting ∧ (foldAt s n).resv.leaving = false := by
  have h1 := Tab.get_of_all Fold.reset (fun f => f.state != .resetting && !f.resv.leaving) s.folds n (by decide) (still_folds h)
  simp only [Bool.and_eq_true, bne_iff_ne, Bool.not_eq_true'] at h1
  exact h1

theorem pruneHeld_still : pruneHeld s = s := by
  unfold pruneHeld
  have e := still_held h
  simp only [e, List.filter_nil]
  rw [← e]

theorem proposeAgain_still : proposeAgain s = s := by simp [proposeAgain, still_proposing h]

theorem heldOrder_still : heldOrder s = [] := by simp [heldOrder, still_held h]

theorem accessesRun_still (n : Nat) : accessesRun n s = s := by
  cases n with
  | zero => rfl
  | succ n => simp [accessesRun, still_accesses h]

theorem wakeQueues_still : wakeQueues s = s := by
  unfold wakeQueues
  split
  · have : queuesWhere s (fun x => x.state == .notReady) = [] := by
      unfold queuesWhere
      rw [List.map_eq_nil_iff, List.filter_eq_nil_iff]
      intro p hp
      have h1 := List.all_eq_true.mp (still_queues h) p hp
      simp only [bne_iff_ne] at h1
      simp [h1]
    rw [this]; rfl
  · rfl

theorem handRun_still : forEach (List.range 16) handRun s = s := by
  apply forEach_id
  intro n _
  unfold handRun
  simp [resvOf, (still_foldAt h n).2]

theorem rvResolveDue_still : rvResolveDue s = s := by
  simp [rvResolveDue, still_resolutions h, forEach]

theorem twinCompare_still : twinCompare s = s := by
  unfold twinCompare
  split
  · simp [still_own h, forEach]
  · rfl

theorem foldResetsEnd_still : foldResetsEnd s = s := by
  apply forEach_id
  intro n _
  unfold foldResetEnd
  simp [(still_foldAt h n).1]

theorem settleUnits_still : settleUnits s = s := by
  have he : ∀ e ∈ (s.engines.filter fun p => p.2.blocked && !p.2.resetting && !p.2.abandoned).map fun p => p.1,
      unitClaimed s false e = true := by
    intro e h0
    obtain ⟨p, hp, rfl⟩ := List.mem_map.mp h0
    obtain ⟨hm, hq⟩ := List.mem_filter.mp hp
    have h1 := List.all_eq_true.mp (still_engines h) p hm
    simp_all
  have hh : ∀ e ∈ (s.halves.filter fun p => p.2.blocked && !p.2.resetting).map fun p => p.1,
      unitClaimed s true e = true := by
    intro e h0
    obtain ⟨p, hp, rfl⟩ := List.mem_map.mp h0
    obtain ⟨hm, hq⟩ := List.mem_filter.mp hp
    have h1 := List.all_eq_true.mp (still_halves h) p hm
    simp_all
  unfold settleUnits
  extract_lets s1
  have e1 : s1 = s := forEach_id _ _ _ fun e h0 => by simp [he e h0]
  rw [e1]
  exact forEach_id _ _ _ fun e h0 => by simp [hh e h0]

theorem restorePower_still : restorePower s = s := by simp [restorePower, still_down h]

theorem flushMsgs_still : flushMsgs s = s := by
  have h1 := still_outbox h
  unfold flushMsgs
  rw [h1, forEach_nil]
  have : { s.net with outbox := [] } = s.net := by rw [← h1]
  rw [this]

end still

theorem atRest_cmds {s : State} (h : atRest s = true) : s.cmds = [] := by
  unfold atRest at h; simp only [Bool.and_eq_true, List.isEmpty_iff] at h; exact h.1.1
theorem atRest_still {s : State} (h : atRest s = true) : still s = true := by
  unfold atRest at h; simp only [Bool.and_eq_true] at h; exact h.1.2
theorem atRest_boosted {s : State} (h : atRest s = true) (slot : Nat) : (ctxAt s slot).boosted = false := by
  unfold atRest at h; simp only [Bool.and_eq_true] at h
  have h1 := Tab.get_of_all Ctx.reset (fun x => !x.boosted) s.ctxs slot (by decide) h.2
  simpa [ctxAt] using h1

theorem boostLinks_rest {s : State} (h : s.cmds = []) : ∀ k, boostLinks s k = [] := by
  intro k
  induction k with
  | zero => simp [boostLinks, h]
  | succ k ih => simp [boostLinks, ih]

theorem refreshBoosts_rest {s : State} (h : atRest s = true) : refreshBoosts s = s := by
  have hc := atRest_cmds h
  have e : ({ s with cmds := ([] : List Cmd) } : State) = s := by rw [← hc]
  unfold refreshBoosts
  simp only [boostLinks_rest hc, hc, List.map_nil, e]
  exact forEach_id _ _ _ fun slot _ => by simp [boostCtx, atRest_boosted h slot]

theorem orderQueues_rest {s : State} (h : atRest s = true) : orderQueues s = s := by
  unfold orderQueues
  rw [refreshBoosts_rest h]
  have : (s.engines.filter fun p => !p.2.queue.isEmpty) = [] := by
    rw [List.filter_eq_nil_iff]
    intro p hp
    have h1 := List.all_eq_true.mp (still_engines (atRest_still h)) p hp
    simp only [Bool.and_eq_true] at h1
    simp [h1.1]
  rw [this]; rfl

theorem reviewAll_rest {s : State} (h : atRest s = true) : reviewAll s = s := by
  unfold reviewAll cmdsWhere
  simp [atRest_cmds h, forEach]

theorem reMovers_rest {s : State} (h : atRest s = true) : reMovers s = s := by
  unfold reMovers cmdsWhere
  simp [atRest_cmds h, forEach]

theorem readsDue_rest {s : State} (h : atRest s = true) : readsDue s = s := by
  unfold readsDue cmdsWhere
  simp [atRest_cmds h, forEach]

theorem moverRun_rest {s : State} (h : atRest s = true) (n : Nat) : moverRun n s = s := by
  cases n with
  | zero => rfl
  | succ n => simp [moverRun, atRest_cmds h]

/-- A round in a still block, whose movers serve what they served and whose commands wait for no fence's value, when its commands'
work leaves it at rest. -/
theorem workRound_to {s s' : State} (h : still s = true) (hm : reMovers s = s) (hr : readsDue s = s)
    (e : forEach (s.cmds.map fun c => c.uid) workOn s = s') (h' : atRest s' = true) : workRound s = s' := by
  have hs := atRest_still h'
  unfold workRound
  extract_lets s1 s2 s3 s4 s5 s6 s7 s8
  have e1 : s1 = s := by
    show reMovers (pruneHeld s) = s
    rw [pruneHeld_still h, hm]
  have e2 : s2 = s := by
    show proposeAgain (readsDue (wakeQueues (accessesRun s1.hostPort.accesses.length s1))) = s
    rw [e1, accessesRun_still h, wakeQueues_still h, hr, proposeAgain_still h]
  have e3 : s3 = s := by
    show forEach (heldOrder s2) askAgain s2 = s
    rw [e2, heldOrder_still h, forEach_nil]
  have e4 : s4 = s' := by
    show forEach (s3.cmds.map fun c => c.uid) workOn s3 = s'
    rw [e3, e]
  have e5 : s5 = s' := by
    show forEach (List.range 16) handRun (forEach (s4.net.serving.map fun v => v.uid) servingEnd s4) = s'
    rw [e4, still_serving hs, List.map_nil, forEach_nil, handRun_still hs]
  have e6 : s6 = s' := by
    show orderQueues (settleUnits (foldResetsEnd (reviewAll (twinCompare (rvResolveDue s5))))) = s'
    rw [e5, rvResolveDue_still hs, twinCompare_still hs, reviewAll_rest h', foldResetsEnd_still hs, settleUnits_still hs,
      orderQueues_rest h']
  have e7 : s7 = s' := by
    show placeReady true s6.cmds.length s6 = s'
    rw [e6, atRest_cmds h']; rfl
  have e8 : s8 = s' := by
    show placeReady false s7.cmds.length s7 = s'
    rw [e7, atRest_cmds h']; rfl
  rw [e8, moverRun_rest h', flushMsgs_still hs, restorePower_still hs]

theorem workRound_rest {s : State} (h : atRest s = true) : workRound s = s :=
  workRound_to (atRest_still h) (reMovers_rest h) (readsDue_rest h) (by rw [atRest_cmds h]; rfl) h

/-- In a block at rest nothing goes on by itself. -/
theorem pump_rest {s : State} (h : atRest s = true) : pump s = s := by
  unfold pump
  rw [atRest_cmds h, still_accesses (atRest_still h)]
  simp only [List.length_nil, pumpRun, workRound_rest h, if_true]

/-- In a still block with one command, no MOVE, what goes on is that command's work, when it leaves the block at rest. -/
theorem pump_lone {s : State} {c : Cmd} (h : still s = true) (hc : s.cmds = [c]) (hm : opcodeOf c.desc ≠ 3)
    (hr : ∀ v, c.phase ≠ .reading v) (h1 : atRest (workOn c.uid s) = true) : pump s = workOn c.uid s := by
  have e1 : reMovers s = s := by
    unfold reMovers cmdsWhere
    simp [hc, hm, forEach]
  have e2 : readsDue s = s := by
    unfold readsDue cmdsWhere
    have hp : (match c.phase with | .reading _ => !readOut s c | _ => false) = false := by
      split
      · rename_i v hv; exact absurd hv (hr v)
      · rfl
    simp [hc, forEach]
  have hw : workRound s = workOn c.uid s := workRound_to h e1 e2 (by rw [hc]; rfl) h1
  have hne : signature (workOn c.uid s) ≠ signature s := by
    unfold signature
    rw [atRest_cmds h1, hc]
    simp
  unfold pump
  rw [hc, still_accesses h]
  simp only [List.length_cons, List.length_nil, pumpRun, hw, if_neg hne, workRound_rest h1, if_true]

end Sys2Proof.Machine
end

