-- ==== Sys2Proof/Laws/Reach.lean ====
section
/-! SUPPORT. What reaching an address and reading a place change: translation state, a fold's meters and gauges, the ports, and
the count of free values; no memory, queue, command or thread group. -/

namespace Sys2Proof.Machine

/-! ### Reaching an address -/

/-- Two states differ at most in translation state, folds, and the count of free values. -/
def sameButXlate (s t : State) : Prop := t = { s with xlate := t.xlate, folds := t.folds, free := t.free }

theorem sameButXlate.refl (s : State) : sameButXlate s s := rfl
theorem sameButXlate.trans {s t u : State} (h : sameButXlate s t) (h' : sameButXlate t u) : sameButXlate s u := by
  unfold sameButXlate at *; rw [h', h]

theorem setFold_sameButXlate (s : State) (n : Nat) (f : Fold) : sameButXlate s (setFold s n f) := rfl
theorem modFold_sameButXlate (s : State) (n : Nat) (g : Fold → Fold) : sameButXlate s (modFold s n g) := rfl

theorem weirCharge_sameButXlate (tag : W16) (k b : Nat) (s : State) : sameButXlate s (weirCharge tag k b s) := by
  unfold weirCharge
  split <;> rfl

theorem unhold_sameButXlate (k unit : Nat) (s : State) : sameButXlate s (unhold k unit s) := rfl

theorem holdAt_sameButXlate (tag : W16) (k unit : Nat) (lc : Bool) (s : State) : sameButXlate s (holdAt tag k unit lc s) := by
  unfold holdAt
  split
  · rfl
  · extract_lets w
    split <;> rfl

theorem weirHold_sameButXlate (tag : W16) (k addr n : Nat) (s : State) : sameButXlate s (weirHold tag k addr n s) :=
  holdAt_sameButXlate _ _ _ _ _

theorem tlbFill_sameButXlate (e : TlbEntry) (s : State) : sameButXlate s (tlbFill e s) := by
  unfold tlbFill
  extract_lets here
  split <;> rfl

theorem walkFill_sameButXlate (w : WalkEntry) (s : State) : sameButXlate s (walkFill w s) := by
  unfold walkFill
  extract_lets here
  split <;> rfl

theorem forEach_sameButXlate {α : Type} (l : List α) (g : α → State → State)
    (h : ∀ x s, sameButXlate s (g x s)) : ∀ s, sameButXlate s (forEach l g s) := by
  induction l with
  | nil => intro s; exact rfl
  | cons x l ih => intro s; exact (h x s).trans (ih (g x s))

theorem lookupLeaf_sameButXlate (place slot va : Nat) (s : State) : sameButXlate s (lookupLeaf place slot va s).2 := by
  unfold lookupLeaf
  extract_lets c
  split
  · exact rfl
  · split
    · split
      · exact tlbFill_sameButXlate _ _
      · exact rfl
    · split
      · exact rfl
      · split
        · exact weirHold_sameButXlate _ _ _ _ _
        · dsimp only
          generalize walkFrom s place slot c.gen va (walkStart s place slot c.gen va _).1
            (walkStart s place slot c.gen va _).2 = r
          have h2 := (weirCharge_sameButXlate (mkTag c.fold slot c.gen) 3 (8 * (r.2.length + 1)) s).trans
            (forEach_sameButXlate r.2 (fun w s => walkFill
              { mmu := mmuOf place, level := w.1, slot := slot, gen := c.gen, va := walkRange w.1 va, table := w.2 } s)
              (fun w s => walkFill_sameButXlate _ s) _)
          split
          · split
            · exact h2.trans ((tlbFill_sameButXlate _ _).trans (tlbFill_sameButXlate _ _))
            · exact h2.trans (tlbFill_sameButXlate _ _)
          · exact h2

theorem noteWalk_sameButXlate (va level : Nat) (s : State) : sameButXlate s (noteWalk va level s) := rfl

theorem translate_sameButXlate (place : Nat) (tag : W16) (va : Nat) (a : AccessKind) (s : State) :
    sameButXlate s (translate place tag va a s).2 := by
  unfold translate
  split
  · exact rfl
  · have h := lookupLeaf_sameButXlate place (tagSlot tag) va s
    split
    all_goals rename_i heq
    all_goals rw [heq] at h
    · rename_i e l s1
      have h1 : sameButXlate s (noteWalk va l s1) := h.trans rfl
      dsimp only
      split
      · exact h1
      · split <;> exact h1
    · exact h.trans rfl
    · exact h
    · exact h

/-- Reaching an address changes only translation state, the fold's meters and the count of free values. -/
theorem reach_sameButXlate (place : Nat) (tag : W16) (va : Nat) (a : AccessKind) (s : State) :
    sameButXlate s (reach place tag va a s).2 := by
  unfold reach
  split
  · exact rfl
  · have h := translate_sameButXlate place tag va a s
    split
    all_goals rename_i heq
    all_goals rw [heq] at h
    all_goals exact h

/-! ### Reading a place -/

theorem sameButAccess.refl (s : State) : sameButAccess s s := rfl
theorem sameButAccess.trans {s t u : State} (h : sameButAccess s t) (h' : sameButAccess t u) : sameButAccess s u := by
  unfold sameButAccess at *; rw [h', h]

theorem sameButXlate.access {s t : State} (h : sameButXlate s t) : sameButAccess s t := by
  unfold sameButXlate at h; unfold sameButAccess; rw [h]

theorem forEach_sameButAccess {α : Type} (l : List α) (g : α → State → State)
    (h : ∀ x s, sameButAccess s (g x s)) : ∀ s, sameButAccess s (forEach l g s) := by
  induction l with
  | nil => intro s; exact rfl
  | cons x l ih => intro s; exact (h x s).trans (ih (g x s))

theorem modMeter_sameButAccess (n c : Nat) (g : Meter → Meter) (s : State) : sameButAccess s (modMeter n c g s) := rfl

theorem foldGauge_sameButAccess (n k v : Nat) (s : State) : sameButAccess s (foldGauge n k v s) := rfl

theorem noteLatency_sameButAccess (n k : Nat) (a : W64) (s : State) : sameButAccess s (noteLatency n k a s) := by
  unfold noteLatency
  extract_lets v s1 step
  split
  · rfl
  · split <;> rfl

theorem endReq_sameButAccess (id : Nat) (s : State) : sameButAccess s (endReq id s) := by
  unfold endReq
  split
  · rfl
  · rename_i r _
    dsimp only
    generalize hs : (endHolder (.request id) _ : State) = s0
    have h0 : sameButAccess s s0 := by rw [← hs]; rfl
    have h1 : sameButAccess s (if r.abandoned then endAbandoned r.tag s0 else s0) := by
      split
      · exact h0.trans rfl
      · exact h0
    split
    · exact h1
    · exact h1.trans (noteLatency_sameButAccess _ _ _ _)

theorem drawBelow_sameButAccess (n : Nat) (s : State) : sameButAccess s (drawBelow n s).2 := rfl

theorem pickChannel_sameButAccess (l : List Nat) (s : State) : sameButAccess s (pickChannel l s).2 := rfl

theorem stackIssue_sameButAccess (mem off n : Nat) (w : Bool) (d : List Byte) (s : State) :
    sameButAccess s (stackIssue mem off n w d s) := by
  unfold stackIssue
  split
  · rfl
  · have h := pickChannel_sameButAccess (stackChannels s mem off) s
    dsimp only
    generalize pickChannel (stackChannels s mem off) s = p at h
    split
    · exact h.trans rfl
    · exact h.trans rfl

theorem dropFarLines_sameButAccess (p : FarLine → Bool) (s : State) : sameButAccess s (dropFarLines p s) := by
  unfold dropFarLines
  split <;> rfl

theorem farPlace_sameButAccess (n line : Nat) (s : State) : sameButAccess s (farPlace n line s) := by
  unfold farPlace
  extract_lets mine w s1
  exact (dropFarLines_sameButAccess _ s).trans rfl

theorem issueBeat_sameButAccess (a : Agent) (tag : W16) (mem : Nat) (w : Bool) (b : Nat × Nat) (s : State) :
    sameButAccess s (issueBeat a tag mem w b s) := by
  unfold issueBeat
  extract_lets s1 ask
  have ha : ∀ x n, sameButAccess s (ask x n) := fun _ _ => rfl
  split
  · split
    · exact (ha _ _).trans ((farPlace_sameButAccess _ _ _).trans (endReq_sameButAccess _ _))
    · exact (ha _ _).trans ((stackIssue_sameButAccess _ _ _ _ _ _).trans (farPlace_sameButAccess _ _ _))
  · exact (ha _ _).trans (stackIssue_sameButAccess _ _ _ _ _ _)

theorem charge_sameButAccess (tag : W16) (mem off n : Nat) (w : Bool) (s : State) :
    sameButAccess s (charge tag mem off n w s) := by
  unfold charge
  split
  · rfl
  · extract_lets s1
    have h1 : sameButAccess s s1 :=
      ((weirCharge_sameButXlate _ _ _ _).trans (unhold_sameButXlate _ _ _)).access
    split
    · exact h1
    · split
      · exact h1
      · exact h1.trans (forEach_sameButAccess _ _ (fun b s => issueBeat_sameButAccess _ _ _ _ _ _) _)

theorem contextTlp_sameButAccess (tag : W16) (w r : Bool) (a n : Nat) (s : State) :
    sameButAccess s (contextTlp tag w r a n s) := rfl

theorem memBytes_sameButAccess (mem off n : Nat) (s : State) : sameButAccess s (memBytes mem off n s).2 := by
  unfold memBytes
  split <;> rfl

theorem getBytes_sameButAccess (tag : W16) (mem off n : Nat) (s : State) : sameButAccess s (getBytes tag mem off n s).2 := by
  have h := memBytes_sameButAccess mem off n s
  unfold getBytes
  dsimp only
  generalize memBytes mem off n s = r at h
  refine h.trans ((?_ : sameButAccess _ _).trans (charge_sameButAccess _ _ _ _ _ _))
  split <;> rfl

/-- Reading a place changes only translation state, meters and gauges, the stack and host ports, the far-memory cache, a count of a
context's abandoned requests, and the count of free values. -/
theorem locRead_sameButAccess (tag : W16) (mem off n : Nat) (s : State) : sameButAccess s (locRead tag mem off n s).2 := by
  unfold locRead
  split
  · rfl
  · split
    · unfold holdAccess
      split
      · rfl
      · exact (weirHold_sameButXlate _ _ _ _ _).access
    · split
      · rfl
      · have h := getBytes_sameButAccess tag mem off n s
        dsimp only
        exact h

/-- What the fetch of an instruction changes. -/
theorem issues_sameButAccess {t : GroupRef} {guard : BitVec 4} {s s1 : State} {i : Issue} (h : issues t guard s i s1) :
    sameButAccess s s1 := by
  obtain ⟨_, _, w, ⟨_, mem, off, s0, s2, bs, hr, hl, rfl, _⟩, _⟩ := h
  have h1 := (reach_sameButXlate i.place i.cmd.tag i.grp.pc.toNat .fetch s).access
  rw [hr] at h1
  have h2 := locRead_sameButAccess i.cmd.tag mem off 8 (onBehalfAt i.cmd.uid i.master (some t) i.grp.pc s0)
  rw [hl] at h2
  have h0 : sameButAccess s0 (onBehalfAt i.cmd.uid i.master (some t) i.grp.pc s0) := rfl
  have h3 : sameButAccess s2 (onBehalfOfNone s2) := rfl
  exact h1.trans (h0.trans (h2.trans h3))

end Sys2Proof.Machine
end

