-- ==== Sys2Proof/Laws/Time.lean ====
section
/-! SUPPORT. A frame sent over the line is read as it was sent (R361). -/

namespace Sys2Proof.Machine

/-- The low part of two parts put together. -/
theorem setWidth_low {a b : Nat} (x : BitVec a) (y : BitVec b) : (x ++ y).setWidth b = y := by
  ext i hi
  simp [BitVec.getLsbD_append, hi]

/-- A field of two parts put together that lies in the high one. -/
theorem extract_high {a b : Nat} (x : BitVec a) (y : BitVec b) (k n : Nat) :
    (x ++ y).extractLsb' (b + k) n = x.extractLsb' k n := by
  ext i hi
  simp only [BitVec.getElem_extractLsb', BitVec.getLsbD_append]
  rw [if_neg (by omega)]
  congr 1
  omega

/-- A field of two parts put together that is the low one. -/
theorem extract_low {a b : Nat} (x : BitVec a) (y : BitVec b) : (x ++ y).extractLsb' 0 b = y := by
  ext i hi
  simp [BitVec.getLsbD_append, hi]

/-- A whole frame's fields are read back from its 176 bits. -/
theorem readFrame_frameWord (ty : FrameType) (time epoch : W64) : readFrame (frameWord ty time epoch) = some (ty, time, epoch) := by
  have body : ∀ k n, (frameWord ty time epoch).extractLsb' (16 + k) n = (frameBody ty time epoch).extractLsb' k n :=
    fun k n => extract_high _ _ k n
  have h1 : (frameWord ty time epoch).extractLsb' 168 8 = 0x4D := by
    rw [body 152 8]; unfold frameBody
    rw [extract_high _ _ 136 8, extract_high _ _ 72 8, extract_high _ _ 8 8]
    exact (extract_high _ _ 0 8).trans rfl
  have h2 : (frameWord ty time epoch).extractLsb' 160 8 = frameCode ty := by
    rw [body 144 8]; unfold frameBody
    rw [extract_high _ _ 128 8, extract_high _ _ 64 8, extract_high _ _ 0 8, extract_low]
  have h3 : (frameWord ty time epoch).extractLsb' 96 64 = time := by
    rw [body 80 64]; unfold frameBody
    rw [extract_high _ _ 64 64, extract_high _ _ 0 64, extract_low]
  have h4 : (frameWord ty time epoch).extractLsb' 32 64 = epoch := by
    rw [body 16 64]; unfold frameBody
    rw [extract_high _ _ 0 64, extract_low]
  have h5 : (frameWord ty time epoch).extractLsb' 16 16 = 0 := by
    rw [body 0 16]; unfold frameBody
    rw [extract_low]
  have h6 : (frameWord ty time epoch).setWidth 16 = crc16 ((frameBody ty time epoch).setWidth 152) := setWidth_low _ _
  have h7 : (frameWord ty time epoch).extractLsb' 16 152 = (frameBody ty time epoch).setWidth 152 := by
    rw [body 0 152]
    ext i hi
    simp
  unfold readFrame
  rw [h1, h5, h6, h7, h2, h3, h4]
  rw [if_pos ⟨rfl, rfl, rfl⟩]
  cases ty <;> rfl

/-- A frame that comes over the line is the one sent. -/
theorem frameIn_eq (ty : FrameType) (time epoch : W64) (s : State) : frameIn ty time epoch s =
    let s1 := if s.tb.frame.isSome then frameError s else s
    { s1 with tb := { s1.tb with frame := some (ty, time, epoch, s1.tb.cycle + 100) } } := by
  unfold frameIn lineIn
  rw [readFrame_frameWord]

end Sys2Proof.Machine
end

