-- ==== Sys2Proof/Tests/Slice0.lean ====
section
/-! SUPPORT. Tests on one step each: small states that meet the hypotheses of the statements, one well-formedness refusal for each
check, and results taken from the words of spec/. -/

set_option Elab.async false

namespace Sys2Proof.Tests

open Sys2Proof Sys2Proof.Machine

/-! ### Small states -/

/-- A descriptor of a queue (R175): opcode, queue, tag, sequence, and further bits. -/
def desc (op q hqi : Nat) (tag : W16) (seq extra : Nat) : BitVec 512 :=
  BitVec.ofNat 512 (op * 2 ^ 56 + tag.toNat * 2 ^ 32 + hqi * 2 ^ 24 + q * 2 ^ 12 + seq * 2 ^ 96 + extra)

/-- Tag of context slot 5, generation 2, of fold 1 (R182). -/
def tag1 : W16 := mkTag 1 5 2

/-- A descriptor of queue 7, and one of the kernel queue. -/
def dq (op x : Nat) : BitVec 512 := desc op 7 3 tag1 0 x
def dk (op x : Nat) : BitVec 512 := desc op 0 0 0 0 x

/-- Fold 1 active, unsealed, holding every tarn and pond unit, half-groups 0 and 1 and every engine. -/
def fold1 : Fold :=
  { Fold.reset with
    state := .active, scrubbed := false,
    live := { FoldRes.reset with
      engines := 0xFFFFFFFF, halfGroups := 0xFFFF, tarnUnits := ~~~0, pondUnits := ~~~0 } }

/-- A live context with a root. -/
def ctx1 : Ctx := { Ctx.reset with state := .live, fold := 1, gen := 2, root := some 0x100000 }

/-- A translation of the context's first GiB to the tarn, in a place's TLB. -/
def leaf1 (place : Nat) : TlbEntry :=
  { place := place, slot := 5, gen := 2, va := 0, size := 2 ^ 30, pa := 0x0007000000000000 + 2 ^ 42, write := true, noexec := false }

/-- A translation of its second GiB to the pond of paddock 0, where code lies: all zero, which is NOP. -/
def leafCode (place : Nat) : TlbEntry :=
  { place := place, slot := 5, gen := 2, va := 2 ^ 30, size := 2 ^ 30, pa := 0x0007000000000000 + 0x600 * 2 ^ 32, write := true, noexec := false }

/-- A booted block at rest: fold 1, context slot 5, HQI 3, queue 7 bound to it, the kernel queue enabled, the link up. -/
def base : State :=
  { State.reset with
    boot := { Boot.reset with state := .ready, step := 9 }
    pins := { Pins.reset with resetLow := false, alive := true }
    folds := [(1, fold1)]
    ctxs := [(0, Ctx.atReset 1), (5, ctx1)]
    hqis := [(3, { Hqi.reset with created := true, fold := 1 })]
    queues := [(0, { Queue.reset with state := .active, cring := 0x4000, size := 64, batch := 1, sqTail := 1 }),
      (7, { Queue.reset with
        state := .active, hqi := 3, loc := 1, tag := tag1, ring := 0x8000, cring := 0xC000, size := 64, batch := 1, sqTail := 1 })]
    kpage := { KernelPage.reset with enabled := true, ring := 0x2000, cring := 0x4000, size := 6 }
    hostPort := { HostPort.reset with link := 1 }
    lmap := { LogMap.reset with licensed := 32, map := (List.range 32).map fun i => (i, BitVec.ofNat 16 (0x8000 + i)) }
    xlate := { Xlate.reset with tlb := (List.range 10).map leaf1 ++ (List.range 10).map leafCode }
    power := { Power.atReset with domainsOn := ~~~0 }
    tb := { Timebase.reset with state := .locked, time := 1000000, epoch := 1 }
    tarn := [(0x1000, 1), (0x1003, 2)] }

/-! ### The herd -/

/-- A launch of one gang of two groups, 32 registers, 1,024 bytes of local store. -/
def launchDesc : BitVec 512 :=
  desc 2 7 3 tag1 0 (2 ^ 30 * 2 ^ 128 + 1 * 2 ^ 280 + 3 * 2 ^ 285 + 2 * 2 ^ 290)

/-- A group with lane 0 alone active and some registers set. -/
def grp1 : Group :=
  { pc := 0x40000000, active := 1, alive := 1, regs := [(0, 7), (1, 0x3F800000), (4, 0x1000)], flags := [], recon := [],
    rets := [], draws := [], wait := .none }

def cmd1 : Cmd :=
  { uid := 1, q := 7, desc := launchDesc, tag := tag1, acceptTime := 0, digest := 0, journalled := false, phase := .launched,
    boosted := false, judged := false, moved := 0, launch := Launch.reset, coll := CollState.reset, carriedIn := none,
    readyAt := 0, startAt := 0, pages := [], mover := 0, asked := 0, opnd := [], seg := 0, out := [], got := [], setting := none }

/-- A running launch, whose code was translated last. -/
def herd : State :=
  { base with
    xlate := { base.xlate with lastVa := 0x40000000 }
    cmds := [cmd1], nextUid := 2
    herd := { Herd.reset with gangs := [{ launch := 1, gang := 0, core := 3, store := [], groups := [grp1, grp1] }] } }


def t1 : GroupRef := { launch := 1, gang := 0, group := 0 }

def i1 : Issue :=
  { cmd := cmd1, gang := { launch := 1, gang := 0, core := 3, store := [], groups := [grp1, grp1] }, grp := grp1, lanes := [0],
    free := 0, repro := false }

/-- `alone` and `beside` as tests. -/
def aloneB (q : Nat) (d : BitVec 512) (s : State) : Bool :=
  decide (q < 4096) && accepts q d s && canon s && atRest s && s.twin.state == 0 && (s.sems.all fun p => p.2.waiters.isEmpty) &&
    ((q == 0 && (queueAt s 0).tag == 0) || (q != 0 && (foldAt s (tagFold (queueAt s q).tag)).state == .active &&
      (foldAt s (tagFold (queueAt s q).tag)).freezing == none))
theorem aloneOf {q : Nat} {d : BitVec 512} {s : State} (h : aloneB q d s = true) : alone q d s := by
  simp only [aloneB, Bool.and_eq_true, Bool.or_eq_true, decide_eq_true_eq, beq_iff_eq, bne_iff_ne] at h
  unfold alone
  tauto

def besideB (d : BitVec 512) (s : State) (x : Cmd) : Bool :=
  accepts 0 d s && canon s && still s && s.cmds == [x] && decide (x.uid < s.nextUid) && s.twin.state == 0 &&
    (s.sems.all fun p => p.2.waiters.isEmpty) && (queueAt s 0).tag == 0 && (foldAt s (tagFold x.tag)).freezing == none
theorem besideOf {d : BitVec 512} {s : State} {x : Cmd} (h : besideB d s x = true) : beside d s x := by
  simp only [besideB, Bool.and_eq_true, decide_eq_true_eq, beq_iff_eq] at h
  unfold beside
  tauto

/-- A fetch from the pond leaves the state as it is. -/
theorem issuesOf {guard : BitVec 4} {s : State} {i : Issue} (hg : guard ≠ 8) (hi : issueOf t1 guard s = some i)
    (hr : reach i.place i.cmd.tag i.grp.pc.toNat .fetch s = (.loc 0 0, s)) (hl : landOk (onBehalfAt i.cmd.uid i.master (some t1) i.grp.pc s) i.cmd.tag 0 0 = true)
    (hw : reachable (onBehalfAt i.cmd.uid i.master (some t1) i.grp.pc s) i.cmd.tag 0 0 8 = true) (hp : readFails s i.cmd.tag 0 0 8 = false) (ha : s.xlate.agent = none)
    (hc : coreError s i.gang.core = false) (hb : wordReserved (BitVec.ofNat 64 (ofLe (memRead s.pond 0 8))) = false) :
    issues t1 guard s i s := by
  have h : onBehalfOfNone (onBehalfAt i.cmd.uid i.master (some t1) i.grp.pc s) = s := by
    unfold onBehalfOfNone onBehalfAt
    rw [← ha]
  refine ⟨hg, hc, _, ⟨hi, 0, 0, s, onBehalfAt i.cmd.uid i.master (some t1) i.grp.pc s, memRead s.pond 0 8, hr, ?_, h.symm, rfl⟩, hb⟩
  have h3 : readFails (onBehalfAt i.cmd.uid i.master (some t1) i.grp.pc s) i.cmd.tag 0 0 8 = false := hp
  unfold locRead
  rw [hl, hw, h3]
  rfl

/-- The base group can issue an unguarded instruction. -/
theorem wit_issues : issues t1 0 herd i1 herd :=
  issuesOf (by decide) (by decide +kernel) (by decide +kernel) (by decide +kernel) (by decide +kernel) (by decide +kernel) rfl
    (by decide +kernel) (by decide +kernel)

def rf (rd ra rb rc : Byte) : RFmt := { guard := 0, mod4 := 0, rd := rd, ra := ra, rb := rb, rc := rc, mod16 := 0 }
def fi (rd ra : Byte) (imm : W32) : IFmt := { guard := 0, mod4 := 0, rd := rd, ra := ra, imm := imm }
def mf (rd ra rb : Byte) (ty : BitVec 3) (off : W16) : MFmt :=
  { guard := 0, mod4 := 0, rd := rd, ra := ra, rb := rb, modReserved := false, scope := 0, order := 1, ty := ty, off := off }
def bf (ra : Byte) (off : W32) : BFmt := { guard := 0, mod4 := 0, ra := ra, off := off }

/-- The last allocated register, r31, may be named; a launch of 32 registers (R107). -/
theorem wit_registers : hlRegs i1.desc = 32 ∧ allocated [31, 0, 1, 2] i1 ∧ allocated [3, 1] i1 ∧ ¬ allocated [32] i1 ∧
    groupCanon i1.grp = true ∧ Tab.wf 0 i1.grp.regs = true ∧ Tab.wf 0 i1.grp.flags = true := by
  refine ⟨by decide +kernel, ?_, ?_, ?_, by decide +kernel, by decide +kernel, by decide +kernel⟩ <;>
    simp only [allocated] <;> decide +kernel

/-- The second flag operand of SEL and VOTE, and the flag range of comparisons, at their ends. -/
theorem wit_flags : ((0 : BitVec 4) ≠ 8 ∧ (15 : BitVec 4) ≠ 8) ∧ 1 ≤ (7 : Byte).toNat ∧ (7 : Byte).toNat ≤ 7 := by decide

/-- IntegerAndMoveResults, IntegerDivisionByZeroTrapsNothing, ShiftsAndFields, LaneInstructions, Fp32ResultsAndCanonicalNaN,
ConversionsAndFunctions: one state and one format that meet their hypotheses together. -/
theorem wit_registerForms : Tab.wf 0 i1.grp.regs = true ∧ issues t1 (rf 31 0 1 2).guard herd i1 herd ∧
    allocated [(rf 31 0 1 2).rd, (rf 31 0 1 2).ra, (rf 31 0 1 2).rb, (rf 31 0 1 2).rc] i1 ∧
    issues t1 (fi 3 1 9).guard herd i1 herd ∧ allocated [(fi 3 1 9).rd, (fi 3 1 9).ra] i1 :=
  ⟨by decide +kernel, wit_issues, by simp only [allocated]; decide +kernel, wit_issues, by simp only [allocated]; decide +kernel⟩

/-- The operand clauses of those statements: a division by zero, the overflow, a shift by 31 and a field at the top of the word,
a NaN, a lane that exists, a finite result. -/
theorem wit_operands : getReg i1.grp 0 2 = 0 ∧ (7 : Nat) < 32 ∧ getReg i1.grp 0 0 = 7 ∧ ofFp32 0x7FC00000 = .nan ∧
    (getReg i1.grp 0 0).toNat < 16 ∧ (ofFp32 (toFp32 (.fin true 3 (-1))) = .fin true 12582912 (-23)) ∧
    toFp32 (.fin true 3 (-1)) = 0xBFC00000 := by decide +kernel

/-- ComparisonsWriteOneFlag. -/
theorem wit_ComparisonsWriteOneFlag : issues t1 (rf 7 0 1 0).guard herd i1 herd ∧ allocated [(rf 7 0 1 0).ra, (rf 7 0 1 0).rb] i1 ∧
    1 ≤ (rf 7 0 1 0).rd.toNat ∧ (rf 7 0 1 0).rd.toNat ≤ 7 ∧ Tab.wf 0 i1.grp.flags = true :=
  ⟨wit_issues, by simp only [allocated]; decide +kernel, by decide, by decide, by decide +kernel⟩

/-- The herd with a reproducible context. -/
def herdR : State := { herd with ctxs := [(0, Ctx.atReset 1), (5, { ctx1 with reproducible := true })] }
def iR : Issue := { i1 with repro := true }
theorem wit_issuesR : issues t1 0 herdR iR herdR :=
  issuesOf (by decide) (by decide +kernel) (by decide +kernel) (by decide +kernel) (by decide +kernel) (by decide +kernel) rfl
    (by decide +kernel) (by decide +kernel)

/-- ApproximationsStayNear, outside and in a reproducible context. -/
theorem wit_ApproximationsStayNear : (issues t1 (rf 3 1 0 0).guard herd i1 herd ∧ i1.repro = false) ∧
    (issues t1 (rf 3 1 0 0).guard herdR iR herdR ∧ iR.repro = true) ∧ allocated [3, 1] i1 ∧ allocated [3, 1] iR :=
  ⟨⟨wit_issues, rfl⟩, ⟨wit_issuesR, rfl⟩, by simp only [allocated]; decide +kernel, by simp only [allocated]; decide +kernel⟩

/-- LedgerInstructions: the last ledger register of a 32-register launch is L3. -/
theorem wit_LedgerInstructions : groupCanon i1.grp = true ∧ issues t1 (rf 3 3 1 0).guard herd i1 herd ∧
    8 * (rf 3 3 1 0).rd.toNat + 8 ≤ hlRegs i1.desc ∧ 8 * (rf 3 3 1 0).ra.toNat + 8 ≤ hlRegs i1.desc ∧
    allocated [(rf 3 3 1 0).rd, (rf 3 3 1 0).rb] i1 ∧ (rf 3 3 1 0).rd.toNat + 1 < hlRegs i1.desc :=
  ⟨by decide +kernel, wit_issues, by decide +kernel, by decide +kernel, by simp only [allocated]; decide +kernel, by decide +kernel⟩

/-- PhiloxAndRng: the last four registers. -/
theorem wit_PhiloxAndRng : groupCanon i1.grp = true ∧ issues t1 (rf 28 28 30 0).guard herd i1 herd ∧
    (rf 28 28 30 0).rd.toNat + 3 < hlRegs i1.desc ∧ (rf 28 28 30 0).rb.toNat + 1 < hlRegs i1.desc :=
  ⟨by decide +kernel, wit_issues, by decide +kernel, by decide +kernel⟩

/-- The group with other control state. -/
def herdG (g h : Group) : State :=
  { herd with herd := { Herd.reset with gangs := [{ launch := 1, gang := 0, core := 3, store := [], groups := [g, h] }] } }
def iG (g h : Group) (lanes : List Nat) : Issue :=
  { i1 with gang := { launch := 1, gang := 0, core := 3, store := [], groups := [g, h] }, grp := g, lanes := lanes }
theorem wit_issuesG (g h : Group) (lanes : List Nat) (guard : BitVec 4) (hg : guard ≠ 8) (h1 : g.pc = 0x40000000)
    (h2 : issueOf t1 guard (herdG g h) = some (iG g h lanes))
    (hl : landOk (onBehalfAt 1 (coreMaster 3) (some t1) 0x40000000 (herdG g h)) tag1 0 0 = true)
    (hw : reachable (onBehalfAt 1 (coreMaster 3) (some t1) 0x40000000 (herdG g h)) tag1 0 0 8 = true)
    (h3 : reach 0 tag1 0x40000000 .fetch (herdG g h) = (.loc 0 0, herdG g h)) :
    issues t1 guard (herdG g h) (iG g h lanes) (herdG g h) :=
  issuesOf hg h2 (by
      rw [show (iG g h lanes).grp.pc = 0x40000000 from h1, show (0x40000000 : W64).toNat = 0x40000000 by decide,
        show (iG g h lanes).place = 0 by simp [Issue.place, iG], show (iG g h lanes).cmd.tag = tag1 from rfl, h3])
    (by rw [show (iG g h lanes).grp.pc = 0x40000000 from h1]; exact hl)
    (by rw [show (iG g h lanes).grp.pc = 0x40000000 from h1]; exact hw)
    rfl rfl rfl (by rw [show (herdG g h).pond = base.pond from rfl]; decide +kernel)

def rec16 : List Recon := List.replicate 16 { join := 0, mask := 3, elsePc := 0, elseMask := 0 }
/-- Two lanes active, g1 set in lane 0 alone; full stacks. -/
def grpF : Group := { grp1 with active := 3, alive := 3, flags := [(0, 1)], recon := rec16, rets := List.replicate 16 0x40 }
/-- Two lanes active, one path not yet taken, one return address. -/
def grpJ : Group :=
  { grp1 with active := 1, alive := 3, recon := [{ join := 0, mask := 3, elsePc := 0x80, elseMask := 2 }], rets := [0x40] }

/-- BranchesCallsAndJoins, clause by clause: no lane, every lane, some lanes with room and with none, full return stack, a return
address, a join with and without a path left. -/
theorem wit_BranchesCallsAndJoins :
    (issues t1 9 (herdG grpF grp1) (iG grpF grp1 [1]) (herdG grpF grp1) ∧ maskOut grpF.active [1] ≠ 0 ∧ 16 ≤ grpF.recon.length ∧
      16 ≤ grpF.rets.length) ∧
    (issues t1 1 (herdG { grpF with recon := [] } grp1) (iG { grpF with recon := [] } grp1 [0])
      (herdG { grpF with recon := [] } grp1)) ∧
    (issues t1 1 (herdG grp1 grp1) (iG grp1 grp1 []) (herdG grp1 grp1)) ∧
    (issues t1 0 (herdG grpJ grp1) (iG grpJ grp1 [0]) (herdG grpJ grp1) ∧ maskOut grpJ.active [0] = 0 ∧ grpJ.rets.length < 16 ∧
      (2 : W16) &&& grpJ.alive ≠ 0 ∧ (2 : W16) &&& grp1.alive = 0 ∧ getPair grpJ 0 0 = 7 + 0x3F800000 * 2 ^ 32 ∧
      (0 : Nat) + 1 < hlRegs i1.desc) :=
  ⟨⟨wit_issuesG _ _ _ _ (by decide) rfl (by decide +kernel) (by decide +kernel) (by decide +kernel) (by decide +kernel), by decide +kernel, by decide, by decide⟩,
    wit_issuesG _ _ _ _ (by decide) rfl (by decide +kernel) (by decide +kernel) (by decide +kernel) (by decide +kernel),
    wit_issuesG _ _ _ _ (by decide) rfl (by decide +kernel) (by decide +kernel) (by decide +kernel) (by decide +kernel),
    wit_issuesG _ _ _ _ (by decide) rfl (by decide +kernel) (by decide +kernel) (by decide +kernel) (by decide +kernel), by decide +kernel, by decide, by decide,
    by decide, by decide +kernel, by decide +kernel⟩

/-- BarrierExitAndSoftwareTrap: another group that runs, one that waits at the barrier, some lanes, all lanes. -/
theorem wit_BarrierExitAndSoftwareTrap :
    issues t1 0 (herdG grp1 grp1) (iG grp1 grp1 [0]) (herdG grp1 grp1) ∧ grp1.wait ≠ .barrier ∧ grp1.wait ≠ .exited ∧
    issues t1 0 (herdG grp1 { grp1 with wait := .barrier }) (iG grp1 { grp1 with wait := .barrier } [0])
      (herdG grp1 { grp1 with wait := .barrier }) ∧
    maskOut grp1.active [0] = 0 ∧ maskOut grpF.active [1] ≠ 0 :=
  ⟨wit_issuesG _ _ _ _ (by decide) rfl (by decide +kernel) (by decide +kernel) (by decide +kernel) (by decide +kernel), by decide, by decide,
    wit_issuesG _ _ _ _ (by decide) rfl (by decide +kernel) (by decide +kernel) (by decide +kernel) (by decide +kernel), by decide +kernel, by decide +kernel⟩

/-- LocalStoreAccesses: the last bytes of the local store, one byte past them, an unaligned address; an f32 addition. -/
theorem wit_LocalStoreAccesses :
    (localAddr i1 (mf 2 2 0 2 1020) 0 = 1020 ∧ 1020 % accBytes (mf 2 2 0 2 1020) = 0 ∧
      1020 + accBytes (mf 2 2 0 2 1020) ≤ hlLocal i1.desc ∧ (mf 2 2 0 2 1020).rd.toNat + ceilDiv 4 4 - 1 < hlRegs i1.desc) ∧
    (localAddr i1 (mf 2 2 0 2 1024) 0 = 1024 ∧ hlLocal i1.desc < 1024 + 4) ∧
    (localAddr i1 (mf 2 0 0 2 0) 0 = 7 ∧ 7 % accBytes (mf 2 0 0 2 0) ≠ 0) ∧
    (localAddr i1 (mf 3 2 0 2 992) 0 = 992 ∧ 992 % 32 = 0 ∧ 992 + 32 ≤ hlLocal i1.desc ∧ 8 * 3 + 8 ≤ hlRegs i1.desc) ∧
    (i1.repro = false ∧ atomLegal .fadd (mf 2 2 3 4 1020) true i1 = true ∧ 1020 % atomBytes 4 = 0) := by decide +kernel

/-- The herd's state while an access of its group is made. -/
def herdA : State := onBehalfAt 1 (coreMaster 3) (some t1) 0x40000000 herd

def herdD (va : Nat) : State := noteWalk va 0 herdA

/-- LD and ST of the pair in r4, r5 with the offset: one lane reaches the tarn. -/
theorem wit_reaches (f : MFmt) (n align disp off : Nat) (a : AccessKind) (hg : f.guard = 0)
    (h2 : globalAddr i1 f 0 % align = 0) (h3 : reach 0 tag1 ((globalAddr i1 f 0 + disp) % 2 ^ 64) a herdA = (.loc 1 off, herdD (globalAddr i1 f 0 + disp)))
    (h4 : landOk (herdD (globalAddr i1 f 0 + disp)) tag1 1 off = true)
    (h5 : reachable (herdD (globalAddr i1 f 0 + disp)) tag1 1 off n = true) (h6 : releaseWaits herd f t1 i1 = false) (h7 : poisoned (herdD (globalAddr i1 f 0 + disp)) 1 off n = false) :
    laneReaches t1 f n align disp a herd i1 0 1 off (herdD (globalAddr i1 f 0 + disp)) :=
  ⟨herd, by rw [hg]; exact wit_issues, rfl, h2, h6, h3, by decide, h4, h5, h7⟩

theorem wit_GlobalLoadsAndStores :
    canon herd = true ∧ laneReaches t1 (mf 8 4 0 5 0) 32 32 0 .read herd i1 0 1 0x1000 (herdD 0x1000) ∧
    laneReaches t1 (mf 31 4 0 2 4) 4 4 0 .write herd i1 0 1 0x1004 (herdD 0x1004) ∧
    (mf 8 4 0 5 0).ty.toNat ≤ 5 ∧ (mf 8 4 0 5 0).ra.toNat + 1 < hlRegs i1.desc ∧
    (mf 8 4 0 5 0).rd.toNat + ceilDiv (accBytes (mf 8 4 0 5 0)) 4 - 1 < hlRegs i1.desc ∧
    laneReaches t1 (mf 3 4 0 0 0) 32 32 0 .read herd i1 0 1 0x1000 (herdD 0x1000) ∧ (mf 3 4 0 0 0).order ≠ 0 ∧ 8 * 3 + 8 ≤ hlRegs i1.desc :=
  ⟨by decide +kernel, wit_reaches _ _ _ _ _ _ rfl (by decide +kernel) (by decide +kernel) (by decide +kernel) (by decide +kernel)
      (by decide +kernel) (by decide +kernel),
    wit_reaches _ _ _ _ _ _ rfl (by decide +kernel) (by decide +kernel) (by decide +kernel) (by decide +kernel) (by decide +kernel)
      (by decide +kernel),
    by decide +kernel, by decide +kernel, by decide +kernel,
    wit_reaches _ _ _ _ _ _ rfl (by decide +kernel) (by decide +kernel) (by decide +kernel) (by decide +kernel) (by decide +kernel)
      (by decide +kernel),
    by decide +kernel, by decide +kernel⟩

theorem wit_GlobalAtomicsAndFences :
    atomLegal .add (mf 2 4 8 2 8) false i1 = true ∧ laneReaches t1 (mf 2 4 8 2 8) (atomBytes 2) (atomBytes 2) 0 .atomic herd i1 0 1 0x1008 (herdD 0x1008) ∧
    laneReaches t1 (mf 0 4 24 0 0) 32 32 0 .atomic herd i1 0 1 0x1000 (herdD 0x1000) ∧ (24 : Nat) + 7 < hlRegs i1.desc ∧
    laneReaches t1 (mf 0 4 0 0 0) 4 64 36 .atomic herd i1 0 1 0x1024 (herdD 0x1024) ∧
    releaseWaits herd { mf 0 0 0 0 0 with scope := 3, order := 3 } t1 i1 = false ∧ Tab.wf [] herd.herd.caches = true :=
  ⟨by decide +kernel,
    wit_reaches _ _ _ _ _ _ rfl (by decide +kernel) (by decide +kernel) (by decide +kernel) (by decide +kernel) (by decide +kernel)
      (by decide +kernel),
    wit_reaches _ _ _ _ _ _ rfl (by decide +kernel) (by decide +kernel) (by decide +kernel) (by decide +kernel) (by decide +kernel)
      (by decide +kernel),
    by decide +kernel,
    wit_reaches _ _ _ _ _ _ rfl (by decide +kernel) (by decide +kernel) (by decide +kernel) (by decide +kernel) (by decide +kernel)
      (by decide +kernel),
    by decide +kernel, by decide +kernel⟩

/-- IllegalHerdInstructionsTrap: r32 of 32 registers, ledger L4, the pair r31 and r32, guard 8, an unaligned load, f32 exchanges in a
reproducible context, and a group that waits. -/
theorem wit_IllegalHerdInstructionsTrap :
    hlRegs i1.desc ≤ (rf 32 0 0 0).rd.toNat ∧ hlRegs i1.desc < 8 * (rf 4 0 0 0).rd.toNat + 8 ∧
    hlRegs i1.desc ≤ (mf 0 31 0 2 0).ra.toNat + 1 ∧
    (issueOf t1 8 herd = some { i1 with lanes := guarded 8 grp1 } ∧ reach 0 tag1 0x40000000 .fetch herd = (.loc 0 0, herd)) ∧
    (accLegal (mf 2 4 0 2 2) i1 = true ∧ pairLegal (mf 2 4 0 2 2) i1 = true ∧ globalAddr i1 (mf 2 4 0 2 2) 0 % 4 ≠ 0) ∧
    (atomLegal .xchg (mf 2 4 8 4 0) false iR = true ∧ atomLegal .cas (mf 2 4 8 4 0) false iR = true) ∧
    issueOf t1 0 (herdG { grp1 with wait := .barrier } grp1) = none := by decide +kernel

/-! Results taken from the words of the rules, one step each. -/

def reg (o : Out) (lane r : Nat) : Option W32 :=
  match o with
  | .next s => (groupAt s t1).map fun g => getReg g lane r
  | _ => none
def pcOf (o : Out) : Option W64 :=
  match o with
  | .next s => (groupAt s t1).map fun g => g.pc
  | _ => none
/-- The detail of the launch's trap. -/
def trapOf (o : Out) : Option Nat :=
  match o with
  | .next s => (cmdAt s 1).bind fun c => c.launch.trap.map fun x => x.detail
  | _ => none

theorem test_iadd_same_source : reg (exec (.iadd t1 (rf 0 0 0 0)) herd) 0 0 = some 14 := by decide +kernel
theorem test_idiv_by_zero : reg (exec (.idiv t1 (rf 3 0 2 0) false) herd) 0 3 = some 0xFFFFFFFF := by decide +kernel
theorem test_fadd_one_and_one : reg (exec (.fadd t1 (rf 3 1 1 0) ⟨false, false, false, false, false, false⟩) herd) 0 3 = some 0x40000000 := by
  decide +kernel
theorem test_ex2_of_one : reg (exec (.ex2 t1 (rf 3 1 0 0)) herd) 0 3 = some 0x40000000 := by decide +kernel
theorem test_bra_offset : pcOf (exec (.nop t1 (bf 0 0)) herd) = some 0x40000008 := by decide +kernel
theorem test_register_above_allocation : trapOf (exec (.iadd t1 (rf 32 0 0 0)) herd) = some 0x20 := by decide +kernel
theorem test_ld_unaligned : trapOf (exec (.ld t1 (mf 2 4 0 2 2)) herd) = some 0x21 := by decide +kernel
theorem test_ldl_bounds : trapOf (exec (.ldl t1 (mf 2 2 0 2 1024)) herd) = some 0x28 := by decide +kernel
theorem test_trap : trapOf (exec (.trap t1 (fi 0 0 5)) herd) = some 0x27 := by decide +kernel

/-! ### Commands of queues -/

/-- A block with translation flags placed, some far memory, a semaphore, a table in the walk cache. -/
def rich : State :=
  { base with
    sems := [(2, { Sem.reset with created := true, fold := 1, count := 3, max := 5, holders := [(tag1, 2)] })]
    xlate := { base.xlate with
      pteBits := [(0x23, 0), (0x24, 1), (0x25, 7)], farSize := 2 ^ 32,
      walks := [{ mmu := 0, level := 3, slot := 5, gen := 2, va := 0, table := 0x5000 }] } }

/-- A mover's number lies below 16: a test for all of them is a test for the free one. -/
theorem mover_cases (P : Nat → Prop) (h : ∀ m : Fin 16, P m) (n : Nat) : P (n % 16) := h ⟨n % 16, Nat.mod_lt _ (by decide)⟩

/-- FencesSemaphoresMarks: a marker, units that are there, units held, a fence slot that is local, one in host memory, and one that is
judged at once or kept. -/
theorem wit_FencesSemaphoresMarks_mark : alone 7 (dq 12 (77 * 2 ^ 448)) rich := aloneOf (by decide +kernel)
theorem wit_FencesSemaphoresMarks_acquire :
    let d := dq 6 (2 * 2 ^ 448 + 3 * 2 ^ 384)
    alone 7 d rich ∧ semOf (taken 7 d rich) (accepted 7 d rich) = some 2 ∧ semFits (semAt rich 2) tag1 (unitsOf d) = true :=
  ⟨aloneOf (by decide +kernel), by decide +kernel⟩
theorem wit_FencesSemaphoresMarks_release :
    let d := dq 7 (2 * 2 ^ 448 + 2 * 2 ^ 384)
    alone 7 d rich ∧ semOf (taken 7 d rich) (accepted 7 d rich) = some 2 ∧ unitsOf d ≤ heldBy (semAt rich 2) tag1 ∧
      (semAt rich 2).count.toNat + unitsOf d ≤ (semAt rich 2).max.toNat :=
  ⟨aloneOf (by decide +kernel), by decide +kernel⟩
theorem wit_FencesSemaphoresMarks_signal :
    let d := dq 4 (0x1000 * 2 ^ 448 + 2 * 2 ^ 384)
    let x := reach 8 tag1 0x1000 .write (onBehalf 1 hostMaster (taken 7 d rich))
    alone 7 d rich ∧ (operand0 d).toNat % 16 = 0 ∧ x.1 = .loc 1 0x1000 ∧
      landOk x.2 tag1 1 0x1000 = true ∧ reachable x.2 tag1 1 0x1000 16 = true ∧ poisoned x.2 1 0x1000 16 = false :=
  ⟨aloneOf (by decide +kernel), by decide +kernel⟩
theorem wit_FencesSemaphoresMarks_wait :
    let d := dq 5 (0x2000 * 2 ^ 448 + 1 * 2 ^ 384)
    let e := dq 5 (0x2000 * 2 ^ 448)
    let x := reach 8 tag1 0x2000 .read (onBehalf 1 hostMaster (setPhase (taken 7 d rich) 1 (.reading false)))
    alone 7 d rich ∧ alone 7 e rich ∧ x.1 = .loc 1 0x2000 ∧
      (locRead tag1 1 0x2000 16 x.2).1 = .ok (List.replicate 16 0) ∧
      judgeFence (BitVec.ofNat 128 (ofLe (List.replicate 16 0))) (operand1 d) = .keep ∧
      judgeFence (BitVec.ofNat 128 (ofLe (List.replicate 16 0))) (operand1 e) = .done 1 :=
  ⟨aloneOf (by decide +kernel), aloneOf (by decide +kernel), by decide +kernel⟩

/-- (The queued command's mover is a free value, so the states after `reach` are named, not compared.)
A fence slot in host memory, signalled by the kernel with the physical address. -/
theorem wit_FencesSemaphoresMarks_host :
    let d := dk 4 (0x9000 * 2 ^ 448 + 2 * 2 ^ 384)
    let s := { rich with hostPort := { rich.hostPort with atomicOk := true } }
    let x := reach 8 0 0x9000 .write (onBehalf 1 hostMaster (taken 0 d s))
    alone 0 d s ∧ x.1 = .loc 3 0x9000 ∧ landOk x.2 0 3 0x9000 = true ∧ reachable x.2 0 3 0x9000 8 = true ∧
      x.2.hostPort.atomicOk = true :=
  ⟨aloneOf (by decide +kernel), by decide +kernel⟩

def copyD : BitVec 512 := dq 3 (0x1000 * 2 ^ 448 + 0x2000 * 2 ^ 384 + 64 * 2 ^ 344)
def fillD : BitVec 512 := dq 3 (0x1000 * 2 ^ 448 + 0x2FF8 * 2 ^ 384 + 8 * 2 ^ 344 + 1 * 2 ^ 70)
def redD : BitVec 512 := dq 3 (0x1000 * 2 ^ 448 + 0x2000 * 2 ^ 384 + 64 * 2 ^ 344 + 2 * 2 ^ 70)

/-- A MOVE accepted in the base block, by mover m, at work. -/
def moverCmd (d : BitVec 512) (m : Nat) : Cmd := { accepted 7 d base with mover := m }
def moverAt (d : BitVec 512) (m : Nat) : State :=
  onBehalf 1 (moverMaster (moverCmd d m)) (setPhase { taken 7 d base with cmds := [moverCmd d m] } 1 .busy)
/-- Its destination, and its source, lie in the tarn and admit it. -/
def fillAdmitted (m : Nat) : Prop :=
  let r := reach (moverPlace (moverCmd fillD m)) tag1 0x2FF8 .write (moverAt fillD m)
  r.1 = .loc 1 0x2FF8 ∧ (locWrite tag1 1 0x2FF8 (pattern (bitsAt fillD 448 64) 0 8) r.2).1 = .ok [] ∧ m ∈ moversUp base
def copyAdmitted (m : Nat) : Prop :=
  let r := reach (moverPlace (moverCmd copyD m)) tag1 0x1000 .read (moverAt copyD m)
  let b := locRead tag1 1 0x1000 64 r.2
  let w := reach (moverPlace (moverCmd copyD m)) tag1 0x2000 .write (moveData (moverCmd copyD m) (memRead base.tarn 0x1000 64) b.2).2
  r.1 = .loc 1 0x1000 ∧ b.1 = .ok (memRead base.tarn 0x1000 64) ∧ w.1 = .loc 1 0x2000 ∧
    (locWrite tag1 1 0x2000 (memRead base.tarn 0x1000 64) w.2).1 = .ok []
def reduceAdmitted (m : Nat) : Prop :=
  let r := reach (moverPlace (moverCmd redD m)) tag1 0x1000 .read (moverAt redD m)
  let b := locRead tag1 1 0x1000 64 r.2
  let w := reach (moverPlace (moverCmd redD m)) tag1 0x2000 .atomic b.2
  r.1 = .loc 1 0x1000 ∧ b.1 = .ok (memRead base.tarn 0x1000 64) ∧ w.1 = .loc 1 0x2000 ∧
    (locReduce tag1 1 0x2000 (memRead base.tarn 0x1000 64) w.2).1 = .ok []

/-- MoveCommands: a copy, a fill of the last eight bytes of a page, a reduction, and a length of zero; any mover. -/
theorem wit_MoveCommands :
    (alone 7 copyD base ∧ alone 7 fillD base ∧ alone 7 redD base ∧ alone 7 (dq 3 0) base) ∧
    (moveOk copyD = true ∧ moveOk fillD = true ∧ moveOk redD = true ∧ moveOk (dq 3 0) = false) ∧
    (mvDst fillD % 256 + mvLen fillD = 256 ∧ mvDst copyD % 256 + mvLen copyD ≤ 256 ∧ mvSrc copyD % 4096 + mvLen copyD ≤ 4096 ∧
      moveOverlaps copyD = false ∧ base.poison = []) ∧
    fillAdmitted (accepted 7 fillD base).mover ∧ copyAdmitted (accepted 7 copyD base).mover ∧
    reduceAdmitted (accepted 7 redD base).mover :=
  ⟨⟨aloneOf (by decide +kernel), aloneOf (by decide +kernel), aloneOf (by decide +kernel), aloneOf (by decide +kernel)⟩,
    by decide +kernel, by decide +kernel, mover_cases fillAdmitted (by unfold fillAdmitted; decide +kernel) _,
    mover_cases copyAdmitted (by unfold copyAdmitted; decide +kernel) _,
    mover_cases reduceAdmitted (by unfold reduceAdmitted; decide +kernel) _⟩

/-- The states of those three are those of the accepted commands. -/
theorem wit_MoveCommands_states (d : BitVec 512) : moverCmd d (accepted 7 d base).mover = accepted 7 d base ∧
    moverAt d (accepted 7 d base).mover =
      onBehalf 1 (moverMaster (accepted 7 d base)) (setPhase (taken 7 d base) 1 .busy) := ⟨rfl, rfl⟩

/-- A longer fill that has filled its first beat: the next one begins at 256. -/
theorem wit_MoveCommands_beats :
    let c := { moverCmd (dq 3 (0x1000 * 2 ^ 448 + 0x2000 * 2 ^ 384 + 600 * 2 ^ 344 + 1 * 2 ^ 70)) 0 with phase := .busy, moved := 256 }
    let s := { base with cmds := [c], nextUid := 2 }
    let r := reach (moverPlace c) tag1 0x2100 .write (onBehalf 1 (moverMaster c) s)
    cmdAt s 1 = some c ∧ c.out = [] ∧ c.moved < mvLen c.desc ∧ mvOp c.desc = 1 ∧ r.1 = .loc 1 0x2100 ∧
      (locWrite tag1 1 0x2100 (pattern (bitsAt c.desc 448 64) 256 256) r.2).1 = .ok [] := by decide +kernel

/-- A waiting or accepted command of the kernel queue. -/
def kcmd (uid op : Nat) (ph : Phase) : Cmd := { cmd1 with uid := uid, q := 0, tag := 0, desc := dk op 0, phase := ph }

/-- A group that waits on pending fault 2, sequence 1. -/
def grpW : Group := { grp1 with wait := .fault 2 }
def pend2 : PendingFault :=
  { idx := 2, seq := 1, tag := tag1, page := 5, kind := .notPresent, access := .read, master := 0x2003, level := 1, pasid := 0,
    time := 5, count := 1, waiters := [.group t1], written := true }
def faulted : State :=
  { rich with
    xlate := { rich.xlate with pending := [pend2] }
    herd := { Herd.reset with gangs := [{ launch := 1, gang := 0, core := 3, store := [], groups := [grpW, grp1] }] } }
def draining : State :=
  { rich with cmds := [kcmd 1 0x11 (.draining 0), kcmd 2 0x10 (.frameWait [7])], nextUid := 3 }

/-- TranslationCommands, clause by clause. -/
theorem wit_TranslationCommands_root :
    let d := dk 0x10 (1 * 2 ^ 128 + tag1.toNat * 2 ^ 144 + 0x7000 * 2 ^ 448 + 9 * 2 ^ 384)
    alone 0 d rich ∧ opcodeOf d = 0x10 ∧ mapFunc d = 1 ∧ flagsPlaced rich = true ∧ tagLive rich (targetTag d) = true ∧
      (arg0 d).toNat % 4096 = 0 ∧ isHostPa rich (arg0 d).toNat = true :=
  ⟨aloneOf (by decide +kernel), by decide +kernel⟩
theorem wit_TranslationCommands_frames :
    let d := dk 0x10 (2 * 2 ^ 128 + (0x0007000000000000 + 2046 * 2 ^ 21) * 2 ^ 448 + 2 * 2 ^ 384 + 257 * 2 ^ 320)
    alone 0 d rich ∧ mapFunc d = 2 ∧ frameArgsOk rich d = true ∧ frameReqs rich 2046 2 = [] :=
  ⟨aloneOf (by decide +kernel), by decide +kernel⟩
theorem wit_TranslationCommands_window :
    let d := dk 0x10 (3 * 2 ^ 128 + tag1.toNat * 2 ^ 144 + 2047 * 2 ^ 448 + 5 * 2 ^ 384)
    alone 0 d rich ∧ mapFunc d = 3 ∧ foldExists rich (tagFold (targetTag d)) = true ∧ outstanding rich (rich.xlate.epoch + 1) = 0 ∧
      drainedTo rich rich.xlate.epoch = true :=
  ⟨aloneOf (by decide +kernel), by decide +kernel⟩
theorem wit_TranslationCommands_resolve :
    let d := dk 0x10 (4 * 2 ^ 128 + 258 * 2 ^ 448)
    alone 0 d faulted ∧ mapFunc d = 4 ∧ faulted.xlate.parked = [] ∧
      faulted.xlate.pending.find? (fun e => e.idx == field d 448 16 % 256 && e.seq.toNat == field d 448 16 / 256) = some pend2 ∧
      bitAt (arg1 d) 0 = false ∧ pend2.waiters = [.group t1] ∧ groupAt faulted t1 = some grpW ∧
      faulted.xlate.pending.find? (fun e => e.idx == 2 && e.seq.toNat == 2) = none :=
  ⟨aloneOf (by decide +kernel), by decide +kernel⟩
theorem wit_TranslationCommands_invalidate :
    let d := dk 0x11 (tag1.toNat * 2 ^ 144 + 5 * 2 ^ 416)
    alone 0 d rich ∧ opcodeOf d = 0x11 ∧ invalOk rich d = true := ⟨aloneOf (by decide +kernel), by decide +kernel⟩
theorem wit_TranslationCommands_drains :
    cmdAt draining 1 = some (kcmd 1 0x11 (.draining 0)) ∧ drainedTo draining 0 = true ∧
      cmdAt draining 2 = some (kcmd 2 0x10 (.frameWait [7])) ∧ ∀ r ∈ draining.xlate.reqs, r.id ∉ [7] := by decide +kernel

/-- A command of queue 7's context. -/
def qcmd (uid : Nat) (d : BitVec 512) (ph : Phase) : Cmd := { cmd1 with uid := uid, desc := d, phase := ph }
/-- Fold 1 with a change. -/
def withFold (f : Fold → Fold) (s : State) : State := { s with folds := [(1, f fold1)] }
/-- Context slot 5 with a change. -/
def withCtx (x : Ctx → Ctx) (s : State) : State := { s with ctxs := [(0, Ctx.atReset 1), (5, x ctx1)] }

/-- A fold whose context quota is used, and one with room for one more. -/
def quota (n : W16) : State := withFold (fun f => { f with live := { f.live with ctxQuota := n } }) rich
/-- A context that is being torn down and has drained. -/
def torn : State :=
  withCtx (fun x => { x with state := .closing, sluiceClosed := true, gen := 7, fenceLen := 2, fenceList := 0x5000 })
    { rich with
      xlate := { rich.xlate with tlb := [{ leaf1 0 with gen := 7 }] }
      cmds := [kcmd 1 0x13 (.teardown 5)], nextUid := 2 }

/-- ContextCommands: a named slot, the lowest slot, a used quota, a teardown, a drained context; the expiry has no hypothesis but its
ranges. -/
theorem wit_ContextCommands_create :
    let d := dk 0x12 (1 * 2 ^ 400 + 511 * 2 ^ 407 + 0x2008 * 2 ^ 448)
    let e := dk 0x12 (1 * 2 ^ 400 + 2 ^ 406)
    alone 0 d rich ∧ alone 0 e (quota 1) ∧ alone 0 e (quota 2) ∧ opcodeOf d = 0x12 ∧ foldExists rich (field d 400 4) = true ∧
      (foldAt rich 1).live.role ≠ 1 ∧ field d 448 64 % 8 = 0 ∧ (ctxAt rich (field d 407 9)).state = .free ∧ bitAt e 406 = true ∧
      slotReady rich 511 = true ∧ lowest 512 (slotReady (quota 2)) = some 0 ∧ ctxCount (quota 1) 1 = 1 :=
  ⟨aloneOf (by decide +kernel), aloneOf (by decide +kernel), aloneOf (by decide +kernel), by decide +kernel⟩
theorem wit_ContextCommands_teardown :
    let d := dk 0x13 (tag1.toNat * 2 ^ 144)
    alone 0 d rich ∧ opcodeOf d = 0x13 ∧ tagOpen rich (targetTag d) = true ∧ rich.xlate.pending = [] ∧ rich.xlate.parked = [] ∧
      (queueAt rich 7).state ≠ .free ∧ (queueAt rich 7).tag = targetTag d ∧
      canon torn = true ∧ teardownOf torn 5 = some (kcmd 1 0x13 (.teardown 5)) ∧ (ctxAt torn 5).state = .closing ∧
      ctxBusy torn (mkTag 1 5 7) = false ∧ linkUp torn = true :=
  ⟨aloneOf (by decide +kernel), by decide +kernel⟩

/-! Model cache: homes 0 and 1 share their image bytes. -/
def home (pond : Nat) : BitVec 256 := BitVec.ofNat 256 (0x0007000000000000 * 2 ^ 128 + 1 * 2 ^ 96 + pond * 2 ^ 56 + 1 * 2 ^ 50 + 1)
def model1 : Model :=
  { id := 11, home := 0, state := 2, length := 16, digest := 5, src := 0x1000, loader := tag1, lastDispatch := 0, written := [0],
    saved := [] }
def cacheFold (ms : List Model) (f : Fold) : Fold :=
  { f with sched := { f.sched with homes := [(0, home 1), (1, home 2)], models := ms } }
def cacheBlock (ms : List Model) : State :=
  { withFold (cacheFold ms) rich with
    xlate := { rich.xlate with tlb := (List.range 9).map leaf1, frames := [(0, 0x81)] } }
def loadD (id home len : Nat) : BitVec 512 := dq 9 (id * 2 ^ 448 + 0x1000 * 2 ^ 384 + len * 2 ^ 344 + home * 2 ^ 338 + 2 ^ 337)
/-- Context 5 uses the model of home 0 and waits on a fence; context 6 waits for home 1. -/
def parkBlock : State :=
  { cacheBlock [model1] with
    ctxs := [(0, Ctx.atReset 1), (5, { ctx1 with model := some 11 }), (6, ctx1)]
    cmds := [qcmd 1 (dq 5 (0x2000 * 2 ^ 448 + 2 ^ 384)) (.waitFence 0x2000 1), { qcmd 2 (loadD 12 1 16) .residency with tag := mkTag 1 6 2 }]
    nextUid := 3 }
/-- A launch of context 5 waits for its parked model. -/
def reloadBlock : State :=
  { cacheBlock [{ model1 with state := 3, written := [], saved := [0] }] with
    ctxs := [(0, Ctx.atReset 1), (5, { ctx1 with model := some 11 })]
    cmds := [qcmd 1 launchDesc .accepted], nextUid := 2 }

/-- ModelCacheCommands: a resident model, a new one that evicts a rival (for each mover), an eviction, a rival to park, a model to
reload. -/
theorem wit_ModelCacheCommands_load :
    let s := cacheBlock [model1]
    let d := loadD 11 0 16
    let e := loadD 12 1 16
    alone 7 d s ∧ alone 7 e s ∧ opcodeOf d = 9 ∧ loadArgsOk (taken 7 e s) (accepted 7 e s) = true ∧ modelAt s 1 11 = some model1 ∧
      model1.home = mlHome d ∧ model1.state = 2 ∧ model1.length = mlLen d ∧ modelAt s 1 12 = none ∧ (modelsOf s 1).length < 64 ∧
      (∀ x ∈ overlapping s 1 1 12, modelInUse s 1 x.id = false ∧ x.state ≠ 1) ∧ overlapping s 1 1 12 = [model1] :=
  ⟨aloneOf (by decide +kernel), aloneOf (by decide +kernel), by decide +kernel⟩
/-- A load of a new model taken by mover m, with its directory entry. -/
def loadCmd (m : Nat) : Cmd := { accepted 7 (loadD 12 1 16) (cacheBlock []) with mover := m }
def loadAt (m : Nat) : State :=
  setModels 1 [{ id := 12, home := 1, state := 1, length := 16, digest := 0, src := 0x1000, loader := tag1, lastDispatch := 0,
                 written := [], saved := [] }] { taken 7 (loadD 12 1 16) (cacheBlock []) with cmds := [loadCmd m] }
def loadAdmitted (m : Nat) : Prop :=
  let r := fetchRange (loadCmd m) (moverPlace (loadCmd m)) (moverMaster (loadCmd m)) 0x1000 16 (loadAt m)
  r.1 = .ok (memRead (cacheBlock []).tarn 0x1000 16) ∧
    (writePa tag1 (homeBase (home 2)) (pagesOf (homeBase (home 2)) 16) (memRead (cacheBlock []).tarn 0x1000 16)
      (onBehalf 1 (moverMaster (loadCmd m)) r.2)).1 = .ok []
theorem wit_ModelCacheCommands_copy : alone 7 (loadD 12 1 16) (cacheBlock []) ∧
    homeBase (home 2) % 256 + mlLen (loadD 12 1 16) ≤ 256 ∧
    loadAdmitted (accepted 7 (loadD 12 1 16) (cacheBlock [])).mover :=
  ⟨aloneOf (by decide +kernel), by decide +kernel, mover_cases loadAdmitted (by unfold loadAdmitted; decide +kernel) _⟩
theorem wit_ModelCacheCommands_evict :
    let s := cacheBlock [model1]
    alone 7 (dq 10 (11 * 2 ^ 448)) s ∧ (modelAt s 1 11).isNone = false ∧ (modelAt s 1 12).isNone = true :=
  ⟨aloneOf (by decide +kernel), by decide +kernel⟩
theorem wit_ModelCacheCommands_park :
    let s := parkBlock
    let c := { qcmd 2 (loadD 12 1 16) .residency with tag := mkTag 1 6 2 }
    canon s = true ∧ cmdAt s 2 = some c ∧ tagFold c.tag = 1 ∧ wantedHome s c = some (1, 12) ∧ parkDue s 1 1 12 = true ∧
      opcodeOf c.desc = 9 ∧ modelAt s 1 model1.id = some model1 ∧
      (overlapping s 1 1 12).filter (fun x => modelInUse s 1 x.id) = [model1] ∧ usersOf s 1 [model1] = [5] := by decide +kernel
theorem wit_ModelCacheCommands_reload :
    let s := reloadBlock
    let c := qcmd 1 launchDesc .accepted
    let m := { model1 with state := 3, written := [], saved := [0] }
    canon s = true ∧ s.cmds.find? (fun c => tagSlot c.tag == 5 && residencyWaits s c) = some c ∧ (ctxAt s 5).model = some 11 ∧
      modelAt s (tagFold c.tag) 11 = some m ∧ m.state = 3 ∧ overlapping s 1 0 11 = [] ∧
      (copyImage c 1 m.src m.length m.home m.saved s).1 = .ok (crc64 (memRead s.tarn 0x1000 16)) := by decide +kernel

/-- Two drains that end together: the later one ends with the earlier (R161). -/
theorem wit_TranslationCommands_order :
    let s := { rich with cmds := [kcmd 1 0x11 (.draining 1), kcmd 2 0x11 (.draining 0)], nextUid := 3 }
    cmdAt s 1 = some (kcmd 1 0x11 (.draining 1)) ∧ cmdAt s 2 = some (kcmd 2 0x11 (.draining 0)) ∧ (0 : Nat) < 1 ∧
      drainedTo s 1 = true ∧ drainedTo s 0 = true ∧
      (s.cmds.filter fun y => y.uid == 1 || y.uid == 2).length = 2 := by decide +kernel

/-! Freeze and migration: fold 1 with no units, so that its image is empty. -/
def bareFold (f : Fold) : Fold := { f with live := { f.live with tarnUnits := 0, pondUnits := 0 }, scrubbed := true }
def frozen : State := withFold (fun f => { bareFold f with state := .frozen }) rich
def frozenKeyed : State :=
  withFold (fun f => { bareFold f with state := .frozen, live := { (bareFold f).live with keyed := true } }) rich
/-- A save area of one context, tag 0x3038, its CRC in front (R244, R372). -/
def areaRest : List Byte := [1] ++ (List.replicate 24567 0 ++ ([0x38, 0x30] ++ List.replicate 30 0))
def area : List Byte := leBytes 8 (crc64 areaRest).toNat ++ areaRest
def saved : Mem := memWrite [] 0x10000 area
def importWith (m : Mem) : State :=
  { withFold bareFold rich with
    ctxs := [(0, Ctx.atReset 1)]
    queues := [(0, { Queue.reset with state := .active, cring := 0x4000, size := 64, batch := 1, sqTail := 1 })]
    host := m }
def importBlock : State := importWith saved
def exportD (op peer : Nat) : BitVec 512 :=
  dk op (1 * 2 ^ 128 + 0x10000 * 2 ^ 448 + 0x20000 * 2 ^ 384 + 0x30000 * 2 ^ 320 + 0x40000 * 2 ^ 256 + peer * 2 ^ 206)
/-- A command waits for a session with node 9. -/
def sessionBlock : State := { frozenKeyed with cmds := [{ kcmd 1 0x15 .session with desc := exportD 0x15 9 }], nextUid := 2 }
def hdrFrom (node : Nat) : MsgHdr :=
  { epoch := 1, version := 0, flockId := 0, senderNode := BitVec.ofNat 18 node, senderFold := 1, senderRank := 3, detail := 0 }
/-- A freeze that waits for a quiet fold. -/
def freezeBlock : State :=
  { withFold (fun f => { f with freezing := some 1, drainUntil := some 5000000 }) rich with cmds := [kcmd 1 0x14 .freezing], nextUid := 2 }

/-- FreezeAndMigration: an active fold to freeze, a frozen one to thaw, a keyed fold without a session, an export without one, and a
freeze that may end. -/
theorem wit_FreezeAndMigration :
    (alone 0 (dk 0x14 (1 * 2 ^ 128)) rich ∧ alone 0 (dk 0x14 (1 * 2 ^ 128 + 2 ^ 132)) frozen ∧ alone 0 (exportD 0x15 9) frozen ∧
      alone 0 (exportD 0x15 9) frozenKeyed) ∧
    ((foldAt rich 1).state = .active ∧ (foldAt rich 1).armed = none ∧ (foldAt rich 1).freezing = none ∧
      fzThaw (dk 0x14 (1 * 2 ^ 128)) = false ∧ fzThaw (dk 0x14 (1 * 2 ^ 128 + 2 ^ 132)) = true) ∧
    ((foldAt frozen 1).state = .frozen ∧ fxSave (exportD 0x15 9) % 4096 = 0 ∧ fxImage (exportD 0x15 9) % 4096 = 0 ∧
      saveSize frozen 1 ≤ 2 ^ 18) ∧
    ((foldAt frozenKeyed 1).live.keyed = true ∧ hasSession frozenKeyed 9 = false ∧ (sessionNodes frozenKeyed).length < 8 ∧
      mayRequest frozenKeyed 1 = true) ∧
    ((foldAt frozen 1).live.keyed = false ∧ (readRange 8 0 0x30000 0 frozen).1 = .ok [] ∧ frameOffs frozen 1 [] = some [] ∧
      imageRanges frozen 1 256 512 [] = [] ∧ (writeRange 8 0 0x20000 [] frozen).1 = .ok []) ∧
    (canon freezeBlock = true ∧ (foldAt freezeBlock 1).freezing = some 1 ∧ foldQuiet freezeBlock 1 = true) ∧
    freshMsg 33 (hdrFrom 9) sessionBlock = true :=
  ⟨⟨aloneOf (by decide +kernel), aloneOf (by decide +kernel), aloneOf (by decide +kernel), aloneOf (by decide +kernel)⟩,
    by decide +kernel, by decide +kernel, by decide +kernel, by decide +kernel, by decide +kernel, by decide +kernel⟩
/-! The kernel queue reads and writes host memory: the block's link up, no error there. -/

/-- Host memory answers, and the kernel queue acts for no herd lane. -/
structure hostServes (s : State) : Prop where
  up : linkUp s = true
  clean : s.poison = []
  base : s.xlate.localBase = 0x0007000000000000
  none : s.xlate.agent = none
  power : bitAt s.power.down 98 = false

theorem decode_host {s : State} {va : Nat} (h : hostServes s) (hv : va < 2 ^ 40) : decodePa s va = .loc 3 va := by
  rw [decodePa, if_neg (by omega)]
  simp only [h.base, show (0x0007000000000000 : W64).toNat = 0x0007000000000000 by decide]
  rw [if_neg (by omega)]

theorem reach_host {s : State} {va : Nat} (a : AccessKind) (h : hostServes s) (hv : va < 2 ^ 40) : reach 8 0 va a s = (.loc 3 va, s) := by
  rw [reach, if_pos rfl, if_neg (by omega), spotOfPa, decode_host h hv]

theorem reachable_host {s : State} (va n : Nat) (h : hostServes s) : reachable s 0#16 3 va n = true := by
  simp [reachable, h.up, filling, weirAdmits, inPower, domainOf, h.power]

theorem charge_host {s : State} (va n : Nat) (w : Bool) (h : hostServes s) :
    hostServes (charge 0 3 va n w s) ∧ (charge 0 3 va n w s).host = s.host := by
  have e : charge 0 3 va n w s = unhold 3 0 s := by simp [charge, weirCharge, unhold, memClass, h.none]
  rw [e]
  exact ⟨⟨h.up, h.clean, h.base, h.none, h.power⟩, rfl⟩

theorem readPiece_host {s : State} {va : Nat} (n : Nat) (h : hostServes s) (hv : va < 2 ^ 40) :
    ∃ t, readPiece 8 0 va n s = (.ok (memRead s.host va n), t) ∧ hostServes t ∧ t.host = s.host := by
  have hp : readFails s 0#16 3 va n = false := by simp [readFails, poisoned, h.clean]
  have hc := charge_host va n false (s := contextTlp 0 false false va n s) ⟨h.up, h.clean, h.base, h.none, h.power⟩
  refine ⟨charge 0 3 va n false (contextTlp 0 false false va n s), ?_, hc⟩
  have hl : locRead 0 3 va n s = (.ok (memRead s.host va n), charge 0 3 va n false (contextTlp 0 false false va n s)) := by
    simp [locRead, landOk, reachable_host va n h, hp, getBytes, memBytes]
  rw [readPiece, reach_host _ h hv]
  simp only [hl]

theorem memRead_add (m : Mem) (a x y : Nat) : memRead m a (x + y) = memRead m a x ++ memRead m (a + x) y := by
  simp [memRead, List.range_add, Nat.add_assoc]

theorem readPieces_host : ∀ (fuel va n : Nat) (acc : List Byte) (s : State), hostServes s → va % 4096 = 0 → n ≤ 4096 * fuel →
    va + n < 2 ^ 40 → ∃ t, readPieces 8 0 (pieces fuel va n) acc s = (.ok (acc ++ memRead s.host va n), t) ∧ hostServes t ∧ t.host = s.host := by
  intro fuel
  induction fuel with
  | zero => intro va n acc s h _ hn _; obtain rfl : n = 0 := by omega
            exact ⟨s, by simp [pieces, readPieces, memRead], h, rfl⟩
  | succ k ih =>
    intro va n acc s h ha hn hv
    rw [pieces]
    by_cases h0 : n = 0
    · subst h0; exact ⟨s, by simp [readPieces, memRead], h, rfl⟩
    · have hm : min n (4096 - va % 4096) + (n - min n (4096 - va % 4096)) = n := by omega
      simp only [h0, if_false]
      obtain ⟨t, ht, hs, hh⟩ := readPiece_host (min n (4096 - va % 4096)) h (show va < 2 ^ 40 by omega)
      rw [readPieces, ht]
      by_cases hb : n ≤ 4096
      · have h1 : min n (4096 - va % 4096) = n := by omega
        rw [h1, Nat.sub_self]
        refine ⟨t, ?_, hs, hh⟩
        cases k <;> simp [pieces, readPieces]
      · have h1 : min n (4096 - va % 4096) = 4096 := by omega
        rw [h1] at hm ⊢
        obtain ⟨u, hu, hu2, hu3⟩ := ih (va + 4096) (n - 4096) (acc ++ memRead s.host va 4096) t hs (by omega) (by omega) (by omega)
        refine ⟨u, ?_, hu2, hu3.trans hh⟩
        simp only [hu]
        rw [hh, List.append_assoc, ← memRead_add, hm]

theorem readRange_host {s : State} (h : hostServes s) (va n : Nat) (ha : va % 4096 = 0) (hv : va + n < 2 ^ 40) :
    ∃ t, readRange 8 0 va n s = (.ok (memRead s.host va n), t) ∧ hostServes t ∧ t.host = s.host := by
  obtain ⟨t, h1, h2⟩ := readPieces_host (n / 4096 + 2) va n [] s h ha (by omega) hv
  exact ⟨t, by rw [readRange, pagesOf, h1]; simp, h2⟩

theorem writePieces_host : ∀ (l : List (Nat × Nat)) (bs : List Byte) (s : State), hostServes s → (∀ p ∈ l, p.1 < 2 ^ 40) →
    ∃ t, writePieces 8 0 l bs s = (.ok [], t) := by
  intro l
  induction l with
  | nil => intro bs s _ _; exact ⟨s, rfl⟩
  | cons p l ih =>
    intro bs s h hl
    let b := bs.take p.2
    let u := charge 0 3 p.1 b.length true (contextTlp 0 true (relaxes s) p.1 b.length (memStore 3 p.1 b s))
    have hw : locWrite 0 3 p.1 b s = (.ok [], u) := by
      simp [locWrite, landOk, reachable_host _ _ h, mergeFails, partPoison, h.clean, putBytes, u]
    have hm : hostServes (memStore 3 p.1 b s) := by
      by_cases hb : b.isEmpty = true
      · simp only [memStore, hb, if_true]; exact h
      · simp only [memStore, hb, hostWrite, h.up, if_true]
        exact ⟨h.up, by simp [presentTlp, clearPoison, h.clean], h.base, h.none, h.power⟩
    have hs : hostServes u :=
      (charge_host p.1 b.length true (s := contextTlp 0 true (relaxes s) p.1 b.length (memStore 3 p.1 b s))
        ⟨hm.up, hm.clean, hm.base, hm.none, hm.power⟩).1
    obtain ⟨t, ht⟩ := ih (bs.drop p.2) _ hs fun x hx => hl x (List.mem_cons_of_mem _ hx)
    refine ⟨t, ?_⟩
    rw [writePieces, writePiece, reach_host _ h (hl p (List.mem_cons_self ..))]
    simp only [show bs.take p.2 = b from rfl, hw]
    exact ht

/-- The save area of an export is written, whatever its bytes. -/
theorem wit_FreezeAndMigration_area (bs : List Byte) (h : bs.length ≤ 2 ^ 18) : ∃ t, writeRange 8 0 0x10000 bs frozen = (.ok [], t) := by
  have key : ∀ fuel va n, va + n < 2 ^ 40 → ∀ p ∈ pieces fuel va n, p.1 < 2 ^ 40 := by
    intro fuel
    induction fuel with
    | zero => intro va n _ p hp; simp [pieces] at hp
    | succ k ih =>
      intro va n hv p hp
      rw [pieces] at hp
      split at hp
      · simp at hp
      · rcases List.mem_cons.mp hp with rfl | hp
        · show va < 2 ^ 40; omega
        · exact ih _ _ (by omega) p hp
  exact writePieces_host _ _ _ ⟨by decide, by decide, by decide, by decide, by decide⟩ (key _ _ _ (by omega))

theorem area_length : area.length = 24608 := by
  simp only [area, areaRest, leBytes, List.length_append, List.length_map, List.length_range, List.length_replicate, List.length_cons,
    List.length_nil]

theorem leBytes_ofLe : ∀ (n v : Nat), ofLe (leBytes n v) = v % 256 ^ n := by
  intro n
  induction n with
  | zero => intro v; simp [leBytes, ofLe, Nat.mod_one]
  | succ k ih =>
    intro v
    have : leBytes (k + 1) v = BitVec.ofNat 8 v :: leBytes k (v / 256) := by
      simp only [leBytes, List.range_succ_eq_map, List.map_cons, List.map_map, Nat.mul_zero, Nat.shiftRight_zero]
      congr 1
      apply List.map_congr_left
      intro i _
      simp only [Function.comp, Nat.shiftRight_eq_div_pow]
      rw [Nat.div_div_eq_div_mul, show 8 * i.succ = 8 + 8 * i by omega, Nat.pow_add]
    rw [this, ofLe, ih, BitVec.toNat_ofNat, show (2 : Nat) ^ 8 = 256 from rfl, Nat.pow_succ, Nat.mul_comm (256 ^ k), Nat.mod_mul]

theorem taken_host (m : Mem) : (taken 0 (exportD 0x16 9) (importWith m)).host = m := by
  have h : (queueAt (importWith m) 0).headWb = 0 := rfl
  simp only [taken, admitCmd, headPassed, h, if_true]
  rfl

theorem canon_importWith {m : Mem} (h : Tab.wf 0 m = true) : canon (importWith m) = true := by
  have h2 : canon (importWith []) = true := by decide +kernel
  simp only [canon, memsCanon] at h2 ⊢
  rw [show (importWith m).host = m from rfl, h]
  exact h2

/-- An import: a good save area of one context, with room for it, read from host memory. -/
theorem wit_FreezeAndMigration_import :
    let s := importBlock
    let d := exportD 0x16 9
    let s2 := (readRange 8 0 (fxSave d) 4096 (taken 0 d s)).2
    let s3 := (readRange 8 0 (fxSave d) 24608 s2).2
    alone 0 d s ∧ (readRange 8 0 (fxSave d) 4096 (taken 0 d s)).1 = .ok (area.take 4096) ∧
      saveLen (area.take 4096) = 24608 ∧ (readRange 8 0 (fxSave d) 24608 s2).1 = .ok area ∧
      (parseSave area).good = true ∧ importShape s3 1 (parseSave area) (accepted 0 d s) = true ∧
      importRoom s3 1 (parseSave area) = true ∧ (parseSave area).cmds = [] ∧ fxCount d = 0 ∧
      fxImage d % 4096 = 0 ∧ fxRemap d % 4096 = 0 ∧ (importImage (accepted 0 d s) (parseSave area) s3).1 = .ok [] := by
  have hs : hostServes (taken 0 (exportD 0x16 9) importBlock) :=
    ⟨by decide +kernel, by decide +kernel, by decide +kernel, by decide +kernel, by decide +kernel⟩
  have hh : (taken 0 (exportD 0x16 9) importBlock).host = saved := taken_host saved
  have h24 : memRead saved 0x10000 24608 = area := by
    have := memRead_memWrite 0x10000 area (Tab.nil_wf 0)
    rwa [area_length] at this
  obtain ⟨u, hu, hu2, hu3⟩ := readRange_host hs 0x10000 4096 (by decide) (by decide)
  obtain ⟨v, hv, -⟩ := readRange_host hu2 0x10000 24608 (by decide) (by decide)
  have e : fxSave (exportD 0x16 9) = 0x10000 := by decide +kernel
  refine ⟨?_, ?_, by decide +kernel, ?_, ?_, by decide +kernel, by decide +kernel, by decide +kernel, by decide +kernel, by decide +kernel,
    by decide +kernel, by decide +kernel⟩
  · have hc : canon importBlock = true := canon_importWith (memWrite_wf _ _ (Tab.nil_wf 0))
    refine ⟨by decide, by decide +kernel, hc, by decide +kernel, by decide, by decide, Or.inl ⟨rfl, by decide⟩⟩
  · rw [e, hu, hh]
    rw [show 24608 = 4096 + 20512 by decide, memRead_add] at h24
    show Got.ok (memRead saved 0x10000 4096) = _
    rw [← h24, List.take_left' (memRead_length _ _ _)]
  · rw [e, hu]
    show (readRange 8 0 0x10000 24608 u).1 = _
    rw [hv, hu3, hh]
    show Got.ok (memRead saved 0x10000 24608) = _
    rw [h24]
  · have h1 : (parseSave area).good = (area.length == 24608 && numAt area 0 8 == (crc64 (area.drop 8)).toNat) := by
      have e1 : numAt ((area.drop 8).take 4088) 0 4 = 1 := by decide +kernel
      have e2 : numAt ((area.drop 8).take 4088) 4 4 = 0 := by decide +kernel
      have e3 : numAt ((area.drop 8).take 4088) 8 4 = 0 := by decide +kernel
      have e4 : numAt ((area.drop 8).take 4088) 12 4 = 0 := by decide +kernel
      simp only [parseSave, e1, e2, e3, e4]
    have h8 : (leBytes 8 (crc64 areaRest).toNat).length = 8 := by simp [leBytes]
    have h2 : area.drop 8 = areaRest := by rw [area, List.drop_left' h8]
    have h3 : numAt area 0 8 = (crc64 areaRest).toNat := by
      rw [numAt, List.drop_zero, area, List.take_left' h8, leBytes_ofLe, Nat.mod_eq_of_lt]
      exact lt_of_lt_of_eq (crc64 areaRest).isLt (by decide)
    rw [h1, area_length, h2, h3]
    simp

/-! ### Recovery -/

/-- A tile task of context 5 in the array of engine 3. -/
def tileRun : State :=
  { rich with
    cmds := [qcmd 1 (dq 1 0) (.tile 3)], nextUid := 2
    engines := [(3, { Engine.reset with tile := some 1, lastFold := 1 })] }
/-- The task held as a suspect, its engine's reset over. -/
def tileHeld : State :=
  { rich with cmds := [qcmd 1 (dq 1 0) (.held false 3)], nextUid := 2, engines := [(3, { Engine.reset with blocked := true })] }
def reset24 (kind unit timeout : Nat) (op : Nat) : BitVec 512 := dk op (kind * 2 ^ 159 + unit * 2 ^ 144 + timeout * 2 ^ 160)

/-- RecoveryCommands: the last engine and the last half-group at rest, a review at both ends of its timeout, a fold that may reset; beside
a running tile; beside a held one. -/
theorem wit_RecoveryCommands :
    (alone 0 (reset24 0 31 0 0x18) rich ∧ alone 0 (reset24 1 15 0 0x18) rich ∧ alone 0 (reset24 0 31 1 0x17) rich ∧
      alone 0 (reset24 1 15 10000000 0x17) rich ∧ alone 0 (dk 0x19 (1 * 2 ^ 128)) rich) ∧
    (unitExists rich false 31 = true ∧ suspectsOf rich false 31 = [] ∧ unitExists rich true 15 = true ∧ suspectsOf rich true 15 = [] ∧
      unitResetting rich false 31 = false ∧ unitResetting rich true 15 = false ∧ rcTimeout (reset24 0 31 1 0x17) = 1 ∧
      rcTimeout (reset24 1 15 10000000 0x17) = 10000000 ∧ foldResets rich 1 = true ∧ foldUnits rich 1 ≠ [] ∧
      (foldAt rich 1).freezing = none) ∧
    (beside (reset24 0 3 0 0x18) tileRun (qcmd 1 (dq 1 0) (.tile 3)) ∧ unitExists tileRun false 3 = true ∧
      (engineAt tileRun 3).tile = some 1 ∧ rcKind (reset24 0 3 0 0x18) = false) ∧
    (beside (reset24 0 3 5 0x17) tileHeld (qcmd 1 (dq 1 0) (.held false 3)) ∧ unitExists tileHeld false 3 = true ∧
      unitResetting tileHeld false 3 = false) :=
  ⟨⟨aloneOf (by decide +kernel), aloneOf (by decide +kernel), aloneOf (by decide +kernel), aloneOf (by decide +kernel),
      aloneOf (by decide +kernel)⟩, by decide +kernel, ⟨besideOf (by decide +kernel), by decide +kernel⟩,
    ⟨besideOf (by decide +kernel), by decide +kernel⟩⟩

/-- A late block: every timer of the states below is due. -/
def late (s : State) : State := { s with tb := { s.tb with time := 90000000 } }
def resettingUnits : State :=
  late { rich with
    engines := [(3, { Engine.reset with blocked := true, resetting := true, resetAt := 5 }), (4, { Engine.reset with blocked := true, abandoned := true })]
    halves := [(15, { Half.reset with blocked := true, resetting := true, resetAt := 5 })]
    cmds := [kcmd 1 0x18 (.unitReset false 3)], nextUid := 2 }
/-- A suspect being re-run beyond its timeout, with the review that asked for it. -/
def rerunning : State :=
  late { rich with
    cmds := [{ qcmd 1 (dq 1 0) (.rerun false 3) with startAt := 7 }, { kcmd 2 0x17 (.review false 3 10) with moved := 2 }], nextUid := 3
    engines := [(3, { Engine.reset with blocked := true, tile := some 1 })] }
def resettingFold : State := late (withFold (fun f => { f with state := .resetting, resetAt := 100 }) rich)
/-- Every sluice past its drain limit, one command of context 5 left on queue 7, which is being destroyed. -/
def pastDrain : State :=
  let s := withFold (fun f => { f with drainUntil := some 50 }) rich
  late { s with
    cmds := [qcmd 1 (dq 5 (0x2000 * 2 ^ 448 + 2 ^ 384)) (.waitFence 0x2000 1)], nextUid := 2
    ctxs := [(0, Ctx.atReset 1), (5, { ctx1 with drainUntil := some 50 })]
    hqis := [(3, { Hqi.reset with created := true, fold := 1, closed := true, drainUntil := some 50 })]
    faults := { Faults.reset with drainUntil := some 50 }
    queues := s.queues.map fun p => if p.1 == 7 then (7, { p.2 with destroying := true }) else p }
def closingFold : State := withFold (fun f => { f with state := .closing, drainUntil := some 9000000 }) rich
def scrubbingFold : State :=
  withFold (fun f => { f with state := .scrubbing }) { rich with
    ctxs := [(0, Ctx.atReset 1)], pond := [(5, 1)], xlate := { rich.xlate with frames := [(2, 0x81), (3, 0x82)], filling := [.pond 7 31, .tarn 511] } }

/-- UnitAndDrainEvents, event by event, at the ends of the units' ranges. -/
theorem wit_UnitAndDrainEvents :
    (canon resettingUnits = true ∧ unitResetting resettingUnits false 3 = true ∧ unitResetting resettingUnits true 15 = true ∧
      unitAbandoned resettingUnits false 4 = true ∧ (unitResetAt resettingUnits false 3).toNat + 50000 ≤ (now resettingUnits).toNat ∧
      (resetsOf resettingUnits false 3).map (fun c => c.uid) = [1] ∧ resetsOf resettingUnits true 15 = []) ∧
    (canon rerunning = true ∧ (cmdAt rerunning 1).isSome = true ∧
      rerunning.cmds.find? (fun r => opcodeOf r.desc == 0x17 && r.moved == 1 + 1) = some { kcmd 2 0x17 (.review false 3 10) with moved := 2 } ∧
      7 + 1000 * 10 ≤ (now rerunning).toNat) ∧
    (canon resettingFold = true ∧ (foldAt resettingFold 1).state = .resetting ∧
      (foldAt resettingFold 1).resetAt.toNat + 2000000 ≤ (now resettingFold).toNat ∧
      min (1000 * resettingFold.faults.drainLimit.toNat) 1000000 = 1000000) ∧
    (rich.lmap.retired.getLsbD 216 = false ∧ rich.lmap.retired.getLsbD 767 = false) ∧
    (canon pastDrain = true ∧ due (ctxAt pastDrain 5).drainUntil pastDrain = true ∧ due (hqiAt pastDrain 3).drainUntil pastDrain = true ∧
      due (foldAt pastDrain 1).drainUntil pastDrain = true ∧ (foldAt pastDrain 1).freezing = none ∧
      due pastDrain.faults.drainUntil pastDrain = true ∧ (queueAt pastDrain 7).destroying = true ∧
      due (foldAt (late freezeBlock) 1).drainUntil (late freezeBlock) = true ∧ (foldAt (late freezeBlock) 1).freezing = some 1) ∧
    (canon closingFold = true ∧ (foldAt closingFold 1).state = .closing ∧ foldBusy closingFold 1 = false ∧ fencesReach closingFold 1 = true) ∧
    (canon scrubbingFold = true ∧ (foldAt scrubbingFold 1).state = .scrubbing ∧ FillUnit.pond 7 31 ∈ scrubbingFold.xlate.filling ∧
      FillUnit.tarn 511 ∈ scrubbingFold.xlate.filling) := by
  refine ⟨?_, ?_, ?_, ?_, ?_, ?_, ?_⟩ <;> decide +kernel

/-! ### Folds, host objects, registers -/

/-- Fold 1 with its live values staged. -/
def staged1 (f : Fold) : Fold := { f with staged := f.live }
def foldIs (st : FoldState) : State := withFold (fun f => { staged1 f with state := st }) rich
def keyedPend : State :=
  withFold (fun f => { staged1 f with state := .pending, keySlot := 3 }) { rich with xlate := { rich.xlate with keySlots := [(3, 2)] } }
def keyedFree : State := withFold (fun f => { f with state := .free, live := FoldRes.reset, staged := { f.live with keyed := true } }) rich
def keyedOff : State := withFold (fun f => { f with state := .disabled, live := { f.live with keyed := true } }) { rich with hqis := [] }

/-- FoldControls: each state a row asks for, a commit that fails and ones that pass. -/
theorem wit_FoldControls :
    ((canon (foldIs .free) && canon (foldIs .pending) && canon (foldIs .active) && canon (foldIs .frozen) && canon (foldIs .disabled) &&
      canon keyedPend && canon keyedFree && canon keyedOff) = true ∧ bootOnly rich = false) ∧
    (commitCheck (foldIs .frozen) 1 = some stRange ∧ commitCheck (foldIs .active) 1 = none ∧ commitCheck (foldIs .free) 1 = none ∧
      (foldAt (foldIs .free) 1).staged.keyed = false ∧ commitCheck keyedFree 1 = none ∧ (foldAt keyedFree 1).staged.keyed = true) ∧
    ((foldAt (foldIs .pending) 1).keySlot = 0xFF ∧ (foldAt keyedPend 1).keySlot ≠ 0xFF ∧ (foldAt keyedOff 1).live.keyed = true ∧
      (foldAt keyedOff 1).keyId = 0 ∧ hqiBound keyedOff 1 = false ∧ (foldAt keyedOff 1).armed = none ∧ epochOk keyedOff 1 = true) := by
  refine ⟨?_, ?_, ?_⟩ <;> decide +kernel

def request (op h fold loc sem q : Nat) (x : Nat) : BitVec 512 :=
  BitVec.ofNat 512 (op + h * 2 ^ 248 + fold * 2 ^ 256 + loc * 2 ^ 260 + sem * 2 ^ 266 + q * 2 ^ 276 + x)
def newQueue : BitVec 512 :=
  request 3 3 0 63 0 4095 (tag1.toNat * 2 ^ 288 + 12 * 2 ^ 304 + 0x10000 * 2 ^ 448 + 0x20000 * 2 ^ 384 + 0x8 * 2 ^ 320)
def stopped (st : QState) : State :=
  { rich with queues := rich.queues.map fun p => if p.1 == 7 then (7, { p.2 with state := st }) else p }
/-- Semaphores 0 and 2 exist; 2 is not in use. -/
def someSems : State :=
  let x : Sem := { Sem.reset with created := true, fold := 1, count := 3, max := 5 }
  { rich with sems := [(0, x), (2, x)] }

/-- HostObjectRequests: the last HQI, a valid queue at the last slot and number, objects without commands, each cause of a stop, the
lowest free semaphore. -/
theorem wit_HostObjectRequests :
    (canon rich = true ∧ bootOnly rich = false ∧ rich.hostPort.accesses = [] ∧ hoClean (request 1 255 1 0 0 0 0) = true ∧
      (hqiAt rich 255).created = false ∧ foldExists rich (hoFold (request 1 255 1 0 0 0 0)) = true ∧
      hoHqi (request 1 255 1 0 0 0 0) = 255) ∧
    (hoHqi (request 2 3 0 0 0 0 0) = 3 ∧ (hqiAt rich 3).created = true ∧ (∀ k ∈ hqiQueues rich 3, cmdsOf rich k = []) ∧
      rich.journal.heldBack = [] ∧ rich.hostPort.out = []) ∧
    (let r := newQueue
     hoClean r = true ∧ hoHqi r = 3 ∧ hoQueue r = 4095 ∧ (queueAt rich 4095).state = .free ∧ tagOpen rich (hoTag r) = true ∧
      tagFold (hoTag r) = (hqiAt rich 3).fold ∧ hoLoc r = 63 ∧ queueAtSlot rich 3 63 = none ∧ (hoRing r).toNat % 4096 = 0 ∧
      (hoCring r).toNat % 4096 = 0 ∧ (hoHeadWb r).toNat % 8 = 0 ∧ hoSize r = 12 ∧ (foldAt rich 1).live.queueQuota = 0) ∧
    ((queueAt rich 7).state ≠ .free ∧ cmdsOf rich 7 = [] ∧ hoQueue (request 4 0 0 0 0 7 0) = 7) ∧
    ((queueAt (stopped .seqGap) 7).state = .seqGap ∧ (queueAt (stopped .waitSlots) 7).state = .waitSlots ∧
      (queueAt (stopped .hang) 7).state = .hang ∧ (queueAt (stopped .readError) 7).state = .readError ∧ canon (stopped .hang) = true) ∧
    (let r := request 6 0 1 0 0 0 (5 * 2 ^ 168 + 5 * 2 ^ 136)
     hoClean r = true ∧ foldExists someSems (hoFold r) = true ∧ hoMax r = 5 ∧ hoCount r = 5 ∧ (foldAt someSems 1).live.semQuota = 0 ∧
      (semAt someSems 1).created = false ∧ (semAt someSems 0).created = true ∧ canon someSems = true) ∧
    ((semAt someSems 2).created = true ∧ (semAt someSems 2).holders = [] ∧ (semAt someSems 2).waiters = [] ∧
      hoSem (request 7 0 0 0 2 0 0) = 2) := by
  refine ⟨?_, ?_, ?_, ?_, ?_, ?_, ?_⟩ <;> decide +kernel

/-- A FENCE_WAIT of queue 7 that its fence satisfies. -/
def fenceWaiting : State :=
  { rich with cmds := [qcmd 1 (dq 5 (0x1000 * 2 ^ 448 + 1 * 2 ^ 384)) (.waitFence 0x1000 1)], nextUid := 2 }
def kernelOff : State := { rich with kpage := { rich.kpage with enabled := false } }
def ringReady : State :=
  { rich with
    faults := { Faults.reset with frBase := 0x3000, frEntries := 65536 }
    journal := { Journal.reset with base := 0x5000, entries := 64 } }
def ringOn : State := { rich with faults := { Faults.reset with frOn := true, frWr := 9, frRd := 4 } }
def journalOn : State :=
  { rich with
    journal := { Journal.reset with enabled := true, base := 0x5000, entries := 64, wr := 9, rd := 4 }
    queues := [(0, { Queue.reset with state := .active, cring := 0x4000, size := 64, batch := 1, sqTail := 1 })] }
def moderated : State :=
  { rich with queues := rich.queues.map fun p => if p.1 == 7 then
      (7, { p.2 with modTime := 10, unannounced := 1, firstAt := 999000, msix := 4 }) else p }

/-- RegisterRows: a slot with a queue and one without, pointers at their bounds, a fence that is met, the kernel queue off and on, rings
with valid settings, pointers between those of the rings, a journal that may stop, a timer just due. -/
theorem wit_RegisterRows :
    (canon rich = true ∧ barOn rich = true ∧ queueAtSlot rich 3 1 = some 7 ∧ queueAtSlot rich 255 63 = none ∧
      (queueAt rich 7).size = 64 ∧ ((1 : W32) - (queueAt rich 7).sqHead).toNat = ((queueAt rich 7).sqTail - (queueAt rich 7).sqHead).toNat ∧
      ((queueAt rich 7).cqTail - (queueAt rich 7).cqHead).toNat = 0) ∧
    (fenceWaiting.cmds.map (fun c => (operand0 c.desc).toNat) = [0x1000] ∧ (queueAt fenceWaiting 7).hqi = 3 ∧
      (let r := reach 8 tag1 0x1000 .read (onBehalf 1 hostMaster fenceWaiting)
       r.1 = .loc 1 0x1000 ∧ (locRead tag1 1 0x1000 16 r.2).1 = .ok (memRead rich.tarn 0x1000 16)) ∧
      1 ≤ fsValue (BitVec.ofNat 128 (ofLe (memRead rich.tarn 0x1000 16)))) ∧
    (kernelOff.kpage.enabled = false ∧ kernelOff.kpage.ring.toNat % 4096 = 0 ∧ kernelOff.kpage.cring.toNat % 4096 = 0 ∧
      kernelOff.kpage.headWb.toNat % 8 = 0 ∧ kernelOff.kpage.size.toNat ≤ 12 ∧ canon kernelOff = true) ∧
    (ringReady.faults.frOn = false ∧ ringReady.faults.frBase.toNat % 4096 = 0 ∧ ringReady.faults.frEntries.toNat = 2 ^ 16 ∧
      ringReady.faults.buffer = [] ∧ ringReady.faults.waitingB = [] ∧ ringReady.xlate.pending = [] ∧
      ringReady.journal.base.toNat % 4096 = 0 ∧ ringReady.journal.entries.toNat = 2 ^ 6 ∧ ringReady.journal.enabled = false ∧
      canon ringReady = true) ∧
    (ringOn.faults.frRd.toNat ≤ (9 : W64).toNat ∧ (9 : W64).toNat ≤ ringOn.faults.frWr.toNat ∧ (3 : W64).toNat < ringOn.faults.frRd.toNat ∧
      canon ringOn = true) ∧
    (journalOn.journal.rd.toNat ≤ (4 : W64).toNat ∧ (4 : W64).toNat ≤ journalOn.journal.wr.toNat ∧ journalOn.journal.wr.toNat < (10 : W64).toNat ∧
      journalOn.journal.buffer = [] ∧ journalOn.journal.heldBack = [] ∧ (queueAt journalOn 7).state = .free ∧ journalOn.cmds = [] ∧
      canon journalOn = true) ∧
    ((queueAt moderated 7).modTime ≠ 0 ∧ (queueAt moderated 7).unannounced ≠ 0 ∧
      (queueAt moderated 7).firstAt.toNat + 100 * (queueAt moderated 7).modTime.toNat = (now moderated).toNat ∧ canon moderated = true) := by
  refine ⟨?_, ?_, ?_, ?_, ?_, ?_, ?_⟩ <;> decide +kernel

/-- RegisterMap: BAR0 answers, before and after the kernel queue and the fault ring are enabled, the window idle and busy; or not. -/
theorem wit_RegisterMap :
    barOn rich = true ∧ barOn State.reset = false ∧ rich.faults.frOn = false ∧ ringOn.faults.frOn = true ∧ rich.kpage.dwBusy = false ∧
      barOn { rich with kpage := { rich.kpage with dwBusy := true } } = true ∧ ¬ (4 = 4 ∧ 6 % 4 = 0) ∧ ¬ (4 = 8 ∧ 6 % 8 = 0) := by
  decide +kernel

def dictBlock : State :=
  { rich with boot := { rich.boot with locked := true }, dbg := { Debug.reset with enable := true } }

/-- DictionaryAccesses: entries of each right, the largest access, an entry that does not exist, each path open and closed. -/
theorem wit_DictionaryAccesses :
    (bootOnly rich = false ∧ rich.hostPort.accesses = [] ∧ pathOpen rich .debug = false ∧ mgmtOn rich = true ∧ barOn rich = true ∧
      rich.kpage.dwBusy = false) ∧
    ((dictEntry rich 0x2000 0x30).map (fun e => (e.size, e.scalar, e.right)) = some (2, true, .rw) ∧
      (dictEntry rich 0x1001 1).map (fun e => (e.size, e.right)) = some (1, .ro) ∧ dictEntry rich 0xFFFF 0xFF = none ∧
      (dictEntry rich 0x7100 1).map (fun e => (e.size, e.isBool, e.right)) = some (1, true, .rw) ∧
      (dictEntry dictBlock 0x2000 0x20).map (fun e => (e.size, e.right)) = some (8, .rwl)) ∧
    (dictBlock.boot.locked = true ∧ bootOnly dictBlock = false ∧ dictBlock.dbg.enable = true ∧
      (let v : BitVec 96 := 0x01 <<< 88 ||| 0x2000 <<< 64 ||| 0x30 <<< 56
       v.extractLsb' 88 8 = 1#8 ∧ (v.extractLsb' 64 16).toNat = 0x2000 ∧ (v.extractLsb' 56 8).toNat = 0x30 ∧ v.extractLsb' 32 16 = 0)) := by
  refine ⟨?_, ?_, ?_⟩ <;> decide +kernel

/-- A twin that may be armed: the licence, and fold 1 its flock's bellwether. -/
def twinReady : State :=
  { withFold (fun f => { f with member := { f.member with lead := 1 } }) rich with
    ident := { Ident.reset with features := 0x10 }, twin := { Twin.reset with fold := 1 } }

/-- SingleEntryWrites: before and after the lock, a valid grazing plan and an epoch that is not ahead, a twin that may start and one that
may not. -/
theorem wit_SingleEntryWrites :
    (bootOnly rich = false ∧ rich.boot.locked = false ∧ dictBlock.boot.locked = true) ∧
    (rich.graze.activeBank = 0 ∧ rich.graze.count1 = 1 ∧ rich.tb.epoch.toNat < (2 : W64).toNat ∧ ¬ rich.tb.epoch.toNat < (1 : W64).toNat ∧
      (Tab.get 0 rich.graze.bank1 0).extractLsb' 0 16 = 0 ∧
      ∀ j, j < 16 → (Tab.get 0 rich.graze.bank1 0).getLsbD (16 + j) = true → (foldExists rich j = true ∧ (foldAt rich j).live.sealed = false) ∨ j ≠ 1) ∧
    (twinReady.ident.features.getLsbD 4 = true ∧ twinReady.twin.fold.toNat < 16 ∧
      (foldAt twinReady twinReady.twin.fold.toNat).member.lead = 1 ∧ twinReady.tb.epoch.toNat < (2 : W64).toNat) := by
  refine ⟨?_, ?_, ?_⟩ <;> decide +kernel

/-! ### Ports of management, mailboxes, sideband -/

def managed : State :=
  { rich with mgmt := { Mgmt.reset with dynAddr := 9, eid := 0x21, responses := [(0, [1]), (100, [2])] }, tb := { rich.tb with cycle := 10000100 } }
def identified : State :=
  { rich with
    ident := { Ident.reset with idState := 1 }
    spdm := [(.link 0, { SpdmConn.closed with sessions := [3] }), (.mgmt, { SpdmConn.closed with opening := [4] })] }
def spdmMsg (session param : Nat) : SpdmMsg := { session := session, param := param, bytes := [0x13, 0x84, 0, 0] }

/-- ManagementPort, SpdmRequests, TestAccessPort: the port on and off, an endpoint with and without an address and an ID; an identity valid
and not yet, a path at its limit of sessions and below it, a session that is opening and one that is not; an EXTEST that drives. -/
theorem wit_ManagementAndDebug :
    (mgmtOn rich = true ∧ mgmtOn State.reset = false ∧ rich.mgmt.dynAddr = 0 ∧ managed.mgmt.dynAddr ≠ 0 ∧ managed.mgmt.eid = 0x21) ∧
    (rich.ident.idState ≠ 1 ∧ identified.ident.idState = 1 ∧ 1 ≤ sessionsOn identified (.link 0) ∧ ¬ 4 ≤ sessionsOn identified .mgmt ∧
      4 ∈ (connOf identified .mgmt).opening ∧ 3 ∉ (connOf identified .mgmt).opening) ∧
    (State.reset.boot.step.toNat ≤ 2 ∧ 2 < rich.boot.step.toNat ∧ rich.boot.state ≠ .failed) := by
  refine ⟨?_, ?_, ?_⟩ <;> decide +kernel

/-- Channel 63 from the host to drover core 0x5101, full; channel 0 from it to the host, empty. -/
def boxes : State :=
  { rich with mbx := { Mailboxes.reset with
      bindings := [(0, 0x51015F00), (63, 0x5F005101)]
      channels := [(63, { Mailbox.reset with full := true, data := 5, sender := 0x5F00 })] } }
theorem wit_Mailboxes :
    Tab.wf Mailbox.reset boxes.mbx.channels = true ∧ (Tab.get 0 boxes.mbx.bindings 63).extractLsb' 16 16 = 0x5F00#16 ∧
      (Tab.get 0 boxes.mbx.bindings 63).extractLsb' 0 16 = 0x5101#16 ∧ (Tab.get Mailbox.reset boxes.mbx.channels 63).full = true ∧
      (Tab.get Mailbox.reset boxes.mbx.channels 0).full = false ∧ Tab.get 0 boxes.mbx.bindings 7 = 0 := by decide +kernel

def ringed : State :=
  { late rich with
    tb := { (late rich).tb with cycle := 9000000 }
    faults := { Faults.reset with frBase := 0x3000, frEntries := 64, frOn := true, frWr := 64, frRd := 1 } }
/-- SidebandEvents, CollectorAcknowledge: a mark and a lapse that are due and not due, a ring with room. -/
theorem wit_SidebandEvents :
    canon ringed = true ∧ ringed.boot.state = .ready ∧ ringed.pins.aliveAt + 12800 ≤ ringed.tb.cycle ∧
      ¬ rich.pins.aliveAt + 12800 ≤ rich.tb.cycle ∧ 3 ≤ ringed.boot.step.toNat ∧ ringed.pins.watchdog + 1000000 ≤ ringed.tb.cycle ∧
      ¬ rich.pins.watchdog + 1000000 ≤ rich.tb.cycle ∧ ringRoom ringed = true ∧ ringed.faults.buffer = [] ∧ linkUp ringed = true := by
  decide +kernel

/-! ### Boot, resets, power, clocks -/

/-- Delivery open in step 2, two fuse words of the key hash behind the next. -/
def delivering : State :=
  { base with
    boot := { Boot.reset with state := .booting, step := 2, bundleAddr := 0x9000, bundleLen := 64 }
    fuse := { base.fuse with addr := 55 } }
/-- Step 3 waits for a fuse word that is late. -/
def fusing (a : Byte) : State :=
  { base with
    boot := { Boot.reset with state := .booting, step := 3, goDone := true }
    fuse := { base.fuse with reading := true, addr := a, readAt := 100 }, tb := { base.tb with cycle := 132 } }
/-- Step 9 has waited 250 ms; port 0 has no partner yet, port 1 is not judged. -/
def agreeing (compat : Byte) (licensed : Nat) : State :=
  { base with
    boot := { Boot.reset with
      state := .booting, step := 9, goDone := true, compat := compat, topo := some (leBytes 16 0x80000001) }
    lmap := { base.lmap with minimum := licensed }
    tb := { base.tb with cycle := 25000000 } }
/-- A reset under way: every acknowledge low but that of domain d. -/
def resetting (d : Nat) : State :=
  { State.reset with
    pins := { Pins.reset with resetLow := false, pwrCycReq := true }
    power := { Power.atReset with domainsOn := setBit 0 d }
    boot := { Boot.reset with state := .booting, step := 1, resetting := true }
    tb := { Timebase.reset with cycle := 2000000 } }
def resetDone : State := { resetting 4 with power := { Power.atReset with domainsOn := 0 } }
def noDomains : State := { rich with power := { rich.power with domainsOn := 0 } }

/-- BootDelivery: delivery open and closed, a chunk that just fits and one that does not, the first word of the key hash, a
fuse word that is late to the cycle, the last word but one, a wait of exactly 250 ms. -/
theorem wit_BootDelivery :
    (delivering.boot.goDone = false ∧ delivering.boot.state = .booting ∧ delivering.boot.step = 2 ∧ delivering.fuse.addr.toNat ≤ 55 ∧
      delivering.pins.resetLow = false ∧ delivering.boot.resetting = false ∧ delivering.fuse.reading = false ∧
      delivering.boot.chunks.length + 256 ≤ 3 * 2 ^ 20 ∧ base.boot.state ≠ .booting) ∧
    ((fusing 77).fuse.reading = true ∧ (fusing 77).pins.resetLow = false ∧ (fusing 77).boot.resetting = false ∧
      (fusing 77).boot.state = .booting ∧ (fusing 77).boot.step = 3 ∧ (fusing 77).fuse.addr.toNat < 78 ∧
      (fusing 77).fuse.readAt + 32 ≤ (fusing 77).tb.cycle ∧ base.fuse.reading = false) ∧
    ((agreeing 1 0).boot.state = .booting ∧ (agreeing 1 0).boot.step = 9 ∧ (agreeing 1 0).boot.topoAt + 25000000 ≤ (agreeing 1 0).tb.cycle ∧
      (agreeing 1 0).pins.resetLow = false ∧ (agreeing 1 0).boot.resetting = false ∧ (agreeing 1 0).fuse.reading = false ∧
      topoPartner (agreeing 1 0) 0 = some 0x80000001 ∧ portUp (portAt (agreeing 1 0) 0) = false) := by
  refine ⟨?_, ?_, ?_⟩ <;> decide +kernel

/-- ResetsOfTheInstance: domains acknowledged and none, RESET_N high and low, a loader that waits, 20 ms to the cycle. -/
theorem wit_ResetsOfTheInstance :
    (rich.power.domainsOn ≠ 0 ∧ noDomains.power.domainsOn = 0 ∧ noDomains.pins.resetLow = false) ∧
    ((resetting 4).boot.resetting = true ∧ (resetting 4).power.domainsOn ≠ 0 ∧ rich.boot.resetting = false ∧ rich.boot.state ≠ .booting) ∧
    (resetDone.boot.state = .booting ∧ resetDone.boot.step = 1 ∧ resetDone.boot.resetting = true ∧ resetDone.power.domainsOn = 0 ∧
      resetDone.power.requests = 0 ∧ resetDone.power.reqAt = [] ∧ resetDone.power.brownout = false ∧ resetDone.fuse.reading = false) ∧
    ((resetting 4).boot.resetting = true ∧ 2000000 ≤ (resetting 4).tb.cycle ∧ rich.boot.resetting = false) := by
  refine ⟨?_, ?_, ?_, ?_⟩ <;> decide +kernel

/-- Domain d requested, acknowledged or not, powered down or not, 10 µs ago. -/
def powered (d : Nat) (on down : Bool) (s : State) : State :=
  { s with
    power := { s.power with
      requests := setBit 0 d, domainsOn := if on then setBit 0 d else 0, down := if down then setBit 0 d else 0,
      reqAt := Tab.set 0 [] d 4000 }
    tb := { s.tb with cycle := 5000 } }
/-- PowerDomains: the paddock-0 pond domain and an engine domain in each situation; the last acknowledge of a reset falls. -/
theorem wit_PowerDomains :
    let p := powered 6 true false base
    let q := powered 105 false false base
    (p.boot.state = .ready ∧ p.power.requests.getLsbD 6 = true ∧ p.power.domainsOn.getLsbD 6 = true ∧ p.power.down.getLsbD 6 = false ∧
      p.xlate.reqs = [] ∧ p.power.requests.getLsbD 5 = false ∧ p.boot.resetting = false) ∧
    ((powered 0 true false { base with folds := [] }).xlate.reqs = [] ∧
      domainNeeded (powered 0 true false { base with folds := [], lmap := { base.lmap with map := [] } }) 0 = false) ∧
    ((powered 69 true true base).power.down.getLsbD 69 = true ∧ 69 < 72 ∧ 69 % 9 = 6) ∧
    (q.power.requests.getLsbD 105 = true ∧ q.power.domainsOn.getLsbD 105 = false ∧ Tab.get 0 q.power.reqAt 105 + 1000 ≤ q.tb.cycle) ∧
    ((resetting 4).boot.state = .booting ∧ (resetting 4).boot.step = 1 ∧ (resetting 4).boot.resetting = true ∧
      (resetting 4).pins.resetLow = false ∧ (resetting 4).power.requests = 0 ∧ (resetting 4).power.brownout = false ∧
      (resetting 4).fuse.reading = false ∧ clearBit (resetting 4).power.domainsOn 4 = 0) := by
  refine ⟨?_, ?_, ?_, ?_, ?_⟩ <;> decide +kernel

/-- The limits at 100 and 900, 1000, 1100 tenths; the clocks where the test puts them. -/
def limited (arr herd under : Nat) (brown : Bool) : State :=
  { base with
    power := { base.power with
      powerLimit := 100, throttle := 900, critical := 1000, shutdown := 1100, clkArr := arr, clkHerd := herd,
      underLimit := under, brownout := brown }
    weirG := { base.weirG with farCap := 800, farCapNow := 700, stackCapNow := 5 } }
/-- ClocksAndCapacities: a hold and none; temperatures and estimates at and beyond each limit. -/
theorem wit_ClocksAndCapacities :
    let s := limited 1600 2000 9 false
    (State.reset.pins.resetLow = true ∧ s.pins.resetLow = false ∧ s.power.brownout = false ∧ (limited 400 500 0 true).power.brownout = true ∧
      s.boot.state ≠ .booting) ∧
    (s.power.shutdown.toNat < 1101 ∧ 1100 ≤ s.power.shutdown.toNat ∧ s.power.throttle.toNat ≤ s.power.critical.toNat ∧
      100 ≤ s.power.powerLimit.toNat ∧ 95 * 20 ≤ s.power.powerLimit.toNat * 19 ∧ ¬ 96 * 20 ≤ s.power.powerLimit.toNat * 19 ∧
      850 + 50 ≤ s.power.throttle.toNat ∧ s.weirG.farCapNow.toNat < (701#32).toNat ∧ (700#32).toNat ≤ s.weirG.farCapNow.toNat) := by
  refine ⟨?_, ?_⟩ <;> decide +kernel

/-! ### Descriptors, tile tasks, launches -/

/-- Queue 7 as `f` makes it. -/
def withQ7 (f : Queue → Queue) (s : State) : State := { s with queues := s.queues.map fun p => if p.1 == 7 then (7, f p.2) else p }
/-- One batch of queue 7 outstanding; the entry holds the descriptor of a marker. -/
def batching : State :=
  withQ7 (fun x => { x with batch := 1 }) { rich with
    hostPort := { rich.hostPort with out := [{ tag := 3, use := .batch 7, tagOf := tag1, since := 4, hqi := 3 }] }
    host := memWrite [] 0x8000 (leBytes 64 (dq 12 0).toNat) }
/-- An entry of a map (R279): flags in bits 124 to 127, node, tag, one leaf and some engines of its own. -/
def entryOf (flags node : Nat) (tag : W16) (k engines : Nat) : List Byte :=
  leBytes 16 (flags * 2 ^ 124 + node * 2 ^ 100 + tag.toNat * 2 ^ 84 + k * 2 ^ 64 + k * 2 ^ 44 + engines * 2 ^ 24 + 2 ^ 4)
/-- Fold 1's context 5 is member 2, in state st, of flock 77 of version 3 whose map, in tarn unit 1, has the entries given. -/
def flocked (st : Nat) (es : List Byte) : State :=
  withFold (fun f => { f with member := { f.member with
    state := st, memberNo := 2, lastMember := 2, mapUnit := 1, mapValid := true, version := 3, flockId := 77
    bellwether := 0x80000001, replica1 := 0x80000012, replica2 := 0x80000023, admitFlock := 77, admitBell := 0x80000012 } })
    { rich with tarn := memWrite rich.tarn 0x100000 es }
/-- Members 0 and 1 on nodes 1 and 2, compute or reservoir or sub-flock, and this one. -/
def mapOf2 (f0 f1 : Nat) : List Byte := entryOf f0 1 (mkTag 2 1 1) 0 1 ++ entryOf f1 2 (mkTag 3 1 1) 1 1 ++ entryOf 8 0 tag1 2 32
def plainMap : List Byte := mapOf2 8 8
def excludedMember : State := flocked 4 plainMap

/-- DescriptorsOfQueues: a queue that may be read and one that may not; an excluded member, a closed and an open sluice; a wrong binding, a
privileged opcode, one outside a flock; a sequence behind by one and by 65,536, ahead by one, and equal; a batch out and none. -/
theorem wit_DescriptorsOfQueues :
    (Instr.wf (.mark 7 (dq 12 0)) = true ∧ descriptorOf (.mark 7 (dq 12 0)) = some (7, dq 12 0) ∧
      mayRead rich 7 = true ∧ mayRead rich 8 = false) ∧
    (mayRead excludedMember 7 = true ∧ flockClosed excludedMember (queueAt excludedMember 7).tag = true ∧
      flockClosed rich (queueAt rich 7).tag = false ∧ queueClosed rich 7 = false ∧
      mayRead (withQ7 (fun x => { x with state := .fenced }) rich) 7 = true ∧
      queueClosed (withQ7 (fun x => { x with state := .fenced }) rich) 7 = true) ∧
    (bindingOk (queueAt rich 7) 7 (dq 12 0) = true ∧ bindingOk (queueAt rich 7) 7 (desc 12 8 3 tag1 0 0) = false ∧
      opcodeAccepted rich 7 0x0C = true ∧ opcodeAccepted rich 7 8 = false) ∧
    ((0#64 - 0 : W64).toNat = 0 ∧ ((queueAt (withQ7 (fun x => { x with nextSeq := 1 }) rich) 7).nextSeq - seqOf (dq 12 0)).toNat = 1 ∧
      ((queueAt (withQ7 (fun x => { x with nextSeq := 65536 }) rich) 7).nextSeq - seqOf (dq 12 0)).toNat = 65536 ∧
      65536 < ((queueAt rich 7).nextSeq - seqOf (desc 12 7 3 tag1 1 0)).toNat) ∧
    (mayRead batching 7 = true ∧ (batching.hostPort.out.any fun r => r.use == .batch 7) = true ∧ (queueAt batching 7).batch = 1 ∧
      BitVec.ofNat 512 (ofLe (hostRead batching 0x8000 64)) = dq 12 0 ∧
      accepts 7 (dq 12 0) { batching with hostPort := { batching.hostPort with out := [] } } = true) := by
  refine ⟨?_, ?_, ?_, ?_, ?_⟩ <;> decide +kernel

/-- A tensor header: data, columns, rows, a stride of 64 bytes. -/
def thdr (data cols rows : Nat) : List Byte := leBytes 64 (data + cols * 2 ^ 128 + rows * 2 ^ 160 + 64 * 2 ^ 224)
/-- INT8 times INT8 to INT32: A, B and C have their headers at 0x11000, 0x11040, 0x11080; engine e of the fold, or any. -/
def tileD (e : Nat) : BitVec 512 :=
  dq 1 (8 * 2 ^ 379 + 8 * 2 ^ 374 + 10 * 2 ^ 369 + 0x3F800000 * 2 ^ 416 + 2 ^ 335 + 0x11080 * 2 ^ 256 + 0x11040 * 2 ^ 192 +
    0x11000 * 2 ^ 128 + e * 2 ^ 76)
/-- A = (1 2; 3 4), B = (5 6; 7 8), C of 2 rows and 2 columns. -/
def tiled : State :=
  { rich with
    tarn := memWrite (memWrite (memWrite (memWrite (memWrite (memWrite (memWrite rich.tarn 0x10000 [1, 2]) 0x10040 [3, 4]) 0x10100 [5, 6])
      0x10140 [7, 8]) 0x11000 (thdr 0x10000 2 2)) 0x11040 (thdr 0x10100 2 2)) 0x11080 (thdr 0x10200 2 2)
    cmds := [qcmd 1 (tileD 0xFFFFF) .accepted], nextUid := 2 }
def after' (o : Out) (s : State) : State := match o with | .next t => t | _ => s
/-- Every request that is out is answered. -/
def answered (s : State) : State := s.xlate.reqs.foldl (fun t r => after' (exec (.memoryResponse r.id false) t) t) s
/-- The same task ready, its operands here; in the array; its rows out and its header merged. -/
def tileQueued : State := answered (after' (exec (.taskReady 1) tiled) tiled)
def tileIn : State := after' (exec (.tileStart 0) tileQueued) tiled
def tileOut : State := after' (exec (.tileComplete 0) tileIn) tiled
def tileEnd : State := answered (answered tileOut)
/-- R71: C is A times the transpose of B; the record tells success (R98). -/
theorem test_tileTask :
    tileIn.cmds.map (fun c => c.phase) = [.tile 0] ∧ tileEnd.cmds = [] ∧
      memRead tileEnd.tarn 0x10200 8 = leBytes 4 17 ++ leBytes 4 23 ∧ memRead tileEnd.tarn 0x10240 8 = leBytes 4 39 ++ leBytes 4 53 ∧
      (hostRead tileEnd 0xC000 1).head? = some 1 := by refine ⟨?_, ?_, ?_, ?_, ?_⟩ <;> decide +kernel

/-- TileTasks: acceptance; a task with no engine named, with engine 0, 31 and 32 named; one behind a closed sluice, one whose headers
fail, one that passes; a task first in its queue, its operands here or not; a tile in the array whose operands are here, not here or lost;
rows to write, a header to merge and nothing left. -/
theorem wit_TileTasks_accept : alone 7 (tileD 0xFFFFF) rich := aloneOf (by decide +kernel)
theorem wit_TileTasks_ready :
    let c := qcmd 1 (tileD 0xFFFFF) .accepted
    let p0 := preTranslate c 0 .read (pagesOfAll (headerRanges c.desc)) [] tiled
    let f := fetchAll { c with pages := [] } 0 (engineMaster tiled 0) (headerRanges c.desc) p0.2.2
    let bs := match f.1 with | .ok bs => bs | _ => []
    let c1 := { c with coll := { c.coll with acc := bs, parts := [] }, launch := { c.launch with next := 0 } }
    let p1 := preTranslate c1 0 .read (pagesOfAll (headerRanges c.desc ++ readRanges c.desc (hdrsOf c1))) [] f.2
    let p2 := preTranslate c1 0 (outAccess c.desc) (pagesOfAll (writeRanges c.desc (hdrsOf c1))) p1.2.1 p1.2.2
    (cmdAt tiled 1 = some c ∧ opcodeOf c.desc = 1 ∧ mayStart tiled c = true ∧ tagClosed tiled c.tag = false ∧ residencyOk tiled c.tag = true ∧
      tlEngine c.desc = anyEngine ∧ descCheck c.desc = none ∧ licenceOk tiled c.desc = true ∧ tlFast c.desc = false ∧
      readyEngine tiled c none = 0 ∧ enginePlace tiled 0 = 0 ∧ flockContext tiled c.tag = false) ∧
    (p0.1 = .ok [] ∧ f.1 = .ok bs ∧ readyCheck f.2 c1 = none ∧ readyEngine f.2 c1 none = 0 ∧ enginePlace f.2 0 = 0 ∧ p1.1 = .ok [] ∧
      p2.1 = .ok []) ∧
    ((foldEngines tiled 1)[31]? = some 31 ∧ (foldEngines tiled 1)[32]? = none ∧ engineBound tiled 31 = true ∧
      engineBound { tiled with lmap := { tiled.lmap with map := [(0, 0x8000)] } } 31 = false ∧
      descCheck (tileD 0xFFFFF ^^^ BitVec.ofNat 512 1) = some 8 ∧
      tagClosed (withCtx (fun x => { x with sluiceClosed := true }) tiled) tag1 = true) := by
  refine ⟨?_, ?_, ?_⟩ <;> decide +kernel
theorem wit_TileTasks_start :
    let c := (cmdAt tileQueued 1).getD cmd1
    (nextTask tileQueued 0 = some 1 ∧ (cmdAt tileQueued 1).isSome = true ∧ (engineAt tileQueued 0).tile = none ∧
      (engineAt tileQueued 0).blocked = false ∧ tileQueued.power.brownout = false ∧ engineBound tileQueued 0 = true ∧
      enginePowered tileQueued 0 = true ∧ engineHeld tileQueued 0 = true ∧ tagClosed tileQueued c.tag = false) ∧
    (c.asked = (piecesTo c.desc (hdrsOf c) 1).length ∧ c.opnd.length = c.asked ∧ settled tileQueued c = true) ∧
    settled (after' (exec (.taskReady 1) tiled) tiled) c = false := by
  refine ⟨?_, ?_, ?_⟩ <;> decide +kernel
theorem wit_TileTasks_complete :
    let c := (cmdAt tileIn 1).getD cmd1
    ((engineAt tileIn 0).tile = some 1 ∧ (cmdAt tileIn 1).isSome = true ∧ c.opnd.length = c.asked ∧ settled tileIn c = true ∧
      c.asked = (piecesTo c.desc (hdrsOf c) (segCount c.desc (hdrsOf c) + 1)).length ∧ tileIn.poison = []) ∧
    (let s := answered tileOut
     let x := (cmdAt (tileOut) 1).getD cmd1
     x.phase = .busy ∧ x.out = [] ∧ x.moved = 0 ∧ tlFmtOut x.desc ≠ fmtContainer ∧ settled tileOut x = false ∧
      ((cmdAt s 1).getD cmd1).moved = 2 ∧ settled s x = false) ∧
    (let s := { tileOut with xlate := { tileOut.xlate with reqs := [] } }
     let c := (cmdAt s 1).getD cmd1
     let r := cmdReach c (enginePlace s (ranOn c)) (tlHdrC c.desc + 32) .write (onBehalf 1 (engineMaster s (ranOn c)) s)
     settled s c = true ∧ stalled s 1 = false ∧ r.1 = .loc 1 0x110A0 ∧ landOk r.2 c.tag 1 0x110A0 = true ∧
      reachable r.2 c.tag 1 0x110A0 8 = true ∧ poisoned r.2 1 0x110A0 8 = false) := by
  refine ⟨?_, ?_, ?_⟩ <;> decide +kernel

/-- A launch whose one argument beat stands at 0x1000, of two gangs. -/
def argLaunch : BitVec 512 := launchDesc + BitVec.ofNat 512 (0x1000 * 2 ^ 192 + 1 * 2 ^ 299 + 1 * 2 ^ 256)
def launchCmd (uid : Nat) (d : BitVec 512) : Cmd := { qcmd uid d .launched with launch := Launch.reset }
def launching : State := { rich with cmds := [launchCmd 1 argLaunch], nextUid := 2 }
/-- A launch with a trap: its request still out, and over. -/
def trapped1 : Trap := { detail := 0x29, pc := 0x40010, gang := 1, group := 0, lanes := 5, imm := 0, master := 0x2003, time := 9 }
def trapOut (reqs : List Req) : State :=
  { herd with
    cmds := [{ launchCmd 1 argLaunch with launch := { Launch.reset with trap := some trapped1, traps := 2, stopped := true, next := 1 } }]
    xlate := { herd.xlate with reqs := reqs } }
def req1 (g : Option GroupRef) : Req :=
  { id := 7, tag := tag1, cls := 1, uid := 1, master := 0x2003, admitted := 1, bytes := 64, frame := none, address := 0x1000, grp := g,
    pc := 0x40010, hqi := 0, abandoned := false }
/-- Half-group 0 with core 5 out of use. -/
def vacant0 : State := { rich with
  lmap := { rich.lmap with retired := setBit 0 613 }
  folds := [(1, { fold1 with live := { fold1.live with halfGroups := 1 } })] }

/-- HerdLaunches: checks that fail and pass, a fold whose one half-group is vacant; a core with a launch and one without; a trap that waits
and one that does not; a request of a group and one of none. -/
theorem wit_HerdLaunches_accept :
    (alone 7 argLaunch rich ∧ alone 7 (argLaunch + BitVec.ofNat 512 (2 ^ 128)) rich ∧ alone 7 argLaunch vacant0) ∧
    (launchCheck rich (accepted 7 argLaunch rich) = none ∧ residencyOk rich tag1 = true ∧
      launchCheck rich (accepted 7 (argLaunch + BitVec.ofNat 512 (2 ^ 128)) rich) = some 0x11 ∧
      (∃ h ∈ launchHalves rich 1 (hlMask argLaunch), halfVacant rich h = false) ∧
      ∀ h ∈ launchHalves vacant0 1 (hlMask argLaunch), halfVacant vacant0 h = true) :=
  ⟨⟨aloneOf (by decide +kernel), aloneOf (by decide +kernel), aloneOf (by decide +kernel)⟩, by decide +kernel⟩
theorem wit_HerdLaunches_place :
    nextLaunch launching 15 = some (launchCmd 1 argLaunch) ∧ nextLaunch rich 0 = none ∧ coreUnusable launching 127 = false ∧
      halfVacant launching 15 = false ∧ bitAt launching.power.down 68 = false ∧ coreRoom launching 127 argLaunch = true ∧
      (fetchRange (launchCmd 1 argLaunch) 7 (coreMaster 127) (hlArgBase argLaunch) (hlArgLen argLaunch) launching).1 = .ok (1#8 :: 0 :: 0 :: 2 :: List.replicate 12 0) ∧
      launching.herd.caches = [] ∧ 127 ∉ (launchCmd 1 argLaunch).launch.cores ∧ coreUnusable vacant0 5 = true := by decide +kernel
theorem wit_HerdLaunches_end :
    ((trapOut [req1 none]).xlate.reqs ≠ [] ∧ (cmdAt (trapOut []) 1).map (fun c => c.launch.trap) = some (some trapped1) ∧
      (trapOut []).xlate.reqs = [] ∧ unackedOf (trapOut []) 1 1 = 0) ∧
    ((trapOut [req1 (some t1)]).xlate.reqs.find? (fun r => r.id == 7) = some (req1 (some t1)) ∧
      (trapOut [req1 none]).xlate.reqs.find? (fun r => r.id == 7) = some (req1 none) ∧
      rich.xlate.reqs.find? (fun r => r.id == 7) = none) := by decide +kernel
/-- R105, R109: the gang placed runs from the code address with every lane, its argument beat at the bottom of its local store. -/
theorem test_gangPlace :
    ((after' (exec (.gangPlace 127) launching) rich).herd.gangs.map fun g =>
      (g.core, memRead g.store 0 16, g.groups.map fun x => (x.pc, x.active))) =
        [(127, 1#8 :: 0 :: 0 :: 2 :: List.replicate 12 0, [(0x40000000#64, 0xFFFF#16), (0x40000000#64, 0xFFFF#16)])] := by decide +kernel

/-! ### Flocks, collectives, reservoir -/

/-- RESV_OP op of a key, its buffer at 0x2000; COLLECTIVE op over 64 bytes at 0x1000. -/
def rvD (op : Nat) (extra : Nat) : BitVec 512 := dq 0x0B (op * 2 ^ 92 + 0x5A * 2 ^ 384 + 0x2000 * 2 ^ 320 + extra)
def collD (op extra : Nat) : BitVec 512 := dq 8 (0x1000 * 2 ^ 448 + 0x2000 * 2 ^ 384 + 64 * 2 ^ 344 + op * 2 ^ 340 + 1 * 2 ^ 338 + extra)
/-- A member of a flock with two reservoir members, and of one without. -/
def clientOf : State := flocked 2 (mapOf2 9 9)
def collOf : State := flocked 2 plainMap
/-- A command of context 5 that has waited for its peers beyond coll_timeout, and to the cycle. -/
def waitingPeers (d : BitVec 512) (origin : Option Packet) (at' : Nat) : State :=
  late { clientOf with
    cmds := [{ qcmd 1 d .peers with startAt := BitVec.ofNat 64 at', coll := { CollState.reset with origin := origin } }], nextUid := 2 }

/-- ReservoirCommands: each op, of rank 0 and 1, whose buffer is reached; no member of the rank; a wait that is over to the
nanosecond and one that is not. -/
theorem wit_ReservoirCommands_accept :
    (alone 7 (rvD 0 0) clientOf ∧ alone 7 (rvD 2 (2 ^ 91)) clientOf ∧ alone 7 (rvD 5 0) collOf) ∧
    (Instr.wf (.resvLookup 7 (rvD 0 0)) = true ∧ Instr.wf (.resvFill 7 (rvD 2 (2 ^ 91))) = true ∧ rvFieldsOk (rvD 0 0) = true ∧
      flockContext clientOf tag1 = true ∧ rvRanked (rvKey (rvD 5 0)) (rvMembers collOf 1) 0 = none ∧ rvFieldsOk (rvD 2 (2 ^ 91)) = true ∧
      (rvRanked (rvKey (rvD 0 0)) (rvMembers clientOf 1) 0).isSome = true ∧
      (rvRanked (rvKey (rvD 0 0)) (rvMembers clientOf 1) 1).isSome = true ∧ mayRequest clientOf 1 = true) ∧
    ((rvReach (accepted 7 (rvD 0 0) clientOf) .write (pagesOf 0x2000 (rvSpan (rvD 0 0))) (taken 7 (rvD 0 0) clientOf)).1 = .ok [] ∧
      (let r := rvReach (accepted 7 (rvD 2 0) clientOf) .read (pagesOf 0x2000 (rvSpan (rvD 2 0))) (taken 7 (rvD 2 0) clientOf)
       r.1 = .ok [] ∧ rvBytes (rvD 2 0) = 256 ∧
        (fetchRange (accepted 7 (rvD 2 0) clientOf) niPlace niMaster 0x2000 256 r.2).1 = .ok (List.replicate 256 0))) :=
  ⟨⟨aloneOf (by decide +kernel), aloneOf (by decide +kernel), aloneOf (by decide +kernel)⟩, by decide +kernel, by decide +kernel⟩
theorem wit_ReservoirCommands_timeout :
    (cmdAt (waitingPeers (rvD 0 0) none 80000000) 1).map (fun c => (opcodeOf c.desc, c.phase, c.startAt)) =
        some (0x0B, .peers, 80000000) ∧ (waitingPeers (rvD 0 0) none 5).tb.time = 90000000 ∧
      clientOf.flock.collTimeout.toNat * 1000 ≤ 90000000 - 5 := by decide +kernel

/-- Collectives: an excluded entry, bad fields, a sub-flock with no hop left, and plain members with room for every page. -/
theorem wit_Collectives :
    (alone 7 (collD 0 0) collOf ∧ alone 7 (collD 0 0) (flocked 2 (mapOf2 8 10)) ∧ alone 7 (collD 0 (1 * 2 ^ 128)) collOf ∧
      alone 7 (collD 3 0) (flocked 2 (mapOf2 8 12))) ∧
    (Instr.wf (.allReduce 7 (collD 0 0)) = true ∧ Instr.wf (.allGather 7 (collD 3 0)) = true ∧
      anyExcluded (flocked 2 (mapOf2 8 10)) 1 = true ∧ anyExcluded collOf 1 = false ∧ collFieldsOk collOf 1 (collD 0 (1 * 2 ^ 128)) false = false ∧
      collFieldsOk collOf 1 (collD 0 0) false = true ∧ (∃ p ∈ collMembers (flocked 2 (mapOf2 8 12)) 1, meSub p.2 = true) ∧
      hopCount (collD 3 0) = 0 ∧ collFieldsOk (flocked 2 (mapOf2 8 12)) 1 (collD 3 0) false = true ∧
      (∀ p ∈ collMembers collOf 1, meSub p.2 = false) ∧ collSources collOf 1 (collD 0 0) = [0, 1, 2] ∧
      (∀ m ∈ [0, 1, 2], 0 < partLen (collD 0 0) (mapEntry collOf 1 m)) ∧ (foldAt collOf 1).unacked = []) :=
  ⟨⟨aloneOf (by decide +kernel), aloneOf (by decide +kernel), aloneOf (by decide +kernel), aloneOf (by decide +kernel)⟩, by decide +kernel⟩

/-- The header of a message of node 0 or 1's fold to fold 1's flock. -/
def hdrOf (node fold version detail rank : Nat) : MsgHdr :=
  { epoch := 1, version := BitVec.ofNat 32 version, flockId := 77, senderNode := BitVec.ofNat 18 node, senderFold := BitVec.ofNat 4 fold,
    senderRank := BitVec.ofNat 2 rank, detail := BitVec.ofNat 8 detail }
def mapHdr1 : MapHdr :=
  { bellwether := 0x80000001, replica1 := 0x80000012, replica2 := 0x80000023, lastMember := 2, reproducible := false, reservedZero := true }
/-- Member 2's own entry as a change. -/
def ownRec : ChangeRec := { member := 2, entry := BitVec.ofNat 128 (ofLe (entryOf 8 0 tag1 2 32)), reservedZero := true }
def withMember (f : Member → Member) (s : State) : State :=
  { s with folds := s.folds.map fun p => if p.1 == 1 then (1, { p.2 with member := f p.2.member }) else p }
def held4 (rank : Nat) : HeldMap :=
  { version := 4, hdr := hdrOf 1 2 4 0 rank, mapHdr := mapHdr1, recs := [ownRec], applyAt := 3, forParent := false, acks := [] }
/-- Fold 1 leads flock 77; the proposal at 0x9000 of host memory changes nothing but its own entry. -/
def leading (lead base : Nat) : State :=
  withMember (fun m => { m with lead := lead }) { collOf with
    flock := { collOf.flock with proposeAddr := 0x9000, proposeFold := 1 }
    host := memWrite [] 0x9000 (leBytes 64 (77 * 2 ^ 480 + base * 2 ^ 448 + 1 * 2 ^ 416 + ofLe (mapHdrBytes mapHdr1) * 2 ^ 160) ++
      changeBytes ownRec) }
/-- A fold that may join flock 77, and one whose SNAPSHOT is under way. -/
def joining (st : Nat) : State := withMember (fun m => { m with state := st, flockId := 0, snapshotCount := 2, snapshot := [(1, 5)] }) collOf

/-- The same, its SNAPSHOT for version 4 of the change whole. -/
def joined (st : Nat) : State :=
  withMember (fun m => { m with state := st, snapshotCount := 3, snapshotOf := some (msgKey (hdrOf 1 2 4 0 0)) }) (joining st)
/-- The same block two epochs later: a change for epoch 3 comes late. -/
def thirdEpoch (s : State) : State := { s with tb := { s.tb with epoch := 3 } }
/-- Fold 1 leads flock 77, whose parent is flock 78; the flock's entry in the parent's map holds its 34 engines and 3 leaves. -/
def subRec : ChangeRec := { member := 0, entry := BitVec.ofNat 128 (ofLe (entryOf 12 0 tag1 3 34) + 2 * 2 ^ 4), reservedZero := true }
def parented (version : Nat) : State :=
  withMember (fun m => { m with
    admitParent := 78, admitParentBell := 0x80000012, parentVersion := BitVec.ofNat 32 version, parentFlock := 78, parentHdr := mapHdr1
    parentMap := [(0, subRec.entry)] }) collOf
def parentHdr4 : MsgHdr := { hdrOf 1 2 4 0 0 with flockId := 78 }
def heldParent4 : HeldMap :=
  { version := 4, hdr := parentHdr4, mapHdr := mapHdr1, recs := [subRec], applyAt := 3, forParent := true, acks := [] }

/-- FlockMessages, proposals: one that cannot be read, one of a wrong base, one that is good, and a promotion. -/
theorem wit_FlockMessages_propose :
    bootOnly (leading 1 3) = false ∧ (readProposal { leading 1 3 with poison := [(3, 0x240)] }).2.1 = none ∧
      (readProposal { leading 1 3 with poison := [(3, 0x240)] }).1 ≠ .wait ∧
      (readProposal (leading 1 2)).2.1.map (proposalOk (leading 1 2) 1 false) = some false ∧
      (readProposal (leading 1 3)).2.1.map (proposalOk (leading 1 3) 1 false) = some true ∧
      (readProposal (leading 2 3)).2.1.map (proposalOk (leading 2 3) 1 true) = some true := by decide +kernel
/-- FlockMessages, messages: every branch of the receiver. -/
theorem wit_FlockMessages_messages :
    (freshMsg 33 (hdrOf 0 1 4 0 0) collOf = true ∧ canon collOf = true ∧ canon (joining 0) = true ∧
      rivalOf collOf 1 (hdrOf 0 1 4 0 0) = none ∧ nakReason collOf 1 (hdrOf 0 1 5 0 0) mapHdr1 [ownRec] = some 1 ∧
      nakReason collOf 1 (hdrOf 0 1 4 0 0) mapHdr1 [ownRec] = none ∧ asParent collOf 1 (hdrOf 0 1 4 0 0) = false ∧
      nakReason (joining 0) 1 (hdrOf 1 2 4 0 0) mapHdr1 [ownRec] = none ∧ nakReason (joining 1) 1 (hdrOf 1 2 4 0 0) mapHdr1 [ownRec] = none ∧
      (foldAt (joining 1) 1).member.snapshotCount ≤ mapHdr1.lastMember.toNat) ∧
    (let s := withMember (fun m => { m with held := some (held4 1) }) collOf;
      rivalOf s 1 (hdrOf 1 2 4 0 1) = some (held4 1) ∧ senderOf (held4 1).hdr = senderOf (hdrOf 1 2 4 0 1) ∧
      rivalOf s 1 (hdrOf 2 3 4 0 1) = some (held4 1) ∧ senderOf (held4 1).hdr ≠ senderOf (hdrOf 2 3 4 0 1) ∧
      (held4 1).hdr.senderRank.toNat ≤ (hdrOf 2 3 4 0 1).senderRank.toNat) ∧
    ((foldAt (joining 1) 1).member.state = 1 ∧ snapshotWhole (foldAt (joined 1) 1).member (held4 0) = true ∧
      snapshotWhole (foldAt (joining 1) 1).member (held4 0) = false ∧ snapshotWhole (foldAt (joined 0) 1).member (held4 0) = true ∧
      collOf.tb.epoch = 1 ∧ (held4 0).applyAt = 3 ∧ nakReason (joined 0) 1 (hdrOf 1 2 4 0 0) mapHdr1 [ownRec] = none ∧
      nakReason (joined 1) 1 (hdrOf 1 2 4 0 0) mapHdr1 [ownRec] = none ∧
      nakReason (thirdEpoch collOf) 1 (hdrOf 0 1 4 0 0) mapHdr1 [ownRec] = none) ∧
    (asParent (parented 3) 1 (parentHdr4) = true ∧ asParent (parented 0) 1 parentHdr4 = true ∧ joinsParent (parented 0) 1 = true ∧
      joinsParent (parented 3) 1 = false ∧ nakReason (parented 3) 1 parentHdr4 mapHdr1 [subRec] = none ∧
      nakReason (parented 0) 1 parentHdr4 mapHdr1 [subRec] = none ∧ nakReason (thirdEpoch (parented 3)) 1 parentHdr4 mapHdr1 [subRec] = none ∧
      rivalOf (parented 3) 1 parentHdr4 = none ∧ parentWhole (foldAt (parented 0) 1).member heldParent4 = false ∧
      (foldAt (parented 0) 1).member.heldParent = none) ∧
    ((foldAt collOf 1).member.state = 2 ∧ senderOf (hdrOf 0 1 3 0 0) = (foldAt collOf 1).member.bellwether ∧
      (∀ e ∈ [0, 2], e ≤ (foldAt collOf 1).member.lastMember.toNat) ∧ (foldAt collOf 1).member.version.toNat < (4#32).toNat ∧
      Tab.wf 0 (foldAt (joining 1) 1).member.snapshot = true ∧ (foldAt (joining 1) 1).member.held = none) := by
  refine ⟨?_, ?_, ?_, ?_, ?_⟩ <;> decide +kernel

/-! Twins, timeouts, the reservoir's members. -/

/-- A twin digest: key k in the upper bits, digest v; the twin of context 5 with the partner on node 1, fold 2. -/
def digestOf (k v : Nat) : BitVec 128 := BitVec.ofNat 128 (k * 2 ^ 116 + v)
def twinned (mode : Byte) (own : List (BitVec 128)) : State :=
  { rich with twin := { Twin.reset with partner := 0x80000012, tag := tag1, fold := 1, mode := mode, state := 2, own := own } }
/-- An unacknowledged request of command 1, sent long ago, and a task carried here from elsewhere. -/
def e2e1 (at' : Nat) : E2E :=
  { seq := 5, packet := { blankPacket rich with destNode := 1, ptype := 2 }, uid := 1, tag := tag1, use := .none, master := hostMaster, va := 0, level := 0,
    pc := 0, hqi := 0, sentAt := BitVec.ofNat 64 at'
    firstAt := BitVec.ofNat 64 at', vc := 3, abandoned := false }
def requested (c : Cmd) (es : List E2E) : State :=
  late (withFold (fun f => { f with unacked := es }) { rich with cmds := [c], nextUid := 2 })

/-- TwinAndTimeouts: other senders and the partner; a digest with no match, one that agrees, one that differs, halt mode on and off; an
unacknowledged request of a task and of a launch; a carried task. -/
theorem wit_TwinAndTimeouts :
    (freshMsg 33 (hdrOf 1 2 4 0 0) (twinned 0 [digestOf 3 7]) = true ∧
      senderOf (hdrOf 1 2 4 0 0) = (twinned 0 []).twin.partner ∧ peerValid (twinned 0 []).twin.partner = true ∧
      senderOf (hdrOf 2 3 4 0 0) ≠ (twinned 0 []).twin.partner ∧ peerNode (twinned 0 []).twin.partner ≠ (hdrOf 2 3 4 0 0).senderNode ∧
      [digestOf 3 7].find? (fun x => twinKey x == twinKey (digestOf 3 7)) = some (digestOf 3 7) ∧
      twinKey (digestOf 3 8) = twinKey (digestOf 3 7) ∧ field (digestOf 3 8) 0 64 ≠ field (digestOf 3 7) 0 64 ∧
      twinKey (digestOf 4 7) ≠ twinKey (digestOf 3 7) ∧ bitAt (twinned 1 []).twin.mode 0 = true) ∧
    (let s := requested (qcmd 1 (dq 1 0) (.carried 0)) [e2e1 5];
      (foldAt s 1).unacked.find? (fun e => e.seq == 5 && !e.abandoned) = some (e2e1 5) ∧
        (e2e1 5).firstAt.toNat + 1000 * s.flock.collTimeout.toNat ≤ s.tb.time.toNat ∧
        cmdAt (endE2E 1 (e2e1 5) s) 1 = some (qcmd 1 (dq 1 0) (.carried 0)) ∧
        (foldAt s 1).unacked.filter (fun e => e.uid == 1) = [e2e1 5] ∧
        (qcmd 1 (dq 1 0) (.carried 0)).readyAt.toNat + 1000 * s.flock.collTimeout.toNat ≤ s.tb.time.toNat) := by
  refine ⟨?_, ?_⟩ <;> decide +kernel

/-- Fold 1 is a reservoir member of flock 77 with the records given; pages at far offset 0, the index in tarn unit 4. -/
def onFold (f : Fold → Fold) (s : State) : State := { s with folds := s.folds.map fun p => if p.1 == 1 then (1, f p.2) else p }
def rslot (committed : Bool) (reads : Nat) : ResvSlot :=
  { committed := committed, gen := 0, token := 0x77, key := 0x5A, request := 9, length := 256, digest := 5, lastUse := 1, reads := reads
    dropAt := none, sent := false }
def keeper (slots : List (Nat × ResvSlot)) : State :=
  onFold (fun f => { f with
    live := { f.live with role := 1 }
    resv := { f.resv with pageBase := clientOf.xlate.localBase, indexBase := clientOf.xlate.localBase + 0x40000400000, slotCount := 16, valid := true, slots := slots } })
    clientOf
/-- The key 0x5A of the requests below falls into set 0 of the two sets: all its ways used by other keys. -/
def fullSet (committed : Bool) : List (Nat × ResvSlot) :=
  (List.range 8).map fun i => (i, { rslot committed 0 with key := BitVec.ofNat 128 (0x100 + 2 * i), lastUse := 8 - i })
def finding (held : List ResvFound) (waiting : List Nat) : State :=
  { clientOf with resvG := { clientOf.resvG with resolutions := [{
      key := 0x5A, request := 9, fold := 1, client := hdrOf 1 2 3 0 0, uid := 0, since := 5, waiting := waiting, found := held }] } }
def foundRec (token : BitVec 128) (committed : Bool) : ResvFound :=
  { token := token, request := 9, committed := committed, digest := 5, member := 0 }
def filling : State := onFold (fun f => { f with resv := { f.resv with filling := true } }) { keeper [] with far := [(16384, 3)] }

/-- ReservoirRequests: a version refused and one in force, a closed member, a record that is not there, reserved, committed, with the
token and with another; a set with a free way, a set full of committed records, a set full of reservations; a page that is poisoned. -/
theorem wit_ReservoirRequests :
    (freshMsg (dataChannel 2 true []) (hdrOf 1 2 3 0 0) (keeper []) = true ∧ freshMsg (dataChannel 2 false [1]) (hdrOf 1 2 3 0 0) (keeper []) = true ∧ rvWaits (keeper []) 1 (hdrOf 1 2 3 0 0) (rvD 0 0) = false ∧
      judgeVersion (keeper []) 1 false 1 2 2 = .refuse ∧ judgeVersion (keeper []) 1 false 1 2 3 ≠ .refuse ∧ rvClosed (keeper []) 1 = false ∧
      rvClosed clientOf 1 = true ∧ recOf (keeper []) 1 0x5A = none ∧ recOf (keeper [(2, rslot true 0)]) 1 0x5A = some (2, rslot true 0) ∧
      recOf (keeper [(2, rslot false 0)]) 1 0x5A = some (2, rslot false 0) ∧ (rslot true 0).token ≠ rvToken (rvD 2 0) ∧
      (rslot true 0).token = rvToken (rvD 2 (0x77 * 2 ^ 128)) ∧ rvRequest (rvD 1 (9 * 2 ^ 256)) = (rslot false 0).request) ∧
    ((takeWay 1 0x5A (keeper (fullSet true))).map (fun p => p.1) = some 7 ∧ (takeWay 1 0x5A (keeper (fullSet false))).isNone = true ∧
      ((waysOf (keeper []) 1 0x5A).filter fun i => (keeper (fullSet true).tail).folds.all fun f =>
        f.2.resv.slots.all fun p => p.1 != i) = [0] ∧
      poisoned { keeper [(2, rslot false 0)] with poison := [(2, 512)] } 2 (pageOff (keeper []) 1 2 0) 256 = true ∧
      poisoned (keeper [(2, rslot false 0)]) 2 (pageOff (keeper []) 1 2 0) 256 = false ∧ readHeld (keeper []) (rslot true 0) = false) := by
  refine ⟨?_, ?_⟩ <;> decide +kernel

/-- ReservoirMessages: an op that waits, one disclaimed once, one that asks for a resolution; the bellwether and another fold; a record
and none; the last answer and one before it; an open and a closed member; a fill that ends. -/
theorem wit_ReservoirMessages_answers :
    (cmdAt (waitingPeers (rvD 3 (0x77 * 2 ^ 128)) none 5) 1).map (fun c => (opcodeOf c.desc, c.phase, c.moved)) = some (0x0B, .peers, 0) ∧
      unackedOf (waitingPeers (rvD 3 0) none 5) 1 1 = 0 ∧
      freshMsg 33 (hdrOf 1 2 3 0 0) (waitingPeers (rvD 3 0) none 5) = true ∧
      freshMsg (dataChannel 1 false [3]) (hdrOf 1 2 3 0 0) (waitingPeers (rvD 4 0) none 5) = true ∧
      (let c := { qcmd 1 (rvD 2 0) .accepted with startAt := 5, moved := 1 }
       let tried := modCmd (msgTaken 33 (hdrOf 1 2 3 0 0) (waitingPeers (rvD 2 0) none 5)) 1 fun x => { x with phase := .accepted, moved := 1 }
       let r := rvReach c .read (pagesOf 0x2000 256) tried
       r.1 = .ok [] ∧ (fetchRange c niPlace niMaster 0x2000 256 r.2).1 = .ok (List.replicate 256 0)) ∧
      (rvRanked (rvKey (rvD 3 0)) (rvMembers clientOf 1) 1).isSome = true := by
  refine ⟨?_, ?_, ?_, ?_, ?_, ?_⟩ <;> decide +kernel
theorem wit_ReservoirMessages_members :
    ((foldAt clientOf 1).member.bellwether = myPeer clientOf 1 ∧ (foldAt clientOf 2).member.bellwether ≠ myPeer clientOf 2 ∧
      rvMembers clientOf 1 = [0, 1] ∧ recOf (keeper []) 1 0x5A = none ∧ (foldAt (keeper []) 1).live.role = 1) ∧
    ((finding [] [1]).resvG.resolutions.find? (fun r => r.fold == 1 && r.key == 0x5A) =
        some { key := 0x5A, request := 9, fold := 1, client := hdrOf 1 2 3 0 0, uid := 0, since := 5, waiting := [1], found := [] } ∧
      memberOf (finding [] [1]) 1 2 3 = some 1 ∧ tokenRank (foundRec (2 ^ 64) true).token < tokenRank (foundRec (2 ^ 65) true).token) ∧
    (rvClosed (keeper [(2, rslot true 0)]) 1 = false ∧ rvClosed clientOf 1 = true ∧
      recOf (keeper [(2, rslot true 0)]) 1 0x5A = some (2, rslot true 0)) ∧
    ((foldAt filling 1).resv.filling = true ∧ canon filling = true ∧ (foldAt rich 1).resv.filling = false) := by
  refine ⟨?_, ?_, ?_, ?_⟩ <;> decide +kernel

/-! ### Links, packets, the host and stack ports -/

/-- Port 0 as `x`; port 1 down. The instance's node number is 5. -/
def linked (x : Port) : State :=
  { rich with
    mgmt := { rich.mgmt with node := 0x80000005 }
    ports := [(0, x)]
    tb := { rich.tb with cycle := 5000 } }
def upPort : Port := { Port.reset with state := 3, lanes := 0xFF, partner := 0x80000090, session := true }
def training : Port := { Port.reset with state := 1, trainStep := 1, fast := true }
def plain3 : Port := { Port.reset with state := 1, trainStep := 3, lanes := 0x0F, keyEpoch := plainEpoch, rxEpoch := plainEpoch }
def securing : Port := { plain3 with state := 2, trainStep := 4, partner := 0x80000090 }
def hello1 : PortHello := { node := 0x80000009, major := 3, lanes := 0x0F, licensed := true }

/-- LinkControl: a licensed port with a node number and one without; a port in each state of training and up, full and on half its
lanes; silence to the cycle. -/
theorem wit_LinkControl :
    (portLicensed (linked training) 0 = true ∧ nodeValid (linked training) = true ∧ portLicensed (linked training) 1 = false ∧
      nodeValid rich = false ∧ portUp upPort = true ∧ upPort.txCounter.toNat < upPort.rekeyFlits.toNat ∧
      ({ upPort with rekeyFlits := 0x1000000, txCounter := 0x1000000 } : Port).rekeyFlits.toNat ≤ (0x1000000#64).toNat) ∧
    (bitAt (linked training).power.domainsOn 96 = true ∧ lanesOf (goodLanes (linked training) 0) = 0xFF ∧
      lanesOf (goodLanes (linked { training with badLanes := 0x81 }) 0) = 0 ∧ training.fast = true ∧ training.retrained = false) ∧
    (plain3.state = 1 ∧ plain3.trainStep = 3 ∧ hello1.major = 3 ∧ hello1.lanes = plain3.lanes ∧ securing.state = 2 ∧
      securing.trainStep = 4 ∧ canon (linked securing) = true) ∧
    (portOn upPort = true ∧ ({ upPort with heardAt := 4000 } : Port).heardAt + 1000 ≤ (linked upPort).tb.cycle ∧ bitAt upPort.lanes 7 = true ∧
      bitAt ({ upPort with state := 4, lanes := 0x0F } : Port).lanes 0 = true) := by
  refine ⟨?_, ?_, ?_, ?_⟩ <;> decide +kernel

/-- A flit kept, and a port that replays it; a port with a stream of 300 bytes on channel 2 and a credit for it. -/
def kept7 : Kept := { counter := 7, epoch := 0, flit := { kind := 0, vc := 2, payload := [1] } }
def replaying : Port := { upPort with kept := [kept7], replayAt := some (0, 7), txCounter := 8 }
def streaming : Port := { upPort with streams := [(2, List.replicate 300 9)], returned := [(2, 1)] }
def padding : State := withFold (fun f => { f with live := { f.live with padded := true } }) (linked upPort)
def paddedStream : State := { padding with ports := [(0, streaming)] }

/-- LinkFlits: a port off and on, in a replay wait and outside; the slot with a replay, a control flit due, nothing to send, data; the
timer due to the cycle; a padded fold with data and a credit, and without. -/
theorem wit_LinkFlits :
    (canon (linked upPort) = true ∧ canon (linked streaming) = true ∧ portOn upPort = true ∧ portOn Port.reset = false ∧
      ({ upPort with replayWait := true } : Port).replayWait = true ∧ (ctlOf (ctlBytes default)).creditRet.length = 34) ∧
    (replayPlace replaying = some (0, 7) ∧ replayPlace upPort = none ∧ upPort.mustControl = false ∧ upPort.mustSwitch = false ∧
      (∀ v : Fin 34, vcMay (linked upPort) 0 v = false) ∧ vcMay (linked streaming) 0 2 = true ∧ upPort.kept.length < 4096 ∧
      ({ upPort with ctlSent := 4900 } : Port).ctlSent + 100 ≤ (linked upPort).tb.cycle ∧ 64 ≤ ({ upPort with sinceControl := 64 } : Port).sinceControl) ∧
    (portUp upPort = true ∧ (foldAt padding 1).live.padded = true ∧ dataRoom upPort = true ∧
      Tab.get [] (portAt paddedStream 0).streams (2 * 1) ≠ [] ∧ Tab.get 0 streaming.returned 2 ≠ Tab.get 0 streaming.consumed 2) := by
  refine ⟨?_, ?_, ?_⟩ <;> decide +kernel

/-- A packet from member 0 of flock 77, and an answer to request 5 of fold 1. -/
def packetOf1 (ptype : Byte) (seq addr : Nat) (op : Byte) (payload : List Byte) : Packet :=
  { blankPacket rich with
    srcNode := 1, srcFold := 2, destNode := 0, destTag := tag1, mapVersion := 3, seq := BitVec.ofNat 32 seq, ptype := ptype
    address := BitVec.ofNat 64 addr, op := op, payload := payload }
def answer1 (ptype op : Byte) (payload : List Byte) : Packet :=
  { blankPacket rich with srcNode := 1, srcFold := 1, destNode := 0, seq := 5, ptype := ptype, op := op, payload := payload }
/-- Sequence 5 of that source is the newest of its window; 4 was carried out, 3 still is being. -/
def windowed : State :=
  { collOf with net := { collOf.net with windows := [{
      node := 1, fold := 2, high := 5, seen := [(5, 1, 9), (4, 1, 7), (3, 0, 0)], newest := 5 }] } }
def held3 : State := withMember (fun m => { m with held := some { held4 1 with version := 4 }, answered := some 4 }) collOf
/-- The whole table of windows is in use, none of them old. -/
def allWindows : State :=
  { collOf with net := { collOf.net with windows := (List.range 512).map fun i => {
      node := BitVec.ofNat 18 (i + 100), fold := 0, high := 1, seen := [], newest := 999999 } } }

/-- PacketRequests: another instance's packet; a sequence that is fresh, behind, a copy done and in progress, without a window; a gate
that passes, holds, refuses for right and for version; one operation of each kind that lands. -/
theorem wit_PacketRequests_gates :
    (packetOf1 1 6 0x1000 0 (leBytes 8 64)).destNode = myNode collOf ∧ ({ packetOf1 1 6 0x1000 0 [] with destNode := 9 } : Packet).destNode ≠ myNode collOf ∧
      seqJudge windowed (packetOf1 2 6 0 0 []) = .fresh ∧ seqJudge windowed (packetOf1 2 4 0 0 []) = .dup 1 7 ∧
      seqJudge windowed (packetOf1 2 3 0 0 []) = .dup 0 0 ∧ seqJudge windowed (packetOf1 2 (2 ^ 32 + 5 - 1024) 0 0 []) = .stale ∧
      seqJudge allWindows (packetOf1 2 6 0 0 []) = .noWindow ∧ memGate collOf (packetOf1 2 6 0 0 []) = .pass ∧
      memGate held3 { packetOf1 2 6 0 0 [] with mapVersion := 4 } = .hold ∧ memGate rich { packetOf1 2 6 0 0 [] with mapVersion := 0 } = .refuse 1 ∧
      memGate collOf { packetOf1 2 6 0 0 [] with mapVersion := 9 } = .refuse 2 := by decide +kernel
theorem wit_PacketRequests_served :
    (let k := packetOf1 1 6 0x1000 0 (leBytes 8 64);
      inPage 0x1000 (ofLe k.payload) = true ∧ (remoteSpot k .read collOf).1 = some (1, 0x1000) ∧
        (locRead tag1 1 0x1000 64 collOf).1 = .ok (memRead collOf.tarn 0x1000 64) ∧ inPage 0x1FC1 64 = false) ∧
    (let k := packetOf1 3 6 0x1000 0x70 (leBytes 4 1 ++ leBytes 4 2);
      atomOf k.op = some .cas ∧ atomTyped .cas (k.op.toNat % 16) = true ∧ 0x1000 % atomBytes (k.op.toNat % 16) = 0 ∧
        atomBytes (k.op.toNat % 16) ≤ k.payload.length ∧ (remoteSpot k .atomic collOf).1 = some (1, 0x1000) ∧ landOk collOf tag1 1 0x1000 = true ∧
        reachable collOf tag1 1 0x1000 4 = true ∧ poisoned collOf 1 0x1000 4 = false) ∧
    (let k := packetOf1 4 6 0x1000 0 (List.replicate 32 0);
      (remoteSpot k .atomic collOf).1 = some (1, 0x1000) ∧ (locReduce tag1 1 0x1000 k.payload collOf).1 = .ok []) ∧
    (let k := packetOf1 5 6 0x1000 0 (leBytes 8 3);
      (remoteSpot k .write collOf).1 = some (1, 0x1000) ∧ (locWrite tag1 1 0x1000 [7] collOf).1 = .ok [] ∧
        (signalHere tag1 1 0x1000 3 collOf).1 = .ok []) ∧
    (let k := packetOf1 2 6 0x1000 0 [7]
     let served := after' (exec (.packetWrite k) collOf) collOf
     (servingOf (takeIn k collOf) k).isNone = true ∧ ((servingOf served k).map fun v => v.waits) = some false) := by
  refine ⟨?_, ?_, ?_, ?_, ?_⟩ <;> decide +kernel
/-- The same fold in a parent flock whose map names the fold of node 1. -/
def inParentFlock : State :=
  withMember (fun m => { m with
    parentVersion := 3, parentFlock := 78, parentHdr := mapHdr1
    parentMap := [(0, BitVec.ofNat 128 (ofLe (entryOf 12 1 (mkTag 2 1 1) 0 1)))] }) collOf
/-- R300: the part of a sub-flock that a collective awaits. -/
def nestedColl : State := { flocked 2 (mapOf2 8 12) with cmds := [{ qcmd 1 (collD 0 (1 * 2 ^ 48)) .peers with coll := { CollState.reset with waiting := [1] } }], nextUid := 2 }
def partOf1 : Packet :=
  { packetOf1 0x12 6 0 0 (leBytes 64 (subDesc (collD 0 (1 * 2 ^ 48)) (mapEntry nestedColl 1 1)).toNat ++ List.replicate 64 0) with
    srcNode := 2, srcFold := 3 }
theorem wit_PacketRequests_tasks :
    (gate collOf 1 false (packetOf1 0x10 6 0 0 (leBytes 64 (tileD 0).toNat)) = .pass ∧ tagLive collOf tag1 = true ∧ field tag1 0 12 ≠ 0 ∧
      foldClosed collOf 1 = false ∧ tagOpen collOf tag1 = true) ∧
    (let d := collD 0 0;
      gate collOf 1 true (packetOf1 0x12 6 0 0 (leBytes 64 d.toNat)) = .refuse 2 ∧
        gate inParentFlock 1 true (packetOf1 0x12 6 0 0 (leBytes 64 d.toNat)) = .pass ∧
        foldClosed inParentFlock 1 = false ∧ (foldAt inParentFlock 1).state ≠ .frozen ∧ inParentFlock.faults.sluiceClosed = false ∧
        (foldAt (onFold (fun f => { f with state := .frozen }) inParentFlock) 1).state = .frozen ∧
        collCheck inParentFlock 1 d true = none ∧ collCheck inParentFlock 1 (collD 0 (1 * 2 ^ 128)) true = some 0x0D) ∧
    (let k := packetOf1 0x12 6 0 0 (leBytes 64 (collD 0 0).toNat ++ List.replicate 64 0)
     k.payload.length ≠ 64 ∧ subMember collOf 1 k = none ∧ gate inParentFlock 1 true k = .pass ∧ partHere inParentFlock 1 (collD 0 0) = none ∧
      gate nestedColl 1 false partOf1 = .pass) := by
  refine ⟨?_, ?_, ?_⟩ <;> decide +kernel

/-- Request 5 of fold 1, of command 1, of a packet type and for a use. -/
def e5 (ptype : Byte) (use : E2EUse) : E2E :=
  { e2e1 5 with use := use, packet := { blankPacket rich with destNode := 1, destTag := mkTag 2 1 1, ptype := ptype, address := 0x7000 } }
def asked (c : Cmd) (e : E2E) : State := onFold (fun f => { f with unacked := [e] }) { collOf with cmds := [c], nextUid := 2 }
/-- A launch whose lane waits for one answer. -/
def grpR : Group := { grp1 with wait := .remote 1 false }
def askedLane (ptype : Byte) : State :=
  { asked cmd1 (e5 ptype (.lane t1 3 7 2)) with
    herd := { Herd.reset with gangs := [{ launch := 1, gang := 0, core := 3, store := [], groups := [grpR, grp1] }] } }

/-- R153: a WRITE from a member of the flock stores its payload. -/
theorem test_packetWrite : memRead (after' (exec (.packetWrite (packetOf1 2 6 0x1000 0 [7])) collOf) collOf).tarn 0x1000 1 = [7] := by
  decide +kernel

/-- PacketAnswers: an answer to no request, to one that a lane, a MOVE, another command, a FENCE_SIGNAL made; a carried task and a part of
a collective. -/
theorem wit_PacketAnswers :
    (requestOf (takeIn (answer1 8 0 []) collOf) (answer1 8 0 []) = none ∧
      requestOf (takeIn (answer1 8 0 []) (askedLane 1)) (answer1 8 0 []) = some (e5 1 (.lane t1 3 7 2)) ∧
      (cmdAt (endAnswered 1 (e5 3 (.lane t1 3 7 2)) (askedLane 3)) 1).map (fun c => opcodeOf c.desc) = some 2 ∧
      (groupAt (endAnswered 1 (e5 1 (.lane t1 3 7 2)) (askedLane 1)) t1).isSome = true) ∧
    ((cmdAt (endAnswered 1 (e5 1 (.piece 0 64)) (asked (qcmd 1 copyD .busy) (e5 1 (.piece 0 64)))) 1).map
        (fun c => (opcodeOf c.desc, c.phase)) = some (3, .busy) ∧
      (cmdAt (endAnswered 1 (e5 5 .none) (asked (qcmd 1 (dq 4 0) .busy) (e5 5 .none))) 1).map (fun c => opcodeOf c.desc) = some 4 ∧
      (cmdAt (endAnswered 1 (e5 0x10 .none) (asked (qcmd 1 (tileD 0) (.carried 1)) (e5 0x10 .none))) 1).map
        (fun c => (opcodeOf c.desc, c.phase)) = some (1, .carried 1) ∧
      (cmdAt (endAnswered 1 (e5 0x12 .none) (asked (qcmd 1 (collD 0 0) .peers) (e5 0x12 .none))) 1).map
        (fun c => opcodeOf c.desc) = some 8) := by refine ⟨?_, ?_⟩ <;> decide +kernel
theorem wit_PacketRequests_part :
    subMember nestedColl 1 partOf1 = some 1 ∧
      (awaiting nestedColl 1 1 (BitVec.ofNat 512 (ofLe (partOf1.payload.take 64)))).isSome = true := by decide +kernel

/-- A read transaction of channel 63, tag 5, behind request 7; channel 3 with one transaction that waits for credits. -/
def stackOut (q : List Req) : State :=
  { rich with
    stack := { rich.stack with out := [{ ch := 63, tag := 5, write := false, req := 7, address := 0x1000, bytes := 64, data := [] }] }
    xlate := { rich.xlate with reqs := q } }
def stackWaits (credits : Nat) : State :=
  { rich with stack := { rich.stack with
      waiting := [{ ch := 3, tag := 1, write := false, req := 7, address := 0, bytes := 64, data := [] }], credits := Tab.set 0 [] 3 credits } }
/-- A host request of tag 3 for a use, out since the first cycle. -/
def hostOut (use : HostUse) (cycle : Nat) : State :=
  { rich with
    hostPort := { rich.hostPort with out := [{ tag := 3, use := use, tagOf := tag1, since := 4, hqi := 3 }] }
    cmds := [qcmd 1 (dq 4 (0x1000 * 2 ^ 448 + 2 * 2 ^ 384)) .busy], nextUid := 2
    tb := { rich.tb with cycle := cycle } }
def posted1 : State := { rich with hostPort := { rich.hostPort with link := 0, posted := [(0x7000, [1, 2])] } }

/-- HostAndStackPorts: a transaction and none, each status; credits that suffice and do not; a packet for this node, a neighbour of its module,
another module; a completion of nothing, of a batch, a FENCE_SIGNAL, a packet; a completion late to the cycle. -/
theorem wit_HostAndStackPorts :
    (stackReqAt rich 63 5 false = none ∧ (stackReqAt (stackOut []) 63 5 false).isSome = true ∧
      (stackOut [req1 (some t1)]).xlate.reqs.find? (fun q => q.id == 7) = some (req1 (some t1)) ∧ (req1 none).abandoned = false) ∧
    ((stackWaits 0).stack.waiting = [{ ch := 3, tag := 1, write := false, req := 7, address := 0, bytes := 64, data := [] }] ∧
      Tab.get 0 (stackWaits 0).stack.sent 3 < Tab.get 0 (stackWaits 0).stack.credits 3 + 1 ∧
      ¬ Tab.get 0 (stackWaits 0).stack.sent 3 < Tab.get 0 (stackWaits 0).stack.credits 3 + 0 ∧ Tab.wf 0 (stackWaits 0).stack.credits = true) ∧
    (moduleOf (5 : BitVec 18) = moduleOf (myNode rich) ∧ (5 : BitVec 18) ≠ myNode rich ∧ moduleOf (0x91 : BitVec 18) ≠ moduleOf (myNode rich) ∧
      bitAt (0x80 : Byte) 7 = true ∧ field (0x80 : Byte) 0 4 = instanceOf (myNode rich)) ∧
    (hostReqAt rich 3 = none ∧ (hostReqAt (hostOut (.batch 7) 5) 3).isSome = true ∧ 4 + 5000000 ≤ (hostOut (.fence 1) 5000004).tb.cycle ∧
      (cmdAt (hostOut (.fence 1) 5) 1).isSome = true ∧ (reach 8 tag1 0x1000 .write (hostOut (.fence 1) 5)).1 = .loc 1 0x1000 ∧
      posted1.boot.state ≠ .booting ∧ posted1.hostPort.posted ≠ []) := by
  refine ⟨?_, ?_, ?_, ?_⟩ <;> decide +kernel

/-! ### Time -/

/-- The timebase LOCKED or UNSET at epoch 1, an edge predicted for cycle p, a frame kept since cycle 100. -/
def timed (st : TbState) (cycle p : Nat) (frame : Option (FrameType × W64 × W64 × Nat)) : State :=
  { rich with tb := { Timebase.reset with
      state := st, time := 1000000, epoch := 1, cycle := cycle, predicted := p, frame := frame, boundaryCycle := 5 } }
/-- Fold 1 short of its far guarantee at the end of a 10 µs window. -/
def shortWeir : State :=
  { onFold (fun f => { f with
      meters := [(1, { Meter.reset with winHeld := 9000 })]
      live := { f.live with weirs := [(1, { WeirSet.reset with guarantee := 100 })] } }) rich with
    tb := { Timebase.reset with state := .locked, cycle := 1005, boundaryCycle := 5 } }

/-- TimebaseAndWindows: no frame, one that waits and one that is due; an edge at both ends of the window and beyond it; a window that
opens; a miss window that ends; a refresh with nothing held. -/
theorem wit_TimebaseAndWindows :
    (rich.pins.resetLow = false ∧ (timed .unset 200 9 (some (.load, 5, 6, 200))).tb.frame = some (.load, 5, 6, 200) ∧
      (timed .locked 100 100 none).tb.frame = none ∧ syncW (timed .locked 0 0 none) = 12500 ∧
      (timed .locked 112500 100000 none).tb.cycle ≤ (timed .locked 112500 100000 none).tb.predicted + syncW (timed .locked 0 0 none) ∧
      ¬ (timed .locked 112501 100000 none).tb.cycle ≤ (timed .locked 112501 100000 none).tb.predicted + syncW (timed .locked 0 0 none)) ∧
    (shortWeir.tb.state ≠ .unset ∧ sinceBoundary shortWeir = 10000 ∧ canon shortWeir = true ∧ foldExists shortWeir 1 = true ∧
      (foldAt shortWeir 1).meters = [(1, meterOf (foldAt shortWeir 1) 1)] ∧ fellShort (foldAt shortWeir 1) 1 10000 = true ∧
      (∀ m : Fin 16, m ≠ 1 → foldExists shortWeir m = false) ∧
      heldIn shortWeir 1 1 = [] ∧ Tab.wf Meter.reset (foldAt shortWeir 1).meters = true) := by
  refine ⟨?_, ?_⟩ <;> decide +kernel

/-- StepRunsFront, TablesStayCanonical: a command in front, an empty queue; a canonical state whose step answers a next one. -/
theorem wit_StepRunsFront : ({ rich with pending := [.instanceReset] } : State).pending = .instanceReset :: [] ∧ rich.pending = [] := by
  decide +kernel
theorem wit_TablesStayCanonical : canon rich = true ∧ ∃ t, step rich = .next t := ⟨by decide +kernel, _, rfl⟩

/-! ### Well-formedness: one ill-formed command for each check, turned away by name -/

def turnedAway (o : Out) : Bool := match o with | .refused (.illFormed _) => true | _ => false
def badly (i : Instr) (o : Out) : Bool := !i.wf && turnedAway o

theorem test_wf_queue : badly (.mark 4096 (dq 12 0)) (exec (.mark 4096 (dq 12 0)) base) = true := by decide +kernel
theorem test_wf_opcode : badly (.mark 7 (dq 11 0)) (exec (.mark 7 (dq 11 0)) base) = true := by decide +kernel
theorem test_wf_op : badly (.moveFill 7 copyD) (exec (.moveFill 7 copyD) base) = true := by decide +kernel
theorem test_wf_request : badly (.semFree 6) (exec (.semFree 6) base) = true := by decide +kernel
theorem test_wf_fold : badly (.commit 16) (exec (.commit 16) base) = true := by decide +kernel
theorem test_wf_port : badly (.train 2) (exec (.train 2) base) = true := by decide +kernel
theorem test_wf_chunk : badly (.bundleChunk [1]) (exec (.bundleChunk [1]) base) = true := by decide +kernel
theorem test_wf_page : badly (.doorbell 256 0 5) (exec (.doorbell 256 0 5) base) && badly (.cqHeadWrite 0 64 5) (exec (.cqHeadWrite 0 64 5) base) &&
    badly (.fenceDb 256 5) (exec (.fenceDb 256 5) base) = true := by decide +kernel
theorem test_wf_mailbox : badly (.mbxAck 1 64 0) (exec (.mbxAck 1 64 0) base) = true := by decide +kernel
theorem test_wf_engine : badly (.tileStart 32) (exec (.tileStart 32) base) && badly (.gangPlace 128) (exec (.gangPlace 128) base) = true := by
  decide +kernel
theorem test_wf_slots : badly (.modelReload 512) (exec (.modelReload 512) base) &&
    badly (.teardownDrainEnd 512) (exec (.teardownDrainEnd 512) base) &&
    badly (.abandonedRequestExpiry 5 8) (exec (.abandonedRequestExpiry 5 8) base) && badly (.grazingWindowStart 64) (exec (.grazingWindowStart 64) base) = true := by
  decide +kernel
theorem test_wf_units : badly (.drainUnitReset true 16) (exec (.drainUnitReset true 16) base) &&
    badly (.unitResetEnd false 32) (exec (.unitResetEnd false 32) base) && badly (.unitRetire 768) (exec (.unitRetire 768) base) = true := by
  decide +kernel
theorem test_wf_power : badly (.domainAck 106 true) (exec (.domainAck 106 true) base) && badly (.railReset 8) (exec (.railReset 8) base) &&
    badly (.railWarning (.group 8)) (exec (.railWarning (.group 8)) base) && badly (.gaugeSample (.rail 8) 1) (exec (.gaugeSample (.rail 8) 1) base) &&
    badly (.gaugeSample (.fold 3 8) 1) (exec (.gaugeSample (.fold 3 8) 1) base) = true := by decide +kernel
theorem test_wf_flit : badly (.flitReceive 0 { kind := 0, vc := 34, payload := [] } true) (exec (.flitReceive 0 { kind := 0, vc := 34, payload := [] } true) base) &&
    badly (.laneFailure 1 8) (exec (.laneFailure 1 8) base) = true := by decide +kernel
theorem test_wf_packet : badly (.packetRead default) (exec (.packetRead default) base) = true := by decide +kernel
theorem test_wf_credit : badly (.stackCreditReturn 64 1) (exec (.stackCreditReturn 64 1) base) &&
    badly (.stackCreditReturn 0 16) (exec (.stackCreditReturn 0 16) base) = true := by decide +kernel

/-! ### Results taken from the words of spec/ -/

/-- R193: the check value of the nine digits, and of no bytes. -/
theorem test_crc64 : crc64 [0x31, 0x32, 0x33, 0x34, 0x35, 0x36, 0x37, 0x38, 0x39] = 0x995DC9BBDF1939FA ∧ crc64 [] = 0 := by
  decide +kernel

/-- Chapter 1: herd core 13 of paddock 6 is 0x260D. -/
theorem test_coreMaster : coreMaster (16 * 6 + 13) = 0x260D := by decide

/-- Chapter 5, the worked case of a window address. -/
theorem test_window : spotOfPa { base with folds := [(3, { fold1 with windows := [(1836, 0xE01235220B000001)] })] } 3 0x000F2C0000123400 .write =
    .win 0x01235 0x220B 0x0000010000123400 0 := by decide +kernel

def splitTerms : List Val :=
  [.fin false 6 0, .fin true 6 0, .fin false 1 (-83), .fin false 250 0, .fin true 1 (-84), .fin true 1 0]
def splitOf (ts : List Val) : Ledger := ts.foldl Ledger.accumulate (Ledger.empty 14)

/-- Chapter 2, the worked case of a K split: anchor, partial containers, their sum in another order, one engine alone, and
the BF16 result with its bound. -/
theorem test_kSplit : headerAnchor 7 3 6 = (14, false) ∧
    (splitOf (splitTerms.take 2)).v = 0 ∧
    (splitOf ((splitTerms.drop 2).take 2)).v = 0x00000000000000003E80000000000000000000 * 16 ∧
    (splitOf (splitTerms.drop 4)).v = 0xFFFFFFFFFFFFFFFFFFFBFFFFFFFFFFFFFFFFFFFF ∧
    ((splitOf (splitTerms.drop 4)).add (splitOf (splitTerms.take 2))).add (splitOf ((splitTerms.drop 2).take 2)) = splitOf splitTerms ∧
    (splitOf splitTerms).v = 0x000000000000000003E3FFFFFFFFFFFFFFFFFFFF ∧ (splitOf splitTerms).count = 6 ∧
    (splitOf splitTerms).has flTrunc = true ∧ convertOut .bf16 (splitOf splitTerms).condition.1 = (0x4379, false, false) ∧
    boundOf (CvtFmt.bf16 |> fun f => cvtDecode f 0x4379) = some 8 := by decide +kernel

/-- Chapter 4, the worked case of three gangs: every order of the terms ends in one container, and LFIN gives 2.0. -/
theorem test_gangTotal :
    let ts : List Val := [.fin false 1 24, .fin false 1 0, .fin false 1 0, .fin true 1 24]
    let l := ts.foldl Ledger.accumulate (Ledger.empty 26)
    l = ts.reverse.foldl Ledger.accumulate (Ledger.empty 26) ∧ l.v = 2 ^ 71 ∧ l.count = 4 ∧ l.flags = 0 ∧
      l.pack.toNat / 2 ^ 160 % 1024 = 0x01A ∧ convertOut .fp32 l.condition.1 = (0x40000000, false, false) := by decide +kernel

def share (t g : Nat) (r : Byte) : List (Nat × WeirSet) :=
  [(0, { WeirSet.reset with guarantee := BitVec.ofNat 32 t }), (1, { WeirSet.reset with guarantee := BitVec.ofNat 32 g, rank := r })]
def shared (t g : Nat) (r : Byte) : Fold :=
  { Fold.reset with
    state := .active, live := { FoldRes.reset with weirs := share t g r }
    meters := [(0, { Meter.reset with honoured := true }), (1, { Meter.reset with honoured := true })] }
/-- The folds of chapter 9's worked case, and fold 9 with its staged or its live guarantees. -/
def dk25 (f9 : Fold) : State :=
  { State.reset with
    folds := [(1, shared 2000000 900000 0), (3, shared 1500000 700000 2), (6, shared 3000000 400000 2), (9, f9)]
    weirG := { WeirG.reset with derate := 850, stackCapNow := 13107200, farCap := 2500000, farCapNow := 2500000 } }
def stagedOf (t g : Nat) : Fold := { Fold.reset with staged := { FoldRes.reset with weirs := share t g 1 } }

/-- Chapter 9, admitting fold 9: two commits fail and the third passes, and its reserves (R257, R264). -/
theorem test_admission : sharesOk (dk25 (stagedOf 2000000 200000)) 9 = false ∧ sharesOk (dk25 (stagedOf 3000000 125000)) 9 = false ∧
    sharesOk (dk25 (stagedOf 2500000 125000)) 9 = true ∧
    reserveOf (dk25 (shared 2500000 125000 1)) (shared 2500000 125000 1) 0 = 43 ∧
    reserveOf (dk25 (shared 2500000 125000 1)) (shared 2500000 125000 1) 1 = 12 := by decide +kernel

/-- Chapter 9, a controller fails: the new capacity, who stays honoured, and the new reserves (R265). -/
theorem test_demotion :
    let s := capacityDrop .farCtl { (dk25 (shared 2500000 125000 1)) with lmap := { LogMap.reset with retired := 2 ^ 309 } }
    s.weirG.farCapNow = 2187500 ∧ (List.map (fun n => honouredAt (foldAt s n) 1) [1, 9, 3, 6]) = [true, true, false, false] ∧
      reserveOf s (foldAt s 1) 1 = 93 ∧ reserveOf s (foldAt s 9) 1 = 13 := by decide +kernel

/-- R259's example: with T 800 ns and prio_base 2, 500 ns gives step 4 and 700 ns gives step 7. -/
def pressed (l : Nat) : Fold :=
  { Fold.reset with
    live := { FoldRes.reset with weirs := [(1, { WeirSet.reset with target := 800, prio := 2 })] }
    meters := [(1, { Meter.reset with ewma := l })] }
theorem test_priority : prioStep (pressed 500) 1 = 4 ∧ prioStep (pressed 700) 1 = 7 := by decide +kernel

/-- Chapter 13, slips and free-running, with L 100 µs (10,000 cycles) from the boundary that began epoch 500. -/
def tb500 (c : Nat) (b p : Nat) (n : Byte) : State :=
  { State.reset with tb := { Timebase.reset with
      state := .locked, time := 1, epoch := 500, len := 100000, cycle := c, boundaryCycle := b, predicted := p, consecutive := n } }
theorem test_pulses : (pulse (tb500 10080 0 10000 0)).tb.epoch = 501 ∧ (pulse (tb500 10080 0 10000 0)).tb.predicted = 20080 ∧
    (pulse (tb500 18800 10080 20080 0)).tb.epoch = 500 ∧ (pulse (tb500 18800 10080 20080 0)).tb.slips = 0 := by decide +kernel
theorem test_windowCloses : (expiry (tb500 21330 10080 20080 0)).tb.epoch = 501 ∧ (expiry (tb500 21330 10080 20080 0)).tb.predicted = 30080 ∧
    (expiry (tb500 21330 10080 20080 3)).tb.state = .freeRun ∧ (expiry (tb500 21329 10080 20080 3)).tb.epoch = 500 := by decide +kernel


/-- JournalPointers: BAR0 answers, and a write of jnl_rd below, between and above the pointers; a journal that may be enabled. -/
theorem wit_JournalPointers :
    (barOn journalOn = true ∧ (3 : W64).toNat < journalOn.journal.rd.toNat ∧ journalOn.journal.wr.toNat < (10 : W64).toNat ∧
      journalOn.journal.rd.toNat ≤ (9 : W64).toNat ∧ (9 : W64).toNat ≤ journalOn.journal.wr.toNat) ∧
    (barOn ringReady = true ∧ bootOnly ringReady = false ∧ ringReady.journal.enabled = false ∧
      ringReady.journal.base.toNat % 4096 = 0 ∧ ringReady.journal.entries.toNat = 2 ^ 6) := by
  refine ⟨?_, ?_⟩ <;> decide +kernel

/-- CollectorAcknowledge: the host read a word, and a second event came after it, also with the count at its end. -/
theorem wit_CollectorAcknowledge :
    let v : W32 := 0x80B24021
    (∃ s : State, v = s.faults.collector) ∧ v.getLsbD 31 = true ∧ (v.extractLsb' 24 6).toNat < 63 ∧
      (0 : W32).getLsbD 31 = false ∧ collectorEvent 1 3 2 3 v ≠ v ∧ ((0xBF000000 : W32).extractLsb' 24 6).toNat = 63 :=
  ⟨⟨{ rich with faults := { Faults.reset with collector := 0x80B24021 } }, rfl⟩, by decide +kernel⟩

/-- Fp32RoundsToNearestEven: a tie, 2^24 + 1, whose result and other neighbour are finite. -/
theorem wit_Fp32RoundsToNearestEven :
    toFp32 (.fin false 16777217 0) = 0x4B800000 ∧ ofFp32 0x4B800000 = .fin false 8388608 1 ∧
      ofFp32 0x4B800001 = .fin false 8388609 1 := by decide +kernel

end Sys2Proof.Tests
end

section
/-! SUPPORT. Writes of BAR0 (R479, R501-R507): which register each offset names, and what the registers that hold bits keep
of a write. -/

namespace Sys2Proof.Machine

/-! ### Fields of a word -/

/-- The bits of a placed value are those of the value's field, moved up. -/
theorem getLsbD_place {n : Nat} (v lo len k : Nat) :
    (place v lo len : BitVec n).getLsbD k = (decide (k < n ∧ lo ≤ k ∧ k < lo + len) && v.testBit (k - lo)) := by
  rw [Bool.eq_iff_iff]
  simp only [place, BitVec.getLsbD_ofNat, Nat.testBit_shiftLeft, Nat.testBit_mod_two_pow, Bool.and_eq_true, decide_eq_true_eq]
  constructor
  · rintro ⟨hn, hlo, hlen, hv⟩
    exact ⟨⟨hn, hlo, by omega⟩, hv⟩
  · rintro ⟨⟨hn, hlo, hlen⟩, hv⟩
    exact ⟨hn, hlo, by omega, hv⟩

/-- A placed mask covers its field and nothing else. -/
theorem getLsbD_place_ones {n : Nat} (lo len k : Nat) :
    (place (2 ^ len - 1) lo len : BitVec n).getLsbD k = decide (k < n ∧ lo ≤ k ∧ k < lo + len) := by
  rw [getLsbD_place, Nat.testBit_two_pow_sub_one, Bool.eq_iff_iff]
  simp only [Bool.and_eq_true, decide_eq_true_eq]
  omega

/-- Writing the low half of a 64-bit register keeps the high one. -/
theorem withHalf_low (old : W64) (w : W32) : withHalf old 0 w = old.extractLsb' 32 32 ++ w := by
  have mask : ∀ k < 64, (0xFFFFFFFF00000000 : W64).getLsbD k = decide (32 ≤ k) := by decide
  apply BitVec.eq_of_getLsbD_eq
  intro k hk
  simp only [withHalf, ↓reduceIte, BitVec.getLsbD_or, BitVec.getLsbD_and, mask k hk, BitVec.getLsbD_append,
    BitVec.getLsbD_extractLsb', BitVec.ofNat_toNat, BitVec.getLsbD_setWidth]
  by_cases h : k < 32
  · simp [h, hk]
  · simp [h, show 32 ≤ k by omega, show k - 32 < 32 by omega]

/-- Writing the high half of a 64-bit register keeps the low one. -/
theorem withHalf_high (old : W64) (w : W32) : withHalf old 1 w = w ++ old.extractLsb' 0 32 := by
  have mask : ∀ k < 64, ((0x00000000FFFFFFFF : Nat) : W64).getLsbD k = decide (k < 32) := by decide
  apply BitVec.eq_of_getLsbD_eq
  intro k hk
  simp only [withHalf, one_ne_zero, ↓reduceIte, BitVec.getLsbD_or, BitVec.getLsbD_and, mask k hk, BitVec.getLsbD_append,
    BitVec.getLsbD_extractLsb', BitVec.ofNat_toNat, BitVec.getLsbD_shiftLeft, BitVec.getLsbD_setWidth]
  by_cases h : k < 32
  · simp [h, hk]
  · simp [h, hk, show k - 32 < 64 by omega]

/-- A field of the low word of an 8-byte value. -/
theorem extract_low_word (v : W64) {n : Nat} (h : n ≤ 32) : (v.extractLsb' 0 32).extractLsb' 0 n = v.extractLsb' 0 n := by
  apply BitVec.eq_of_getLsbD_eq
  intro k hk
  simp [hk, show k < 32 by omega]

/-! ### Byte strings -/

@[simp] theorem length_leBytes (n v : Nat) : (leBytes n v).length = n := by simp [leBytes]

theorem getD_leBytes {n i : Nat} (v : Nat) (h : i < n) : (leBytes n v).getD i 0 = BitVec.ofNat 8 (v >>> (8 * i)) := by
  simp [leBytes, List.getD_eq_getElem?_getD, h]

@[simp] theorem length_pad (n : Nat) (bs : List Byte) : (pad n bs).length = n := by
  simp only [pad, List.length_append, List.length_take, List.length_replicate]
  omega

theorem getD_pad {n i : Nat} (bs : List Byte) (h : i < n) : (pad n bs).getD i 0 = bs.getD i 0 := by
  by_cases hi : i < bs.length
  · rw [pad, List.getD_append _ _ _ _ (by simp [h, hi])]
    simp [List.getD_eq_getElem?_getD, h]
  · rw [pad, List.getD_append_right _ _ _ _ (by simp; omega), List.getD_eq_default bs _ (by omega)]
    exact List.getD_replicate _ (by simp; omega)

theorem length_splice {old bs : List Byte} {off : Nat} (h : off + bs.length ≤ old.length) :
    (splice old off bs).length = old.length := by
  simp only [splice, List.length_append, List.length_take, List.length_drop]
  omega

/-- A splice that fits replaces its own bytes alone. -/
theorem getD_splice {old bs : List Byte} {off : Nat} (h : off + bs.length ≤ old.length) (i : Nat) (d : Byte) :
    (splice old off bs).getD i d = if off ≤ i ∧ i < off + bs.length then bs.getD (i - off) d else old.getD i d := by
  have htake : (old.take off).length = off := by rw [List.length_take]; omega
  have hfront : (old.take off ++ bs).length = off + bs.length := by rw [List.length_append, htake]
  unfold splice
  by_cases hlo : i < off
  · rw [if_neg (by omega), List.getD_append _ _ _ _ (by omega), List.getD_append _ _ _ _ (by omega)]
    simp [List.getD_eq_getElem?_getD, hlo]
  · by_cases hhi : i < off + bs.length
    · rw [if_pos (by omega), List.getD_append _ _ _ _ (by omega), List.getD_append_right _ _ _ _ (by omega), htake]
    · rw [if_neg (by omega), List.getD_append_right _ _ _ _ (by omega), hfront]
      simp only [List.getD_eq_getElem?_getD, List.getElem?_drop]
      congr 2
      omega

/-! ### Rows of writes -/

theorem exec_registerWrite (off size : Nat) (v : W64) (s : State) :
    exec (.registerWrite off size v) s = .next (pump (barWrite off size v s)) := rfl

theorem need_of_true {c : Bool} {mnemonic : String} {k : Out} (h : c = true) : need c mnemonic k = k := by rw [need, if_pos h]

section
variable {s : State} (hb : barOn s = true)
include hb

/-- A row that stands for a register's write takes effect while BAR0 answers. -/
theorem barRow_on (act : State → State) : barRow act s = .next (pump (act s)) := by rw [barRow, if_pos hb]

theorem exec_doorbell {h loc : Nat} (hh : h < 256) (hl : loc < 64) (v : W32) :
    exec (.doorbell h loc v) s = .next (pump (doorbell h loc v s)) :=
  (need_of_true (by simp [hh, hl])).trans (barRow_on hb _)

theorem exec_cqHeadWrite {h loc : Nat} (hh : h < 256) (hl : loc < 64) (v : W32) :
    exec (.cqHeadWrite h loc v) s = .next (pump (cqHead h loc v s)) :=
  (need_of_true (by simp [hh, hl])).trans (barRow_on hb _)

theorem exec_fenceDb {h : Nat} (hh : h < 256) (v : W64) :
    exec (.fenceDb h v) s = .next (pump (fenceDoorbell h v s)) :=
  (need_of_true (by simp [hh])).trans (barRow_on hb _)

theorem exec_kqEnable : exec .kqEnable s = .next (pump (kernelEnable s)) := barRow_on hb _
theorem exec_faultRingEnable : exec .faultRingEnable s = .next (pump (faultRingOn s)) := barRow_on hb _
theorem exec_faultRingDisable : exec .faultRingDisable s = .next (pump (faultRingOff s)) := barRow_on hb _
theorem exec_frRdWrite (v : W64) : exec (.frRdWrite v) s = .next (pump (faultRead v s)) := barRow_on hb _
theorem exec_jnlRdWrite (v : W64) : exec (.jnlRdWrite v) s = .next (pump (journalRead v s)) := barRow_on hb _

/-! ### Sizes and alignments (R479) -/

theorem barWrite_word {off : Nat} (ha : off % 4 = 0) (v : W64) :
    barWrite off 4 v s = reg32 off (v.extractLsb' 0 32) s := by
  simp [barWrite, hb, ha, bitsAt]

theorem barWrite_double {off : Nat} (ha : off % 8 = 0) (v : W64) : barWrite off 8 v s = reg64Write off v s := by
  simp [barWrite, hb, ha]

theorem barWrite_misaligned {off size : Nat} (h4 : ¬ (size = 4 ∧ off % 4 = 0)) (h8 : ¬ (size = 8 ∧ off % 8 = 0)) (v : W64) :
    barWrite off size v s = { s with hostPort := { s.hostPort with badTarget := s.hostPort.badTarget + 1 } } := by
  rw [barWrite, if_neg (by simp [hb]), if_neg h4, if_neg h8]

end

theorem barWrite_unanswered {s : State} (hb : barOn s = false) (off size : Nat) (v : W64) : barWrite off size v s = s := by
  simp [barWrite, hb]

/-! ### Doorbell pages (R502) and statement pages (R503) -/

theorem reg32_doorbell {h loc : Nat} (hh : h < 256) (hl : loc < 64) (w : W32) (s : State) :
    reg32 (4096 * h + 32 * loc) w s = doorbell h loc w s := by
  have hpage : (4096 * h + 32 * loc) / 4096 = h := by omega
  have hoff : (4096 * h + 32 * loc) % 4096 = 32 * loc := by omega
  unfold reg32
  rw [if_pos (by omega), hpage, hoff, doorbellReg, if_pos (by omega)]
  simp

theorem reg32_cqHead {h loc : Nat} (hh : h < 256) (hl : loc < 64) (w : W32) (s : State) :
    reg32 (4096 * h + 32 * loc + 0x10) w s = cqHead h loc w s := by
  have hpage : (4096 * h + 32 * loc + 0x10) / 4096 = h := by omega
  have hoff : (4096 * h + 32 * loc + 0x10) % 4096 = 32 * loc + 0x10 := by omega
  have hslot : (32 * loc + 0x10) / 32 = loc := by omega
  have hreg : (32 * loc + 0x10) % 32 = 0x10 := by omega
  unfold reg32
  rw [if_pos (by omega), hpage, hoff, doorbellReg, if_pos (by omega), hreg, hslot]
  rfl

theorem reg64Write_fence {h : Nat} (hh : h < 256) (v : W64) (s : State) :
    reg64Write (4096 * h + 0x800) v s = fenceDoorbell h v s := by
  have hpage : (4096 * h + 0x800) / 4096 = h := by omega
  rw [reg64Write, if_pos (by omega), hpage]

/-- The 64-bit registers lie above the statement pages. -/
theorem reg64_low {off : Nat} (h : off < 0x200000) (s : State) : reg64 s off = none := by
  rw [reg64] <;> omega

theorem reg32_statement {off : Nat} (hlo : 0x100000 ≤ off) (hhi : off < 0x200000) (w : W32) (s : State) :
    reg32 off w s = s := by
  have hnone : reg64 s (off / 8 * 8) = none := reg64_low (by omega) s
  rw [reg32, if_neg (by omega), if_neg (by simp [within]; omega), if_neg (by simp [within]; omega),
    if_neg (by simp [within]; omega), hnone]
  all_goals omega

theorem reg64Write_statement {off : Nat} (hlo : 0x100000 ≤ off) (hhi : off + 8 ≤ 0x200000) (v : W64) (s : State) :
    reg64Write off v s = s := by
  rw [reg64Write, if_neg (by omega), if_neg (by simp [within]; omega), reg64_low (by omega), if_neg (by simp),
    reg32_statement hlo (by omega), reg32_statement (by omega) (by omega)]

/-! ### The kernel page, the fault ring and the journal ring (R504, R506, R507) -/

theorem reg64Write_ring (v : W64) (s : State) : reg64Write 0x200000 v s =
    if s.kpage.enabled then s else { s with kpage := { s.kpage with ring := v } } := rfl
theorem reg64Write_cring (v : W64) (s : State) : reg64Write 0x200008 v s =
    if s.kpage.enabled then s else { s with kpage := { s.kpage with cring := v } } := rfl
theorem reg64Write_headWb (v : W64) (s : State) : reg64Write 0x200010 v s =
    if s.kpage.enabled then s else { s with kpage := { s.kpage with headWb := v } } := rfl
theorem reg64Write_frBase (v : W64) (s : State) : reg64Write 0x201000 v s =
    if s.faults.frOn then s else { s with faults := { s.faults with frBase := v } } := rfl
theorem reg64Write_frRd (v : W64) (s : State) : reg64Write 0x201018 v s = faultRead v s := rfl
theorem reg64Write_jnlRd (v : W64) (s : State) : reg64Write 0x202008 v s = journalRead v s := rfl

theorem reg32_kqSize (w : W32) (s : State) : reg32 0x200018 w s =
    if s.kpage.enabled then s else { s with kpage := { s.kpage with size := w.extractLsb' 0 8 } } := rfl
theorem reg32_kqCtl (w : W32) (s : State) : reg32 0x20001C w s = if w.getLsbD 0 then kernelEnable s else s := rfl
theorem reg32_kqMsix (w : W32) (s : State) :
    reg32 0x200020 w s = { s with kpage := { s.kpage with msix := w.extractLsb' 0 16 } } := rfl
theorem reg32_frEntries (w : W32) (s : State) : reg32 0x201008 w s =
    if s.faults.frOn then s else { s with faults := { s.faults with frEntries := w } } := rfl
theorem reg32_frCtl (w : W32) (s : State) :
    reg32 0x20100C w s = if w.getLsbD 0 then faultRingOn s else faultRingOff s := rfl

/-- A 4-byte write of a half of KQ_RING writes the register with its other half as it was. -/
theorem reg32_ringLow (w : W32) (s : State) :
    reg32 0x200000 w s = reg64Write 0x200000 (s.kpage.ring.extractLsb' 32 32 ++ w) s := by
  rw [← withHalf_low]
  rfl
theorem reg32_ringHigh (w : W32) (s : State) :
    reg32 0x200004 w s = reg64Write 0x200000 (w ++ s.kpage.ring.extractLsb' 0 32) s := by
  rw [← withHalf_high]
  rfl

/-! ### The dictionary window (R505) -/

theorem reg32_hdr {i : Nat} (hi : i < 4) (w : W32) (s : State) : reg32 (0x200100 + 4 * i) w s = setHdr i w s := by
  have hidx : (0x200100 + 4 * i - 0x200100) / 4 = i := by omega
  unfold reg32
  rw [if_neg (by omega), if_neg (by simp [within]; omega), if_pos (by simp [within]; omega), hidx]

theorem reg32_data {i : Nat} (hi : i < 64) (w : W32) (s : State) : reg32 (0x200200 + 4 * i) w s = setData i w s := by
  have hidx : (0x200200 + 4 * i - 0x200200) / 4 = i := by omega
  unfold reg32
  rw [if_neg (by omega), if_neg (by simp [within]; omega), if_neg (by simp [within]; omega),
    if_pos (by simp [within]; omega), hidx]

/-- Word j of DW_HDR as it is kept: bits [47:40] of the header are reserved (R11). -/
def hdrKept (j : Nat) (w : W32) : W32 := if j = 1 then w &&& 0xFFFF00FF else w

/-- A word of DW_HDR with its reserved bits cleared. -/
theorem getLsbD_hdrKept (j : Nat) (w : W32) {k : Nat} (hk : k < 32) :
    (hdrKept j w).getLsbD k = (w.getLsbD k && !decide (40 ≤ 32 * j + k ∧ 32 * j + k < 48)) := by
  have mask : ∀ k < 32, (0xFFFF00FF : W32).getLsbD k = !decide (8 ≤ k ∧ k < 16) := by decide
  by_cases hj : j = 1
  · subst hj
    rw [hdrKept, if_pos rfl, BitVec.getLsbD_and, mask k hk]
    congr 2
    rw [decide_eq_decide]
    omega
  · have hout : ¬ (40 ≤ 32 * j + k ∧ 32 * j + k < 48) := by omega
    simp [hdrKept, hj, hout]

/-- A header with word i replaced. -/
def hdrPut (h : BitVec 128) (i : Nat) (w : W32) : BitVec 128 :=
  ((h &&& ~~~ (place 0xFFFFFFFF (32 * i) 32)) ||| place w.toNat (32 * i) 32) &&& ~~~ (place 0xFF 40 8)

theorem setHdr_idle {s : State} (hbusy : s.kpage.dwBusy = false) {i : Nat} (hi : i < 3) (w : W32) :
    setHdr i w s = { s with kpage := { s.kpage with dwHdr := hdrPut s.kpage.dwHdr i w } } := by
  rw [setHdr, if_neg (by simp [hbusy]; omega)]
  rfl

theorem setHdr_busy {s : State} (hbusy : s.kpage.dwBusy = true) (i : Nat) (w : W32) : setHdr i w s = s := by
  rw [setHdr, if_pos (Or.inl hbusy)]

theorem hdrPut_word (h : BitVec 128) (w : W32) {i j : Nat} (hj : j < 4) :
    (hdrPut h i w).extractLsb' (32 * j) 32 = hdrKept j (if j = i then w else h.extractLsb' (32 * j) 32) := by
  have hfield (b : Nat) : (place 0xFFFFFFFF (32 * i) 32 : BitVec 128).getLsbD b = decide (b < 128 ∧ 32 * i ≤ b ∧ b < 32 * i + 32) :=
    getLsbD_place_ones (32 * i) 32 b
  have hreserved (b : Nat) : (place 0xFF 40 8 : BitVec 128).getLsbD b = decide (b < 128 ∧ 40 ≤ b ∧ b < 48) :=
    getLsbD_place_ones 40 8 b
  apply BitVec.eq_of_getLsbD_eq
  intro k hk
  have hin : 32 * j + k < 128 := by omega
  rw [getLsbD_hdrKept j _ hk, BitVec.getLsbD_extractLsb', hdrPut]
  simp only [BitVec.getLsbD_and, BitVec.getLsbD_or, BitVec.getLsbD_not, hfield, hreserved, getLsbD_place, hk, hin, decide_true,
    Bool.true_and, true_and]
  congr 1
  by_cases hji : j = i
  · subst hji
    simp [show 32 * j + k < 32 * j + 32 by omega, BitVec.getLsbD]
  · have hout : ¬ (32 * i ≤ 32 * j + k ∧ 32 * j + k < 32 * i + 32) := by omega
    simp only [hout, decide_false, Bool.not_false, Bool.and_true, Bool.false_and, Bool.or_false, if_neg hji,
      BitVec.getLsbD_extractLsb', hk, decide_true, Bool.true_and]

/-- DW_DATA with four bytes replaced. -/
def dataPut (d : List Byte) (i : Nat) (w : W32) : List Byte := splice (pad 256 d) (4 * i) (leBytes 4 w.toNat)

theorem setData_idle {s : State} (hbusy : s.kpage.dwBusy = false) (i : Nat) (w : W32) :
    setData i w s = { s with kpage := { s.kpage with dwData := dataPut s.kpage.dwData i w } } := by
  rw [setData, if_neg (by simp [hbusy])]
  rfl

theorem setData_busy {s : State} (hbusy : s.kpage.dwBusy = true) (i : Nat) (w : W32) : setData i w s = s := by
  rw [setData, if_pos hbusy]

theorem length_dataPut (d : List Byte) {i : Nat} (hi : i < 64) (w : W32) : (dataPut d i w).length = 256 := by
  rw [dataPut, length_splice (by simp; omega), length_pad]

theorem getD_dataPut (d : List Byte) {i j : Nat} (hi : i < 64) (hj : j < 256) (v : W64) :
    (dataPut d i (v.extractLsb' 0 32)).getD j 0 =
      if 4 * i ≤ j ∧ j < 4 * i + 4 then v.extractLsb' (8 * (j - 4 * i)) 8 else d.getD j 0 := by
  rw [dataPut, getD_splice (by simp; omega), length_leBytes, getD_pad d hj]
  by_cases hin : 4 * i ≤ j ∧ j < 4 * i + 4
  · rw [if_pos hin, if_pos hin, getD_leBytes _ (by omega)]
    apply BitVec.eq_of_getLsbD_eq
    intro k hk
    simp only [BitVec.getLsbD_ofNat, Nat.testBit_shiftRight, BitVec.testBit_toNat, BitVec.getLsbD_extractLsb', hk, decide_true,
      Bool.true_and, Nat.zero_add, show 8 * (j - 4 * i) + k < 32 by omega]
  · rw [if_neg hin, if_neg hin]

end Sys2Proof.Machine

open Sys2Proof Sys2Proof.Machine

/-- Settles O29: each clause is a row of `barWrite`, read at the offset that the clause names. -/
theorem registerMap : Obligations.RegisterMap := by
  unfold Obligations.RegisterMap
  intro s v lo k kept
  refine ⟨fun hb off size => ?_, fun hb => ?_⟩
  · rw [exec_registerWrite, barWrite_unanswered hb]
  have word : ∀ off, off % 4 = 0 → exec (.registerWrite off 4 v) s = .next (pump (reg32 off lo s)) := fun off ha => by
    rw [exec_registerWrite, barWrite_word hb ha]
  have double : ∀ off, off % 8 = 0 → exec (.registerWrite off 8 v) s = .next (pump (reg64Write off v s)) := fun off ha => by
    rw [exec_registerWrite, barWrite_double hb ha]
  have low_bit : lo.getLsbD 0 = v.getLsbD 0 := by simp [lo]
  refine ⟨fun off size h4 h8 => ?misaligned, fun h loc hh hl => ⟨?doorbell, ?cqHead⟩, fun h hh => ?fence,
    fun off hlo hhi ha => ?statement, ⟨?ring, ?cring, ?headWb, ?ringSize, ?ringLow, ?ringHigh⟩, ?msix, ?kqCtl,
    fun hoff => ⟨?frBase, ?frEntries⟩, fun hon => ⟨?frBaseClosed, ?frEntriesClosed⟩, ?frCtl, ?frRd, ?jnlRd,
    fun hbusy => ⟨fun i hi => ?hdrBusy, fun i hi => ?dataBusy⟩,
    fun hidle => ⟨fun i hi => ⟨setHdr i lo s, ?hdr⟩, fun i hi => ⟨setData i lo s, ?data⟩⟩⟩
  case misaligned => rw [exec_registerWrite, barWrite_misaligned hb h4 h8]
  case doorbell => rw [word _ (by omega), reg32_doorbell hh hl, exec_doorbell hb hh hl]
  case cqHead => rw [word _ (by omega), reg32_cqHead hh hl, exec_cqHeadWrite hb hh hl]
  case fence => rw [double _ (by omega), reg64Write_fence hh, exec_fenceDb hb hh]
  case statement => rw [double _ ha, reg64Write_statement hlo hhi]
  case ring => exact (double _ rfl).trans (by rw [reg64Write_ring])
  case cring => exact (double _ rfl).trans (by rw [reg64Write_cring])
  case headWb => exact (double _ rfl).trans (by rw [reg64Write_headWb])
  case ringSize => exact (word _ rfl).trans (by rw [reg32_kqSize, extract_low_word v (by omega)])
  case ringLow => exact (word _ rfl).trans (by rw [reg32_ringLow, reg64Write_ring])
  case ringHigh => exact (word _ rfl).trans (by rw [reg32_ringHigh, reg64Write_ring])
  case msix => rw [word _ rfl, reg32_kqMsix, extract_low_word v (by omega)]
  case kqCtl => rw [word _ rfl, reg32_kqCtl, low_bit, exec_kqEnable hb]; split <;> rfl
  case frBase => rw [double _ rfl, reg64Write_frBase, if_neg (by simp [hoff])]
  case frEntries => rw [word _ rfl, reg32_frEntries, if_neg (by simp [hoff])]
  case frBaseClosed => rw [double _ rfl, reg64Write_frBase, if_pos hon]
  case frEntriesClosed => rw [word _ rfl, reg32_frEntries, if_pos hon]
  case frCtl => rw [word _ rfl, reg32_frCtl, low_bit, exec_faultRingEnable hb, exec_faultRingDisable hb]; split <;> rfl
  case frRd => rw [double _ rfl, reg64Write_frRd, exec_frRdWrite hb]
  case jnlRd => rw [double _ rfl, reg64Write_jnlRd, exec_jnlRdWrite hb]
  case hdrBusy => rw [word _ (by omega), reg32_hdr hi, setHdr_busy hbusy]
  case dataBusy => rw [word _ (by omega), reg32_data hi, setData_busy hbusy]
  case hdr =>
    rw [word _ (by omega), reg32_hdr (by omega), setHdr_idle hidle hi]
    exact ⟨rfl, rfl, fun j hj => hdrPut_word _ _ hj⟩
  case data =>
    rw [word _ (by omega), reg32_data hi, setData_idle hidle]
    exact ⟨rfl, rfl, length_dataPut _ hi _, fun j hj => getD_dataPut _ hi hj v⟩
end

section
/-! SUPPORT. Bits of words that are set, cleared and listed, and tables whose entries are filtered by their keys. -/

namespace Sys2Proof.Machine

/-! ### Bits of words -/

theorem getLsbD_one_shiftLeft {n : Nat} (i k : Nat) : (1#n <<< i).getLsbD k = decide (k < n ∧ k = i) := by
  rw [← BitVec.twoPow_eq, BitVec.getLsbD_twoPow, Bool.eq_iff_iff]
  simp only [Bool.and_eq_true, decide_eq_true_eq]
  omega

theorem getLsbD_setBit {n : Nat} (d : BitVec n) (i k : Nat) :
    (setBit d i).getLsbD k = (d.getLsbD k || decide (k < n ∧ k = i)) := by
  rw [setBit, BitVec.getLsbD_or, getLsbD_one_shiftLeft]

theorem getLsbD_clearBit {n : Nat} (d : BitVec n) (i k : Nat) :
    (clearBit d i).getLsbD k = (d.getLsbD k && !decide (k = i)) := by
  rw [clearBit, BitVec.getLsbD_and, BitVec.getLsbD_not, getLsbD_one_shiftLeft]
  by_cases hk : k < n
  · simp [hk]
  · rw [BitVec.getLsbD_of_ge d k (by omega), Bool.false_and, Bool.false_and]

theorem mem_bitList {w n k : Nat} {d : BitVec w} : k ∈ bitList n d ↔ k < n ∧ d.getLsbD k = true := by
  simp [bitList]

/-! ### Tables filtered by their keys -/

/-- Keeping the entries whose keys pass a test reads as the default at every other key; the table need not be canonical. -/
theorem Tab.get_filter_keys {α : Type} (d : α) (q : Nat → Bool) (m : Tab α) (a : Nat) :
    Tab.get d (m.filter fun c => q c.1) a = if q a then Tab.get d m a else d := by
  induction m with
  | nil => simp [Tab.get]
  | cons c m ih =>
    obtain ⟨k, v⟩ := c
    rw [List.filter_cons]
    by_cases ha : a = k
    · subst ha
      by_cases hq : q a = true
      · simp [hq, Tab.get]
      · simp [hq, ih]
    · by_cases hq : q k = true
      · simp [hq, Tab.get, ha, ih]
      · simp [hq, Tab.get, ha, ih]

/-- A zeroed range reads as 0 and every other byte as before, whatever form the memory is in. -/
theorem get_memZero_any (m : Mem) (a n b : Nat) :
    Tab.get 0 (memZero m a n) b = if a ≤ b ∧ b < a + n then 0 else Tab.get 0 m b := by
  have h := Tab.get_filter_keys 0 (fun k => decide (k < a) || decide (a + n ≤ k)) m b
  rw [memZero, h]
  by_cases hin : a ≤ b ∧ b < a + n
  · rw [if_pos hin, if_neg (by simp; omega)]
  · rw [if_neg hin, if_pos (by simp; omega)]

end Sys2Proof.Machine
end

section
/-! SUPPORT. An operand that an instruction may not have traps ILLEGAL (R137, R138); the lane instructions S2R, VOTE and SHFL
(R102, R137). -/

namespace Sys2Proof.Machine

/-! ### ILLEGAL -/

section
variable {t : GroupRef} {guard : BitVec 4} {s s1 : State} {i : Issue} (h : issues t guard s i s1)
include h

/-- The fetch leaves a group's launch, gang and registers as the instruction sees them. -/
theorem issues_found : gangAt s1 t.launch t.gang = some i.gang ∧ groupAt s1 t = some i.grp := by
  have hherd : s1.herd = s.herd := by rw [issues_sameButAccess h]
  obtain ⟨-, -, -, ⟨hi, -⟩, -⟩ := h
  obtain ⟨-, hx, hg, -⟩ := issueOf_some hi
  unfold groupAt gangAt at *
  rw [hherd]
  exact ⟨hx, hg⟩

theorem issues_lanes : i.lanes = guarded guard i.grp := by
  obtain ⟨-, -, -, ⟨hi, -⟩, -⟩ := h
  obtain ⟨-, -, -, hlanes, -⟩ := issueOf_some hi
  exact hlanes

theorem issues_lane_lt {l : Nat} (hl : l ∈ i.lanes) : l < 16 := by
  rw [issues_lanes h, guarded, List.mem_filter, mem_bitList] at hl
  exact hl.1.1

/-- An operand that the instruction may not have traps the group on the state after its fetch. -/
theorem issue_illegal {legal : Issue → Bool} {run : Issue → State → State} (hl : legal i = false) :
    issue t guard legal run s = trapGroup t 0x20 0 s1 := by
  obtain ⟨-, hc, w, ⟨hi, mem, off, s0, s2, bs, hr, hb, rfl, rfl⟩, hw⟩ := h
  unfold issue
  rw [hi]
  simp only [hr, hb, issueWord, hc, hl, Bool.not_false, Bool.or_true, Bool.false_eq_true, ↓reduceIte]
  rfl

/-- A group that issues and then traps has trapped as R138 and R139 say. -/
theorem trapped_trapGroup (detail imm : Nat) : trapped t detail imm i s1 (trapGroup t detail imm s1) := by
  obtain ⟨hx, hg⟩ := issues_found h
  have hset : setGroup t { i.grp with wait := .trapped } s1 =
      setGang { i.gang with groups := listSet i.gang.groups t.group { i.grp with wait := .trapped } } s1 := by
    rw [setGroup, hx]
  have hread := groupAt_setGroup (g' := { i.grp with wait := .trapped }) hg
  have htrap : trapGroup t detail imm s1 = noteTrap t.launch
      { detail := detail, pc := i.grp.pc, gang := t.gang, group := t.group, lanes := i.grp.active,
        imm := BitVec.ofNat 16 imm, master := i.master, time := now s1 } (setGroup t { i.grp with wait := .trapped } s1) := by
    rw [trapGroup, hg, hx]
    rfl
  rw [htrap, hset] at *
  exact ⟨hread, rfl, rfl⟩

/-- A command that issues with an operand it may not have answers the next state in which the group has trapped ILLEGAL. -/
theorem traps_illegal {c : Instr} {legal : Issue → Bool} {run : Issue → State → State}
    (hc : exec c s = .next (issue t guard legal run s)) (hl : legal i = false) :
    ∃ s', exec c s = .next s' ∧ trapped t 0x20 0 i s1 s' :=
  ⟨_, by rw [hc, issue_illegal h hl], trapped_trapGroup h 0x20 0⟩

end

theorem regsOk_eq_false {rs : List Nat} {i : Issue} {r : Nat} (hr : r ∈ rs) (h : hlRegs i.desc ≤ r) : regsOk rs i = false := by
  rw [regsOk, List.all_eq_false]
  exact ⟨r, hr, by simpa using h⟩

/-! ### S2R, VOTE and SHFL -/

/-- What SHFL leaves in a lane whose rb names no lane (log entry 14). -/
def shflOutside (a b : W32) : W32 := Config.openResult 0x0B a b 0

/-- The mask of a list of lanes holds exactly those lanes. -/
theorem getLsbD_laneMask (l : List Nat) (k : Nat) : (laneMask l).getLsbD k = decide (k < 16 ∧ k ∈ l) := by
  have go : ∀ (l : List Nat) (m : W16),
      (l.foldl (fun m i => setBit m i) m).getLsbD k = (m.getLsbD k || decide (k < 16 ∧ k ∈ l)) := by
    intro l
    induction l with
    | nil => simp
    | cons x l ih =>
      intro m
      rw [List.foldl_cons, ih, getLsbD_setBit, Bool.eq_iff_iff]
      simp only [Bool.or_eq_true, decide_eq_true_eq, List.mem_cons]
      tauto
  simpa [laneMask] using go l 0

/-- The mask of votes holds the selected lanes whose flag operand holds. -/
theorem getLsbD_votes {i : Issue} (hlt : ∀ l ∈ i.lanes, l < 16) (flag : BitVec 4) (k : Nat) :
    (votes i flag).getLsbD k = true ↔ k ∈ i.lanes ∧ guardHolds flag i.grp k = true := by
  rw [votes, getLsbD_laneMask, decide_eq_true_eq, List.mem_filter]
  exact ⟨And.right, fun hk => ⟨hlt k hk.1, hk⟩⟩

/-- What a vote of some lanes gives, for each of its kinds (R137). -/
theorem voteResult_spec {v : W16} {holds : Nat → Prop} (hv : ∀ l, v.getLsbD l = true ↔ holds l) (op : VoteOp) :
    (op = .ballot → ∀ l, l < 32 → ((voteResult op v).getLsbD l = true ↔ holds l)) ∧
    (op = .any → ((∃ l, holds l) → voteResult op v = 1) ∧ (¬ (∃ l, holds l) → voteResult op v = 0)) ∧
    (op = .all → ((∀ l, l < 16 → holds l) → voteResult op v = 1) ∧ (¬ (∀ l, l < 16 → holds l) → voteResult op v = 0)) := by
  refine ⟨?ballot, ?any, ?all⟩
  case ballot =>
    rintro rfl l hl
    simp [voteResult, hl, hv]
  case any =>
    rintro rfl
    have hzero : v = 0 ↔ ¬ ∃ l, holds l := by
      refine ⟨?_, fun hn => BitVec.eq_of_getLsbD_eq fun l _ => ?_⟩
      · rintro rfl ⟨l, hl⟩
        simpa using (hv l).mpr hl
      · simpa using fun hl => hn ⟨l, (hv l).mp hl⟩
    exact ⟨fun he => if_neg fun h0 => hzero.mp h0 he, fun hn => if_pos (hzero.mpr hn)⟩
  case all =>
    rintro rfl
    have hones : v = 0xFFFF ↔ ∀ l, l < 16 → holds l := by
      have ones : ∀ l < 16, (0xFFFF : W16).getLsbD l = true := by decide
      refine ⟨?_, fun ha => BitVec.eq_of_getLsbD_eq fun l hl => ?_⟩
      · rintro rfl l hl
        exact (hv l).mp (ones l hl)
      · rw [ones l hl, hv]
        exact ha l hl
    exact ⟨fun ha => if_pos (hones.mpr ha), fun hn => if_neg fun h1 => hn (hones.mp h1)⟩

theorem coreMaster_setWidth (core : Nat) :
    (coreMaster core).setWidth 32 = BitVec.ofNat 32 ((0x2000 + 256 * (core / 16) + core % 16) % 2 ^ 16) := by
  apply BitVec.eq_of_toNat_eq
  simp only [coreMaster, BitVec.toNat_setWidth, BitVec.toNat_ofNat]
  congr 3
  omega

theorem bitsAt_zero {n : Nat} (d : BitVec n) (w : Nat) : bitsAt d 0 w = d.setWidth w := by
  apply BitVec.eq_of_getLsbD_eq
  intro k hk
  simp [bitsAt, hk]

section
variable {t : GroupRef} {f : RFmt} {s s1 : State} {i : Issue}

theorem exec_s2r (sr : SpecialReg) :
    exec (.s2r t f sr) s = .next (alu1 t f.guard f.rd [] (fun i lane => specialReg sr t i lane s) s) := rfl
theorem exec_vote (op : VoteOp) (fl : BitVec 4) : exec (.vote t f op fl) s =
    .next (issue t f.guard (fun i => fl != 8 && regsOk [f.rd.toNat] i)
      (fun i s => setGroup t (nextPc (eachLane i.lanes (fun lane g =>
        setReg g lane f.rd.toNat (voteResult op (votes i fl))) i.grp)) s) s) := rfl
theorem exec_shfl : exec (.shfl t f) s = .next (alu1 t f.guard f.rd [f.ra, f.rb] (fun i lane =>
    if (opB i f lane).toNat < 16 then (if i.lanes.contains (opB i f lane).toNat then opA i f (opB i f lane).toNat else 0)
    else shflOutside (opA i f lane) (opB i f lane)) s) := rfl

variable (hwf : Tab.wf 0 i.grp.regs = true) (h : issues t f.guard s i s1)
include hwf h

theorem regResult_of_alu1 {c : Instr} {rs : List Byte} {v : Issue → Nat → W32} {r : Nat → W32}
    (hc : exec c s = .next (alu1 t f.guard f.rd rs v s)) (hr : allocated (f.rd :: rs) i)
    (hv : v { i with free := s1.free } = r) : regResult c t s s1 i f.rd r := by
  obtain ⟨g, hnext, hg⟩ := alu1_next (f := v) h hr hwf
  exact ⟨g, by rw [hc, hnext], hv ▸ hg⟩

theorem vote_result (op : VoteOp) {fl : BitVec 4} (hr : allocated [f.rd] i) (hfl : fl ≠ 8) :
    regResult (.vote t f op fl) t s s1 i f.rd (fun _ => voteResult op (votes i fl)) := by
  have hlegal : (fl != 8 && regsOk [f.rd.toNat] i) = true := by
    rw [Bool.and_eq_true, bne_iff_ne]
    exact ⟨hfl, regsOk_of_allocated hr⟩
  exact ⟨_, by rw [exec_vote, issue_next h hlegal]; rfl, wroteReg_eachLane i f.rd _ hwf⟩

end

end Sys2Proof.Machine

open Sys2Proof Sys2Proof.Machine

/-- Settles O5: each instruction writes one register of its group, and an operand that it may not have traps ILLEGAL. -/
theorem laneInstructions : Obligations.LaneInstructions := by
  unfold Obligations.LaneInstructions
  refine ⟨shflOutside, fun t f fl op sr s s1 i hwf h => ?_⟩
  intro holds src outside
  have outside_register {c : Instr} {rs : List Byte} {v : Issue → Nat → W32} {r : Byte}
      (hc : exec c s = .next (alu1 t f.guard f.rd rs v s)) (hr : r ∈ f.rd :: rs) (hout : hlRegs i.desc ≤ r.toNat) : outside c :=
    traps_illegal h hc (regsOk_eq_false (List.mem_map_of_mem hr) hout)
  refine ⟨fun hr => ?s2r, fun hr hfl => ?vote, fun hr => ?shfl, fun hfl => ?reserved, fun hrd => ⟨?_, ?voteReg, ?_⟩, ?sources⟩
  case s2r =>
    refine regResult_of_alu1 hwf h (exec_s2r sr) hr (funext fun l => ?_)
    cases sr <;> simp only [specialReg, tidOf, bitsAt_zero, Issue.desc, Issue.master, coreMaster_setWidth]
  case vote =>
    have hvotes := getLsbD_votes (fun l => issues_lane_lt h) fl
    exact ⟨_, vote_result hwf h op hr hfl, voteResult_spec hvotes op⟩
  case shfl =>
    refine regResult_of_alu1 hwf h exec_shfl hr (funext fun l => ?_)
    by_cases hsrc : 16 ≤ src l
    · rw [if_pos hsrc, if_neg (by simpa [src, opB] using hsrc)]
      rfl
    · rw [if_neg hsrc, if_pos (by simpa [src, opB] using hsrc)]
      simp only [List.contains_iff_mem]
      rfl
  case reserved => exact traps_illegal h (exec_vote op fl) (by simp [hfl])
  case voteReg =>
    have hregs : regsOk [f.rd.toNat] i = false := regsOk_eq_false (List.mem_singleton_self _) hrd
    exact traps_illegal h (exec_vote op fl) (by rw [hregs, Bool.and_false])
  case sources =>
    rintro (hra | hrb)
    · exact outside_register exec_shfl (r := f.ra) (by simp) hra
    · exact outside_register exec_shfl (r := f.rb) (by simp) hrb
  · exact outside_register (exec_s2r sr) (r := f.rd) (by simp) hrd
  · exact outside_register exec_shfl (r := f.rd) (by simp) hrd
end

section
/-! SUPPORT. What ends of commands, records of faults and changes of capacity leave alone: power, the logical map and the boot
state. -/

namespace Sys2Proof.Machine

/-- Between two states power, the logical map and the boot state are as they were. -/
def keepsPower (s t : State) : Prop := t.power = s.power ∧ t.lmap = s.lmap ∧ t.boot = s.boot

theorem keepsPower.refl (s : State) : keepsPower s s := ⟨rfl, rfl, rfl⟩

theorem keepsPower.trans {s t u : State} (h : keepsPower s t) (h' : keepsPower t u) : keepsPower s u :=
  ⟨h'.1.trans h.1, h'.2.1.trans h.2.1, h'.2.2.trans h.2.2⟩

/-- The same, the last step first: the state between is read off it. -/
theorem keepsPower.after {s t u : State} (h' : keepsPower t u) (h : keepsPower s t) : keepsPower s u := h.trans h'

theorem keepsPower.ite {c : Prop} [Decidable c] {s t u : State} (ht : keepsPower s t) (hu : keepsPower s u) :
    keepsPower s (if c then t else u) := by
  split
  · exact ht
  · exact hu

theorem forEach_keepsPower {α : Type} (l : List α) (g : α → State → State) (hg : ∀ x s, keepsPower s (g x s)) (s : State) :
    keepsPower s (forEach l g s) := by
  induction l generalizing s with
  | nil => exact .refl s
  | cons x l ih => exact (hg x s).trans (ih (g x s))

/-! ### The host port -/

/-- A vector reaches the host port alone. -/
theorem raiseVector_eq (v : W16) (s : State) : raiseVector v s = { s with hostPort := (raiseVector v s).hostPort } := by
  unfold raiseVector
  split
  · rfl
  · split <;> rfl

/-- What a vector does to the host port depends on the host port alone. -/
theorem raiseVector_hostPort_congr (v : W16) {s t : State} (h : t.hostPort = s.hostPort) :
    (raiseVector v t).hostPort = (raiseVector v s).hostPort := by
  unfold raiseVector
  rw [h]
  split
  · exact h
  · split <;> rfl

theorem raiseVector_keepsPower (v : W16) (s : State) : keepsPower s (raiseVector v s) := by
  rw [raiseVector_eq]
  exact ⟨rfl, rfl, rfl⟩

theorem hostWrite_keepsPower (a : Nat) (bs : List Byte) (s : State) : keepsPower s (hostWrite a bs s) := by
  unfold hostWrite
  split
  · exact ⟨rfl, rfl, rfl⟩
  · exact ⟨rfl, rfl, rfl⟩

/-! ### Packets -/

theorem packetCross_keepsPower (inst : BitVec 4) (k : Packet) (s : State) : keepsPower s (packetCross inst k s) := by
  rw [packetCross]
  exact .ite ⟨rfl, rfl, rfl⟩ ⟨rfl, rfl, rfl⟩

theorem packetToStack_keepsPower (inst : BitVec 4) (k : Packet) (s : State) : keepsPower s (packetToStack inst k s) :=
  .ite (packetCross_keepsPower inst k s) ⟨rfl, rfl, rfl⟩

theorem arrive_keepsPower (vc : Nat) (k : Packet) (s : State) : keepsPower s (arrive vc k s) :=
  .ite ⟨rfl, rfl, rfl⟩ ⟨rfl, rfl, rfl⟩

theorem routeOnce_keepsPower {vc : Nat} {k : Packet} {s t : State} (h : routeOnce vc k s = some t) : keepsPower s t := by
  unfold routeOnce at h
  split at h
  · exact Option.some.inj h ▸ arrive_keepsPower vc k s
  split at h
  · exact Option.some.inj h ▸ packetToStack_keepsPower _ k s
  dsimp only at h
  split at h
  · cases h
  split at h
  · exact Option.some.inj h ▸ ⟨rfl, rfl, rfl⟩
  · exact Option.some.inj h ▸ packetToStack_keepsPower _ k s

theorem routePacket_keepsPower (vc : Nat) (k : Packet) (s : State) : keepsPower s (routePacket vc k s) := by
  unfold routePacket
  split
  next t h => exact routeOnce_keepsPower h
  next =>
    split
    · split
      next t h => exact routeOnce_keepsPower h
      next => exact .refl s
    · exact .refl s

/-! ### Completions and the journal -/

theorem announce_keepsPower (q : Nat) (s : State) : keepsPower s (announce q s) := by
  unfold announce
  exact .ite (raiseVector_keepsPower _ s) (.ite (raiseVector_keepsPower _ _) ⟨rfl, rfl, rfl⟩)

theorem writeCompletion_keepsPower (q : Nat) (rec : BitVec 256) (s : State) : keepsPower s (writeCompletion q rec s) :=
  .after (announce_keepsPower q _) ((hostWrite_keepsPower _ _ s).trans ⟨rfl, rfl, rfl⟩)

theorem journalWrite_keepsPower (e : BitVec 512) (s : State) : keepsPower s (journalWrite e s) :=
  .after (.ite (raiseVector_keepsPower _ _) (.refl _)) (.after (.ite ⟨rfl, rfl, rfl⟩ (.refl _))
    ((hostWrite_keepsPower _ _ s).trans ⟨rfl, rfl, rfl⟩))

theorem putRecord_keepsPower (q : Nat) (rec : BitVec 256) (s : State) : keepsPower s (putRecord q rec s) :=
  .ite (writeCompletion_keepsPower q rec s) ⟨rfl, rfl, rfl⟩

theorem putOut_keepsPower (q : Nat) (rec : BitVec 256) (e : BitVec 512) (s : State) : keepsPower s (putOut q rec e s) := by
  have hw := writeCompletion_keepsPower q rec s
  exact .ite ⟨rfl, rfl, rfl⟩ (.ite (hw.trans ⟨rfl, rfl, rfl⟩) (hw.trans (journalWrite_keepsPower e _)))

theorem taskGauge_keepsPower (c : Cmd) (s : State) : keepsPower s (taskGauge c s) := .ite ⟨rfl, rfl, rfl⟩ (.refl s)

theorem forgetWaiter_keepsPower (uid : Nat) (s : State) : keepsPower s (forgetWaiter uid s) := by
  refine .after (forEach_keepsPower _ _ ?_ _) (forEach_keepsPower _ _ ?_ s)
  · exact fun _ _ => ⟨rfl, rfl, rfl⟩
  · exact fun _ _ => ⟨rfl, rfl, rfl⟩

theorem twinNote_keepsPower (c : Cmd) (r : Done) (s : State) : keepsPower s (twinNote c r s) := by
  unfold twinNote
  exact .ite (.refl s) (.ite ⟨rfl, rfl, rfl⟩ ⟨rfl, rfl, rfl⟩)

theorem complete_keepsPower (uid : Nat) (r : Done) (s : State) : keepsPower s (complete uid r s) := by
  unfold complete
  split
  next => exact .refl s
  next c _ =>
    extract_lets d s1 rc
    have h1 : keepsPower s s1 := .after (twinNote_keepsPower c d _) (.after (forgetWaiter_keepsPower uid _)
      ((taskGauge_keepsPower c s).trans ⟨rfl, rfl, rfl⟩))
    split
    next k _ => exact .after (routePacket_keepsPower _ _ _) (h1.trans ⟨rfl, rfl, rfl⟩)
    next => exact .ite h1 (.ite (h1.trans (putOut_keepsPower _ _ _ s1)) (h1.trans (putRecord_keepsPower _ _ s1)))

theorem abortLaunch_keepsPower (uid : Nat) (st : Byte) (s : State) : keepsPower s (abortLaunch uid st s) :=
  .after (complete_keepsPower uid (.broken st) (dropGangs uid s)) ⟨rfl, rfl, rfl⟩

theorem tileFail_keepsPower (c : Cmd) (st : Byte) (s : State) : keepsPower s (tileFail c st s) :=
  .after (complete_keepsPower c.uid (.broken st) (endHolder (.task c.uid) s)) ⟨rfl, rfl, rfl⟩

theorem withdraw_keepsPower (uid : Nat) (s : State) : keepsPower s (withdraw uid s) := by
  unfold withdraw
  split
  next => exact .refl s
  next =>
    split
    next => exact ⟨rfl, rfl, rfl⟩
    next => exact .refl s

/-! ### Capacities -/

/-- A drop of a capacity demotes guarantees: meters of folds change, and nothing else. -/
theorem demote_eq (k : Nat) (s : State) : demote k s = { s with folds := (demote k s).folds } := by
  unfold demote
  generalize List.range 16 = l
  induction l generalizing s with
  | nil => rfl
  | cons n l ih =>
    rw [forEach_cons, ih]
    dsimp only
    split
    · rfl
    split
    · rfl
    · unfold setHonoured
      split <;> rfl

theorem demote_keepsPower (k : Nat) (s : State) : keepsPower s (demote k s) := by
  rw [demote_eq]
  exact ⟨rfl, rfl, rfl⟩

theorem capacityEvent_keepsPower (k old : Nat) (s : State) : keepsPower s (capacityEvent k old s) := by
  unfold capacityEvent
  dsimp only
  have h1 : keepsPower s (raiseVector s.weirG.capacityVector
      { s with weirG := { s.weirG with capacityEvents := s.weirG.capacityEvents + 1 } }) :=
    .after (raiseVector_keepsPower _ _) ⟨rfl, rfl, rfl⟩
  split
  · exact .refl s
  split
  · exact h1.trans (demote_keepsPower k _)
  · exact h1.trans ⟨rfl, rfl, rfl⟩

theorem setCapacity_keepsPower (k v : Nat) (s : State) : keepsPower s (setCapacity k v s) :=
  .after (capacityEvent_keepsPower k _ _) ⟨rfl, rfl, rfl⟩

theorem refreshCaps_keepsPower (s : State) : keepsPower s (refreshCaps s) :=
  (setCapacity_keepsPower 0 _ s).trans (setCapacity_keepsPower 1 _ _)

/-! ### Records of faults -/

theorem noteFault_keepsPower (f : FaultInfo) (level : Nat) (w : Where) (s : State) : keepsPower s (noteFault f level w s) := by
  unfold noteFault
  exact .ite ⟨rfl, rfl, rfl⟩ ⟨rfl, rfl, rfl⟩

theorem ringWrite_keepsPower (rc : BitVec 512) (s : State) : keepsPower s (ringWrite rc s) :=
  (hostWrite_keepsPower _ _ s).trans ⟨rfl, rfl, rfl⟩

theorem requestPowerCycle_keepsPower (s : State) : keepsPower s (requestPowerCycle s) := by
  unfold requestPowerCycle
  exact .ite ⟨rfl, rfl, rfl⟩ ⟨rfl, rfl, rfl⟩

theorem actOn_keepsPower (level cls : Nat) (s : State) : keepsPower s (actOn level cls none s) := by
  have h1 : keepsPower s (if 1 ≤ level then raiseVector (Tab.get 0xFFFF s.faults.vectors cls) s else s) :=
    .ite (raiseVector_keepsPower _ s) (.refl s)
  have h3 (t : State) : keepsPower t (if 4 ≤ level then requestPowerCycle t else t) :=
    .ite (requestPowerCycle_keepsPower t) (.refl t)
  unfold actOn
  dsimp only
  rw [ite_self]
  exact .after (h3 _) (.after (.ite ⟨rfl, rfl, rfl⟩ (.refl _)) h1)

/-- A fault that no fold answers for is recorded and acted on without a change of power. -/
theorem raiseFault_keepsPower {f : FaultInfo} (hf : f.fold = none) (s : State) : keepsPower s (raiseFault f s) := by
  have hnote (level : Nat) (w : Where) {t : State} (h : keepsPower s t) : keepsPower s (noteFault f level w t) :=
    h.trans (noteFault_keepsPower f level w t)
  unfold raiseFault
  dsimp only
  rw [hf]
  refine .after (actOn_keepsPower _ f.cls _) (.after (.ite (raiseVector_keepsPower _ _) (.refl _)) ?_)
  exact .ite (hnote _ _ (ringWrite_keepsPower _ s)) (.ite (hnote _ _ ⟨rfl, rfl, rfl⟩) (hnote _ _ ⟨rfl, rfl, rfl⟩))

end Sys2Proof.Machine
end

section
/-! SUPPORT. Power domains (R34, R384, R385, R403, R460): requests, acknowledges, the return from reset, and domains that fail. -/

namespace Sys2Proof.Machine

/-! ### Rows of power domains -/

section
variable {d : Nat} (hd : d < 106) (s : State)
include hd

theorem exec_domainPowerDown : exec (.domainPowerDown d) s = .next (powerDown d s) := need_of_true (by simp [hd])
theorem exec_domainAck (level : Bool) : exec (.domainAck d level) s = .next (pump (domainAcked d level s)) :=
  need_of_true (by simp [hd])
theorem exec_domainAckTimeout : exec (.domainAckTimeout d) s = .next (pump (domainLate d s)) := need_of_true (by simp [hd])

end

theorem running_iff (s : State) : running s = true ↔ s.boot.state = .ready ∨ s.boot.state = .degraded := by
  simp [running]

theorem not_booting_of_running {s : State} (h : s.boot.state = .ready ∨ s.boot.state = .degraded) : s.boot.state ≠ .booting := by
  rintro hb
  simp [hb] at h

/-- When one move of the sequence leads to where no other is possible, the sequence ends there. -/
theorem bootAdvance_eq {s t : State} (h : bootStep s = t) (ht : bootStep t = t) : bootAdvance s = t := by
  have go : ∀ l : List Nat, l.foldl (fun s _ => bootStep s) t = t := by
    intro l
    induction l with
    | nil => rfl
    | cons x l ih => rw [List.foldl_cons, ht, ih]
  rw [bootAdvance, List.range_succ_eq_map, List.foldl_cons, h, go]

/-- Outside bring-up the sequence does not move. -/
theorem bootAdvance_settled {s : State} (h : s.boot.state ≠ .booting) : bootAdvance s = s := by
  have hstep : bootStep s = s := if_pos (.inl h)
  exact bootAdvance_eq hstep hstep

/-! ### Powering down -/

theorem powerDown_idle {d : Nat} (hd : d < 106) {s : State} (hr : running s = true) (hreq : s.power.requests.getLsbD d = true)
    (hneed : domainNeeded s d = false) (hbusy : domainBusy s d = false) :
    powerDown d s =
      { dropDomain d s with power := { (dropDomain d s).power with down := setBit s.power.down d } } := by
  rw [powerDown, if_pos ⟨hr, hd, hreq, by rw [hneed]; rfl, by rw [hbusy]; rfl⟩]
  rfl

theorem powerDown_kept {d : Nat} {s : State} (h : ¬ running s = true ∨ s.power.requests.getLsbD d = false ∨
    domainNeeded s d = true ∨ domainBusy s d = true) : powerDown d s = s := by
  refine if_neg ?_
  rintro ⟨hr, -, hreq, hneed, hbusy⟩
  rw [bitAt] at hreq
  rw [hreq] at h
  rcases h with h | h | h | h
  · exact h hr
  · exact Bool.noConfusion h
  · simp [h] at hneed
  · simp [h] at hbusy

/-! ### Acknowledges -/

/-- The state in which domain d is shown as on. -/
def shownOn (d : Nat) (s : State) : State :=
  { s with power := { s.power with domainsOn := setBit s.power.domainsOn d, down := clearBit s.power.down d } }

/-- The state in which domain d is shown as off. -/
def shownOff (d : Nat) (s : State) : State :=
  { s with power := { s.power with domainsOn := clearBit s.power.domainsOn d } }

section
variable {d : Nat} {s : State}

theorem domainAcked_unasked (hreq : s.power.requests.getLsbD d = false) : domainAcked d true s = s := by
  simp [domainAcked, bitAt, hreq]

/-- An acknowledge of a domain that was not powered down shows it on. -/
theorem domainAcked_rise (hreq : s.power.requests.getLsbD d = true) (hdown : s.power.down.getLsbD d = false)
    (hb : s.boot.state ≠ .booting) : domainAcked d true s = shownOn d s := by
  have h : domainAcked d true s = bootAdvance (shownOn d s) := by simp [domainAcked, bitAt, hreq, hdown, shownOn]
  exact h.trans (bootAdvance_settled hb)

/-- What returns with a domain that was powered down leaves the boot state. -/
theorem domainBack_boot : (domainBack d s).boot = s.boot := by
  unfold domainBack
  split
  · rfl
  split
  · rfl
  split
  · rfl
  split <;> rfl

theorem domainAcked_return (hreq : s.power.requests.getLsbD d = true) (hdown : s.power.down.getLsbD d = true)
    (hb : s.boot.state ≠ .booting) : domainAcked d true s = domainBack d (shownOn d s) := by
  have h : domainAcked d true s = bootAdvance (domainBack d (shownOn d s)) := by simp [domainAcked, bitAt, hreq, hdown, shownOn]
  exact h.trans (bootAdvance_settled (by rwa [domainBack_boot]))

theorem domainAcked_missing (hreq : s.power.requests.getLsbD d = true) (hon : s.power.domainsOn.getLsbD d = true) :
    domainAcked d false s = domainFailed d s := by
  simp [domainAcked, bitAt, hreq, hon]

/-- The acknowledge of a dropped request falls. -/
theorem domainAcked_fall (hreq : s.power.requests.getLsbD d = false) :
    domainAcked d false s = restart (shownOff d s) := by
  simp [domainAcked, bitAt, hreq, shownOff]

theorem domainLate_missing (hreq : s.power.requests.getLsbD d = true) (hon : s.power.domainsOn.getLsbD d = false)
    (ht : Tab.get 0 s.power.reqAt d + 1000 ≤ s.tb.cycle) : domainLate d s = domainFailed d s := by
  simp [domainLate, bitAt, hreq, hon, ht]

theorem domainLate_kept (h : s.power.requests.getLsbD d = false ∨ s.power.domainsOn.getLsbD d = true ∨
    s.tb.cycle < Tab.get 0 s.power.reqAt d + 1000) : domainLate d s = s := by
  refine if_neg ?_
  simp only [bitAt, Bool.and_eq_true, Bool.not_eq_true', decide_eq_true_eq]
  rintro ⟨⟨hreq, hon⟩, ht⟩
  rw [hreq, hon] at h
  rcases h with h | h | h
  · exact Bool.noConfusion h
  · exact Bool.noConfusion h
  · omega

/-! ### What returns starts from reset (R384) -/

theorem domainBack_pond (hd : d < 72) (h6 : d % 9 = 6) : domainBack d s =
    clearPoison 0 (d / 9 * 2 ^ 23) (2 ^ 23) { s with pond := memZero s.pond (d / 9 * 2 ^ 23) (2 ^ 23) } := by
  rw [domainBack, if_pos ⟨hd, h6⟩]

theorem domainBack_cores (hd : d < 72) (h : d % 9 = 4 ∨ d % 9 = 5) :
    domainBack d s = coresBack (2 * (d / 9) + (d % 9 - 4)) s := by
  rw [domainBack, if_neg (by omega), if_pos ⟨hd, h⟩]

end

/-- The errors that go with a pond are those of its 2^17 units of 64 bytes. -/
theorem mem_clearPoison_pond (p : Nat) (s : State) (x : Nat × Nat) :
    x ∈ (clearPoison 0 (p * 2 ^ 23) (2 ^ 23) s).poison ↔ x ∈ s.poison ∧ ¬ (x.1 = 0 ∧ x.2 / 2 ^ 17 = p) := by
  have hunit : (p * 2 ^ 23 ≤ x.2 * 64 ∧ x.2 * 64 + 64 ≤ p * 2 ^ 23 + 2 ^ 23) ↔ x.2 / 2 ^ 17 = p := by omega
  simp only [clearPoison, List.mem_filter, Bool.not_eq_true', ← Bool.not_eq_true, Bool.and_eq_true, beq_iff_eq, decide_eq_true_eq,
    and_assoc, hunit]

/-- The data caches of a half-group that returns are empty. -/
theorem coreCache_coresBack (h c : Nat) (s : State) (hc : c / 8 = h) : coreCache (coresBack h s) c = [] := by
  have hkeys := Tab.get_filter_keys ([] : Tab Nat) (fun k => !(k / 8 == h)) s.herd.caches c
  rw [if_neg (by simp [hc])] at hkeys
  exact hkeys

/-! ### Requests and their turn (R385, R387) -/

/-- A request that is raised stood first among those wanted and due. -/
theorem raiseDue_cases (s : State) : raiseDue s = s ∨ ∃ w ∈ s.power.wanted, raiseDue s = { s with power := { s.power with
    requests := setBit s.power.requests w.1, reqAt := Tab.set 0 s.power.reqAt w.1 s.tb.cycle,
    wanted := s.power.wanted.erase w, nextReq := s.tb.cycle + 50 } } := by
  unfold raiseDue
  split
  · exact .inl rfl
  split
  · exact .inl rfl
  next w hw => exact .inr ⟨w, List.mem_of_find?_eq_some hw, rfl⟩

/-- A domain that is requested has its request raised, or waits its turn. -/
theorem asked_requestDomain {d : Nat} (hd : d < 128) (s : State) : asked (requestDomain d s) d = true := by
  unfold requestDomain requestFrom
  split
  · assumption
  generalize hs : ({ s with power := { s.power with wanted := s.power.wanted ++ [(d, 0)] } } : State) = s1
  have hin : (d, 0) ∈ s1.power.wanted := by simp [← hs]
  rcases raiseDue_cases s1 with h | ⟨w, -, h⟩
  · rw [h, asked, Bool.or_eq_true, List.any_eq_true]
    exact .inr ⟨_, hin, beq_self_eq_true d⟩
  · rw [h, asked, Bool.or_eq_true, List.any_eq_true]
    by_cases hw : w = (d, 0)
    · left
      rw [bitAt, getLsbD_setBit, hw]
      simp [hd]
    · exact .inr ⟨_, (List.mem_erase_of_ne (Ne.symm hw)).mpr hin, beq_self_eq_true d⟩

/-- A request changes which domains are requested, which wait and when, and nothing else. -/
theorem requestDomain_eq (d : Nat) (s : State) : ∃ requests reqAt wanted nextReq, requestDomain d s = { s with power :=
    { s.power with requests := requests, reqAt := reqAt, wanted := wanted, nextReq := nextReq } } := by
  unfold requestDomain requestFrom
  split
  · exact ⟨_, _, _, _, rfl⟩
  rcases raiseDue_cases { s with power := { s.power with wanted := s.power.wanted ++ [(d, 0)] } } with h | ⟨w, -, h⟩
  · exact ⟨_, _, _, _, h⟩
  · exact ⟨_, _, _, _, h⟩

/-! ### Domains that fail (R385, R403) -/

/-- Domain d is neither requested nor on nor wanted, and n failures have been counted. -/
structure Dropped (d : Nat) (n : W32) (s : State) : Prop where
  request : s.power.requests.getLsbD d = false
  on : s.power.domainsOn.getLsbD d = false
  wanted : ∀ w ∈ s.power.wanted, w.1 ≠ d
  failures : s.power.domainFailures = n

section
variable {d : Nat} {n : W32} {s t : State}

theorem Dropped.of_power (h : Dropped d n s) (ht : t.power = s.power) : Dropped d n t := by
  obtain ⟨hreq, hon, hwant, hfail⟩ := h
  rw [← ht] at hreq hon hwant hfail
  exact ⟨hreq, hon, hwant, hfail⟩

theorem Dropped.keep (h : Dropped d n s) (ht : keepsPower s t) : Dropped d n t := h.of_power ht.1

/-- What raises a request that is due leaves a domain that nothing wants dropped. -/
theorem Dropped.raiseDue (h : Dropped d n s) : Dropped d n (raiseDue s) := by
  rcases raiseDue_cases s with he | ⟨w, hw, he⟩
  · rwa [he]
  · rw [he]
    exact ⟨by rw [getLsbD_setBit, h.request]; simp [(h.wanted w hw).symm], h.on,
      fun v hv => h.wanted v (List.mem_of_mem_erase hv), h.failures⟩

/-- A request for another domain leaves this one dropped. -/
theorem Dropped.requestDomain (h : Dropped d n s) {e : Nat} (he : e ≠ d) : Dropped d n (requestDomain e s) := by
  unfold Machine.requestDomain requestFrom
  split
  · exact h
  · refine Dropped.raiseDue ⟨h.request, h.on, fun w hw => ?_, h.failures⟩
    rcases List.mem_append.mp hw with hw | hw
    · exact h.wanted w hw
    · rw [List.mem_singleton.mp hw]
      exact he

/-- The engine of domain d, when it has one, is retired: no slot can be bound to it. -/
def engineGone (d : Nat) (s : State) : Prop := ∀ p < 32, 9 * (p / 4) + p % 4 = d → s.lmap.retired.getLsbD (736 + p) = true

/-- A spare is the engine of no domain that is out. -/
theorem spare_ne_gone (h : engineGone d s) {p : Nat} (hp : p ∈ spares s) : 9 * (p / 4) + p % 4 ≠ d := by
  intro hd
  rw [spares, List.mem_filter, List.mem_range] at hp
  simp [engineUsable, unitOut, h p hp.1 hd] at hp

theorem vacate_keepsPower (e : Nat) (s : State) : keepsPower s (vacate e s) := by
  refine .after (forEach_keepsPower _ _ ?_ _) (forEach_keepsPower _ _ ?_ s)
  · exact fun c s => tileFail_keepsPower c stUnitRetired s
  · exact withdraw_keepsPower

/-- Domain d is still dropped, and no unit has been retired since `s`. -/
structure StaysOut (d : Nat) (n : W32) (s t : State) : Prop where
  dropped : Dropped d n t
  retired : t.lmap.retired = s.lmap.retired

/-- A slot that loses its engine may power up a spare, which is never the engine of a domain that is out. -/
theorem rebind_staysOut (e : Nat) (h : Dropped d n s) (hg : engineGone d s) : StaysOut d n s (rebind e s) := by
  unfold rebind
  extract_lets old ended s1 m s2 near
  have h0 : keepsPower s ended := by
    refine .after (forEach_keepsPower _ _ ?_ _) ⟨rfl, rfl, rfl⟩
    exact fun c s => tileFail_keepsPower c stDataError s
  have h1 : keepsPower s s1 := by
    refine (h0.trans (forEach_keepsPower _ discardOperands ?_ _)).trans ⟨rfl, rfl, rfl⟩
    exact fun _ _ => ⟨rfl, rfl, rfl⟩
  have hd2 : Dropped d n s2 := (h.keep h1).of_power rfl
  have hr2 : s2.lmap.retired = s.lmap.retired := by
    change s1.lmap.retired = s.lmap.retired
    rw [h1.2.1]
  split
  next =>
    have hv := vacate_keepsPower e s2
    exact ⟨hd2.keep hv, (congrArg LogMap.retired hv.2.1).trans hr2⟩
  next p hp =>
    extract_lets s3
    have hspare : p ∈ spares s2 := by
      rcases List.mem_append.mp (List.mem_of_head? hp) with hp | hp
      · exact List.mem_of_mem_filter hp
      · exact hp
    have hg2 : engineGone d s2 := fun q hq hqd => by rw [hr2]; exact hg q hq hqd
    have hne := spare_ne_gone hg2 hspare
    have hd3 : Dropped d n s3 := hd2.of_power rfl
    refine ⟨hd3.requestDomain hne, ?_⟩
    obtain ⟨_, _, _, _, heq⟩ := requestDomain_eq (9 * (p / 4) + p % 4) s3
    rw [heq]
    exact hr2

theorem rebindAll_staysOut (h : Dropped d n s) (hg : engineGone d s) : StaysOut d n s (rebindAll s) := by
  unfold rebindAll
  generalize (List.range 32).filter _ = l
  induction l generalizing s with
  | nil => exact ⟨h, rfl⟩
  | cons e l ih =>
    obtain ⟨h1, hr1⟩ := rebind_staysOut e h hg
    obtain ⟨h2, hr2⟩ := ih h1 fun p hp hpd => by rw [hr1]; exact hg p hp hpd
    rw [forEach_cons]
    exact ⟨h2, hr2.trans hr1⟩

theorem endVacant_keepsPower (s : State) : keepsPower s (endVacant s) := by
  refine .after (forEach_keepsPower _ _ ?_ _) (forEach_keepsPower _ _ ?_ s)
  · exact fun u s => abortLaunch_keepsPower u stUnitRetired s
  · exact fun u s => abortLaunch_keepsPower u stDataError s

theorem checkMinimum_power (s : State) : (checkMinimum s).power = s.power ∧ (checkMinimum s).lmap = s.lmap := by
  unfold checkMinimum
  split
  · exact ⟨rfl, rfl⟩
  · exact ⟨rfl, rfl⟩

/-- Every unit of a domain has a bit that can be retired (R398). -/
theorem domainUnits_range : ∀ d < 106, ∀ u ∈ domainUnits d, 216 ≤ u ∧ u < 768 := by decide

/-- An engine is its domain's only unit. -/
theorem domainUnits_engine : ∀ d < 106, ∀ p < 32, 9 * (p / 4) + p % 4 = d → ∀ u ∈ domainUnits d, u = 736 + p := by decide

/-- A unit of a domain that is out is retired, and the domain stays out. -/
theorem retireUnit_out (hd : d < 106) (h : Dropped d n s) {u : Nat} (hu : u ∈ domainUnits d) :
    Dropped d n (retireUnit u s) ∧ (retireUnit u s).lmap.retired.getLsbD u = true ∧
      ∀ v, s.lmap.retired.getLsbD v = true → (retireUnit u s).lmap.retired.getLsbD v = true := by
  obtain ⟨hlo, hhi⟩ := domainUnits_range d hd u hu
  unfold retireUnit
  split
  next hc =>
    have hold : s.lmap.retired.getLsbD u = true := by
      rcases hc with hc | hc | hc
      · exact hc
      · omega
      · omega
    exact ⟨h, hold, fun _ hv => hv⟩
  next =>
    extract_lets m s1
    have hd1 : Dropped d n s1 := h.of_power (raiseVector_keepsPower _ _).1
    have hset : s1.lmap.retired = setBit s.lmap.retired u := congrArg LogMap.retired (raiseVector_keepsPower _ _).2.1
    have hbit (v : Nat) : s1.lmap.retired.getLsbD v = (s.lmap.retired.getLsbD v || decide (v < 768 ∧ v = u)) := by
      rw [hset, getLsbD_setBit]
    have hg1 : engineGone d s1 := by
      intro p hp32 hp
      rw [hbit, ← domainUnits_engine d hd p hp32 hp u hu]
      simp [hhi]
    obtain ⟨hd2, hr2⟩ := rebindAll_staysOut hd1 hg1
    have h3 : keepsPower (rebindAll s1) (endVacant (refreshCaps (rebindAll s1))) :=
      (refreshCaps_keepsPower _).trans (endVacant_keepsPower _)
    obtain ⟨hpow, hmap⟩ := checkMinimum_power (endVacant (refreshCaps (rebindAll s1)))
    rw [hmap, h3.2.1, hr2]
    refine ⟨(hd2.keep h3).of_power hpow, ?_, fun v hv => ?_⟩
    · rw [hbit]
      simp [hhi]
    · rw [hbit, hv, Bool.true_or]

/-- Every unit of a list that belongs to a domain that is out is retired. -/
theorem retireUnits_out (hd : d < 106) (l : List Nat) (h : Dropped d n s) (hl : ∀ u ∈ l, u ∈ domainUnits d) :
    Dropped d n (forEach l retireUnit s) ∧ (∀ u ∈ l, (forEach l retireUnit s).lmap.retired.getLsbD u = true) ∧
      ∀ v, s.lmap.retired.getLsbD v = true → (forEach l retireUnit s).lmap.retired.getLsbD v = true := by
  induction l generalizing s with
  | nil => exact ⟨h, fun _ hu => absurd hu List.not_mem_nil, fun _ hv => hv⟩
  | cons u l ih =>
    obtain ⟨h1, hu, hkeep1⟩ := retireUnit_out hd h (hl u List.mem_cons_self)
    obtain ⟨h2, hall, hkeep2⟩ := ih h1 fun v hv => hl v (List.mem_cons_of_mem u hv)
    rw [forEach_cons]
    refine ⟨h2, fun v hv => ?_, fun v hv => hkeep2 v (hkeep1 v hv)⟩
    rcases List.mem_cons.mp hv with rfl | hv
    · exact hkeep2 _ hu
    · exact hall v hv

/-- While the block runs, a domain without its acknowledge is dropped and counted, and its units are retired. -/
theorem domainFailed_out (hd : d < 106) (hr : s.boot.state = .ready ∨ s.boot.state = .degraded) :
    Dropped d (s.power.domainFailures + 1) (domainFailed d s) ∧
      ∀ u ∈ domainUnits d, (domainFailed d s).lmap.retired.getLsbD u = true := by
  unfold domainFailed
  extract_lets s1 p s2 s3
  have h3 : keepsPower s2 s3 := raiseFault_keepsPower rfl s2
  have hd2 : Dropped d (s.power.domainFailures + 1) s2 := by
    refine ⟨?_, ?_, fun w hw => ?_, rfl⟩
    · exact (getLsbD_clearBit s.power.requests d d).trans (by simp)
    · exact (getLsbD_clearBit s.power.domainsOn d d).trans (by simp)
    · simpa using List.of_mem_filter hw
  have hrun : running s3 = true := by
    rw [running_iff, h3.2.2]
    exact hr
  rw [if_pos hrun]
  obtain ⟨h4, hall, -⟩ := retireUnits_out hd (domainUnits d) (hd2.keep h3) fun _ hu => hu
  exact ⟨h4, hall⟩

end

/-! ### The end of a reset of the block (R391, R431) -/

/-- The sequence may move, and stands at step 1. -/
structure AtStepOne (s : State) : Prop where
  booting : s.boot.state = .booting
  step : s.boot.step = 1
  resetting : s.boot.resetting = false
  pin : s.pins.resetLow = false
  fuse : s.fuse.reading = false

section
variable {s : State} (h : AtStepOne s)
include h

/-- At step 1 the loader first asks for domain 99. -/
theorem bootStep_asks (hask : asked s 99 = false) : bootStep s = requestDomain 99 s := by
  simp [bootStep, h.booting, h.step, h.resetting, h.pin, h.fuse, hask]

/-- It waits for the acknowledge. -/
theorem bootStep_waits (hask : asked s 99 = true) (hon : s.power.domainsOn.getLsbD 99 = false) : bootStep s = s := by
  have hoff : bitAt s.power.domainsOn 99 = false := hon
  simp [bootStep, h.booting, h.step, h.resetting, h.pin, h.fuse, hask, hoff]

/-- The loader begins with a request of domain 99, and waits. -/
theorem bootAdvance_stepOne (hask : asked s 99 = false) (hon : s.power.domainsOn.getLsbD 99 = false) :
    bootAdvance s = requestDomain 99 s := by
  have hasked : asked (requestDomain 99 s) 99 = true := asked_requestDomain (by decide) s
  obtain ⟨_, _, _, _, heq⟩ := requestDomain_eq 99 s
  have hone : AtStepOne (requestDomain 99 s) := by
    rw [heq]
    exact ⟨h.booting, h.step, h.resetting, h.pin, h.fuse⟩
  have hoff : (requestDomain 99 s).power.domainsOn.getLsbD 99 = false := by
    rw [heq]
    exact hon
  exact bootAdvance_eq (bootStep_asks h hask) (bootStep_waits hone hasked hoff)

end

/-- The acknowledge of a dropped request changes nothing else while no reset is under way. -/
theorem restart_running {s : State} (hb : s.boot.state ≠ .booting) (hres : s.boot.resetting = false) : restart s = s := by
  rw [restart, if_neg (by simp [hres])]
  exact bootAdvance_settled hb

/-- The state in which a reset of the block is over and no domain is on. -/
def resetOver (s : State) : State :=
  { s with boot := { s.boot with resetting := false }, power := { s.power with domainsOn := 0 } }

/-- The last acknowledge of such a reset restarts the loader, which begins with its request. -/
theorem domainAcked_last {d : Nat} {s : State} (hb : s.boot.state = .booting) (hstep : s.boot.step = 1)
    (hres : s.boot.resetting = true) (hpin : s.pins.resetLow = false) (hfuse : s.fuse.reading = false)
    (hreq : s.power.requests = 0) (hwant : s.power.wanted = []) (hlast : clearBit s.power.domainsOn d = 0) :
    domainAcked d false s = requestDomain 99 (resetOver s) := by
  have hoff : s.power.requests.getLsbD d = false := by
    rw [hreq]
    exact BitVec.getLsbD_zero
  have hone : AtStepOne (resetOver s) := ⟨hb, hstep, rfl, hpin, hfuse⟩
  have hask : asked (resetOver s) 99 = false := by simp [asked, bitAt, resetOver, hreq, hwant]
  have hrestart : restart (shownOff d s) = bootAdvance (resetOver s) := by
    rw [restart, if_pos (by simp [shownOff, hlast, hres, hpin]), shownOff, hlast]
    rfl
  rw [domainAcked_fall hoff, hrestart, bootAdvance_stepOne hone hask BitVec.getLsbD_zero]

end Sys2Proof.Machine

open Sys2Proof Sys2Proof.Machine

/-- Settles O40: an acknowledge either shows its domain on, or starts what returns from reset, or is a failure, which retires the
domain's units and leaves its request dropped whatever their retirement powers up. -/
theorem powerDomains : Obligations.PowerDomains := by
  unfold Obligations.PowerDomains
  intro s d hd p running dropped fails
  have failed {i : Instr} (hr : running) (hi : exec i s = .next (pump (domainFailed d s))) : fails i := by
    obtain ⟨hout, hunits⟩ := domainFailed_out hd hr
    exact ⟨_, hi, hout.request, hout.on, hout.failures, hunits⟩
  rw [exec_domainPowerDown hd, exec_domainAckTimeout hd, exec_domainAck hd, exec_domainAck hd]
  refine ⟨fun hr hreq hneed hbusy => ?down, fun h => ?kept, fun hreq => ?unasked, fun hr hreq hdown => ?rise,
    fun hr hreq hdown hlt h6 => ?pond, fun hr hreq hdown hlt h45 => ?cores, fun hr hreq hon => ?missing,
    fun hr hreq hres => ?fall, fun hb hstep hres hpin hreq hwant hbrown hfuse hlast => ?last, fun hr hreq hon ht => ?late,
    fun h => ?early⟩
  case down => rw [powerDown_idle hd ((running_iff s).mpr hr) hreq hneed hbusy]; rfl
  case kept => rw [powerDown_kept (by rwa [running_iff])]
  case unasked => rw [domainAcked_unasked hreq]
  case rise => rw [domainAcked_rise hreq hdown (not_booting_of_running hr)]; rfl
  case pond =>
    rw [domainAcked_return hreq hdown (not_booting_of_running hr), domainBack_pond hlt h6]
    exact ⟨_, rfl, rfl, fun x => mem_clearPoison_pond (d / 9) _ x, fun a => get_memZero_any s.pond _ _ a⟩
  case cores =>
    rw [domainAcked_return hreq hdown (not_booting_of_running hr), domainBack_cores hlt h45]
    exact ⟨_, rfl, rfl, fun c hc => coreCache_coresBack _ c _ hc⟩
  case missing => exact failed hr (by rw [exec_domainAck hd, domainAcked_missing hreq hon])
  case fall => rw [domainAcked_fall hreq, restart_running (s := shownOff d s) (not_booting_of_running hr) hres]; rfl
  case last => rw [domainAcked_last hb hstep hres hpin hfuse hreq hwant hlast]; rfl
  case late => exact failed hr (by rw [exec_domainAckTimeout hd, domainLate_missing hreq hon ht])
  case early => rw [domainLate_kept h]
end

section
/-! SUPPORT. Clocks in a brownout hold and under the power and thermal limits (R28, R35, R389, R390), and capacities that fall
and rise (R254, R265, R266, R335). -/

namespace Sys2Proof.Machine

/-! ### Clocks -/

/-- A change to each fold of a list changes the folds alone. -/
theorem forEach_modFold_eq (l : List Nat) (g : Nat → Fold → Fold) (s : State) :
    ∃ folds, forEach l (fun n s => modFold s n (g n)) s = { s with folds := folds } := by
  induction l generalizing s with
  | nil => exact ⟨s.folds, rfl⟩
  | cons n l ih =>
    obtain ⟨folds, h⟩ := ih (modFold s n (g n))
    exact ⟨folds, by rw [forEach_cons, h]; rfl⟩

theorem setClkArr_eq (mhz : Nat) (s : State) : ∃ folds gauges, setClkArr mhz s =
    { s with folds := folds, gauges := gauges, power := { s.power with clkArr := mhz } } := by
  unfold setClkArr
  split
  next h => exact ⟨s.folds, s.gauges, by rw [← h]⟩
  next =>
    dsimp only
    obtain ⟨folds, h⟩ := forEach_modFold_eq (s.folds.map fun p => p.1)
      (fun _ f => { f with stmt := { f.stmt with
        cycles := f.stmt.cycles + (sinceBoundary s : Int) * ((s.power.clkArr : Int) - mhz) } }) s
    rw [h]
    exact ⟨folds, _, rfl⟩

theorem setClkHerd_eq (mhz : Nat) (s : State) : ∃ gauges, setClkHerd mhz s =
    { s with gauges := gauges, power := { s.power with clkHerd := mhz } } := by
  unfold setClkHerd
  split
  next h => exact ⟨s.gauges, by rw [← h]⟩
  next => exact ⟨_, rfl⟩

/-- The lower of each pair of clocks is put in force; statements of folds and gauges follow, and nothing else. -/
theorem applyClocks_eq (s : State) : ∃ folds gauges, applyClocks s = { s with
    folds := folds, gauges := gauges
    power := { s.power with
      clkArr := min s.power.powArr s.power.heatArr, clkHerd := min s.power.powHerd s.power.heatHerd } } := by
  obtain ⟨folds, gauges, ha⟩ := setClkArr_eq (min s.power.powArr s.power.heatArr) s
  obtain ⟨gauges', hh⟩ := setClkHerd_eq (min s.power.powHerd s.power.heatHerd) (setClkArr (min s.power.powArr s.power.heatArr) s)
  refine ⟨folds, gauges', ?_⟩
  rw [applyClocks, hh, ha]

theorem heatLowest_eq (s : State) : ∃ folds gauges, heatLowest s = { s with
    folds := folds, gauges := gauges
    power := { s.power with
      heatArr := 400, heatHerd := 500, coolFor := 0
      clkArr := min s.power.powArr 400, clkHerd := min s.power.powHerd 500 } } :=
  applyClocks_eq _

theorem lowestClocks_eq (s : State) : ∃ folds gauges, lowestClocks s = { s with
    folds := folds, gauges := gauges
    power := { s.power with
      powArr := 400, powHerd := 500, underLimit := 0, heatArr := 400, heatHerd := 500, coolFor := 0
      clkArr := 400, clkHerd := 500 } } :=
  heatLowest_eq _

/-! ### Brownout holds -/

/-- Events of PWR_WARN_IN that a source of a warning counts. -/
def pinWarnings (src : RailSource) : W32 := match src with | .pwrWarn => 1 | .group _ => 0

/-- The state in which a warning's event is counted. -/
def warnCounted (src : RailSource) (s : State) : State :=
  { s with power := { s.power with pwrWarnEvents := s.power.pwrWarnEvents + pinWarnings src } }

section
variable {src : RailSource} {s : State}

theorem exec_railWarning (h : ∀ i, src = .group i → i < 8) :
    exec (.railWarning src) s = .next (if s.pins.resetLow then s else brownoutEnter src s) := by
  refine need_of_true ?_
  cases src with
  | group i => exact decide_eq_true (h i rfl)
  | pwrWarn => rfl

theorem brownoutEnter_eq : brownoutEnter src s = if s.power.brownout then warnCounted src s else
    lowestClocks (raiseVector s.power.warnVector { warnCounted src s with
      power := { (warnCounted src s).power with brownout := true, brownouts := s.power.brownouts + 1 },
      boot := { s.boot with hold := setBit s.boot.hold 0 } }) := by
  cases src with
  | group i =>
    have hnone : warnCounted (.group i) s = s := by simp [warnCounted, pinWarnings]
    rw [hnone]
    rfl
  | pwrWarn => rfl

/-- A warning outside a hold begins one: both limits' clocks at their lowest, the hold counted, its vector raised. -/
theorem brownoutEnter_begins (hfree : s.power.brownout = false) :
    (brownoutEnter src s).power = { s.power with
      pwrWarnEvents := s.power.pwrWarnEvents + pinWarnings src, brownout := true, brownouts := s.power.brownouts + 1
      underLimit := 0, coolFor := 0, powArr := 400, powHerd := 500, heatArr := 400, heatHerd := 500
      clkArr := 400, clkHerd := 500 } ∧
    (brownoutEnter src s).boot = { s.boot with hold := setBit s.boot.hold 0 } ∧
    (brownoutEnter src s).hostPort = (raiseVector s.power.warnVector s).hostPort := by
  rw [brownoutEnter_eq, if_neg (ne_true_of_eq_false hfree)]
  generalize hs1 : ({ warnCounted src s with power := _, boot := _ } : State) = s1
  obtain ⟨folds, gauges, hlow⟩ := lowestClocks_eq (raiseVector s.power.warnVector s1)
  obtain ⟨hpow, -, hboot⟩ := raiseVector_keepsPower s.power.warnVector s1
  have hport : s1.hostPort = s.hostPort := by rw [← hs1]; rfl
  rw [hlow]
  refine ⟨?_, ?_, raiseVector_hostPort_congr _ hport⟩
  · rw [hpow, ← hs1]
    rfl
  · rw [hboot, ← hs1]

end

/-! ### The power and thermal limits -/

/-- A limit's clocks after an update, and the updates that allowed a step up. -/
theorem governed_eq (down up : Bool) (count arr herd : Nat) :
    ((governed down up count (arr, herd)).1.1, (governed down up count (arr, herd)).1.2, (governed down up count (arr, herd)).2) =
      if down then
        (if 400 < arr then (arr - 100, herd, 0) else if 500 < herd then (arr, herd - 125, 0) else (arr, herd, 0))
      else if up then
        (if count < 9 then (arr, herd, count + 1)
          else if herd < 2000 then (arr, herd + 125, 0) else if arr < 1600 then (arr + 100, herd, 0) else (arr, herd, 0))
      else (arr, herd, 0) := by
  unfold governed stepDown stepUp
  split
  · split
    · rfl
    · split <;> rfl
  split
  · by_cases hc : count < 9
    · rw [if_neg (by omega), if_pos hc]
    · rw [if_pos (by omega), if_neg hc]
      dsimp only
      split
      · rfl
      · split <;> rfl
  · rfl

/-- Clocks at their minimum stay there. -/
theorem governed_lowest (up : Bool) (count : Nat) : governed true up count (400, 500) = ((400, 500), 0) := rfl

section
variable (temp : Nat) (s : State)

/-- An update enters the throttle range. -/
abbrev entersThrottle : Prop := s.power.throttle.toNat < temp ∧ s.power.aboveThrottle = false

/-- An update enters the critical range. -/
abbrev entersCritical : Prop := s.power.critical.toNat < temp ∧ s.power.aboveCritical = false

/-- The state in which the temperature and an entry into the throttle range are noted. -/
def tempNoted : State :=
  let s1 := { s with power := { s.power with
    tNow := BitVec.ofNat 16 temp, aboveThrottle := decide (s.power.throttle.toNat < temp),
    aboveCritical := decide (s.power.critical.toNat < temp) } }
  if entersThrottle temp s then
    raiseVector s.power.thermalVector { s1 with power := { s1.power with throttleEvents := s1.power.throttleEvents + 1 } }
  else s1

/-- The state in which an entry into the critical range is counted and held. -/
def criticalCounted : State := { tempNoted temp s with
  power := { (tempNoted temp s).power with criticalEvents := (tempNoted temp s).power.criticalEvents + 1 },
  boot := { (tempNoted temp s).boot with hold := setBit (tempNoted temp s).boot.hold 1 } }

/-- Then the thermal clocks fall to their lowest, and a record is made. -/
def criticalNoted : State :=
  raiseFault { cls := 4, detail := 0x81 } (heatLowest (raiseVector s.power.thermalVector (criticalCounted temp s)))

theorem thermalEntry_eq : thermalEntry temp s =
    if entersCritical temp s then criticalNoted temp s
    else if ¬ s.power.critical.toNat < temp then
      { tempNoted temp s with boot := { (tempNoted temp s).boot with hold := clearBit (tempNoted temp s).boot.hold 1 } }
    else tempNoted temp s := by
  simp only [thermalEntry, criticalNoted, criticalCounted, tempNoted, entersThrottle, entersCritical, Bool.and_eq_true,
    decide_eq_true_eq, Bool.not_eq_true', decide_eq_false_iff_not]

theorem tempNoted_power : (tempNoted temp s).power = { s.power with
    tNow := BitVec.ofNat 16 temp, aboveThrottle := decide (s.power.throttle.toNat < temp),
    aboveCritical := decide (s.power.critical.toNat < temp),
    throttleEvents := s.power.throttleEvents + if entersThrottle temp s then 1 else 0 } := by
  unfold tempNoted
  dsimp only
  split
  · exact (raiseVector_keepsPower _ _).1
  · rw [add_zero]

theorem tempNoted_boot : (tempNoted temp s).boot = s.boot := by
  unfold tempNoted
  dsimp only
  split
  · exact (raiseVector_keepsPower _ _).2.2
  · rfl

theorem criticalNoted_power : ∃ arr herd, (criticalNoted temp s).power = { (tempNoted temp s).power with
    criticalEvents := s.power.criticalEvents + 1, heatArr := 400, heatHerd := 500, coolFor := 0,
    clkArr := arr, clkHerd := herd } := by
  obtain ⟨folds, gauges, hlow⟩ := heatLowest_eq (raiseVector s.power.thermalVector (criticalCounted temp s))
  rw [criticalNoted, (raiseFault_keepsPower rfl _).1, hlow, (raiseVector_keepsPower _ _).1, criticalCounted, tempNoted_power]
  exact ⟨_, _, rfl⟩

theorem criticalNoted_boot : (criticalNoted temp s).boot = { s.boot with hold := setBit s.boot.hold 1 } := by
  obtain ⟨folds, gauges, hlow⟩ := heatLowest_eq (raiseVector s.power.thermalVector (criticalCounted temp s))
  rw [criticalNoted, (raiseFault_keepsPower rfl _).2.2, hlow, (raiseVector_keepsPower _ _).2.2, criticalCounted, tempNoted_boot]

/-- What the thermal part of an update leaves of power: the temperature, the ranges and their entries, and the thermal limit's
clocks at their lowest on an entry into the critical range. -/
theorem thermalEntry_power : ∃ arr herd, (thermalEntry temp s).power = { s.power with
    tNow := BitVec.ofNat 16 temp, aboveThrottle := decide (s.power.throttle.toNat < temp),
    aboveCritical := decide (s.power.critical.toNat < temp),
    throttleEvents := s.power.throttleEvents + if entersThrottle temp s then 1 else 0
    criticalEvents := s.power.criticalEvents + if entersCritical temp s then 1 else 0
    heatArr := if entersCritical temp s then 400 else s.power.heatArr
    heatHerd := if entersCritical temp s then 500 else s.power.heatHerd
    coolFor := if entersCritical temp s then 0 else s.power.coolFor
    clkArr := arr, clkHerd := herd } := by
  rw [thermalEntry_eq]
  by_cases hc : entersCritical temp s
  · obtain ⟨arr, herd, h⟩ := criticalNoted_power temp s
    refine ⟨arr, herd, ?_⟩
    rw [if_pos hc, h, tempNoted_power]
    simp only [if_pos hc]
  · refine ⟨s.power.clkArr, s.power.clkHerd, ?_⟩
    simp only [if_neg hc, add_zero]
    split
    · exact tempNoted_power temp s
    · exact tempNoted_power temp s

theorem thermalEntry_hold_entered (hc : entersCritical temp s) : (thermalEntry temp s).boot.hold.getLsbD 1 = true := by
  rw [thermalEntry_eq, if_pos hc, criticalNoted_boot]
  exact (getLsbD_setBit s.boot.hold 1 1).trans (by simp)

theorem thermalEntry_hold_below (hc : ¬ s.power.critical.toNat < temp) : (thermalEntry temp s).boot.hold.getLsbD 1 = false := by
  rw [thermalEntry_eq, if_neg fun h => hc h.1, if_pos hc]
  exact (getLsbD_clearBit _ 1 1).trans (by simp)

end

section
variable (p : Power) (estimate temp : Nat)

/-- The power limit is passed: from when an estimate exceeds it until one falls below it (R390). -/
abbrev passesLimit : Prop := p.powerLimit.toNat < estimate ∨ (p.overPower = true ∧ estimate = p.powerLimit.toNat)

/-- The clocks that the power limit leaves, with the updates counted. -/
def limitClocks : (Nat × Nat) × Nat :=
  governed (decide (passesLimit p estimate)) (decide (estimate * 20 ≤ p.powerLimit.toNat * 19)) p.underLimit (p.powArr, p.powHerd)

/-- The clocks that the thermal limit leaves, with the updates counted. -/
def heatClocks : (Nat × Nat) × Nat :=
  governed (decide (p.throttle.toNat < temp)) (decide (temp + 50 ≤ p.throttle.toNat)) p.coolFor (p.heatArr, p.heatHerd)

/-- Power after the limits' part of an update in a brownout hold: the counts start anew. -/
def heldPower : Power := { p with overPower := decide (passesLimit p estimate), underLimit := 0, coolFor := 0 }

/-- Power after the limits' part of an update outside a hold: the lower clocks apply. -/
def governedPower : Power := { p with
  overPower := decide (passesLimit p estimate)
  powArr := (limitClocks p estimate).1.1, powHerd := (limitClocks p estimate).1.2, underLimit := (limitClocks p estimate).2
  heatArr := (heatClocks p temp).1.1, heatHerd := (heatClocks p temp).1.2, coolFor := (heatClocks p temp).2
  clkArr := min (limitClocks p estimate).1.1 (heatClocks p temp).1.1
  clkHerd := min (limitClocks p estimate).1.2 (heatClocks p temp).1.2 }

theorem passesLimit_bool : (decide (p.powerLimit.toNat < estimate) || (p.overPower && estimate == p.powerLimit.toNat)) =
    decide (passesLimit p estimate) := by
  rw [Bool.eq_iff_iff]
  simp

end

theorem powerUpdate_held {estimate temp : Nat} {s : State} (hb : (thermalEntry temp s).power.brownout = true) :
    (powerUpdate estimate temp s).power = heldPower (thermalEntry temp s).power estimate ∧
      (powerUpdate estimate temp s).boot = (thermalEntry temp s).boot := by
  unfold powerUpdate
  dsimp only
  rw [if_pos hb, passesLimit_bool]
  exact ⟨rfl, rfl⟩

theorem powerUpdate_governed {estimate temp : Nat} {s : State} (hb : (thermalEntry temp s).power.brownout = false) :
    (powerUpdate estimate temp s).power = governedPower (thermalEntry temp s).power estimate temp ∧
      (powerUpdate estimate temp s).boot = (thermalEntry temp s).boot := by
  unfold powerUpdate
  dsimp only
  rw [if_neg (ne_true_of_eq_false hb), passesLimit_bool]
  generalize hs : ({ thermalEntry temp s with power := _ } : State) = s1
  obtain ⟨folds, gauges, h⟩ := applyClocks_eq s1
  rw [h, ← hs]
  exact ⟨rfl, rfl⟩

section
variable (estimate temp : Nat) (s : State)

/-- What an update notes, in a hold and outside one. -/
theorem powerUpdate_notes :
    let q := (powerUpdate estimate temp s).power
    q.tNow = BitVec.ofNat 16 temp ∧ q.aboveThrottle = decide (s.power.throttle.toNat < temp) ∧
      q.aboveCritical = decide (s.power.critical.toNat < temp) ∧
      q.throttleEvents = s.power.throttleEvents + (if entersThrottle temp s then 1 else 0) ∧
      q.criticalEvents = s.power.criticalEvents + (if entersCritical temp s then 1 else 0) ∧
      q.overPower = decide (passesLimit s.power estimate) := by
  obtain ⟨arr, herd, hq⟩ := thermalEntry_power temp s
  cases hb : (thermalEntry temp s).power.brownout with
  | true =>
    rw [(powerUpdate_held hb).1, heldPower, hq]
    exact ⟨rfl, rfl, rfl, rfl, rfl, rfl⟩
  | false =>
    rw [(powerUpdate_governed hb).1, governedPower, hq]
    exact ⟨rfl, rfl, rfl, rfl, rfl, rfl⟩

theorem powerUpdate_boot : (powerUpdate estimate temp s).boot = (thermalEntry temp s).boot := by
  cases hb : (thermalEntry temp s).power.brownout with
  | true => exact (powerUpdate_held hb).2
  | false => exact (powerUpdate_governed hb).2

/-- An entry into the critical range puts the thermal clocks to their lowest, and that update leaves them there. -/
theorem powerUpdate_entered (hrange : s.power.throttle.toNat ≤ s.power.critical.toNat) (hc : entersCritical temp s) :
    (powerUpdate estimate temp s).power.heatArr = 400 ∧ (powerUpdate estimate temp s).power.heatHerd = 500 := by
  obtain ⟨arr, herd, hq⟩ := thermalEntry_power temp s
  simp only [if_pos hc] at hq
  cases hb : (thermalEntry temp s).power.brownout with
  | true =>
    rw [(powerUpdate_held hb).1, heldPower, hq]
    exact ⟨rfl, rfl⟩
  | false =>
    have hhot : decide (s.power.throttle.toNat < temp) = true := decide_eq_true (lt_of_le_of_lt hrange hc.1)
    have hheat : heatClocks (thermalEntry temp s).power temp = ((400, 500), 0) := by
      rw [heatClocks, hq]
      dsimp only
      rw [hhot, governed_lowest]
    rw [(powerUpdate_governed hb).1, governedPower, hheat]
    exact ⟨rfl, rfl⟩

/-- Outside a hold the limits' clocks are stepped from where they stood. -/
theorem powerUpdate_limitClocks : limitClocks (thermalEntry temp s).power estimate = limitClocks s.power estimate := by
  obtain ⟨arr, herd, hq⟩ := thermalEntry_power temp s
  rw [hq]
  rfl

theorem powerUpdate_heatClocks (hc : ¬ entersCritical temp s) :
    heatClocks (thermalEntry temp s).power temp = heatClocks s.power temp := by
  obtain ⟨arr, herd, hq⟩ := thermalEntry_power temp s
  simp only [if_neg hc] at hq
  rw [hq]
  rfl

end

/-- A row of an estimate that lies within t_shutdown updates power (R390). -/
theorem exec_powerEstimateUpdate {estimate temp : Nat} {s : State} (h : temp ≤ s.power.shutdown.toNat) :
    exec (.powerEstimateUpdate estimate temp) s = .next (powerUpdate estimate temp s) :=
  congrArg Host.Outcome.next (if_neg (by omega))

/-! ### Capacities -/

/-- A change of a capacity is counted, and a rise is remembered until the next boundary. -/
theorem capacityEvent_weirG (k old : Nat) (s : State) : ∃ risen, (capacityEvent k old s).weirG = { s.weirG with
    capacityEvents := s.weirG.capacityEvents + if capacityNow s k = old then 0 else 1
    risen := risen } := by
  unfold capacityEvent
  dsimp only
  by_cases h : capacityNow s k = old
  · simp only [if_pos h, add_zero]
    exact ⟨_, rfl⟩
  · simp only [if_neg h]
    split
    · rw [demote_eq, raiseVector_eq]
      exact ⟨_, rfl⟩
    · rw [raiseVector_eq]
      exact ⟨_, rfl⟩

/-- Whether a capacity has changed is told from its number or from its word. -/
theorem count_toNat_eq {n : Nat} (x y : BitVec n) :
    (if x.toNat = y.toNat then (0 : W32) else 1) = if x == y then 0 else 1 := by
  simp only [← BitVec.toNat_inj, beq_iff_eq]

/-- The capacity of a meter's class or port set to a word. -/
def putCapacity (k v : Nat) (g : WeirG) : WeirG :=
  match k with
  | 0 => { g with stackCapNow := BitVec.ofNat 32 v }
  | 1 => { g with farCapNow := BitVec.ofNat 32 v }
  | 2 => { g with linkCapNow0 := BitVec.ofNat 32 v }
  | 4 => { g with linkCapNow1 := BitVec.ofNat 32 v }
  | _ => { g with hostCapNow := BitVec.ofNat 32 v }

theorem setCapacity_weirG (k v : Nat) (s : State) : ∃ risen, (setCapacity k v s).weirG = { putCapacity k v s.weirG with
    capacityEvents := (putCapacity k v s.weirG).capacityEvents +
      if capacityNow { s with weirG := putCapacity k v s.weirG } k = capacityNow s k then 0 else 1
    risen := risen } := by
  obtain ⟨risen, h⟩ := capacityEvent_weirG k (capacityNow s k) { s with weirG := putCapacity k v s.weirG }
  exact ⟨risen, h⟩

/-- The payload capacity of a port, as a word. -/
theorem linkCapOf_word (x : Port) :
    BitVec.ofNat 32 (linkCapOf x) = if x.state = 3 then (200000 : W32) else if x.state = 4 then 100000 else 0 := by
  unfold linkCapOf
  split
  · rfl
  · split <;> rfl

theorem exec_capacityDrop (c : CapSource) (s : State) : exec (.capacityDrop c) s = .next (capacityDrop c s) := rfl
theorem exec_capacityRise (rate : W32) (s : State) : exec (.capacityRise rate) s = .next (capacityRise rate s) := rfl

/-! ### The end of a hold -/

theorem exec_brownoutRelease (s : State) :
    exec .brownoutRelease s = .next (bootAdvance (raiseDue (brownoutLeave s))) := rfl

/-- Raising a request that is due leaves the boot state. -/
theorem raiseDue_boot (s : State) : (raiseDue s).boot = s.boot := by
  rcases raiseDue_cases s with h | ⟨w, -, h⟩
  · rw [h]
  · rw [h]

/-- The end of a hold leaves whether the block is in bring-up. -/
theorem brownoutLeave_bootState (s : State) : (brownoutLeave s).boot.state = s.boot.state := by
  unfold brownoutLeave
  split <;> rfl

end Sys2Proof.Machine

open Sys2Proof Sys2Proof.Machine

/-- Settles O41: an update is its thermal part and then each limit's step; a capacity's change is read off its new value. -/
theorem clocksAndCapacities : Obligations.ClocksAndCapacities := by
  unfold Obligations.ClocksAndCapacities
  intro s p counted
  refine ⟨fun src hsrc => ?rails, fun hb => ?release, fun estimate temp hshut => ?shutdown,
    fun estimate temp hshut htemp hrange => ?limits, ?capacities⟩
  case rails =>
    intro warned
    have hwarned : warned = pinWarnings src := by cases src <;> rfl
    rw [exec_railWarning hsrc, hwarned]
    refine ⟨fun hlow => by rw [if_pos hlow], fun hhigh hhold => ?_, fun hhigh hfree => ?_⟩
    · rw [if_neg (ne_true_of_eq_false hhigh), brownoutEnter_eq, if_pos hhold]
      rfl
    · rw [if_neg (ne_true_of_eq_false hhigh)]
      exact ⟨_, rfl, brownoutEnter_begins hfree⟩
  case release =>
    have hboot : (raiseDue (brownoutLeave s)).boot.state ≠ .booting := by
      rw [raiseDue_boot, brownoutLeave_bootState]
      exact hb
    rw [exec_brownoutRelease, bootAdvance_settled hboot]
    rfl
  case shutdown => exact congrArg Host.Outcome.next (if_pos hshut)
  case limits =>
    obtain ⟨ht, haT, haC, heT, heC, hover⟩ := powerUpdate_notes estimate temp s
    have hboot := powerUpdate_boot estimate temp s
    refine ⟨_, exec_powerEstimateUpdate hshut, ?_, ?_⟩
    · rw [ht, BitVec.toNat_ofNat, Nat.mod_eq_of_lt htemp]
    intro hotT hotC entered limit step q
    refine ⟨by rw [haT, decide_eq_true_eq], by rw [haC, decide_eq_true_eq], heT, heC, fun hc => ?_, fun hc => ?_,
      by rw [hover, decide_eq_true_eq], fun hbrown => ?_⟩
    · obtain ⟨harr, hherd⟩ := powerUpdate_entered estimate temp s hrange hc
      exact ⟨harr, hherd, by rw [hboot]; exact thermalEntry_hold_entered temp s hc⟩
    · rw [hboot]
      exact thermalEntry_hold_below temp s hc
    · have hfree : (thermalEntry temp s).power.brownout = false := by
        obtain ⟨arr, herd, hq⟩ := thermalEntry_power temp s
        rw [hq]
        exact hbrown
      have hgov : q = governedPower (thermalEntry temp s).power estimate temp := (powerUpdate_governed hfree).1
      rw [hgov]
      refine ⟨rfl, rfl, ?_, fun hc => ?_⟩
      · rw [governedPower, powerUpdate_limitClocks]
        exact governed_eq _ _ _ _ _
      · rw [governedPower, powerUpdate_heatClocks temp s hc]
        exact governed_eq _ _ _ _ _
  case capacities =>
    intro g far stack farTo stackTo rate
    have told {t : State} {x y : W32}
        (ht : t.weirG.capacityEvents = s.weirG.capacityEvents + if x.toNat = y.toNat then 0 else 1) : counted t (x == y) :=
      ht.trans (congrArg _ (count_toNat_eq x y))
    have far_to {i : Instr} {v : Nat} (r : W32)
        (hi : exec i s = .next (setCapacity 1 v { s with weirG := { s.weirG with farRate := r } })) : farTo i v r.toNat := by
      obtain ⟨risen, h⟩ := setCapacity_weirG 1 v { s with weirG := { s.weirG with farRate := r } }
      exact ⟨_, hi, congrArg WeirG.farCapNow h, congrArg (fun g => g.farRate.toNat) h, (congrArg WeirG.stackCapNow h :),
        told (congrArg WeirG.capacityEvents h)⟩
    have stack_to {i : Instr} {v : Nat} (hi : exec i s = .next (setCapacity 0 v s)) : stackTo i v := by
      obtain ⟨risen, h⟩ := setCapacity_weirG 0 v s
      exact ⟨_, hi, congrArg WeirG.stackCapNow h, (congrArg WeirG.farCapNow h :), told (congrArg WeirG.capacityEvents h)⟩
    have hmin (r : W32) : (BitVec.ofNat 32 (min s.weirG.farRate.toNat r.toNat)).toNat = min rate r.toNat := by
      rw [BitVec.toNat_ofNat]
      exact Nat.mod_eq_of_lt (lt_of_le_of_lt (Nat.min_le_right _ _) r.isLt)
    refine ⟨far_to s.weirG.farRate rfl, stack_to rfl, stack_to rfl, fun r => ?_, fun port x4 hport => ?_, fun r hr => ?_,
      fun r hr => ?_⟩
    · rw [← hmin r]
      exact far_to _ rfl
    · rw [← linkCapOf_word]
      refine ⟨_, exec_capacityDrop _ s, ?_⟩
      interval_cases port
      · obtain ⟨risen, h⟩ := setCapacity_weirG 2 (linkCapOf (portAt s 0)) s
        exact ⟨congrArg WeirG.linkCapNow0 h, told (congrArg WeirG.capacityEvents h)⟩
      · obtain ⟨risen, h⟩ := setCapacity_weirG 4 (linkCapOf (portAt s 1)) s
        exact ⟨congrArg WeirG.linkCapNow1 h, told (congrArg WeirG.capacityEvents h)⟩
    · refine far_to r ?_
      rw [exec_capacityRise, capacityRise, if_pos hr]
      rfl
    · rw [exec_capacityRise, capacityRise, if_neg (Nat.not_lt.mpr hr)]
end

section
/-! SUPPORT. Descriptors that are accepted (R177): what acceptance changes, and that a TILE_TASK accepted in a block at rest is only
accepted. -/

namespace Sys2Proof.Machine

/-! ### What a write leaves in a table -/

section
variable {α : Type} {a : Nat} {x : α} {p : Nat × α}

theorem Tab.mem_of_mem_erase {m : Tab α} (h : p ∈ Tab.erase m a) : p ∈ m := by
  induction m with
  | nil => exact h
  | cons c m ih =>
    obtain ⟨k, v⟩ := c
    unfold Tab.erase at h
    split at h
    · exact List.mem_cons_of_mem _ h
    · rcases List.mem_cons.mp h with h | h
      · exact List.mem_cons.mpr (.inl h)
      · exact List.mem_cons_of_mem _ (ih h)

theorem Tab.mem_of_mem_put {m : Tab α} (h : p ∈ Tab.put m a x) : p = (a, x) ∨ p ∈ m := by
  induction m with
  | nil => exact .inl (List.mem_singleton.mp h)
  | cons c m ih =>
    obtain ⟨k, v⟩ := c
    unfold Tab.put at h
    split at h
    · exact List.mem_cons.mp h
    split at h
    next hk =>
      rcases List.mem_cons.mp h with h | h
      · exact .inl (by rw [h, hk])
      · exact .inr (List.mem_cons_of_mem _ h)
    next =>
      rcases List.mem_cons.mp h with h | h
      · exact .inr (List.mem_cons.mpr (.inl h))
      · exact (ih h).imp_right (List.mem_cons_of_mem _)

/-- A test that every entry of a table passes is passed by every entry once a value that passes it is written. -/
theorem Tab.all_set [DecidableEq α] {d : α} {q : α → Bool} {m : Tab α} (h : (m.all fun p => q p.2) = true) (hx : q x = true) :
    ((Tab.set d m a x).all fun p => q p.2) = true := by
  rw [List.all_eq_true] at h ⊢
  intro p hp
  unfold Tab.set at hp
  split at hp
  · exact h p (Tab.mem_of_mem_erase hp)
  · rcases Tab.mem_of_mem_put hp with hp | hp
    · rw [hp]
      exact hx
    · exact h p hp

end

/-! ### A descriptor that is accepted (R177) -/

section
variable {q : Nat} {d : BitVec 512} {s : State}

theorem acceptOne_taken (h : accepts q d s = true) (h5 : opcodeOf d ≠ 5) : acceptOne q d s = taken q d s := by
  simp only [accepts, Bool.and_eq_true, Bool.not_eq_true', Bool.and_eq_false_iff, bne_eq_false_iff_eq, beq_iff_eq] at h
  obtain ⟨⟨⟨⟨⟨⟨hread, hflock⟩, hclosed⟩, hbind⟩, hpriv⟩, hop⟩, hseq⟩ := h
  have hflock' : ¬ (flockClosed s (queueAt s q).tag = true ∧ q ≠ 0) := by
    rintro ⟨hc, hq⟩
    exact hflock.elim hq fun h => Bool.noConfusion (h.symm.trans hc)
  have hpriv' : ¬ (privileged (opcodeOf d) = true ∧ q ≠ 0) := by
    rintro ⟨hc, hq⟩
    exact hpriv.elim (fun h => Bool.noConfusion (h.symm.trans hc)) hq
  unfold acceptOne taken headPassed
  simp only [hread, hflock', hclosed, hbind, hpriv', hop, hseq, h5, Bool.not_true, Bool.false_eq_true, if_false, BitVec.sub_self,
    BitVec.toNat_zero, ne_eq, not_true_eq_false]

/-- Between two states only what a queue's reading may change differs: queues, the list of commands and what counts them, host memory
with its errors, and what the host port sends or keeps. -/
def sameButIntake (s t : State) : Prop := t = { s with
  queues := t.queues, cmds := t.cmds, nextUid := t.nextUid, journal := t.journal, free := t.free, host := t.host, poison := t.poison
  hostPort := { s.hostPort with tlps := t.hostPort.tlps, posted := t.hostPort.posted } }

theorem hostWrite_sameButIntake (a : Nat) (bs : List Byte) (s : State) : sameButIntake s (hostWrite a bs s) := by
  unfold hostWrite
  split <;> rfl

theorem hostWrite_queues (a : Nat) (bs : List Byte) (s : State) : (hostWrite a bs s).queues = s.queues := by
  unfold hostWrite
  split <;> rfl

theorem hostWrite_cmds (a : Nat) (bs : List Byte) (s : State) : (hostWrite a bs s).cmds = s.cmds := by
  unfold hostWrite
  split <;> rfl

/-- A queue whose head has passed one descriptor. -/
def advanced (x : Queue) : Queue := { x with sqHead := x.sqHead + 1, batch := x.batch - 1 }

theorem headPassed_sameButIntake (q : Nat) (s : State) : sameButIntake s (headPassed q s) := by
  unfold headPassed
  dsimp only
  split
  · rfl
  · unfold sameButIntake
    rw [hostWrite_sameButIntake]
    rfl

theorem headPassed_queues (q : Nat) (s : State) :
    (headPassed q s).queues = Tab.set Queue.reset s.queues q (advanced (queueAt s q)) := by
  unfold headPassed
  dsimp only
  split
  · rfl
  · rw [hostWrite_queues]
    rfl

theorem headPassed_cmds (q : Nat) (s : State) : (headPassed q s).cmds = s.cmds := by
  unfold headPassed
  dsimp only
  split
  · rfl
  · rw [hostWrite_cmds]
    rfl

theorem taken_sameButIntake : sameButIntake s (taken q d s) := by
  unfold sameButIntake taken admitCmd
  rw [headPassed_sameButIntake q s]
  rfl

theorem taken_cmds : (taken q d s).cmds = s.cmds ++ [accepted q d s] := by
  rw [← headPassed_cmds q s]
  rfl

/-- Acceptance leaves no queue waiting for READY. -/
theorem taken_queues (hq : (s.queues.all fun p => p.2.state != .notReady) = true) :
    ((taken q d s).queues.all fun p => p.2.state != .notReady) = true := by
  have hstate (m : Tab Queue) (hm : (m.all fun p => p.2.state != .notReady) = true) :
      ((Tab.get Queue.reset m q).state != .notReady) = true :=
    Tab.get_of_all Queue.reset (fun x => x.state != .notReady) m q (by decide) hm
  have hpassed : ((headPassed q s).queues.all fun p => p.2.state != .notReady) = true := by
    rw [headPassed_queues]
    exact Tab.all_set (q := fun x : Queue => x.state != .notReady) hq (hstate _ hq)
  exact Tab.all_set (q := fun x : Queue => x.state != .notReady) hpassed (hstate _ hpassed)

end

/-! ### A tile task that has been accepted and nothing else -/

/-- No context is boosted where none waits on a semaphore (R212). -/
theorem boostLinks_unwaited {s : State} (hw : (s.sems.all fun p => p.2.waiters.isEmpty) = true) (k : Nat) : boostLinks s k = [] := by
  have hnone (f : Nat × Sem → Cmd → Bool) : (s.sems.filter fun p => s.cmds.any fun c => p.2.waiters.contains c.uid && f p c) = [] := by
    rw [List.filter_eq_nil_iff]
    intro p hp
    simp [List.isEmpty_iff.mp (List.all_eq_true.mp hw p hp)]
  induction k with
  | zero => rw [boostLinks, hnone, List.flatMap_nil]
  | succ k ih => simp [boostLinks, ih]

section
variable {s : State} {c : Cmd} (hc : s.cmds = [c]) (hop : opcodeOf c.desc = 1) (hp : c.phase = .accepted)
include hc hop hp

theorem workOn_acceptedTile : workOn c.uid s = s := by
  have hat : cmdAt s c.uid = some c := by simp [cmdAt, hc]
  have hstart : startCmd c s = s := by simp [startCmd, hop]
  have hgo : goOn c s = s := by simp [goOn, hp]
  rw [workOn, hat]
  simp [hstart, hgo]

omit hc in
theorem moverFor_acceptedTile : moverFor s c = none := by
  simp [moverFor, engineFetching, hop, hp]

theorem moverRun_acceptedTile (n : Nat) : moverRun n s = s := by
  cases n with
  | zero => rfl
  | succ n => simp [moverRun, hc, moverFor_acceptedTile hop hp]

omit hop in
theorem placeReady_acceptedTile (lc : Bool) (n : Nat) : placeReady lc n s = s := by
  refine forEach_id _ _ _ fun k _ => ?_
  cases n with
  | zero => rfl
  | succ n => simp [placeFold, readyOrder, hc, hp, turned]

omit hop hp in
theorem refreshBoosts_acceptedTile (hb : c.boosted = false) (hctx : (s.ctxs.all fun p => !p.2.boosted) = true)
    (hw : (s.sems.all fun p => p.2.waiters.isEmpty) = true) : refreshBoosts s = s := by
  have hc' : { c with boosted := false } = c := by rw [← hb]
  have hs : ({ s with cmds := [c] } : State) = s := by rw [← hc]
  unfold refreshBoosts
  simp only [boostLinks_unwaited hw, hc, List.map_cons, List.map_nil, List.contains_nil, hc', ite_self, hs]
  refine forEach_id _ _ _ fun slot _ => ?_
  have hslot := Tab.get_of_all Ctx.reset (fun x => !x.boosted) s.ctxs slot (by decide) hctx
  simp only [Bool.not_eq_true'] at hslot
  simp [boostCtx, ctxAt, hslot]

theorem workRound_acceptedTile (h : still s = true) (hb : c.boosted = false) (hctx : (s.ctxs.all fun p => !p.2.boosted) = true)
    (hw : (s.sems.all fun p => p.2.waiters.isEmpty) = true) : workRound s = s := by
  have hmove : reMovers s = s := by simp [reMovers, cmdsWhere, hc, hop, forEach]
  have hread : readsDue s = s := by simp [readsDue, cmdsWhere, hc, hp, forEach]
  have hwork : forEach (s.cmds.map fun c => c.uid) workOn s = s := by
    rw [hc]
    exact workOn_acceptedTile hc hop hp
  have hreview : reviewAll s = s := by simp [reviewAll, cmdsWhere, hc, hp, forEach]
  have horder : orderQueues s = s := by
    have hq : (s.engines.filter fun p => !p.2.queue.isEmpty) = [] := by
      rw [List.filter_eq_nil_iff]
      intro p hp
      have h1 := List.all_eq_true.mp (still_engines h) p hp
      simp only [Bool.and_eq_true] at h1
      simp [h1.1]
    rw [orderQueues, refreshBoosts_acceptedTile hc hb hctx hw, hq]
    rfl
  simp only [workRound, pruneHeld_still h, hmove, accessesRun_still h, wakeQueues_still h, hread, proposeAgain_still h,
    heldOrder_still h, forEach_nil, hwork, still_serving h, List.map_nil, handRun_still h, rvResolveDue_still h, twinCompare_still h,
    hreview, foldResetsEnd_still h, settleUnits_still h, horder, placeReady_acceptedTile hc hp, moverRun_acceptedTile hc hop hp,
    flushMsgs_still h, restorePower_still h]

theorem pump_acceptedTile (h : still s = true) (hb : c.boosted = false) (hctx : (s.ctxs.all fun p => !p.2.boosted) = true)
    (hw : (s.sems.all fun p => p.2.waiters.isEmpty) = true) : pump s = s := by
  rw [pump, pumpRun.eq_def]
  simp [workRound_acceptedTile hc hop hp h hb hctx hw]

end

/-! ### Acceptance in a block at rest -/

section
variable {q : Nat} {d : BitVec 512} {s : State}

theorem still_taken (h : still s = true) (hc : s.cmds = []) : still (taken q d s) = true := by
  have ht := taken_sameButIntake (q := q) (d := d) (s := s)
  have hq := taken_queues (q := q) (d := d) (still_queues h)
  have hclaim (herd : Bool) (u : Nat) : unitClaimed (taken q d s) herd u = unitClaimed s herd u := by
    rw [unitClaimed, unitClaimed, taken_cmds, hc]
    rfl
  unfold still at h ⊢
  simp only [hclaim, hq]
  rw [ht]
  simp only [Bool.and_eq_true] at h ⊢
  obtain ⟨⟨⟨⟨hrest, hfolds⟩, -⟩, hengines⟩, hhalves⟩ := h
  exact ⟨⟨⟨⟨hrest, hfolds⟩, trivial⟩, hengines⟩, hhalves⟩

/-- In a block at rest a TILE_TASK is accepted, and nothing else happens. -/
theorem exec_tileTask_alone (h : alone q d s) (hop : opcodeOf d = 1) : exec (.tileTask q d) s = .next (taken q d s) := by
  obtain ⟨hlt, hacc, -, hrest, -, hsems, -⟩ := h
  have hcmds := atRest_cmds hrest
  have ht := taken_sameButIntake (q := q) (d := d) (s := s)
  have hpump : pump (taken q d s) = taken q d s := by
    refine pump_acceptedTile (c := accepted q d s) ?_ hop rfl (still_taken (atRest_still hrest) hcmds) rfl ?_ ?_
    · rw [taken_cmds, hcmds]
      rfl
    · rw [ht]
      unfold atRest at hrest
      simp only [Bool.and_eq_true] at hrest
      exact hrest.2
    · rw [ht]
      exact hsems
  have hrow : exec (.tileTask q d) s = .next (pump (acceptOne q d s)) := need_of_true (by simp [hlt, hop])
  rw [hrow, acceptOne_taken hacc (by omega), hpump]

end

end Sys2Proof.Machine
end

section
/-! SUPPORT. Tile tasks (R84, R86, R91-R98, R201, R205-R208): TASK_READY, TILE_START, TILE_COMPLETE, and the end of a task once its
writes are accepted. -/

namespace Sys2Proof.Machine

/-! ### Commands -/

theorem uid_of_cmdAt {s : State} {u : Nat} {c : Cmd} (h : cmdAt s u = some c) : c.uid = u := by
  have hu := List.find?_some h
  simpa using hu

/-- A command that is changed, and not in its number, is read back changed. -/
theorem cmdAt_modCmd {s : State} {u : Nat} {c : Cmd} {g : Cmd → Cmd} (h : cmdAt s u = some c) (hg : ∀ x, (g x).uid = x.uid) :
    cmdAt (modCmd s u g) u = some (g c) := by
  have hp : (fun x : Cmd => x.uid == u) ∘ (fun x => if x.uid == u then g x else x) = fun x => x.uid == u := by
    funext x
    simp only [Function.comp]
    split
    · rw [hg]
    · rfl
  rw [cmdAt, modCmd, List.find?_map, hp]
  rw [cmdAt] at h
  rw [h]
  simp [uid_of_cmdAt h]

/-- Two changes of one command, the first of which leaves its number, are one. -/
theorem modCmd_modCmd (s : State) (u : Nat) {f g : Cmd → Cmd} (hf : ∀ x, (f x).uid = x.uid) :
    modCmd (modCmd s u f) u g = modCmd s u (g ∘ f) := by
  have h (x : Cmd) : (if (if x.uid == u then f x else x).uid == u then g (if x.uid == u then f x else x)
      else if x.uid == u then f x else x) = if x.uid == u then (g ∘ f) x else x := by
    by_cases hx : (x.uid == u) = true
    · simp only [hx, if_true, hf, Function.comp]
    · simp only [hx, if_false, Bool.false_eq_true]
  simp only [modCmd, List.map_map]
  exact congrArg (fun l => ({ s with cmds := l } : State)) (List.map_congr_left fun x _ => h x)

/-! ### TASK_READY (R84, R205, R208) -/

/-- The fold logical number that a task names, if it names one. -/
def engineNamed (d : BitVec 512) : Option Nat := if tlEngine d = anyEngine then none else some (tlEngine d)

section
variable {uid : Nat} {s : State} {c : Cmd} (hat : cmdAt s uid = some c) (hop : opcodeOf c.desc = 1) (hmay : mayStart s c = true)
include hat hop hmay

theorem exec_taskReady_fenced (ht : tagClosed s c.tag = true) :
    exec (.taskReady uid) s = .next (pump (tileFail c stFenced s)) := by
  refine congrArg (fun t => Host.Outcome.next (pump t)) ?_
  simp [taskReadyAt, hat, hop, hmay, ht]

theorem exec_taskReady_waits (ht : tagClosed s c.tag = false) (hres : residencyOk s c.tag = false) :
    exec (.taskReady uid) s = .next (pump s) := by
  refine congrArg (fun t => Host.Outcome.next (pump t)) ?_
  simp [taskReadyAt, hat, hop, hmay, ht, hres]

theorem exec_taskReady_dispatched (ht : tagClosed s c.tag = false) (hres : residencyOk s c.tag = true) :
    exec (.taskReady uid) s = .next (pump (dispatchTask c s)) := by
  refine congrArg (fun t => Host.Outcome.next (pump t)) ?_
  simp [taskReadyAt, hat, hop, hmay, ht, hres]

end

section
variable {s : State} {c : Cmd} {i : Nat}

theorem dispatchTask_named (hn : engineNamed c.desc = some i) (hown : flockContext s c.tag = false) :
    dispatchTask c s = readyNamed c i s := by
  unfold engineNamed at hn
  unfold dispatchTask
  split at hn
  next => cases hn
  next hany =>
    cases hn
    simp [hany, hown]

theorem dispatchTask_outside (hn : engineNamed c.desc = some i) (hown : flockContext s c.tag = false)
    (hi : (foldEngines s (tagFold c.tag))[i]? = none) : dispatchTask c s = tileRange c 0x0A hostMaster s := by
  rw [dispatchTask_named hn hown, readyNamed, hi]

theorem dispatchTask_vacant {e : Nat} (hn : engineNamed c.desc = some i) (hown : flockContext s c.tag = false)
    (hi : (foldEngines s (tagFold c.tag))[i]? = some e) (hb : engineBound s e = false) :
    dispatchTask c s = tileFail c stUnitRetired s := by
  rw [dispatchTask_named hn hown, readyNamed, hi]
  simp [hb]

theorem dispatchTask_makeReady (h : engineNamed c.desc = none ∨ flockContext s c.tag = false ∧
    ∃ i e, engineNamed c.desc = some i ∧ (foldEngines s (tagFold c.tag))[i]? = some e ∧ engineBound s e = true) :
    dispatchTask c s = makeReady c (engineNamed c.desc) s := by
  rcases h with hn | ⟨hown, i, e, hn, hi, hb⟩
  · rw [hn]
    unfold engineNamed at hn
    unfold dispatchTask
    split at hn
    next hany => exact if_pos hany
    next => cases hn
  · rw [dispatchTask_named hn hown, readyNamed, hi, hn]
    exact if_pos hb

end

section
variable {s : State} {c : Cmd} {named : Option Nat}

theorem makeReady_check {k : Nat} (hk : descCheck c.desc = some k) :
    makeReady c named s = tileRange c k (engineMaster s (readyEngine s c named)) s := by
  simp [makeReady, hk]

theorem makeReady_unlicensed (hk : descCheck c.desc = none) (hl : licenceOk s c.desc = false) :
    makeReady c named s = tileFail c stLicence s := by
  simp [makeReady, hk, hl]

theorem makeReady_notReproducible (hk : descCheck c.desc = none) (hl : licenceOk s c.desc = true)
    (hr : (ctxAt s (tagSlot c.tag)).reproducible = true) (hf : tlFast c.desc = true) :
    makeReady c named s = tileFail c stNotReproducible s := by
  simp [makeReady, hk, hl, hr, hf]

/-- A task with its headers read, and the fold logical number it names. -/
def withHeaders (bs : List Byte) (named : Option Nat) (c : Cmd) : Cmd := { c with
  coll := { c.coll with acc := bs, parts := [] }
  launch := { c.launch with next := match named with | some i => i + 1 | none => 0 } }

theorem makeReady_judges {s0 s1 : State} {h0 : List TlbEntry} {bs : List Byte} (hk : descCheck c.desc = none)
    (hl : licenceOk s c.desc = true) (hr : ((ctxAt s (tagSlot c.tag)).reproducible && tlFast c.desc) = false)
    (hpre : preTranslate c (enginePlace s (readyEngine s c named)) .read (pagesOfAll (headerRanges c.desc)) [] s = (.ok [], h0, s0))
    (hf : fetchAll { c with pages := [] } (enginePlace s (readyEngine s c named)) (engineMaster s (readyEngine s c named))
      (headerRanges c.desc) s0 = (.ok bs, s1)) :
    makeReady c named s = judgeTask (withHeaders bs named c) named s1 := by
  simp only [makeReady, hk, hl, hr, hpre, hf, Bool.not_true, Bool.false_eq_true, if_false]
  rfl

theorem judgeTask_check {k : Nat} (hk : readyCheck s c = some k) :
    judgeTask c named s = tileRange c k (engineMaster s (readyEngine s c named)) s := by
  simp [judgeTask, hk]

/-- A task becomes ready now: it holds the translation epoch and the leaves of its footprint (R86, R160). -/
def readied (c : Cmd) (held : List TlbEntry) (s : State) : State :=
  modCmd { s with xlate := { s.xlate with
      holders := s.xlate.holders ++ [{ epoch := s.xlate.epoch, tag := c.tag, owner := .task c.uid }] } }
    c.uid fun x => { x with
      phase := .ready, pages := held, coll := { x.coll with acc := c.coll.acc }, launch := c.launch, readyAt := now s,
      judged := false, asked := 0, opnd := [], seg := 0, out := [], setting := none }

theorem judgeTask_readied {s1 s2 : State} {h1 h2 : List TlbEntry} (hk : readyCheck s c = none)
    (hread : preTranslate c (enginePlace s (readyEngine s c named)) .read
      (pagesOfAll (headerRanges c.desc ++ readRanges c.desc (hdrsOf c))) [] s = (.ok [], h1, s1))
    (hwrite : preTranslate c (enginePlace s (readyEngine s c named)) (outAccess c.desc)
      (pagesOfAll (writeRanges c.desc (hdrsOf c))) h1 s1 = (.ok [], h2, s2)) :
    judgeTask c named s = readied c h2 s2 := by
  simp only [judgeTask, hk, hread, hwrite]
  rfl

end

/-! ### TILE_START (R96, R97, R201, R206) -/

/-- How far a fold's turn at a commons engine lies behind the fold next after the last one served (R201). -/
def turnOf (s : State) (e : Nat) (c : Cmd) : Nat := (tagFold c.tag + 31 - (engineAt s e).lastFold % 16) % 16

section
variable {s : State} {e u : Nat} {c : Cmd}

theorem nextTask_held (hheld : engineHeld s e = true) (h : nextTask s e = some u) : (engineAt s e).queue.head? = some u := by
  simpa [nextTask, hheld] using h

theorem tagFold_lt (t : W16) : tagFold t < 16 := Nat.mod_lt _ (by decide)

/-- The fold whose turn is number k. -/
theorem turnOf_eq {k : Nat} (hk : k < 16) (hn : tagFold c.tag = ((engineAt s e).lastFold + 1 + k) % 16) : turnOf s e c = k := by
  rw [turnOf, hn]
  omega

theorem tagOfCmd_eq (hat : cmdAt s u = some c) : tagOfCmd s u = c.tag := by rw [tagOfCmd, hat]

/-- The tasks of an engine's queue that may start on it as a commons engine. -/
def fitting (s : State) (e : Nat) : List Nat :=
  (engineAt s e).queue.filter fun u => match cmdAt s u with | some c => commonsMay s e c | none => false

theorem mem_fitting (hat : cmdAt s u = some c) : u ∈ fitting s e ↔ u ∈ (engineAt s e).queue ∧ commonsMay s e c = true := by
  rw [fitting, List.mem_filter, hat]

theorem nextTask_commons_eq (hheld : engineHeld s e = false) : nextTask s e =
    (List.range 16).findSome? fun k => (fitting s e).find? fun v =>
      tagFold (tagOfCmd s v) == ((engineAt s e).lastFold + 1 + k) % 16 := by
  simp only [nextTask, hheld, Bool.false_eq_true, if_false, List.findSome?_map]
  rfl

/-- A commons engine's next task fits its window, and no task of its queue that fits has an earlier turn. -/
theorem nextTask_commons (hheld : engineHeld s e = false) (h : nextTask s e = some u) (hat : cmdAt s u = some c) :
    u ∈ (engineAt s e).queue ∧ commonsMay s e c = true ∧
      ∀ v ∈ (engineAt s e).queue, ∀ x, cmdAt s v = some x → commonsMay s e x = true → turnOf s e c ≤ turnOf s e x := by
  rw [nextTask_commons_eq hheld, List.findSome?_eq_some_iff] at h
  obtain ⟨before, k, after, hrange, hfind, hnone⟩ := h
  have hmem (n : Nat) : n < 16 ↔ n ∈ before ∨ n = k ∨ n ∈ after := by
    rw [← List.mem_range, hrange, List.mem_append, List.mem_cons]
  have hafter : ∀ n ∈ after, k < n := by
    have hsorted := List.pairwise_lt_range (n := 16)
    rw [hrange, List.pairwise_append] at hsorted
    exact (List.pairwise_cons.mp hsorted.2.1).1
  have hturn : tagFold c.tag = ((engineAt s e).lastFold + 1 + k) % 16 := by
    have hf := List.find?_some hfind
    rw [tagOfCmd_eq hat] at hf
    simpa using hf
  obtain ⟨hq, hfit⟩ := (mem_fitting hat).mp (List.mem_of_find?_eq_some hfind)
  refine ⟨hq, hfit, fun v hv x hx hmay => ?_⟩
  by_contra hlt
  have hfirst := turnOf_eq ((hmem k).mpr (.inr (.inl rfl))) hturn
  have hbefore : turnOf s e x ∈ before := by
    rcases (hmem (turnOf s e x)).mp (Nat.mod_lt _ (by decide)) with h | h | h
    · exact h
    · omega
    · exact absurd (hafter _ h) (by omega)
  have hno := List.find?_eq_none.mp (hnone _ hbefore) v ((mem_fitting hx).mpr ⟨hv, hmay⟩)
  rw [tagOfCmd_eq hx] at hno
  refine hno ?_
  have hfold := tagFold_lt x.tag
  rw [beq_iff_eq, turnOf]
  omega

theorem exec_tileStart (he : e < 32) : exec (.tileStart e) s = .next (pump (tileStartOn e s)) := need_of_true (by simp [he])

/-- A task has left an engine's dispatch queue. -/
def leftQueue (e u : Nat) (s : State) : State := modEngine s e fun y => { y with queue := y.queue.filter fun v => v != u }

/-- A task begins in an engine's array now, under what its fold holds (R14, R32). -/
def begun (e : Nat) (c : Cmd) (s : State) : State :=
  modCmd (modEngine s e fun y => { y with tile := some c.uid, entered := 0, lastFold := tagFold c.tag }) c.uid fun x => { x with
    phase := .tile e, startAt := now s, setting := some (foldAt s (tagFold c.tag)).live, launch := { x.launch with cores := [e] } }

theorem enterArray_begun : modCmd (enterArray e c s) c.uid (fun x => { x with phase := .tile e, startAt := now s }) = begun e c s :=
  modCmd_modCmd _ _ fun _ => rfl

variable (htile : (engineAt s e).tile = none) (hblocked : (engineAt s e).blocked = false) (hbrown : s.power.brownout = false)
  (hbound : engineBound s e = true) (hpower : enginePowered s e = true) (hnext : nextTask s e = some u) (hat : cmdAt s u = some c)
include htile hblocked hbrown hbound hpower hnext hat

theorem tileStartOn_fenced (ht : tagClosed s c.tag = true) : tileStartOn e s = tileFail c stFenced (leftQueue e u s) := by
  simp [tileStartOn, htile, hblocked, hbrown, hbound, hpower, hnext, hat, ht, leftQueue]

theorem tileStartOn_waits (ht : tagClosed s c.tag = false) (hno : firstHere s c = false) : tileStartOn e s = s := by
  simp [tileStartOn, htile, hblocked, hbrown, hbound, hpower, hnext, hat, ht, hno]

theorem tileStartOn_begins (ht : tagClosed s c.tag = false) (hyes : firstHere s c = true) :
    tileStartOn e s = noteDispatch c.tag (begun e c (leftQueue e u s)) := by
  rw [← enterArray_begun, uid_of_cmdAt hat]
  simp [tileStartOn, htile, hblocked, hbrown, hbound, hpower, hnext, hat, ht, hyes, leftQueue]
  rfl

end

/-! ### What is in the operand buffer (R86, R96, R98) -/

section
variable {s : State} {e : Nat} {c : Cmd}

theorem partsHere_iff {upto : Nat} : partsHere s c upto = true ↔ c.asked = (piecesTo c.desc (hdrsOf c) (upto + 1)).length ∧
    c.opnd.length = (piecesTo c.desc (hdrsOf c) (upto + 1)).length ∧ settled s c = true := by
  simp only [partsHere, Bool.and_eq_true, beq_iff_eq]
  constructor
  · rintro ⟨⟨h1, h2⟩, h3⟩
    exact ⟨h1, h2.trans h1, h3⟩
  · rintro ⟨h1, h2, h3⟩
    exact ⟨⟨h1, h2.trans h1.symm⟩, h3⟩

theorem engineError_iff : engineError s e = true ↔ ∃ p ∈ s.poison, (p.1 = 4 ∨ p.1 = 5) ∧ p.2 = e := by
  simp [engineError]

end

/-! ### What a task keeps -/

theorem leBytes_succ (n v : Nat) : leBytes (n + 1) v = BitVec.ofNat 8 v :: leBytes n (v / 256) := by
  have hrest : (List.range n).map ((fun i => BitVec.ofNat 8 (v >>> (8 * i))) ∘ Nat.succ) = leBytes n (v / 256) := by
    refine List.map_congr_left fun i _ => ?_
    simp only [Function.comp, Nat.shiftRight_eq_div_pow, Nat.div_div_eq_div_mul, show 8 * i.succ = 8 + 8 * i by omega, Nat.pow_add]
  rw [leBytes, List.range_succ_eq_map, List.map_cons, List.map_map, hrest]
  rfl

/-- The low bytes of a number give back what they hold of it. -/
theorem ofLe_leBytes (n v : Nat) : ofLe (leBytes n v) = v % 2 ^ (8 * n) := by
  induction n generalizing v with
  | zero => exact (Nat.mod_one v).symm
  | succ n ih =>
    rw [leBytes_succ, ofLe, ih, BitVec.toNat_ofNat, show 8 * (n + 1) = 8 + 8 * n by omega, Nat.pow_add]
    exact Nat.mod_mul.symm

/-- The bound word of what a task keeps: 2^32 says that no row gives a bound. -/
def boundWord (bound : Option Int) : Nat :=
  match bound with
  | none => 2 ^ 32
  | some x => wrapInt 32 x

section
variable (r : Done) (sat : Nat) (bound : Option Int)

theorem keptBytes_flags : (keptBytes r sat bound).getD 1 0 =
    BitVec.ofNat 8 ((if r.part then 1 else 0) + (if r.failed then 2 else 0)) := rfl

theorem keptBytes_digest : ((keptBytes r sat bound).drop 8).take 8 = leBytes 8 r.digest.toNat := by
  simp [keptBytes, taskResultBytes]

theorem keptBytes_sat : ((keptBytes r sat bound).drop 16).take 8 = leBytes 8 sat := by
  simp [keptBytes, taskResultBytes]

theorem keptBytes_bound : ((keptBytes r sat bound).drop 24).take 8 = leBytes 8 (boundWord bound) := by
  have hlen : (taskResultBytes r ++ leBytes 8 sat).length = 24 := by simp [taskResultBytes]
  change ((taskResultBytes r ++ leBytes 8 sat ++ leBytes 8 (boundWord bound)).drop 24).take 8 = _
  rw [← hlen, List.drop_left]
  exact List.take_of_length_le (by simp)

end

section
variable {c : Cmd} {r : Done} {sat : Nat} {bound : Option Int} (h : c.coll.acc = keptBytes r sat bound)
include h

/-- A task ends as it keeps; its result word is no task's (R98). -/
theorem keptDone_keptBytes : keptDone c = { r with result := 0 } := by
  have hdigest : BitVec.ofNat 64 (r.digest.toNat % 2 ^ (8 * 8)) = r.digest := by
    rw [Nat.mod_eq_of_lt r.digest.isLt, BitVec.ofNat_toNat, BitVec.setWidth_eq]
  have hflags : bitAt (BitVec.ofNat 8 ((if r.part then 1 else 0) + (if r.failed then 2 else 0))) 0 = r.part ∧
      bitAt (BitVec.ofNat 8 ((if r.part then 1 else 0) + (if r.failed then 2 else 0))) 1 = r.failed := by
    cases r.part <;> cases r.failed <;> decide
  rw [keptDone, h, keptBytes_digest, ofLe_leBytes, hdigest, keptBytes_flags, hflags.1, hflags.2]
  rfl

theorem keptSat_keptBytes : keptSat c = sat % 2 ^ 64 := by
  rw [keptSat, h, keptBytes_sat, ofLe_leBytes]

theorem keptBound_keptBytes : keptBound c = bound.map fun x => signed 32 (wrapInt 32 x) := by
  rw [keptBound, h, keptBytes_bound, ofLe_leBytes]
  cases bound with
  | none => rfl
  | some x =>
    have hlt : wrapInt 32 x < 2 ^ 32 := by rw [wrapInt]; omega
    have hmod : boundWord (some x) % 2 ^ (8 * 8) = wrapInt 32 x := Nat.mod_eq_of_lt (by rw [boundWord]; omega)
    rw [hmod]
    exact if_neg (by omega)
end

/-! ### What storing bytes leaves alone -/

/-- What no element of a list changes is the same after the list. -/
theorem forEach_keeps {α β : Type} (f : State → β) {l : List α} {g : α → State → State} (hg : ∀ x s, f (g x s) = f s) (s : State) :
    f (forEach l g s) = f s := by
  induction l generalizing s with
  | nil => rfl
  | cons x l ih => exact (ih (g x s)).trans (hg x s)

theorem sameButAccess.cmds {s t : State} (h : sameButAccess s t) : t.cmds = s.cmds := by rw [h]

theorem cmdReach_sameButXlate (c : Cmd) (place va : Nat) (a : AccessKind) (s : State) :
    sameButXlate s (cmdReach c place va a s).2 := by
  unfold cmdReach
  split
  · exact .refl s
  · exact reach_sameButXlate place c.tag va a s

theorem rekeyUnit_cmds (u : Nat) (s : State) : (rekeyUnit u s).cmds = s.cmds := by
  unfold rekeyUnit
  dsimp only
  split <;> rfl

theorem markPond_cmds (off n : Nat) (s : State) : (markPond off n s).cmds = s.cmds :=
  forEach_keeps State.cmds (fun _ _ => setFold_cmds ..) s

/-- Storing bytes leaves the accepted commands. -/
theorem memStore_cmds (mem off : Nat) (bs : List Byte) (s : State) : (memStore mem off bs s).cmds = s.cmds := by
  unfold memStore
  split
  · rfl
  split
  · exact markPond_cmds _ _ _
  · rfl
  · exact forEach_keeps State.cmds (fun u s => rekeyUnit_cmds u s) s
  · exact hostWrite_cmds off bs s

/-! ### C's header and the end of a task (R60, R78, R91, R160) -/

section
variable {s s1 : State} {c : Cmd} {mem off : Nat}

/-- C's header where it lies in reach, with a task's count and bound merged into it. -/
def headerMerged (c : Cmd) (mem off : Nat) (s1 : State) : State :=
  onBehalfOfNone (charge c.tag mem off 8 true
    (memStore mem off (headerWords (keptSat c) (keptBound c) (memBytes mem off 8 s1).1) (memBytes mem off 8 s1).2))

variable (hreach : cmdReach c (enginePlace s (ranOn c)) (tlHdrC c.desc + 32) .write
    (onBehalf c.uid (engineMaster s (ranOn c)) s) = (.loc mem off, s1))
include hreach

theorem mergeHeader_here (hmem : mem ≠ 3) (hland : landOk s1 c.tag mem off = true) (hopen : reachable s1 c.tag mem off 8 = true)
    (hgood : poisoned s1 mem off 8 = false) : mergeHeader c s = (true, headerMerged c mem off s1) := by
  have hupdate : locUpdate c.tag mem off 8 (headerWords (keptSat c) (keptBound c)) s1 = (.ok (memBytes mem off 8 s1).1,
      charge c.tag mem off 8 true
        (memStore mem off (headerWords (keptSat c) (keptBound c) (memBytes mem off 8 s1).1) (memBytes mem off 8 s1).2)) := by
    simp [locUpdate, hmem, hland, hopen, hgood]
  have hreach' : cmdReach c (enginePlace (onBehalf c.uid (engineMaster s (ranOn c)) s) (ranOn c)) (tlHdrC c.desc + 32) .write
      (onBehalf c.uid (engineMaster s (ranOn c)) s) = (.loc mem off, s1) := hreach
  unfold mergeHeader
  simp only [hreach', hupdate]
  rfl

theorem headerMerged_cmds : (headerMerged c mem off s1).cmds = s.cmds := by
  have hr := cmdReach_sameButXlate c (enginePlace s (ranOn c)) (tlHdrC c.desc + 32) .write
    (onBehalf c.uid (engineMaster s (ranOn c)) s)
  rw [hreach] at hr
  calc (headerMerged c mem off s1).cmds
      = (memStore mem off (headerWords (keptSat c) (keptBound c) (memBytes mem off 8 s1).1) (memBytes mem off 8 s1).2).cmds :=
        (charge_sameButAccess ..).cmds
    _ = (memBytes mem off 8 s1).2.cmds := memStore_cmds ..
    _ = s1.cmds := (memBytes_sameButAccess ..).cmds
    _ = s.cmds := hr.access.cmds

end

section
variable {u : Nat} {s : State} {c : Cmd} (hat : cmdAt s u = some c) (hop : opcodeOf c.desc = 1) (hbusy : c.phase = .busy)
  (hout : c.out = []) (hset : settled s c = true) (hgo : stalled s u = false)
include hat hop hbusy hout hset hgo

theorem tileSettle_ends (h : c.moved = 2 ∨ tlFmtOut c.desc = fmtContainer) :
    tileSettle u s = complete u (keptDone c) (endHolder (.task u) s) := by
  simp [tileSettle, hat, hop, hbusy, hout, hset, hgo, h]

theorem tileSettle_merged {t : State} (hmoved : c.moved ≠ 2) (hfmt : tlFmtOut c.desc ≠ fmtContainer)
    (hmerge : mergeHeader c s = (true, t)) (ht : t.cmds = s.cmds) :
    tileSettle u s = if settled t c then complete u (keptDone c) (endHolder (.task u) t)
      else modCmd t u fun x => { x with moved := 2 } := by
  have hat' : cmdAt t u = some c := by rw [cmdAt, ht]; exact hat
  simp [tileSettle, hat, hop, hbusy, hout, hset, hgo, hmoved, hfmt, hmerge, hat']

end

/-! ### TILE_COMPLETE (R73, R91, R93, R98) -/

section
variable {s : State} {e u : Nat} {c : Cmd}

theorem exec_tileComplete (he : e < 32) : exec (.tileComplete e) s = .next (pump (tileFinish e s)) := need_of_true (by simp [he])

theorem enterTo_engines_wf (to' : Nat) (hwf : Tab.wf Engine.reset s.engines = true) :
    Tab.wf Engine.reset (enterTo e c to' s).engines = true := Tab.set_wf Engine.reset e _ hwf

/-- An engine that is freed holds no tile, where the table of engines is canonical. -/
theorem engineAt_freeEngine (hwf : Tab.wf Engine.reset s.engines = true) : (engineAt (freeEngine e s) e).tile = none := by
  rw [freeEngine, modEngine, engineAt_setEngine_self s e _ hwf]

/-- Where an engine is listed twice, which no canonical table does, freeing it uncovers its second entry. -/
theorem engineAt_freeEngine_doubled (s : State) {x : Engine} (hx : { x with tile := none, entered := 0 } = Engine.reset) :
    engineAt (freeEngine e { s with engines := [(e, x), (e, x)] }) e = x := by
  simp [freeEngine, modEngine, setEngine, engineAt, Tab.get, Tab.set, Tab.erase, hx]

variable (htile : (engineAt s e).tile = some u) (hat : cmdAt s u = some c)
include htile hat

theorem tileFinish_waits (h : partsHere s c (segCount c.desc (hdrsOf c)) = false) : tileFinish e s = s := by
  simp [tileFinish, htile, hat, h]

theorem tileFinish_error (h : partsHere s c (segCount c.desc (hdrsOf c)) = true) (herr : engineError s e = true) :
    tileFinish e s = raiseData 0x42 0 (engineMaster s e) c.tag (freeEngine e (tileFail c stDataError s)) := by
  simp [tileFinish, htile, hat, h, herr]

end

/-- The rows of a tile whose operands are in the buffer (R91). -/
def rowsOf (c : Cmd) (s : State) : List OutRow :=
  tileRowsOut c.desc (hdrsOf c) s.free
    (joinBufs c.desc (hdrsOf c) ((c.opnd.insertionSort fun a b => a.1 ≤ b.1).map fun x => x.2))

/-- What the rows of a tile give C's areas, and how they end the task. -/
def segsOf (c : Cmd) (s : State) : List (Nat × List Byte) := tileSegments c.desc (hdrsOf c) (rowsOf c s)
def keptOf (c : Cmd) (s : State) : List Byte :=
  keptBytes (tileOutcome c.desc (rowsOf c s) (segsOf c s)) ((rowsOf c s).map fun r => r.sat).sum
    ((rowsOf c s).foldl (fun b r => maxBound b r.bound) none)

/-- A task that has left its array, with its rows to write. -/
def leftArray (out : List (Nat × List Byte)) (kept : List Byte) (c : Cmd) : Cmd := { c with
  phase := .busy, opnd := [], asked := 0, moved := 0, out := out, coll := { c.coll with acc := kept } }

/-- The state in which a tile has left its array and its engine is free. -/
def arrayLeft (e u : Nat) (c : Cmd) (s : State) : State :=
  freeEngine e (modCmd (enterTo e c (1000 * beatsOf c)
    { s with free := s.free + (rowsOf c s).length * 128 * (2 * sliceLen c.desc (hdrsOf c) + 2) })
    u (leftArray (cutBeats (segsOf c s)) (keptOf c s)))

/-- What a task keeps is what its rows give: how it ends, the elements that saturated, the largest bound. -/
theorem kept_leftArray (out : List (Nat × List Byte)) (c : Cmd) (s : State) :
    keptDone (leftArray out (keptOf c s) c) = tileOutcome c.desc (rowsOf c s) (segsOf c s) ∧
      keptSat (leftArray out (keptOf c s) c) = ((rowsOf c s).map fun r => r.sat).sum % 2 ^ 64 ∧
      keptBound (leftArray out (keptOf c s) c) =
        ((rowsOf c s).foldl (fun b r => maxBound b r.bound) none).map fun x => signed 32 (wrapInt 32 x) := by
  refine ⟨?_, keptSat_keptBytes rfl, keptBound_keptBytes rfl⟩
  rw [keptDone_keptBytes rfl, tileOutcome]
  split <;> rfl

section
variable {s : State} {e u : Nat} {c : Cmd}

theorem tileFinish_writes (htile : (engineAt s e).tile = some u) (hat : cmdAt s u = some c)
    (h : partsHere s c (segCount c.desc (hdrsOf c)) = true) (herr : engineError s e = false) :
    tileFinish e s = engineWrites u (cutBeats (segsOf c s)).length (arrayLeft e u c s) := by
  simp only [tileFinish, htile, hat, h, herr, Bool.not_true, Bool.false_eq_true, if_false]
  rfl

theorem cmdAt_arrayLeft (hat : cmdAt s u = some c) :
    cmdAt (arrayLeft e u c s) u = some (leftArray (cutBeats (segsOf c s)) (keptOf c s) c) :=
  cmdAt_modCmd (s := enterTo e c (1000 * beatsOf c) { s with free := _ }) hat fun _ => rfl

/-- The engine of a tile that has left its array is free, where the table of engines is canonical. -/
theorem engineAt_arrayLeft (hwf : Tab.wf Engine.reset s.engines = true) : (engineAt (arrayLeft e u c s) e).tile = none :=
  engineAt_freeEngine (by rw [modCmd_engines]; exact enterTo_engines_wf _ hwf)

end

end Sys2Proof.Machine
end

section
/-! SUPPORT. The integer, bitwise, move, FP32 and function instructions (R128, R130, R131, R136, R137): each writes one register from
the registers of its lane. -/

namespace Sys2Proof.Machine

theorem allocated.mono {rs rs' : List Byte} {i : Issue} (h : allocated rs i) (hsub : rs' ⊆ rs) : allocated rs' i :=
  fun r hr => h r (hsub hr)

section
variable {t : GroupRef} {f : RFmt} {s s1 : State} {i : Issue} {c : Instr}
variable (hwf : Tab.wf 0 i.grp.regs = true) (h : issues t f.guard s i s1)
include hwf h

theorem regResult_of_aluU {op : W32 → W32} {v : Nat → W32} (hr : allocated [f.rd, f.ra] i)
    (hc : exec c s = .next (aluU t f op s)) (hv : ∀ l, op (getReg i.grp l f.ra.toNat) = v l) :
    regResult c t s s1 i f.rd v :=
  regResult_of_alu1 hwf h hc hr (funext hv)

theorem regResult_of_alu2 {op : W32 → W32 → W32} {v : Nat → W32} (hr : allocated [f.rd, f.ra, f.rb] i)
    (hc : exec c s = .next (alu2 t f op s))
    (hv : ∀ l, op (getReg i.grp l f.ra.toNat) (getReg i.grp l f.rb.toNat) = v l) : regResult c t s s1 i f.rd v :=
  regResult_of_alu1 hwf h hc hr (funext hv)

theorem regResult_of_alu3 {op : W32 → W32 → W32 → W32} {v : Nat → W32} (hr : allocated [f.rd, f.ra, f.rb, f.rc] i)
    (hc : exec c s = .next (alu3 t f op s))
    (hv : ∀ l, op (getReg i.grp l f.ra.toNat) (getReg i.grp l f.rb.toNat) (getReg i.grp l f.rc.toNat) = v l) :
    regResult c t s s1 i f.rd v :=
  regResult_of_alu1 hwf h hc hr (funext hv)

theorem sel_result {fl : BitVec 4} (hr : allocated [f.rd, f.ra, f.rb] i) (hfl : fl ≠ 8) :
    regResult (.sel t f fl) t s s1 i f.rd
      (fun l => if guardHolds fl i.grp l then getReg i.grp l f.ra.toNat else getReg i.grp l f.rb.toNat) := by
  have hlegal : (fl != 8 && regsOk [f.rd.toNat, f.ra.toNat, f.rb.toNat] i) = true := by
    rw [Bool.and_eq_true, bne_iff_ne]
    exact ⟨hfl, regsOk_of_allocated hr⟩
  have hexec : exec (.sel t f fl) s = .next (issue t f.guard (fun i => fl != 8 && regsOk [f.rd.toNat, f.ra.toNat, f.rb.toNat] i)
    (fun i s => setGroup t (nextPc (eachLane i.lanes (fun lane g =>
      setReg g lane f.rd.toNat (if guardHolds fl i.grp lane then opA i f lane else opB i f lane)) i.grp)) s) s) := rfl
  exact ⟨_, by rw [hexec, issue_next h hlegal]; rfl, wroteReg_eachLane i f.rd _ hwf⟩

end

/-! ### Leading zeros -/

/-- The bits above a number's leading one are clear, and the one is set. -/
theorem takeWhile_clear_range {p : Nat → Bool} {n k : Nat} (hk : k ≤ n) (hlow : ∀ j < k, p j = true) (hstop : k < n → p k = false) :
    ((List.range n).takeWhile p).length = k := by
  have hsplit : List.range n = List.range k ++ (List.range (n - k)).map (k + ·) := by
    rw [← List.range_add]
    congr 1
    omega
  have hall : ∀ j ∈ List.range k, p j = true := fun j hj => hlow j (List.mem_range.mp hj)
  rw [hsplit, List.takeWhile_append_of_pos hall]
  obtain hn | hn := hk.lt_or_eq
  · obtain ⟨m, hm⟩ : ∃ m, n - k = m + 1 := ⟨n - k - 1, by omega⟩
    rw [hm, List.range_succ_eq_map, List.map_cons, List.takeWhile_cons_of_neg (by simp [hstop hn])]
    simp
  · simp [hn]

theorem clzOp_eq (a : W32) :
    clzOp a = BitVec.ofNat 32 ((List.range 32).takeWhile fun k => !a.getLsbD (31 - k)).length := by
  unfold clzOp
  by_cases ha : a = 0
  · subst ha
    rw [if_pos rfl, takeWhile_clear_range le_rfl (by simp) (by omega)]
    rfl
  · have hne : a.toNat ≠ 0 := fun h0 => ha (BitVec.eq_of_toNat_eq h0)
    have htop : a.toNat.log2 < 32 := (Nat.log2_lt hne).mpr a.isLt
    rw [if_neg ha, takeWhile_clear_range (k := 31 - a.toNat.log2) (by omega)]
    · intro j hj
      rw [Bool.not_eq_true', BitVec.getLsbD]
      exact Nat.testBit_lt_two_pow ((Nat.log2_lt hne).mp (by omega))
    · intro _
      rw [Bool.not_eq_false', BitVec.getLsbD, show 31 - (31 - a.toNat.log2) = a.toNat.log2 by omega]
      exact Nat.testBit_log2 hne

/-! ### Signed division -/

/-- The one quotient of 32-bit words that leaves the range wraps to its dividend (R130). -/
theorem idivOp_signed (a b : W32) : idivOp true a b = if b = 0 then 0xFFFFFFFF
    else if a = 0x80000000 ∧ b = 0xFFFFFFFF then 0x80000000 else BitVec.ofInt 32 (a.toInt.tdiv b.toInt) := by
  by_cases hover : a = 0x80000000 ∧ b = 0xFFFFFFFF
  · obtain ⟨rfl, rfl⟩ := hover
    decide
  · rw [if_neg hover]
    rfl

theorem iremOp_signed (a b : W32) : iremOp true a b = if b = 0 then a
    else if a = 0x80000000 ∧ b = 0xFFFFFFFF then 0 else BitVec.ofInt 32 (a.toInt.tmod b.toInt) := by
  by_cases hover : a = 0x80000000 ∧ b = 0xFFFFFFFF
  · obtain ⟨rfl, rfl⟩ := hover
    decide
  · rw [if_neg hover]
    rfl

end Sys2Proof.Machine

open Sys2Proof Sys2Proof.Machine

/-- Settles O1: each instruction writes one register from the registers of its lane. -/
theorem integerAndMoveResults : Obligations.IntegerAndMoveResults := by
  unfold Obligations.IntegerAndMoveResults
  intro t f m sg fl s s1 i hwf
  refine ⟨fun h hr => ?registers, issues_sameButAccess, fun h hr => ⟨?iaddi, ?movi⟩⟩
  case registers =>
    have one : allocated [f.rd, f.ra] i := hr.mono (by simp)
    have two : allocated [f.rd, f.ra, f.rb] i := hr.mono (by simp)
    have move {c : Instr} {op : W32 → W32} {v : Nat → W32} := regResult_of_aluU hwf h (c := c) (op := op) (v := v) one
    have twoOperands {c : Instr} {op : W32 → W32 → W32} {v : Nat → W32} :=
      regResult_of_alu2 hwf h (c := c) (op := op) (v := v) two
    refine ⟨twoOperands rfl ?_, twoOperands rfl ?_, twoOperands rfl ?_, regResult_of_alu3 hwf h hr rfl ?_, twoOperands rfl ?_,
      twoOperands rfl ?_, twoOperands rfl ?_, twoOperands rfl ?_, twoOperands rfl ?_, move rfl ?_, move rfl ?_,
      move rfl fun _ => clzOp_eq _, move rfl ?_, sel_result hwf h two⟩
    all_goals exact fun _ => rfl
  case iaddi =>
    obtain ⟨g, hnext, hg⟩ := alu1_next (f := fun i lane => getReg i.grp lane m.ra.toNat + m.imm) h hr hwf
    exact ⟨g, congrArg _ hnext, hg⟩
  case movi =>
    obtain ⟨g, hnext, hg⟩ := alu1_next (f := fun _ _ => m.imm) h (hr.mono (rs' := [m.rd]) (by simp)) hwf
    exact ⟨g, congrArg _ hnext, hg⟩

/-- Settles O2: quotient and remainder as R130 gives them; the signed overflow wraps. -/
theorem integerDivisionByZeroTrapsNothing : Obligations.IntegerDivisionByZeroTrapsNothing := by
  unfold Obligations.IntegerDivisionByZeroTrapsNothing
  intro t f s s1 i hwf h hr a b
  exact ⟨regResult_of_alu2 hwf h hr rfl fun _ => rfl, regResult_of_alu2 hwf h hr rfl fun _ => rfl,
    regResult_of_alu2 hwf h hr rfl fun _ => idivOp_signed _ _, regResult_of_alu2 hwf h hr rfl fun _ => iremOp_signed _ _⟩
end

section
/-! SUPPORT. FP32 arithmetic on special operands: a NaN operand gives the canonical NaN, and FMIN and FMAX order -0 below +0
(R130). -/

namespace Sys2Proof.Machine

theorem Val.add_nan (a : Val) : Val.add a .nan = .nan := by cases a <;> rfl
theorem Val.mul_nan (a : Val) : Val.mul a .nan = .nan := by cases a <;> rfl

theorem fp32Add_of_nan {a b : Val} (h : a = .nan ∨ b = .nan) : fp32Add a b = 0x7FC00000 := by
  obtain rfl | rfl := h
  · rfl
  · rw [fp32Add, Val.add_nan, toFp32]

theorem fp32Mul_of_nan {a b : Val} (h : a = .nan ∨ b = .nan) : fp32Mul a b = 0x7FC00000 := by
  obtain rfl | rfl := h
  · rfl
  · rw [fp32Mul, Val.mul_nan, toFp32]

theorem fp32Fma_of_nan {a b c : Val} (h : a = .nan ∨ b = .nan ∨ c = .nan) : fp32Fma a b c = 0x7FC00000 := by
  obtain rfl | rfl | rfl := h
  · rfl
  · rw [fp32Fma, Val.mul_nan]
    rfl
  · rw [fp32Fma, Val.add_nan, toFp32]

@[simp] theorem Val.isNan_nan : Val.nan.isNan = true := rfl

theorem Val.isNan_of_ne {a : Val} (h : a ≠ .nan) : a.isNan = false := by
  cases a with
  | nan => exact absurd rfl h
  | inf | fin => rfl

section
variable {isMax : Bool} {x y : W32}

theorem fp32MinMax_both_nan (hx : ofFp32 x = .nan) (hy : ofFp32 y = .nan) : fp32MinMax isMax x y = 0x7FC00000 := by
  simp only [fp32MinMax, hx, hy, Val.isNan_nan]

theorem fp32MinMax_left_nan (hx : ofFp32 x = .nan) (hy : ofFp32 y ≠ .nan) : fp32MinMax isMax x y = y := by
  simp only [fp32MinMax, hx, Val.isNan_of_ne hy, Val.isNan_nan]

theorem fp32MinMax_right_nan (hx : ofFp32 x ≠ .nan) (hy : ofFp32 y = .nan) : fp32MinMax isMax x y = x := by
  simp only [fp32MinMax, hy, Val.isNan_of_ne hx, Val.isNan_nan]

end

theorem fp32MinMax_zeros (isMax : Bool) {x y : W32} (h : x = 0x80000000 ∧ y = 0 ∨ x = 0 ∧ y = 0x80000000) :
    fp32MinMax isMax x y = if isMax then 0 else 0x80000000 := by
  obtain ⟨rfl, rfl⟩ | ⟨rfl, rfl⟩ := h
  · revert isMax; decide
  · revert isMax; decide

/-- FMIN and FMAX on a pair of special operands, in the order R130 gives them. -/
theorem fp32MinMax_special (isMax : Bool) (x y : W32) :
    (ofFp32 x = .nan ∧ ofFp32 y = .nan → fp32MinMax isMax x y = 0x7FC00000) ∧
    (ofFp32 x = .nan ∧ ¬ ofFp32 y = .nan → fp32MinMax isMax x y = y) ∧
    (¬ ofFp32 x = .nan ∧ ofFp32 y = .nan → fp32MinMax isMax x y = x) ∧
    (x = 0x80000000 ∧ y = 0 ∨ x = 0 ∧ y = 0x80000000 → fp32MinMax isMax x y = if isMax then 0 else 0x80000000) :=
  ⟨fun h => fp32MinMax_both_nan h.1 h.2, fun h => fp32MinMax_left_nan h.1 h.2, fun h => fp32MinMax_right_nan h.1 h.2,
    fp32MinMax_zeros isMax⟩

/-- No sign modifier. -/
def plainSigns : SignMods := { absA := false, negA := false, absB := false, negB := false, absC := false, negC := false }

section
variable {t : GroupRef} {f : RFmt} {s s1 : State} {i : Issue} {c : Instr}
variable (hwf : Tab.wf 0 i.grp.regs = true) (h : issues t f.guard s i s1)

theorem fpu2_plain (op : W32 → W32 → W32) : fpu2 t f plainSigns op s = alu2 t f op s := rfl

include hwf h

/-- A two-operand FP32 instruction without sign modifiers. -/
theorem fpu2_result {op : W32 → W32 → W32} (hr : allocated [f.rd, f.ra, f.rb] i)
    (hc : exec c s = .next (fpu2 t f plainSigns op s)) :
    regResult c t s s1 i f.rd (fun l => op (getReg i.grp l f.ra.toNat) (getReg i.grp l f.rb.toNat)) :=
  regResult_of_alu2 hwf h hr (by rw [hc, fpu2_plain]) fun _ => rfl

theorem ffma_result (hr : allocated [f.rd, f.ra, f.rb, f.rc] i) :
    regResult (.ffma t f plainSigns) t s s1 i f.rd (fun l => fp32Fma (ofFp32 (getReg i.grp l f.ra.toNat))
      (ofFp32 (getReg i.grp l f.rb.toNat)) (ofFp32 (getReg i.grp l f.rc.toNat))) :=
  regResult_of_alu1 (rs := [f.ra, f.rb, f.rc])
    (v := fun i lane => fp32Fma (ofFp32 (fpA i f plainSigns lane)) (ofFp32 (fpB i f plainSigns lane))
      (ofFp32 (fpC i f plainSigns lane))) hwf h rfl hr rfl

end

end Sys2Proof.Machine

open Sys2Proof Sys2Proof.Machine

/-- Settles O6: without sign modifiers each instruction applies the exact operation and one rounding to its lane's registers. -/
theorem fp32ResultsAndCanonicalNaN : Obligations.Fp32ResultsAndCanonicalNaN := by
  unfold Obligations.Fp32ResultsAndCanonicalNaN
  intro t f s s1 i hwf h hr no a b c nan
  have two : allocated [f.rd, f.ra, f.rb] i := hr.mono (by simp)
  have written {instr : Instr} {op : W32 → W32 → W32} := fpu2_result hwf h (c := instr) (op := op) two
  refine ⟨⟨_, written rfl, fun _ => rfl, fun _ => fp32Add_of_nan⟩, ⟨_, written rfl, fun _ => rfl, fun l hl => ?fsub⟩,
    ⟨_, written rfl, fun _ => rfl, fun _ => fp32Mul_of_nan⟩, ⟨_, ffma_result hwf h hr, fun _ => rfl, fun _ => fp32Fma_of_nan⟩,
    ⟨_, written rfl, fun l => fp32MinMax_special false (a l) (b l)⟩,
    ⟨_, written rfl, fun l => fp32MinMax_special true (a l) (b l)⟩⟩
  case fsub => exact fp32Add_of_nan (hl.imp_right fun hb => congrArg Val.neg hb)
end

section
/-! SUPPORT. Conversions and functions on special operands (R128, R131), and the bound an approximation keeps (R129). -/

namespace Sys2Proof.Machine

section
variable {x : W32}

/-- An operand that SQRT, RSQ and LG2 have no result for: a NaN, a negative number, or -∞ (R128). -/
def noRoot (x : W32) : Prop := ofFp32 x = .nan ∨ (∃ m e, ofFp32 x = .fin true m e ∧ 0 < m) ∨ x = 0xFF800000

theorem sqrt32_noRoot (h : noRoot x) : sqrt32 (ofFp32 x) = 0x7FC00000 := by
  obtain h | ⟨m, e, h, hm⟩ | rfl := h
  · rw [h]; rfl
  · rw [h, sqrt32, if_neg (by omega), if_pos rfl]
  · decide

theorem rsq32_noRoot (h : noRoot x) : rsq32 (ofFp32 x) = 0x7FC00000 := by
  obtain h | ⟨m, e, h, hm⟩ | rfl := h
  · rw [h]; rfl
  · rw [h, rsq32, if_neg (by omega), if_pos rfl]
  · decide

theorem lg2_noRoot (h : noRoot x) : lg2 (ofFp32 x) = 0x7FC00000 := by
  obtain h | ⟨m, e, h, hm⟩ | rfl := h
  · rw [h]; rfl
  · rw [h, lg2, if_neg (by omega), if_pos rfl]
  · decide

theorem rcp_special : (ofFp32 x = .nan → rcp (ofFp32 x) = 0x7FC00000) ∧ (x = 0 → rcp (ofFp32 x) = 0x7F800000) ∧
    (x = 0x80000000 → rcp (ofFp32 x) = 0xFF800000) ∧ (x = 0x7F800000 → rcp (ofFp32 x) = 0) ∧
    (x = 0xFF800000 → rcp (ofFp32 x) = 0x80000000) := by
  refine ⟨fun h => by rw [h]; rfl, ?_, ?_, ?_, ?_⟩ <;> (rintro rfl; decide)

theorem sqrt32_exact (h : x = 0 ∨ x = 0x80000000 ∨ x = 0x7F800000) : sqrt32 (ofFp32 x) = x := by
  obtain rfl | rfl | rfl := h <;> decide

theorem rsq32_exact : (x = 0 → rsq32 (ofFp32 x) = 0x7F800000) ∧ (x = 0x80000000 → rsq32 (ofFp32 x) = 0xFF800000) ∧
    (x = 0x7F800000 → rsq32 (ofFp32 x) = 0) := by
  refine ⟨?_, ?_, ?_⟩ <;> (rintro rfl; decide)

theorem ex2_special : (ofFp32 x = .nan → ex2 (ofFp32 x) = 0x7FC00000) ∧
    (x = 0 ∨ x = 0x80000000 → ex2 (ofFp32 x) = 0x3F800000) ∧ (x = 0x7F800000 → ex2 (ofFp32 x) = 0x7F800000) ∧
    (x = 0xFF800000 → ex2 (ofFp32 x) = 0) := by
  refine ⟨fun h => by rw [h]; rfl, ?_, ?_, ?_⟩
  · rintro (rfl | rfl) <;> decide
  · rintro rfl; decide
  · rintro rfl; decide

theorem lg2_exact : (x = 0 ∨ x = 0x80000000 → lg2 (ofFp32 x) = 0xFF800000) ∧
    (x = 0x7F800000 → lg2 (ofFp32 x) = 0x7F800000) ∧ (x = 0x3F800000 → lg2 (ofFp32 x) = 0) := by
  refine ⟨?_, ?_, ?_⟩
  · rintro (rfl | rfl) <;> decide
  · rintro rfl; decide
  · rintro rfl; decide

end

/-! ### CVT of an FP32 operand -/

theorem cvtOp_fp32 (dst : CvtFmt) (rnd : Rounding) (sat : Bool) (x : W32) :
    cvtOp .fp32 dst rnd sat x = BitVec.ofNat 32 (cvt dst rnd sat (ofFp32 x)) := by
  have hx : x.toNat % 2 ^ cvtBits .fp32 = x.toNat := Nat.mod_eq_of_lt x.isLt
  rw [cvtOp, hx]
  rfl

theorem ofFp32_infinity : ofFp32 0x7F800000 = .inf false := by decide

/-! ### Approximations (R129) -/

theorem exactAdd_rat (x y : Int) (e f : Int) :
    ((exactAdd x e y f).1 : ℚ) * 2 ^ (exactAdd x e y f).2 = x * 2 ^ e + y * 2 ^ f := by
  have split_pow {a b : Int} (h : a ≤ b) : (2 : ℚ) ^ b = 2 ^ (b - a).toNat * 2 ^ a := by
    rw [← zpow_natCast, ← zpow_add₀ two_ne_zero, Int.toNat_of_nonneg (by omega)]
    congr 1
    omega
  unfold exactAdd
  split
  · next h =>
    push_cast
    rw [split_pow h]
    ring
  · next h =>
    push_cast
    rw [split_pow (show f ≤ e by omega)]
    ring

/-- The exact difference of two finite values. -/
theorem exactAdd_sub_rat (a b : Bool) (m n : Nat) (e f : Int) :
    ((exactAdd (sgn a m) e (-(sgn b n)) f).1 : ℚ) * 2 ^ (exactAdd (sgn a m) e (-(sgn b n)) f).2 =
      Val.rat (.fin a m e) - Val.rat (.fin b n f) := by
  rw [exactAdd_rat, Val.rat, Val.rat]
  push_cast
  ring

/-- The order of two finite values is that of the numbers they stand for. -/
theorem Val.cmp_fin_lt {a b : Bool} {m n : Nat} {e f : Int} :
    Val.cmp (.fin a m e) (.fin b n f) = .lt ↔ Val.rat (.fin a m e) < Val.rat (.fin b n f) := by
  have hneg : Val.cmp (.fin a m e) (.fin b n f) = .lt ↔ (exactAdd (sgn a m) e (-(sgn b n)) f).1 < 0 := by
    simp only [Val.cmp]
    split
    · simpa
    · split <;> simp <;> omega
  have hpos : (0 : ℚ) < 2 ^ (exactAdd (sgn a m) e (-(sgn b n)) f).2 := zpow_pos two_pos _
  rw [hneg, ← sub_neg (a := Val.rat _), ← exactAdd_sub_rat, mul_neg_iff]
  simp [hpos, hpos.not_gt]

/-- Clearing the sign of a finite value gives its distance from 0. -/
theorem Val.abs_rat (a : Bool) (m : Nat) (e : Int) : Val.rat (.fin false m e) = |Val.rat (.fin a m e)| := by
  have hsign : |((sgn a m : Int) : ℚ)| = m := by cases a <;> simp [sgn]
  rw [Val.rat, Val.rat, abs_mul, hsign, abs_of_pos (zpow_pos two_pos e)]
  rfl

/-- An approximation is the nearest result, or lies within half the bound of R129 of it (log entry 96). -/
theorem approx_near (exact free : W32) : approx exact free = exact ∨
    |(ofFp32 exact).rat - (ofFp32 (approx exact free)).rat| * 2 ^ 22 < |(ofFp32 exact).rat| := by
  unfold approx
  by_cases hok : approxOk exact free = true
  · rw [if_pos hok]
    right
    unfold approxOk at hok
    split at hok
    · next a m e b n f hx hy =>
      rw [decide_eq_true_eq, Val.cmp_fin_lt, Val.abs_rat a m e] at hok
      have hpos : (0 : ℚ) < 2 ^ (exactAdd (sgn a m) e (-(sgn b n)) f).2 := zpow_pos two_pos _
      rw [hx, hy, ← exactAdd_sub_rat, abs_mul, abs_of_pos hpos]
      refine lt_of_eq_of_lt ?_ hok
      have hnum (k : Nat) : ((sgn false k : Int) : ℚ) = k := rfl
      rw [Val.rat, hnum, Nat.cast_mul, Nat.cast_natAbs, Int.cast_abs, Nat.cast_pow, Nat.cast_ofNat]
      ring
    · exact absurd hok (by simp)
  · exact .inl (if_neg hok)

/-- The group that an approximation of the correctly rounded `op` leaves. -/
def approxGroup (f : RFmt) (op : Val → W32) (i : Issue) : Group :=
  nextPc (eachLane i.lanes (fun lane g =>
    setReg g lane f.rd.toNat (approx (op (ofFp32 (opA i f lane))) (laneFree i lane))) i.grp)

section
variable {t : GroupRef} {f : RFmt} {s s1 : State} {i : Issue} {op : Val → W32}
variable (h : issues t f.guard s i s1) (hr : allocated [f.rd, f.ra] i)
include h hr

theorem aluApprox_issued : aluApprox t f op s = if i.repro then trapGroup t 0x24 0 s1 else
    { setGroup t (approxGroup f op { i with free := s1.free }) s1 with
      free := (setGroup t (approxGroup f op { i with free := s1.free }) s1).free + 16 } :=
  issue_next h (regsOk_of_allocated hr)

theorem aluApprox_next (hrepro : i.repro = false) : aluApprox t f op s =
    { setGroup t (approxGroup f op { i with free := s1.free }) s1 with free := s1.free + 16 } := by
  rw [aluApprox_issued h hr, hrepro, if_neg Bool.false_ne_true, setGroup_free]

theorem aluApprox_repro (hrepro : i.repro = true) : aluApprox t f op s = trapGroup t 0x24 0 s1 := by
  rw [aluApprox_issued h hr, if_pos hrepro]

end

end Sys2Proof.Machine

open Sys2Proof Sys2Proof.Machine

/-- Settles O8: each function's special results, and what CVT makes of an FP32 NaN and of +∞ in every format. -/
theorem conversionsAndFunctions : Obligations.ConversionsAndFunctions := by
  unfold Obligations.ConversionsAndFunctions
  intro t f rnd s s1 i hwf h hr a negative
  have written {c : Instr} {op : W32 → W32} := regResult_of_aluU hwf h (c := c) (op := op) hr (hv := fun _ => rfl)
  refine ⟨⟨_, written rfl, fun l => rcp_special⟩, ⟨_, written rfl, fun l => ⟨sqrt32_noRoot, sqrt32_exact⟩⟩,
    ⟨_, written rfl, fun l => ⟨rsq32_noRoot, rsq32_exact⟩⟩, ⟨_, written rfl, fun l => ex2_special⟩,
    ⟨_, written rfl, fun l => ⟨lg2_noRoot, lg2_exact⟩⟩, fun dst sat => ⟨_, written rfl, fun l => ⟨fun ha => ?nan, fun ha => ?inf⟩⟩⟩
  case nan =>
    rw [cvtOp_fp32, ha]
    cases dst <;> rfl
  case inf =>
    have hinf : ofFp32 (a l) = .inf false := ha ▸ ofFp32_infinity
    rw [cvtOp_fp32, hinf]
    cases dst <;> cases sat <;> rfl

/-- Settles O9: an approximation's free value is taken only within half the bound of R129 (log entry 96). -/
theorem approximationsStayNear : Obligations.ApproximationsStayNear := by
  unfold Obligations.ApproximationsStayNear
  intro t f s s1 i hwf h hr p hp
  have hexec : exec p.1 s = .next (aluApprox t f p.2 s) := by
    simp only [List.mem_cons, List.not_mem_nil, or_false] at hp
    obtain rfl | rfl | rfl | rfl := hp <;> rfl
  refine ⟨fun hrepro => ?near, fun hrepro => ?traps⟩
  case near =>
    rw [hexec, aluApprox_next h hr hrepro]
    exact ⟨_, _, rfl, wroteReg_eachLane { i with free := s1.free } f.rd _ hwf, fun l => approx_near _ _⟩
  case traps =>
    rw [hexec, aluApprox_repro h hr hrepro]
    exact ⟨_, rfl, trapped_trapGroup h 0x24 0⟩
end

section
/-! SUPPORT. The random numbers of a thread (R102, R107, R132): what writing four registers in each selected lane leaves. -/

namespace Sys2Proof.Machine

/-- A register of a lane after one of some lane is written, by number. -/
theorem getReg_setReg_number {g : Group} (hwf : Tab.wf 0 g.regs = true) {r r' : Nat} (hr : r < 256) (hr' : r' < 256)
    (lane lane' : Nat) (v : W32) :
    getReg (setReg g lane r v) lane' r' = if lane' = lane ∧ r' = r then v else getReg g lane' r' := by
  have h := getReg_setReg g lane lane' (BitVec.ofNat 8 r) (BitVec.ofNat 8 r') v hwf
  have hbyte : ((BitVec.ofNat 8 r' : Byte) = BitVec.ofNat 8 r) ↔ r' = r := by
    rw [← BitVec.toNat_inj, BitVec.toNat_ofNat, BitVec.toNat_ofNat, Nat.mod_eq_of_lt hr, Nat.mod_eq_of_lt hr']
  simpa only [BitVec.toNat_ofNat, Nat.mod_eq_of_lt (show r < 2 ^ 8 from hr), Nat.mod_eq_of_lt (show r' < 2 ^ 8 from hr'), hbyte]
    using h

/-- What four words hold at place k. -/
def wordAt (w : W32 × W32 × W32 × W32) : Nat → W32
  | 0 => w.1
  | 1 => w.2.1
  | 2 => w.2.2.1
  | _ => w.2.2.2

theorem setFour_regs_wf {g : Group} (hwf : Tab.wf 0 g.regs = true) (lane rd : Nat) (w : W32 × W32 × W32 × W32) :
    Tab.wf 0 (setFour g lane rd w).regs = true :=
  setReg_regs_wf _ _ _ _ (setReg_regs_wf _ _ _ _ (setReg_regs_wf _ _ _ _ (setReg_regs_wf _ _ _ _ hwf)))

theorem getReg_setFour {g : Group} (hwf : Tab.wf 0 g.regs = true) {rd r : Nat} (hrd : rd + 3 < 256) (hr : r < 256)
    (lane lane' : Nat) (w : W32 × W32 × W32 × W32) : getReg (setFour g lane rd w) lane' r =
      if lane' = lane ∧ rd ≤ r ∧ r < rd + 4 then wordAt w (r - rd) else getReg g lane' r := by
  have h0 := setReg_regs_wf g lane rd w.1 hwf
  have h1 := setReg_regs_wf _ lane (rd + 1) w.2.1 h0
  have h2 := setReg_regs_wf _ lane (rd + 2) w.2.2.1 h1
  rw [setFour, getReg_setReg_number h2 (by omega) hr, getReg_setReg_number h1 (by omega) hr,
    getReg_setReg_number h0 (by omega) hr, getReg_setReg_number hwf (by omega) hr]
  by_cases hl : lane' = lane
  · obtain hout | ⟨k, hk, rfl⟩ : ¬ (rd ≤ r ∧ r < rd + 4) ∨ ∃ k < 4, r = rd + k := by
      by_cases hin : rd ≤ r ∧ r < rd + 4
      · exact .inr ⟨r - rd, by omega, by omega⟩
      · exact .inl hin
    · rw [if_neg (by omega), if_neg (by omega), if_neg (by omega), if_neg (by omega), if_neg (fun h => hout h.2)]
    · rw [if_pos (c := _ ∧ _ ∧ _) ⟨hl, by omega, by omega⟩, Nat.add_sub_cancel_left]
      interval_cases k <;> simp [hl, wordAt]
  · simp [hl]

section
variable (g : Group) (lane rd : Nat) (w : W32 × W32 × W32 × W32)

@[simp] theorem setFour_pc : (setFour g lane rd w).pc = g.pc := rfl
@[simp] theorem setFour_flags : (setFour g lane rd w).flags = g.flags := rfl
@[simp] theorem setFour_draws : (setFour g lane rd w).draws = g.draws := rfl
theorem sameControl_setFour : sameControl g (setFour g lane rd w) := ⟨rfl, rfl, rfl, rfl, rfl, rfl⟩

end

/-! ### Lanes one after another -/

theorem eachLane_concat (l : List Nat) (x : Nat) (f : Nat → Group → Group) (g : Group) :
    eachLane (l ++ [x]) f g = f x (eachLane l f g) := by simp [eachLane]

/-- What each lane's step keeps, the lanes together keep. -/
theorem eachLane_keeps {p : Group → Prop} {f : Nat → Group → Group} (hstep : ∀ x g, p g → p (f x g)) (l : List Nat) {g : Group}
    (hg : p g) : p (eachLane l f g) := by
  induction l using List.reverseRecOn with
  | nil => exact hg
  | append_singleton l x ih =>
    rw [eachLane_concat]
    exact hstep x _ ih

/-- Lanes whose steps leave the group's control state leave it together. -/
theorem sameControl_eachLane {f : Nat → Group → Group} (hf : ∀ x g, sameControl g (f x g)) (l : List Nat) (g : Group) :
    sameControl g (nextPc (eachLane l f g)) := by
  refine eachLane_keeps (p := sameControl g) (fun x g' hg' => ?_) l ⟨rfl, rfl, rfl, rfl, rfl, rfl⟩
  obtain ⟨h1, h2, h3, h4, h5, h6⟩ := hf x g'
  obtain ⟨k1, k2, k3, k4, k5, k6⟩ := hg'
  exact ⟨h1.trans k1, h2.trans k2, h3.trans k3, h4.trans k4, h5.trans k5, h6.trans k6⟩

/-- Four words of each lane of a list, where a lane's step writes those of its lane among its registers. -/
theorem getReg_eachLane_four {f : Nat → Group → Group} {rd : Nat} {w : Nat → W32 × W32 × W32 × W32} (hrd : rd + 3 < 256)
    (hf : ∀ x g, (f x g).regs = (setFour g x rd (w x)).regs) (l : List Nat) {g : Group} (hwf : Tab.wf 0 g.regs = true)
    {r : Nat} (hr : r < 256) (lane : Nat) : getReg (eachLane l f g) lane r =
      if lane ∈ l ∧ rd ≤ r ∧ r < rd + 4 then wordAt (w lane) (r - rd) else getReg g lane r := by
  have hregs (x : Nat) (g : Group) : getReg (f x g) lane r = getReg (setFour g x rd (w x)) lane r := by
    rw [getReg, hf, getReg]
  induction l using List.reverseRecOn with
  | nil => simp [eachLane]
  | append_singleton l x ih =>
    have hwf' : Tab.wf 0 (eachLane l f g).regs = true :=
      eachLane_keeps (p := fun g => Tab.wf 0 g.regs = true)
        (fun x g hg => by rw [hf]; exact setFour_regs_wf hg x rd (w x)) l hwf
    rw [eachLane_concat, hregs, getReg_setFour hwf' hrd hr, ih]
    by_cases hx : lane = x
    · by_cases hin : rd ≤ r ∧ r < rd + 4 <;> simp [hx, hin]
    · simp [hx]

theorem hlRegs_le (d : BitVec 512) : hlRegs d ≤ 256 := by
  have : field d 285 5 < 2 ^ 5 := Nat.mod_lt _ (by norm_num)
  unfold hlRegs
  omega

/-- A group whose selected lanes have each written four words and nothing else among their registers and flags. -/
theorem wroteFour_eachLane {i : Issue} {f : Nat → Group → Group} {rd : Nat} {w : Nat → W32 × W32 × W32 × W32}
    (hrd : rd + 3 < 256) (hwf : Tab.wf 0 i.grp.regs = true) (hf : ∀ x g, (f x g).regs = (setFour g x rd (w x)).regs)
    (hpc : ∀ x g, (f x g).pc = g.pc) (hflags : ∀ x g, (f x g).flags = g.flags) :
    wroteFour i rd w (nextPc (eachLane i.lanes f i.grp)) := by
  have hregs {r : Nat} (hr : r < 256) (lane : Nat) := getReg_eachLane_four hrd hf i.lanes hwf hr lane
  have hpc' := eachLane_keeps (p := fun g => g.pc = i.grp.pc) (fun x g hg => (hpc x g).trans hg) i.lanes rfl
  have hflags' := eachLane_keeps (p := fun g => g.flags = i.grp.flags) (fun x g hg => (hflags x g).trans hg) i.lanes rfl
  have hword (lane : Nat) (hl : lane ∈ i.lanes) {k : Nat} (hk : k < 4) :
      getReg (nextPc (eachLane i.lanes f i.grp)) lane (rd + k) = wordAt (w lane) k := by
    have h := hregs (r := rd + k) (by omega) lane
    rwa [if_pos ⟨hl, by omega, by omega⟩, Nat.add_sub_cancel_left] at h
  refine ⟨congrArg (· + 8) hpc', hflags', fun lane hl => ?_, fun lane r hout => ?_⟩
  · exact ⟨hword lane hl (k := 0) (by omega), hword lane hl (k := 1) (by omega), hword lane hl (k := 2) (by omega),
      hword lane hl (k := 3) (by omega)⟩
  · have h := hregs r.isLt lane
    rwa [if_neg hout] at h

/-- The draw counts of a group whose selected lanes have each drawn once. -/
theorem draws_eachLane {i : Issue} {f : Nat → Group → Group} (hwf : Tab.wf 0 i.grp.draws = true)
    (hf : ∀ x g, (f x g).draws = Tab.set 0 g.draws x (Tab.get 0 i.grp.draws x + 1)) (lane : Nat) :
    Tab.get 0 (eachLane i.lanes f i.grp).draws lane =
      if lane ∈ i.lanes then Tab.get 0 i.grp.draws lane + 1 else Tab.get 0 i.grp.draws lane := by
  generalize i.lanes = l
  induction l using List.reverseRecOn with
  | nil => simp [eachLane]
  | append_singleton l x ih =>
    have hwf' : Tab.wf 0 (eachLane l f i.grp).draws = true :=
      eachLane_keeps (p := fun g => Tab.wf 0 g.draws = true) (fun x g hg => by rw [hf]; exact Tab.set_wf 0 x _ hg) l hwf
    rw [eachLane_concat, hf]
    by_cases hx : lane = x
    · subst hx
      rw [Tab.get_set_self 0 _ _ hwf']
      simp
    · rw [Tab.get_set_ne 0 _ _ (Ne.symm hx), ih]
      simp [hx]

/-! ### PHILOX and RNG -/

/-- The words of PHILOX in a lane: its counter and key stand in registers. -/
def philoxWords (f : RFmt) (i : Issue) (l : Nat) : W32 × W32 × W32 × W32 :=
  philox (getReg i.grp l f.ra.toNat) (getReg i.grp l (f.ra.toNat + 1)) (getReg i.grp l (f.ra.toNat + 2))
    (getReg i.grp l (f.ra.toNat + 3)) (getReg i.grp l f.rb.toNat) (getReg i.grp l (f.rb.toNat + 1))

/-- The words of RNG in a lane: its counter is its draws, its index and its launch's base (R107, R132). -/
def rngWords (t : GroupRef) (i : Issue) (l : Nat) : W32 × W32 × W32 × W32 :=
  philox (Tab.get 0 i.grp.draws l) (BitVec.ofNat 32 (tidOf i.desc t l)) (BitVec.ofNat 32 (tidOf i.desc t l / 2 ^ 32))
    (hlCtrBase i.desc) (hlKey0 i.desc) (hlKey1 i.desc)

/-- One lane's PHILOX. -/
def philoxLane (f : RFmt) (i : Issue) (l : Nat) (g : Group) : Group := setFour g l f.rd.toNat (philoxWords f i l)

/-- One lane's RNG, which counts the draw. -/
def rngLane (t : GroupRef) (f : RFmt) (i : Issue) (l : Nat) (g : Group) : Group :=
  let g' := setFour g l f.rd.toNat (rngWords t i l)
  { g' with draws := Tab.set 0 g'.draws l (Tab.get 0 i.grp.draws l + 1) }

/-- An instruction that only changes its group: its next state. -/
theorem alu_next {t : GroupRef} {guard : BitVec 4} {s s1 : State} {i : Issue} {rs : List Nat} {f : Issue → Nat → Group → Group}
    (h : issues t guard s i s1) (hr : regsOk rs i = true) :
    alu t guard rs f s = setGroup t (nextPc (eachLane i.lanes (f { i with free := s1.free }) i.grp)) s1 := issue_next h hr

section
variable {t : GroupRef} {f : RFmt} {s s1 : State} {i : Issue}

theorem philoxLane_free (i : Issue) (n : Nat) : philoxLane f { i with free := n } = philoxLane f i := rfl
theorem rngLane_free (i : Issue) (n : Nat) : rngLane t f { i with free := n } = rngLane t f i := rfl

theorem wroteFour_philox (hwf : Tab.wf 0 i.grp.regs = true) (hrd : f.rd.toNat + 3 < 256) :
    wroteFour i f.rd.toNat (philoxWords f i) (nextPc (eachLane i.lanes (philoxLane f i) i.grp)) :=
  wroteFour_eachLane hrd hwf (fun x g => by rw [philoxLane]) (fun x g => by rw [philoxLane, setFour_pc])
    fun x g => by rw [philoxLane, setFour_flags]

theorem wroteFour_rng (hwf : Tab.wf 0 i.grp.regs = true) (hrd : f.rd.toNat + 3 < 256) :
    wroteFour i f.rd.toNat (rngWords t i) (nextPc (eachLane i.lanes (rngLane t f i) i.grp)) :=
  wroteFour_eachLane hrd hwf (fun x g => by rw [rngLane]) (fun x g => by rw [rngLane, setFour_pc])
    fun x g => by rw [rngLane, setFour_flags]

theorem draws_rngLane (x : Nat) (g : Group) :
    (rngLane t f i x g).draws = Tab.set 0 g.draws x (Tab.get 0 i.grp.draws x + 1) := by rw [rngLane, setFour_draws]

variable (h : issues t f.guard s i s1) (hrd : f.rd.toNat + 3 < hlRegs i.desc)
include h hrd

theorem exec_philox (hra : f.ra.toNat + 3 < hlRegs i.desc) (hrb : f.rb.toNat + 1 < hlRegs i.desc) :
    exec (.philox t f) s = .next (setGroup t (nextPc (eachLane i.lanes (philoxLane f i) i.grp)) s1) := by
  have hlegal : regsOk [f.rd.toNat + 3, f.ra.toNat + 3, f.rb.toNat + 1] i = true := by simp [regsOk, hrd, hra, hrb]
  have hexec : exec (.philox t f) s =
    .next (alu t f.guard [f.rd.toNat + 3, f.ra.toNat + 3, f.rb.toNat + 1] (philoxLane f) s) := rfl
  rw [hexec, alu_next h hlegal, philoxLane_free]

theorem exec_rng : exec (.rng t f) s = .next (setGroup t (nextPc (eachLane i.lanes (rngLane t f i) i.grp)) s1) := by
  have hlegal : regsOk [f.rd.toNat + 3] i = true := by simp [regsOk, hrd]
  have hexec : exec (.rng t f) s = .next (alu t f.guard [f.rd.toNat + 3] (rngLane t f) s) := rfl
  rw [hexec, alu_next h hlegal, rngLane_free]

end

end Sys2Proof.Machine

open Sys2Proof Sys2Proof.Machine

/-- Settles O11: each selected lane writes the four words of its generator, and RNG counts the draw. -/
theorem philoxAndRng : Obligations.PhiloxAndRng := by
  unfold Obligations.PhiloxAndRng
  intro t f s s1 i hcanon h hrd
  obtain ⟨⟨hregs, -⟩, hdraws⟩ : (Tab.wf 0 i.grp.regs = true ∧ Tab.wf 0 i.grp.flags = true) ∧ Tab.wf 0 i.grp.draws = true := by
    simpa [groupCanon] using hcanon
  have hbyte : f.rd.toNat + 3 < 256 := hrd.trans_le (hlRegs_le _)
  exact ⟨fun hra hrb => ⟨_, exec_philox h hrd hra hrb, sameControl_eachLane (fun x g => sameControl_setFour g x _ _) _ _,
    wroteFour_philox hregs hbyte⟩, ⟨_, exec_rng h hrd, draws_eachLane hdraws draws_rngLane, wroteFour_rng hregs hbyte⟩⟩
end

section
/-! SUPPORT. Control flow of a thread group (R105, R136, R138): where a branch sends it, and what its two stacks hold. -/

namespace Sys2Proof.Machine

/-- A group that traps while its gang and registers stand in a state has trapped as R138 and R139 say. -/
theorem trapped_of_found {t : GroupRef} {i : Issue} {s : State} (hx : gangAt s t.launch t.gang = some i.gang)
    (hg : groupAt s t = some i.grp) (detail imm : Nat) : trapped t detail imm i s (trapGroup t detail imm s) := by
  have hset : setGroup t { i.grp with wait := .trapped } s =
      setGang { i.gang with groups := listSet i.gang.groups t.group { i.grp with wait := .trapped } } s := by
    rw [setGroup, hx]
  have hread := groupAt_setGroup (g' := { i.grp with wait := .trapped }) hg
  have htrap : trapGroup t detail imm s = noteTrap t.launch
      { detail := detail, pc := i.grp.pc, gang := t.gang, group := t.group, lanes := i.grp.active,
        imm := BitVec.ofNat 16 imm, master := i.master, time := now s } (setGroup t { i.grp with wait := .trapped } s) := by
    rw [trapGroup, hg, hx]
    rfl
  rw [htrap, hset] at *
  exact ⟨hread, rfl, rfl⟩

theorem signed_toNat {w : Nat} (x : BitVec w) : signed w x.toNat = x.toInt := by
  have hmod : x.toNat % 2 ^ w = x.toNat := Nat.mod_eq_of_lt x.isLt
  rw [signed, hmod, BitVec.toInt_eq_toNat_cond]
  rcases w with - | w
  · simp [BitVec.eq_nil x]
  · rw [Nat.add_sub_cancel, pow_succ]
    congr 1
    rw [eq_iff_iff]
    omega

/-- A branch offset counts whole instructions from the next one (log entry 17). -/
theorem branchPc_eq (pc : W64) (off : W32) :
    branchPc pc off = BitVec.ofNat 64 (((pc.toNat : Int) + 8 + 8 * off.toInt) % (2 ^ 64 : Int)).toNat := by
  rw [branchPc, signed_toNat, wrapInt]
  rfl

section
variable {t : GroupRef} {g : Group} {l : List Nat} {a b : W64} {first : Bool} {s : State}

theorem branchTo_none : branchTo t g [] a b first s = setGroup t { g with pc := b } s := rfl

theorem branchTo_all (hl : l ≠ []) (hall : maskOut g.active l = 0) :
    branchTo t g l a b first s = setGroup t { g with pc := a } s := by
  rw [branchTo, if_neg (by simpa using hl), if_pos hall]

variable (hl : l ≠ []) (hsome : maskOut g.active l ≠ 0)
include hl hsome

theorem branchTo_full (hfull : 16 ≤ g.recon.length) : branchTo t g l a b first s = trapGroup t 0x25 0 s := by
  rw [branchTo, if_neg (by simpa using hl), if_neg hsome, if_pos hfull]
  rfl

theorem branchTo_split (hroom : g.recon.length < 16) :
    branchTo t g l a b first s = setGroup t (splitGroup g l a b first) s := by
  rw [branchTo, if_neg (by simpa using hl), if_neg hsome, if_neg (by omega)]

end

/-- A divergence pushes the lanes that meet again, and runs one of its two paths while the other stands on the stack (R105). -/
theorem splitGroup_spec (g : Group) (l : List Nat) (a b : W64) (first : Bool) :
    ∃ r, (splitGroup g l a b first).recon = r :: g.recon ∧ r.mask = g.active ∧ (splitGroup g l a b first).regs = g.regs ∧
      (splitGroup g l a b first).alive = g.alive ∧
      ((splitGroup g l a b first).pc = a ∧ (splitGroup g l a b first).active = laneMask l ∧ r.elsePc = b ∧
          r.elseMask = maskOut g.active l ∨
        (splitGroup g l a b first).pc = b ∧ (splitGroup g l a b first).active = maskOut g.active l ∧ r.elsePc = a ∧
          r.elseMask = laneMask l) := by
  cases first with
  | true => exact ⟨_, rfl, rfl, rfl, rfl, .inl ⟨rfl, rfl, rfl, rfl⟩⟩
  | false => exact ⟨_, rfl, rfl, rfl, rfl, .inr ⟨rfl, rfl, rfl, rfl⟩⟩

theorem joinGroup_last {g : Group} {e : Recon} {rest : List Recon} (hrecon : g.recon = e :: rest)
    (hdone : e.elseMask &&& g.alive = 0) :
    joinGroup g = { g with pc := g.pc + 8, active := e.mask &&& g.alive, recon := rest } := by
  simp only [joinGroup, hrecon, if_pos hdone]
  rfl

theorem joinGroup_first {g : Group} {e : Recon} {rest : List Recon} (hrecon : g.recon = e :: rest)
    (hleft : e.elseMask &&& g.alive ≠ 0) : joinGroup g = { g with
      pc := e.elsePc, active := e.elseMask &&& g.alive, recon := { e with join := g.pc, elseMask := 0 } :: rest } := by
  simp only [joinGroup, hrecon, if_neg hleft]

section
variable {t : GroupRef} {f : BFmt} {s s1 : State} {i : Issue} (h : issues t f.guard s i s1)
include h

theorem exec_nop : exec (.nop t f) s = .next (setGroup t (nextPc i.grp) s1) :=
  congrArg Host.Outcome.next (issue_next h rfl)

/-- BRA: the free choice says which path of a divergence runs first (log entry 17). -/
theorem exec_bra : ∃ first, exec (.bra t f) s = .next (branchTo t i.grp i.lanes (branchPc i.grp.pc f.off) (i.grp.pc + 8) first
    { s1 with free := s1.free + 1 }) :=
  ⟨_, congrArg Host.Outcome.next (issue_next h rfl)⟩

/-- BRX of lanes that all name one target: no lane is left for another. -/
theorem exec_brx {a : Nat} (hne : i.lanes ≠ []) (hone : ∀ l ∈ i.lanes, getPair i.grp l f.ra.toNat = a)
    (hra : f.ra.toNat + 1 < hlRegs i.desc) : ∃ first b, exec (.brx t f) s =
      .next (branchTo t i.grp i.lanes (BitVec.ofNat 64 a) b first { s1 with free := s1.free + 2 }) := by
  have hpos : 0 < i.lanes.length := List.length_pos_iff.mpr hne
  have hlegal : regsOk [f.ra.toNat + 1] i = true := by simp [regsOk, hra]
  let k := (Config.freeValue 64 (s1.free + 1)).toNat % i.lanes.length
  let l := i.lanes.filter fun lane => getPair i.grp lane f.ra.toNat == getPair i.grp (i.lanes.getD k 0) f.ra.toNat
  have hexec : exec (.brx t f) s = .next (branchTo t i.grp l
      (BitVec.ofNat 64 (getPair i.grp (i.lanes.getD k 0) f.ra.toNat))
      (if l.length = i.lanes.length then i.grp.pc + 8 else i.grp.pc) (Config.freeChoice s1.free)
      { s1 with free := s1.free + 2 }) := congrArg Host.Outcome.next (issue_next h hlegal)
  have hchosen : getPair i.grp (i.lanes.getD k 0) f.ra.toNat = a := by
    have hk : k < i.lanes.length := Nat.mod_lt _ hpos
    rw [List.getD_eq_getElem _ _ hk]
    exact hone _ (List.getElem_mem hk)
  have hall : l = i.lanes := List.filter_eq_self.mpr fun lane hl => by rw [hone lane hl, hchosen, beq_self_eq_true]
  rw [hexec, hall, hchosen]
  exact ⟨_, _, rfl⟩

theorem exec_call (hne : i.lanes ≠ []) : exec (.call t f) s = .next (
    if 16 ≤ i.grp.rets.length then trapGroup t 0x25 0 s1
    else branchTo t { i.grp with rets := (i.grp.pc + 8) :: i.grp.rets } i.lanes (branchPc i.grp.pc f.off) (i.grp.pc + 8)
      true s1) := by
  have hexec : exec (.call t f) s = .next (if i.lanes.isEmpty then setGroup t (nextPc i.grp) s1
      else if 16 ≤ i.grp.rets.length then trapGroup t 0x25 0 s1
      else branchTo t { i.grp with rets := (i.grp.pc + 8) :: i.grp.rets } i.lanes (branchPc i.grp.pc f.off)
        (i.grp.pc + 8) true s1) := congrArg Host.Outcome.next (issue_next h rfl)
  rw [hexec, if_neg (by simpa using hne)]

theorem exec_ret (hne : i.lanes ≠ []) {a : W64} {rest : List W64} (hrets : i.grp.rets = a :: rest) :
    exec (.ret t f) s = .next (branchTo t { i.grp with rets := rest } i.lanes a (i.grp.pc + 8) true s1) := by
  have hexec : exec (.ret t f) s = .next (if i.lanes.isEmpty then setGroup t (nextPc i.grp) s1
      else match i.grp.rets with
        | [] => trapGroup t trStack 0 s1
        | a :: rest => branchTo t { i.grp with rets := rest } i.lanes a (i.grp.pc + 8) true s1) :=
    congrArg Host.Outcome.next (issue_next h rfl)
  rw [hexec, if_neg (by simpa using hne), hrets]

theorem exec_join (hne : i.lanes ≠ []) : exec (.join t f) s = .next (setGroup t (joinGroup i.grp) s1) := by
  have hexec : exec (.join t f) s = .next (setGroup t (if i.lanes.isEmpty then nextPc i.grp else joinGroup i.grp) s1) :=
    congrArg Host.Outcome.next (issue_next h rfl)
  rw [hexec, if_neg (by simpa using hne)]

end

end Sys2Proof.Machine

open Sys2Proof Sys2Proof.Machine

/-- Settles O12: a branch of all lanes, of none, or of some, and what CALL, RET and JOIN do to the stacks. -/
theorem branchesCallsAndJoins : Obligations.BranchesCallsAndJoins := by
  unfold Obligations.BranchesCallsAndJoins
  intro t f s s1 i h target all
  have htarget : branchPc i.grp.pc f.off = target := branchPc_eq _ _
  obtain ⟨first, hbra⟩ := exec_bra h
  obtain ⟨hgang, hgroup⟩ := issues_found h
  rw [htarget] at hbra
  refine ⟨exec_nop h, fun hl => ?none, fun hl hall => ?taken, fun hl hsome hroom => ?split, fun hl hsome hfull => ?full,
    fun a hl hall hone hra => ?brx, fun hl hall hroom => ?call, fun hl hfull => ?callFull, fun a rest hl hall hrets => ?ret,
    fun e rest hl hrecon hdone => ?joined, fun e rest hl hrecon hleft => ?waits⟩
  case none => rw [hbra, hl, branchTo_none]
  case taken => rw [hbra, branchTo_all hl hall]
  case split =>
    obtain ⟨r, hsplit⟩ := splitGroup_spec i.grp i.lanes target (i.grp.pc + 8) first
    exact ⟨_, r, by rw [hbra, branchTo_split hl hsome hroom], hsplit⟩
  case full =>
    refine ⟨_, by rw [hbra, branchTo_full hl hsome hfull], ?_⟩
    exact trapped_of_found (s := { s1 with free := s1.free + 1 }) hgang hgroup 0x25 0
  case brx =>
    obtain ⟨first, b, hbrx⟩ := exec_brx h hl hone hra
    rw [hbrx, branchTo_all hl hall]
  case call =>
    rw [exec_call h hl, if_neg (by omega), htarget]
    exact congrArg _ (branchTo_all hl hall)
  case callFull => exact ⟨_, by rw [exec_call h hl, if_pos hfull], trapped_trapGroup h 0x25 0⟩
  case ret =>
    rw [exec_ret h hl hrets]
    exact congrArg _ (branchTo_all hl hall)
  case joined => rw [exec_join h hl, joinGroup_last hrecon hdone]
  case waits => rw [exec_join h hl, joinGroup_first hrecon hleft]
end

section
/-! SUPPORT. The barrier, the exit of lanes and the SOFTWARE trap (R118, R138, R141). -/

namespace Sys2Proof.Machine

/-- Replacing an element is the library's. -/
theorem listSet_eq_set {α : Type} (l : List α) (n : Nat) (y : α) : listSet l n y = l.set n y := by
  induction l generalizing n with
  | nil => rfl
  | cons x l ih =>
    cases n with
    | zero => rfl
    | succ n => exact congrArg (x :: ·) (ih n)

section
variable {t : GroupRef} {s : State} {x : Gang} {g g' : Group}

theorem groups_of_groupAt (hx : gangAt s t.launch t.gang = some x) (hg : groupAt s t = some g) : x.groups[t.group]? = some g := by
  rwa [groupAt, hx] at hg

/-- The gang of a stored group holds it in its place. -/
theorem gangAt_setGroup (hx : gangAt s t.launch t.gang = some x) :
    gangAt (setGroup t g' s) t.launch t.gang = some { x with groups := x.groups.set t.group g' } := by
  rw [setGroup, hx, ← listSet_eq_set]
  exact gangAt_setGang hx rfl rfl

/-! ### BAR -/

/-- A group that waits before another group of its gang has come to the barrier waits there. -/
theorem barrierRelease_waits (hx : gangAt s t.launch t.gang = some x) {y : Group} (hy : y ∈ x.groups)
    (hwait : y.wait ≠ .barrier) : barrierRelease t.launch t.gang s = s := by
  rw [barrierRelease, hx]
  refine if_neg fun hall => hwait ?_
  simpa using List.all_eq_true.mp hall y hy

/-- When every group has come to the barrier, all go on past it. -/
theorem gangAt_barrierRelease (hx : gangAt s t.launch t.gang = some x) (hall : ∀ y ∈ x.groups, y.wait = .barrier) :
    gangAt (barrierRelease t.launch t.gang s) t.launch t.gang =
      some { x with groups := x.groups.map fun y => { nextPc y with wait := .none } } := by
  have hpass : (x.groups.all fun y => y.wait == .barrier) = true := List.all_eq_true.mpr fun y hy => by simpa using hall y hy
  rw [barrierRelease, hx]
  simp only [hpass, if_true]
  exact gangAt_setGang hx rfl rfl

/-! ### EXIT -/

/-- A gang with a group that has not exited goes on (R141). -/
theorem gangEnd_goes_on (hx : gangAt s t.launch t.gang = some x) {y : Group} (hy : y ∈ x.groups) (hwait : y.wait ≠ .exited) :
    gangEnd t.launch t.gang s = s := by
  rw [gangEnd, hx]
  refine if_neg fun hall => hwait ?_
  simpa using List.all_eq_true.mp hall y hy

end

theorem exitGroup_some {g : Group} {l : List Nat} (h : maskOut g.active l ≠ 0) : exitGroup g l = { g with
    pc := g.pc + 8, alive := maskOut g.alive l, active := maskOut g.active l } := by
  rw [exitGroup]
  exact if_pos h

theorem exitGroup_all {g : Group} {l : List Nat} (h : maskOut g.active l = 0) (hrecon : g.recon = []) :
    exitGroup g l = { g with alive := maskOut g.alive l, active := 0, wait := .exited, recon := [] } := by
  simp only [exitGroup, h, hrecon, afterExit, ne_eq, not_true_eq_false, if_false]

section
variable {t : GroupRef} {f : BFmt} {s s1 : State} {i : Issue} (h : issues t f.guard s i s1) (hne : i.lanes ≠ [])
include h hne

theorem exec_bar : exec (.bar t f) s = .next (barrierRelease t.launch t.gang (setGroup t { i.grp with wait := .barrier } s1)) := by
  have hexec : exec (.bar t f) s = .next (if i.lanes.isEmpty then setGroup t (nextPc i.grp) s1
      else barrierRelease t.launch t.gang (setGroup t { i.grp with wait := .barrier } s1)) :=
    congrArg Host.Outcome.next (issue_next h rfl)
  rw [hexec, if_neg (by simpa using hne)]

theorem exec_exit : exec (.exit t f) s =
    .next (pump (gangEnd t.launch t.gang (setGroup t (exitGroup i.grp i.lanes) s1))) := by
  have hexec : exitLanes t f s = if i.lanes.isEmpty then setGroup t (nextPc i.grp) s1
      else gangEnd t.launch t.gang (setGroup t (exitGroup i.grp i.lanes) s1) := issue_next h rfl
  rw [if_neg (by simpa using hne)] at hexec
  exact congrArg (fun x => Host.Outcome.next (pump x)) hexec

/-- EXIT in a gang of which a group has not exited ends lanes and nothing else of the gang. -/
theorem exec_exit_goes_on {k : Nat} {y : Group} (hy : (i.gang.groups.set t.group (exitGroup i.grp i.lanes))[k]? = some y)
    (hwait : y.wait ≠ .exited) : exec (.exit t f) s = .next (pump (setGroup t (exitGroup i.grp i.lanes) s1)) := by
  rw [exec_exit h hne, gangEnd_goes_on (gangAt_setGroup (issues_found h).1) (List.mem_of_getElem? hy) hwait]

end

theorem exec_trap {t : GroupRef} {f : IFmt} {s s1 : State} {i : Issue} (h : issues t f.guard s i s1) (hne : i.lanes ≠ []) :
    exec (.trap t f) s = .next (trapGroup t 0x27 (f.imm.toNat % 2 ^ 16) s1) := by
  have hexec : exec (.trap t f) s = .next (if i.lanes.isEmpty then setGroup t (nextPc i.grp) s1
      else trapGroup t 0x27 (f.imm.toNat % 2 ^ 16) s1) := congrArg Host.Outcome.next (issue_next h rfl)
  rw [hexec, if_neg (by simpa using hne)]

end Sys2Proof.Machine

open Sys2Proof Sys2Proof.Machine

/-- Settles O13: a gang goes on past its barrier together, and EXIT ends lanes, then their group. -/
theorem barrierExitAndSoftwareTrap : Obligations.BarrierExitAndSoftwareTrap := by
  unfold Obligations.BarrierExitAndSoftwareTrap
  intro t f m s s1 i
  refine ⟨fun h hne => ?_, fun h hne => ⟨_, exec_trap h hne, trapped_trapGroup h 0x27 _⟩⟩
  obtain ⟨hgang, hgroup⟩ := issues_found h
  have hgroups := groups_of_groupAt hgang hgroup
  have hrunning : i.grp.wait = .none := by
    obtain ⟨-, -, w, ⟨hissue, -⟩, -⟩ := h
    exact (issueOf_some hissue).2.2.2.2.2.2.1
  have here (g : Group) : (i.gang.groups.set t.group g)[t.group]? = some g := by
    simp [(List.getElem?_eq_some_iff.mp hgroups).1]
  have other {k : Nat} (hk : k ≠ t.group) (g : Group) : (i.gang.groups.set t.group g)[k]? = i.gang.groups[k]? :=
    List.getElem?_set_ne (Ne.symm hk)
  refine ⟨?waits, fun hothers => ?release, fun hsome => ?someLanes, ?allLanes⟩
  case waits =>
    rintro ⟨k, g, hk, hg, hwait⟩
    have hin := List.mem_of_getElem? ((other hk { i.grp with wait := .barrier }).trans hg)
    rw [exec_bar h hne, barrierRelease_waits (gangAt_setGroup hgang) hin hwait]
  case release =>
    have hall : ∀ y ∈ i.gang.groups.set t.group { i.grp with wait := .barrier }, y.wait = .barrier := by
      intro y hy
      obtain ⟨k, hk⟩ := List.getElem?_of_mem hy
      by_cases hkt : k = t.group
      · subst hkt
        rw [here, Option.some_inj] at hk
        rw [← hk]
      · exact hothers k y hkt ((other hkt _).symm.trans hk)
    refine ⟨_, _, exec_bar h hne, gangAt_barrierRelease (gangAt_setGroup hgang) hall, by simp, fun k g hg => ?_⟩
    by_cases hkt : k = t.group
    · subst hkt
      obtain rfl : i.grp = g := by simpa [hgroups] using hg
      simp only [List.getElem?_map, here]
      rfl
    · simp only [List.getElem?_map, other hkt, hg]
      rfl
  case someLanes =>
    have hgroup' := exitGroup_some hsome
    rw [exec_exit_goes_on h hne (here _) (by rw [hgroup']; simp [hrunning]), hgroup']
  case allLanes =>
    rintro hall hrecon ⟨k, g, hk, hg, hwait⟩
    rw [exec_exit_goes_on h hne ((other hk _).trans hg) hwait, exitGroup_all hall hrecon]
end

section
/-! SUPPORT. Accesses of a lane to its gang's local store (R113, R120, R126, R138). -/

namespace Sys2Proof.Machine

@[simp] theorem setRegs_pc (g : Group) (lane r : Nat) (bs : List Byte) : (setRegs g lane r bs).pc = g.pc := by
  unfold setRegs
  generalize List.range (ceilDiv bs.length 4) = l
  induction l using List.reverseRecOn with
  | nil => rfl
  | append_singleton l x ih => rw [List.foldl_append]; exact ih

section
variable {t : GroupRef} {f : MFmt} {s s1 : State} {i : Issue} {lane a n : Nat} {legal : Issue → Bool} {repro : Bool}
variable {op : Issue → Nat → Nat → Group × Mem → Group × Mem}
variable (h : issues t f.guard s i s1) (hlane : i.lanes = [lane]) (ha : localAddr i f lane = (a : Int)) (hlegal : legal i = true)
variable (hrepro : (repro && i.repro) = false)
include h hlane ha hlegal hrepro

/-- An access of one lane: its alignment is judged before its bounds (log entry 124). -/
theorem localOp_lane : localOp t f n legal repro op s = if a % n ≠ 0 then trapGroup t 0x21 0 s1
    else if hlLocal i.desc < a + n then trapGroup t 0x28 0 s1
    else setBoth t (nextPc (op { i with free := s1.free } lane a (i.grp, i.gang.store)).1)
      (op { i with free := s1.free } lane a (i.grp, i.gang.store)).2 s1 := by
  rw [localOp, issue_next h hlegal]
  obtain ⟨j, hj⟩ : ∃ j : Issue, j = { i with free := s1.free } := ⟨_, rfl⟩
  have hlanes : j.lanes = [lane] := by rw [hj]; exact hlane
  have haddr : localAddr j f lane = (a : Int) := by rw [hj]; exact ha
  have hdesc : j.desc = i.desc := by rw [hj]; rfl
  have hrepro' : (repro && j.repro) = false := by rw [hj]; exact hrepro
  have hfrom : (j.grp, j.gang.store) = (i.grp, i.gang.store) := by rw [hj]
  have halign : decide ((a : Int) % n ≠ 0) = decide (a % n ≠ 0) := decide_eq_decide.mpr (by rw [← Int.natCast_mod]; omega)
  have hbound : (decide ((a : Int) < 0) || decide ((hlLocal i.desc : Int) < a + n)) = decide (hlLocal i.desc < a + n) := by
    rw [← Bool.decide_or]
    exact decide_eq_decide.mpr (by omega)
  rw [← hj]
  simp only [hrepro', hlanes, List.any_cons, List.any_nil, Bool.or_false, List.foldl_cons, List.foldl_nil, haddr, hdesc, hfrom,
    Int.toNat_natCast, halign, hbound, decide_eq_true_eq, Bool.false_eq_true, if_false]
  rfl

theorem localOp_stores (halign : a % n = 0) (hbound : a + n ≤ hlLocal i.desc) : localOp t f n legal repro op s =
    setBoth t (nextPc (op { i with free := s1.free } lane a (i.grp, i.gang.store)).1)
      (op { i with free := s1.free } lane a (i.grp, i.gang.store)).2 s1 := by
  rw [localOp_lane h hlane ha hlegal hrepro, if_neg (by omega), if_neg (by omega)]

theorem localOp_bounds (halign : a % n = 0) (hbound : hlLocal i.desc < a + n) :
    trapped t 0x28 0 i s1 (localOp t f n legal repro op s) := by
  rw [localOp_lane h hlane ha hlegal hrepro, if_neg (by omega), if_pos hbound]
  exact trapped_trapGroup h 0x28 0

theorem localOp_misaligned (halign : a % n ≠ 0) : trapped t 0x21 0 i s1 (localOp t f n legal repro op s) := by
  rw [localOp_lane h hlane ha hlegal hrepro, if_pos halign]
  exact trapped_trapGroup h 0x21 0

end

/-- Outside a reproducible context FADD works on a word, as the other atomics do (R122). -/
theorem atomWide_of_issues {t : GroupRef} {guard : BitVec 4} {s s1 : State} {i : Issue} (h : issues t guard s i s1)
    (hrepro : i.repro = false) (op : AtomOp) : atomWide op s t = false := by
  obtain ⟨-, -, w, ⟨hissue, -⟩, -⟩ := h
  obtain ⟨hcmd, -, -, -, -, hctx, -⟩ := issueOf_some hissue
  rw [atomWide, hcmd]
  simp only [← hctx, hrepro, Bool.and_false]

section
variable {t : GroupRef} {f : MFmt} {s s1 : State} {i : Issue} {lane a : Nat}
variable (h : issues t f.guard s i s1) (hlane : i.lanes = [lane]) (ha : localAddr i f lane = (a : Int))
include h hlane ha

theorem atom_local (op : AtomOp) (hrepro : i.repro = false) (hlegal : atomLegal op f true i = true)
    (halign : a % atomBytes f.ty.toNat = 0) (hbound : a + atomBytes f.ty.toNat ≤ hlLocal i.desc) :
    atom op t f true s = setBoth t
      { setRegs i.grp lane f.rd.toNat (memRead i.gang.store a (atomBytes f.ty.toNat)) with pc := i.grp.pc + 8 }
      (memWrite i.gang.store a (leBytes (atomBytes f.ty.toNat) (atomNew op f.ty.toNat
        (ofLe (memRead i.gang.store a (atomBytes f.ty.toNat))) (atomArgs op f i.grp lane).1 (atomArgs op f i.grp lane).2))) s1 := by
  have hwide := atomWide_of_issues h hrepro op
  unfold atom
  simp only [hwide, if_true, Bool.false_eq_true, if_false]
  rw [localOp_stores h hlane ha hlegal (by rw [hrepro, Bool.and_false]) halign hbound, nextPc, setRegs_pc]
  rfl

end

/-! ### What each row does in a lane -/

def loadLocal (n rd : Nat) (_ : Issue) (lane a : Nat) (gm : Group × Mem) : Group × Mem :=
  (setRegs gm.1 lane rd (memRead gm.2 a n), gm.2)
def storeLocal (n rd : Nat) (i : Issue) (lane a : Nat) (gm : Group × Mem) : Group × Mem :=
  (gm.1, memWrite gm.2 a (regBytes i.grp lane rd n))

section
variable {t : GroupRef} {f : MFmt} {s : State}

theorem exec_ldl : exec (.ldl t f) s =
    .next (localOp t f (accBytes f) (accLegal f) false (loadLocal (accBytes f) f.rd.toNat) s) := rfl
theorem exec_stl : exec (.stl t f) s =
    .next (localOp t f (accBytes f) (accLegal f) false (storeLocal (accBytes f) f.rd.toNat) s) := rfl
theorem exec_lld_local : exec (.lld t f true) s = .next (localOp t f 32 (fun i => ledgerLegal f i && regsOk [f.ra.toNat] i) false
    (loadLocal 32 (8 * f.rd.toNat)) s) := rfl
theorem exec_lst_local : exec (.lst t f true) s = .next (localOp t f 32 (fun i => ledgerLegal f i && regsOk [f.ra.toNat] i) false
    (storeLocal 32 (8 * f.rd.toNat)) s) := rfl

end

section
variable {t : GroupRef} {f : MFmt} {s s1 : State} {i : Issue} {lane a n : Nat} {legal : Issue → Bool}
variable (h : issues t f.guard s i s1) (hlane : i.lanes = [lane]) (ha : localAddr i f lane = (a : Int)) (hlegal : legal i = true)
variable (halign : a % n = 0) (hbound : a + n ≤ hlLocal i.desc)
include h hlane ha hlegal halign hbound

theorem localOp_load (rd : Nat) : localOp t f n legal false (loadLocal n rd) s =
    setBoth t { setRegs i.grp lane rd (memRead i.gang.store a n) with pc := i.grp.pc + 8 } i.gang.store s1 := by
  rw [localOp_stores h hlane ha hlegal (Bool.false_and _) halign hbound]
  simp only [loadLocal, nextPc, setRegs_pc]

theorem localOp_store (rd : Nat) : localOp t f n legal false (storeLocal n rd) s =
    setBoth t { i.grp with pc := i.grp.pc + 8 } (memWrite i.gang.store a (regBytes i.grp lane rd n)) s1 :=
  localOp_stores h hlane ha hlegal (Bool.false_and _) halign hbound

end

/-- The registers of an access of a load or store type lie in the allocation. -/
theorem accLegal_of {f : MFmt} {i : Issue} (hty : f.ty.toNat ≤ 5) (hra : f.ra.toNat < hlRegs i.desc)
    (hrd : f.rd.toNat + ceilDiv (accBytes f) 4 - 1 < hlRegs i.desc) : accLegal f i = true := by
  simp [accLegal, regsOk, regSpan, hty, hra, hrd]

/-- The registers of a local ledger access lie in the allocation. -/
theorem localLedgerLegal_of {f : MFmt} {i : Issue} (hrd : 8 * f.rd.toNat + 8 ≤ hlRegs i.desc)
    (hra : f.ra.toNat < hlRegs i.desc) : (ledgerLegal f i && regsOk [f.ra.toNat] i) = true := by
  simp [ledgerLegal, ledgersOk, regsOk, hrd, hra]

end Sys2Proof.Machine

open Sys2Proof Sys2Proof.Machine

/-- Settles O14: one lane's access to the local store, its alignment judged before its bounds. -/
theorem localStoreAccesses : Obligations.LocalStoreAccesses := by
  unfold Obligations.LocalStoreAccesses
  intro t f s s1 i lane a h hlane ha stored sz
  refine ⟨fun hty hra hrd => ?sized, fun hrd hra halign hbound => ?ledger, fun p hp => ?atomics⟩
  case sized =>
    have hlegal := accLegal_of hty hra hrd
    refine ⟨fun halign hbound => ?_, fun halign hbound => ?_, fun halign => ?_⟩ <;> rw [exec_ldl, exec_stl]
    · rw [localOp_load h hlane ha hlegal halign hbound, localOp_store h hlane ha hlegal halign hbound]
      exact ⟨rfl, rfl⟩
    · exact ⟨⟨_, rfl, localOp_bounds h hlane ha hlegal rfl halign hbound⟩,
        ⟨_, rfl, localOp_bounds h hlane ha hlegal rfl halign hbound⟩⟩
    · exact ⟨⟨_, rfl, localOp_misaligned h hlane ha hlegal rfl halign⟩, ⟨_, rfl, localOp_misaligned h hlane ha hlegal rfl halign⟩⟩
  case ledger =>
    have hlegal := localLedgerLegal_of hrd hra
    rw [exec_lld_local, exec_lst_local]
    rw [localOp_load h hlane ha hlegal halign hbound, localOp_store h hlane ha hlegal halign hbound]
    exact ⟨rfl, rfl⟩
  case atomics =>
    intro n old x y hrepro hlegal halign hbound
    have hexec : exec p.1 s = .next (atom p.2 t f true s) := by
      simp only [List.mem_cons, List.not_mem_nil, or_false] at hp
      obtain rfl | rfl | rfl | rfl | rfl | rfl | rfl | rfl | rfl := hp <;> rfl
    rw [hexec, atom_local h hlane ha p.2 hrepro hlegal halign hbound]
end

section
/-! SUPPORT. One rounding to nearest even (R130): no number of the format lies nearer, and a tie goes to the even one. -/

namespace Sys2Proof.Machine

/-! ### Multiples of a unit -/

/-- A multiple of the unit within half a unit is a nearest one; another as near makes it a tie. -/
theorem nearest_multiple {x u : ℚ} {q : Int} (hu : 0 < u) (hq : |x - q * u| * 2 ≤ u) (z : Int) :
    |x - q * u| ≤ |x - z * u| ∧ (|x - q * u| = |x - z * u| → z ≠ q → |x - q * u| * 2 = u) := by
  by_cases hz : z = q
  · exact ⟨by rw [hz], fun _ hne => absurd hz hne⟩
  · have hdist : u ≤ |q * u - z * u| := by
      have hone : (1 : ℚ) ≤ |((q - z : Int) : ℚ)| := by
        exact_mod_cast Int.one_le_abs (sub_ne_zero.mpr (Ne.symm hz))
      rw [← sub_mul, abs_mul, abs_of_pos hu, ← Int.cast_sub]
      exact le_mul_of_one_le_left hu.le hone
    have htri : |q * u - z * u| ≤ |x - q * u| + |x - z * u| := by
      rw [abs_sub_comm x (q * u)]
      exact abs_sub_le _ x _
    exact ⟨by linarith, fun heq _ => by linarith⟩

theorem zpow_natCast_add (a : Nat) (b : Int) : (2 : ℚ) ^ ((a : Int) + b) = 2 ^ a * 2 ^ b := by
  rw [zpow_add₀ two_ne_zero, zpow_natCast]

/-- A value of a higher exponent is a multiple of the unit. -/
theorem Val.rat_multiple {b : Bool} {k : Nat} {j u : Int} (h : u ≤ j) :
    ∃ z : Int, Val.rat (.fin b k j) = z * 2 ^ u := by
  refine ⟨sgn b k * 2 ^ (j - u).toNat, ?_⟩
  rw [Val.rat, show j = ((j - u).toNat : Int) + u by omega, zpow_natCast_add]
  push_cast
  rw [show ((((j - u).toNat : Int) + u - u).toNat) = (j - u).toNat by omega]
  ring

theorem Val.abs_rat_eq (b : Bool) (k : Nat) (j : Int) : |Val.rat (.fin b k j)| = k * 2 ^ j := (Val.abs_rat b k j).symm

/-- A value rounded to a unit within half of it: no number of at most p + 1 digits and an exponent of at least `low` lies nearer, where
the unit is the least one or the value fills its p + 1 digits. -/
theorem nearest_of_unit {p : Nat} {low u : Int} {neg b : Bool} {m q k : Nat} {e j : Int} {r : ℚ}
    (hr : r = Val.rat (.fin neg q u)) (herr : |Val.rat (.fin neg m e) - r| * 2 ≤ 2 ^ u)
    (hfull : u = low ∨ (2 : ℚ) ^ (p + u) ≤ m * 2 ^ e) (hk : k < 2 ^ (p + 1)) (hj : low ≤ j) :
    |Val.rat (.fin neg m e) - r| ≤ |Val.rat (.fin neg m e) - Val.rat (.fin b k j)| ∧
    (|Val.rat (.fin neg m e) - r| = |Val.rat (.fin neg m e) - Val.rat (.fin b k j)| → Val.rat (.fin b k j) ≠ r →
      |Val.rat (.fin neg m e) - r| * 2 = 2 ^ u) := by
  subst hr
  have hu : (0 : ℚ) < 2 ^ u := zpow_pos two_pos u
  by_cases hju : u ≤ j
  · obtain ⟨z, hz⟩ := Val.rat_multiple (b := b) (k := k) hju
    rw [hz]
    have hnear := nearest_multiple hu herr z
    refine ⟨hnear.1, fun heq hne => hnear.2 heq fun hc => hne ?_⟩
    rw [hc, Val.rat]
  · -- a number of a smaller exponent lies below the least of the value's own exponent
    have hfull : (2 : ℚ) ^ (p + u) ≤ m * 2 ^ e := hfull.resolve_left (by omega)
    have hsmall : |Val.rat (.fin b k j)| < 2 ^ (p + u) := by
      rw [Val.abs_rat_eq]
      calc (k : ℚ) * 2 ^ j < 2 ^ (p + 1) * 2 ^ j := by
            gcongr
            exact_mod_cast hk
        _ = 2 ^ (((p + 1 : Nat) : Int) + j) := (zpow_natCast_add _ _).symm
        _ ≤ 2 ^ (p + u) := zpow_le_zpow_right₀ one_le_two (by push_cast; omega)
    have hleast := (nearest_multiple hu herr (sgn neg (2 ^ p))).1
    have hpower : |Val.rat (.fin neg m e) - (sgn neg (2 ^ p) : Int) * 2 ^ u| = m * 2 ^ e - 2 ^ (p + u) := by
      rw [zpow_natCast_add] at hfull ⊢
      cases neg with
      | false => 
        simp only [Val.rat, sgn]
        push_cast
        exact abs_of_nonneg (by linarith)
      | true =>
        simp only [Val.rat, sgn]
        push_cast
        rw [abs_of_nonpos (by linarith)]
        ring
    have htri : |Val.rat (.fin neg m e)| - |Val.rat (.fin b k j)| ≤ |Val.rat (.fin neg m e) - Val.rat (.fin b k j)| :=
      abs_sub_abs_le_abs_sub _ _
    rw [Val.abs_rat_eq] at htri
    rw [hpower] at hleast
    have hlt : |Val.rat (.fin neg m e) - Val.rat (.fin neg q u)| <
        |Val.rat (.fin neg m e) - Val.rat (.fin b k j)| := by
      calc _ ≤ (m : ℚ) * 2 ^ e - 2 ^ (p + u) := hleast
        _ < _ := by linarith
    exact ⟨hlt.le, fun heq => absurd heq hlt.ne⟩

/-! ### Rounding -/

/-- Rounding away low digits leaves at most half of the last one, and half of it only at an even result. -/
theorem roundShift_nearest (neg : Bool) (m sh : Nat) :
    |(m : Int) - roundShift .nearest neg m sh * 2 ^ sh| * 2 ≤ 2 ^ sh ∧
    (|(m : Int) - roundShift .nearest neg m sh * 2 ^ sh| * 2 = 2 ^ sh → roundShift .nearest neg m sh % 2 = 0) ∧
    m / 2 ^ sh ≤ roundShift .nearest neg m sh ∧ roundShift .nearest neg m sh ≤ m / 2 ^ sh + 1 := by
  have hdiv : m / 2 ^ sh * 2 ^ sh + m % 2 ^ sh = m := Nat.div_add_mod' m (2 ^ sh)
  have hlt : m % 2 ^ sh < 2 ^ sh := Nat.mod_lt _ (by positivity)
  have hcast : (2 : Int) ^ sh = ((2 ^ sh : Nat) : Int) := by push_cast; rfl
  have hcase : roundShift .nearest neg m sh = m / 2 ^ sh ∧ 2 * (m % 2 ^ sh) ≤ 2 ^ sh ∧
        (2 * (m % 2 ^ sh) = 2 ^ sh → m / 2 ^ sh % 2 = 0) ∨
      roundShift .nearest neg m sh = m / 2 ^ sh + 1 ∧ 2 ^ sh ≤ 2 * (m % 2 ^ sh) ∧
        (2 * (m % 2 ^ sh) = 2 ^ sh → m / 2 ^ sh % 2 = 1) := by
    simp only [roundShift, Nat.shiftRight_eq_div_pow]
    grind
  rw [hcast]
  generalize roundShift .nearest neg m sh = n at *
  generalize m / 2 ^ sh = d at *
  generalize m % 2 ^ sh = r at *
  generalize 2 ^ sh = u at *
  obtain ⟨rfl, hle, heven⟩ | ⟨rfl, hle, hodd⟩ := hcase
  · have herr : (m : Int) - n * u = r := by rw [← hdiv]; push_cast; ring
    rw [herr, abs_of_nonneg (by omega)]
    omega
  · have herr : (m : Int) - (d + 1 : Nat) * u = r - u := by rw [← hdiv]; push_cast; ring
    rw [herr, abs_of_nonpos (by omega)]
    omega

/-- The least exponent of a format's numbers. -/
def FpFmt.low (f : FpFmt) : Int := 1 - f.bias - f.mb

/-- `q` at exponent `qe` is what a magnitude m × 2^e is rounded to before it is judged against the range: the multiple `n` of a unit,
within half a unit, and even at exactly half; the unit is the format's least, or the magnitude fills all digits. -/
structure Rounded (f : FpFmt) (neg : Bool) (m : Nat) (e : Int) (q : Nat) (qe unit : Int) (n : Nat) : Prop where
  multiple : Val.rat (.fin neg q qe) = Val.rat (.fin neg n unit)
  full : unit = f.low ∨ (2 : ℚ) ^ (f.mb + unit) ≤ m * 2 ^ e
  near : |Val.rat (.fin neg m e) - Val.rat (.fin neg q qe)| * 2 ≤ 2 ^ unit
  even : |Val.rat (.fin neg m e) - Val.rat (.fin neg q qe)| * 2 = 2 ^ unit → q % 2 = 0
  digits : q < 2 ^ (f.mb + 1)
  normal : qe = f.low ∨ 2 ^ f.mb ≤ q
  low_le : f.low ≤ qe

theorem Val.rat_sub (neg : Bool) (m n sh : Nat) (e : Int) :
    |Val.rat (.fin neg m e) - Val.rat (.fin neg n (sh + e))| = (|(m : Int) - n * 2 ^ sh| : Int) * 2 ^ e := by
  have he : (0 : ℚ) < 2 ^ e := zpow_pos two_pos e
  have hsgn : (sgn neg m : ℚ) * 2 ^ e - sgn neg n * (2 ^ sh * 2 ^ e) = (if neg then -1 else 1) * ((m - n * 2 ^ sh) * 2 ^ e) := by
    cases neg <;> simp only [sgn] <;> push_cast <;> ring
  rw [Val.rat, Val.rat, zpow_natCast_add, hsgn, abs_mul, abs_mul, abs_of_pos he]
  push_cast
  cases neg <;> simp

theorem Val.rat_shift (neg : Bool) (m sh : Nat) (e : Int) : Val.rat (.fin neg (m * 2 ^ sh) e) = Val.rat (.fin neg m (sh + e)) := by
  rw [Val.rat, Val.rat, zpow_natCast_add]
  cases neg <;> simp only [sgn] <;> push_cast <;> ring

/-- A magnitude's rounding to nearest. -/
theorem quantize_rounded {f : FpFmt} (hmb : 1 ≤ f.mb) (neg : Bool) {m : Nat} (hm : m ≠ 0) (e : Int) :
    ∃ unit n, Rounded f neg m e (f.quantize .nearest neg m e).1 (f.quantize .nearest neg m e).2 unit n := by
  have hlog : 2 ^ m.log2 ≤ m := Nat.log2_self_le hm
  have hlog' : m < 2 ^ (m.log2 + 1) := Nat.lt_log2_self
  obtain ⟨u, hu⟩ : ∃ u, u = max (e + (m.log2 : Int) - f.mb) f.low := ⟨_, rfl⟩
  have hfull : u = f.low ∨ (2 : ℚ) ^ (f.mb + u) ≤ m * 2 ^ e := by
    obtain hlow | hlow : u = f.low ∨ f.mb + u = m.log2 + e := by omega
    · exact .inl hlow
    · right
      rw [hlow, zpow_natCast_add]
      gcongr
      exact_mod_cast hlog
  have hpos : (0 : ℚ) < 2 ^ u := zpow_pos two_pos u
  have hq : f.quantize .nearest neg m e = if u ≤ e then (m <<< (e - u).toNat, u) else
      if roundShift .nearest neg m (u - e).toNat = 2 ^ (f.mb + 1) then (2 ^ f.mb, u + 1)
      else (roundShift .nearest neg m (u - e).toNat, u) := by
    rw [hu, FpFmt.quantize, if_neg hm]
    rfl
  rw [hq]
  by_cases hue : u ≤ e
  · -- every digit fits: the value is exact
    obtain ⟨d, hd⟩ : ∃ d : Nat, (d : Int) = e - u := ⟨(e - u).toNat, by omega⟩
    rw [if_pos hue, ← hd, Int.toNat_natCast, Nat.shiftLeft_eq]
    have hexact : Val.rat (.fin neg (m * 2 ^ d) u) = Val.rat (.fin neg m e) := by
      rw [Val.rat_shift, show (d : Int) + u = e by omega]
    refine ⟨u, m * 2 ^ d, ⟨rfl, hfull, ?_, fun htie => ?_, ?_, ?_, by omega⟩⟩
    · rw [hexact, sub_self, abs_zero, zero_mul]
      exact hpos.le
    · rw [hexact, sub_self, abs_zero, zero_mul] at htie
      exact absurd htie.symm hpos.ne'
    · calc m * 2 ^ d < 2 ^ (m.log2 + 1) * 2 ^ d := by gcongr
        _ = 2 ^ (m.log2 + 1 + d) := (pow_add 2 _ _).symm
        _ ≤ 2 ^ (f.mb + 1) := Nat.pow_le_pow_right (by omega) (by omega)
    · by_cases hlow : u = f.low
      · exact .inl hlow
      · right
        calc 2 ^ f.mb = 2 ^ m.log2 * 2 ^ d := by rw [← pow_add]; congr 1; omega
          _ ≤ m * 2 ^ d := by gcongr
  · obtain ⟨sh, hsh⟩ : ∃ sh : Nat, (sh : Int) = u - e := ⟨(u - e).toNat, by omega⟩
    rw [if_neg hue, ← hsh, Int.toNat_natCast]
    obtain ⟨hnear, heven, hge, hle⟩ := roundShift_nearest neg m sh
    obtain ⟨r, hr⟩ : ∃ r, r = roundShift .nearest neg m sh := ⟨_, rfl⟩
    rw [← hr] at hnear heven hge hle ⊢
    have hsum : (sh : Int) + e = u := by omega
    have herr := Val.rat_sub neg m r sh e
    rw [hsum] at herr
    have hunit : (2 : ℚ) ^ u = ((2 ^ sh : Int) : ℚ) * 2 ^ e := by
      rw [← hsum, zpow_natCast_add]
      push_cast
      rfl
    have hnear' : |Val.rat (.fin neg m e) - Val.rat (.fin neg r u)| * 2 ≤ 2 ^ u := by
      rw [herr, hunit, mul_right_comm]
      gcongr
      exact_mod_cast hnear
    have heven' : |Val.rat (.fin neg m e) - Val.rat (.fin neg r u)| * 2 = 2 ^ u → r % 2 = 0 := by
      rw [herr, hunit, mul_right_comm, mul_left_inj' (zpow_pos two_pos e).ne']
      exact fun h => heven (by exact_mod_cast h)
    have hdigits : r ≤ 2 ^ (f.mb + 1) := by
      refine hle.trans (Nat.succ_le_of_lt (Nat.div_lt_of_lt_mul ?_))
      calc m < 2 ^ (m.log2 + 1) := hlog'
        _ ≤ 2 ^ (sh + (f.mb + 1)) := Nat.pow_le_pow_right (by omega) (by omega)
        _ = 2 ^ sh * 2 ^ (f.mb + 1) := pow_add 2 _ _
    have hnormal : u = f.low ∨ 2 ^ f.mb ≤ r := by
      by_cases hlow : u = f.low
      · exact .inl hlow
      · right
        refine le_trans ?_ hge
        rw [Nat.le_div_iff_mul_le (by positivity), ← pow_add, show f.mb + sh = m.log2 by omega]
        exact hlog
    refine ⟨u, r, ?_⟩
    by_cases hcarry : r = 2 ^ (f.mb + 1)
    · have hsame : Val.rat (.fin neg (2 ^ f.mb) (u + 1)) = Val.rat (.fin neg r u) := by
        rw [hcarry, pow_succ]
        rw [show (2 ^ f.mb * 2 : Nat) = 2 ^ f.mb * 2 ^ 1 by ring, Val.rat_shift, add_comm]
        rfl
      rw [if_pos hcarry]
      have heven2 : 2 ^ f.mb % 2 = 0 := Nat.even_iff.mp (Nat.even_pow.mpr ⟨even_two, by omega⟩)
      exact ⟨hsame, hfull, by rwa [hsame], fun _ => heven2, Nat.pow_lt_pow_succ one_lt_two, .inr le_rfl, by omega⟩
    · rw [if_neg hcarry]
      exact ⟨rfl, hfull, hnear', heven', by omega, hnormal, by omega⟩

/-! ### FP32 numbers -/

/-- The value of FP32 bits, from their fields (R37). -/
theorem ofFp32_eq (y : W32) : ofFp32 y =
    if y.toNat / 2 ^ 23 % 2 ^ 8 = 255 then (if y.toNat % 2 ^ 23 = 0 then .inf (decide (y.toNat / 2 ^ 31 % 2 = 1)) else .nan)
    else if y.toNat / 2 ^ 23 % 2 ^ 8 = 0 then .fin (decide (y.toNat / 2 ^ 31 % 2 = 1)) (y.toNat % 2 ^ 23) (-149)
    else .fin (decide (y.toNat / 2 ^ 31 % 2 = 1)) (2 ^ 23 + y.toNat % 2 ^ 23) ((y.toNat / 2 ^ 23 % 2 ^ 8 : Nat) - 150) := by
  have hexp (ef : Nat) : (ef : Int) - 127 - (23 : Nat) = ef - 150 := by omega
  simp only [ofFp32, FpFmt.decode, FpFmt.fp32, Nat.shiftRight_eq_div_pow, hexp, Bool.true_and, Bool.false_and,
    Bool.false_eq_true, if_false, decide_eq_true_eq]
  rfl

/-- A finite FP32 number has at most 24 digits and an exponent of at least -149. -/
theorem ofFp32_fin {y : W32} {b : Bool} {k : Nat} {j : Int} (h : ofFp32 y = .fin b k j) : k < 2 ^ 24 ∧ -149 ≤ j := by
  have hmf : y.toNat % 2 ^ 23 < 2 ^ 23 := Nat.mod_lt _ (by norm_num)
  rw [ofFp32_eq] at h
  split at h
  · split at h <;> exact absurd h (by simp)
  · split at h
    · obtain ⟨-, rfl, rfl⟩ := Val.fin.inj h
      omega
    · obtain ⟨-, rfl, rfl⟩ := Val.fin.inj h
      omega

/-- The bits of a sign, an exponent field and a mantissa field. -/
def fp32Bits (neg : Bool) (ef mf : Nat) : W32 := BitVec.ofNat 32 (FpFmt.fp32.signBit neg + ef * 2 ^ 23 + mf)

section
variable (neg : Bool) {ef mf : Nat} (hef : ef < 255) (hmf : mf < 2 ^ 23)
include hef hmf

theorem toNat_fp32Bits : (fp32Bits neg ef mf).toNat = (if neg then 1 else 0) * 2 ^ 31 + ef * 2 ^ 23 + mf := by
  have hsign : FpFmt.fp32.signBit neg = (if neg then 1 else 0) * 2 ^ 31 := by cases neg <;> rfl
  rw [fp32Bits, hsign, BitVec.toNat_ofNat]
  exact Nat.mod_eq_of_lt (by split <;> omega)

theorem ofFp32_fp32Bits : ofFp32 (fp32Bits neg ef mf) =
    if ef = 0 then .fin neg mf (-149) else .fin neg (2 ^ 23 + mf) ((ef : Int) - 150) := by
  have hbits := toNat_fp32Bits neg hef hmf
  have hfield : (fp32Bits neg ef mf).toNat / 2 ^ 23 % 2 ^ 8 = ef := by rw [hbits]; split <;> omega
  have hmant : (fp32Bits neg ef mf).toNat % 2 ^ 23 = mf := by rw [hbits]; split <;> omega
  have hneg : decide ((fp32Bits neg ef mf).toNat / 2 ^ 31 % 2 = 1) = neg := by rw [hbits]; cases neg <;> simp <;> omega
  rw [ofFp32_eq, hfield, hmant, hneg, if_neg (by omega)]

theorem even_fp32Bits (heven : mf % 2 = 0) : (fp32Bits neg ef mf).getLsbD 0 = false := by
  have hbits := toNat_fp32Bits neg hef hmf
  rw [BitVec.getLsbD, Nat.testBit_zero, hbits, decide_eq_false_iff_not]
  split <;> omega

end

/-- The bits of a rounded magnitude: its fields where they lie in the range, else the infinity of its sign (R130). -/
theorem toFp32_eq {neg : Bool} {m q : Nat} {e qe : Int} (h : FpFmt.fp32.quantize .nearest neg m e = (q, qe)) :
    toFp32 (.fin neg m e) = if q < 2 ^ 23 then fp32Bits neg 0 q
      else if 104 < qe ∨ qe = 104 ∧ 2 ^ 24 ≤ q then BitVec.ofNat 32 (FpFmt.fp32.infinity neg)
      else fp32Bits neg (qe + 150).toNat (q - 2 ^ 23) := by
  have hmb : FpFmt.fp32.mb = 23 := rfl
  have hbias : FpFmt.fp32.bias = 127 := rfl
  have hmax : FpFmt.fp32.maxE = 254 ∧ FpFmt.fp32.maxM = 2 ^ 23 - 1 := ⟨rfl, rfl⟩
  simp only [toFp32, FpFmt.encode, h, FpFmt.fields, hmb, hbias, hmax]
  by_cases hzero : q = 0
  · simp [hzero, fp32Bits]
  · rw [if_neg hzero]
    by_cases hsub : q < 2 ^ 23
    · simp only [if_pos hsub]
      rw [if_neg (by omega)]
      simp [fp32Bits]
    · simp only [if_neg hsub]
      have hexp : qe + (23 : Nat) + 127 = qe + 150 := by omega
      by_cases hover : 104 < qe ∨ qe = 104 ∧ 2 ^ 24 ≤ q
      · rw [if_pos (by omega), if_pos hover]
      · rw [if_neg (by omega), if_neg hover, hexp, fp32Bits]

/-- A rounded magnitude whose FP32 result is finite stands in that result as it is, and its last digit is the result's last bit. -/
theorem toFp32_fin {neg : Bool} {m n q : Nat} {e qe unit : Int} {a : Bool} {b : Nat} {c : Int}
    (hround : Rounded .fp32 neg m e q qe unit n) (hq : FpFmt.fp32.quantize .nearest neg m e = (q, qe))
    (hfin : ofFp32 (toFp32 (.fin neg m e)) = .fin a b c) : ofFp32 (toFp32 (.fin neg m e)) = .fin neg q qe ∧
      (q % 2 = 0 → (toFp32 (.fin neg m e)).getLsbD 0 = false) := by
  have hlow : FpFmt.fp32.low = -149 := rfl
  have hdigits : q < 2 ^ 24 := hround.digits
  have hqe : -149 ≤ qe := hlow ▸ hround.low_le
  have hnormal : qe = -149 ∨ 2 ^ 23 ≤ q := hlow ▸ hround.normal
  rw [toFp32_eq hq] at hfin ⊢
  by_cases hsub : q < 2 ^ 23
  · rw [if_pos hsub, ofFp32_fp32Bits neg (by omega) hsub, if_pos rfl, show qe = -149 by omega]
    exact ⟨rfl, even_fp32Bits neg (by omega) hsub⟩
  · rw [if_neg hsub] at hfin ⊢
    by_cases hover : 104 < qe ∨ qe = 104 ∧ 2 ^ 24 ≤ q
    · have hinf : ofFp32 (BitVec.ofNat 32 (FpFmt.fp32.infinity neg)) = .inf neg := by cases neg <;> decide
      rw [if_pos hover, hinf] at hfin
      exact absurd hfin (by simp)
    · rw [if_neg hover, ofFp32_fp32Bits neg (by omega) (by omega), if_neg (by omega), show 2 ^ 23 + (q - 2 ^ 23) = q by omega,
        show ((qe + 150).toNat : Int) - 150 = qe by omega]
      exact ⟨rfl, fun heven => even_fp32Bits neg (by omega) (by omega) (by omega)⟩

theorem ofFp32_toFp32_zero (neg : Bool) (e : Int) : ofFp32 (toFp32 (.fin neg 0 e)) = .fin neg 0 (-149) := by
  rw [toFp32_eq (q := 0) (qe := -149) rfl, if_pos (by norm_num), ofFp32_fp32Bits neg (by norm_num) (by norm_num), if_pos rfl]

theorem Val.rat_zero (a b : Bool) (e e' : Int) : Val.rat (.fin a 0 e) = Val.rat (.fin b 0 e') := by
  cases a <;> cases b <;> simp [Val.rat, sgn]

end Sys2Proof.Machine

open Sys2Proof Sys2Proof.Machine

/-- Settles O7: the result is the multiple of a unit nearest to the value, and every other FP32 number is such a multiple or lies below
the value's own binade. -/
theorem fp32RoundsToNearestEven : Obligations.Fp32RoundsToNearestEven := by
  unfold Obligations.Fp32RoundsToNearestEven
  intro neg m e y x hx hy
  obtain ⟨a, b, c, hx⟩ := hx
  obtain ⟨sy, k, j, hy⟩ := hy
  obtain ⟨hk, hj⟩ := ofFp32_fin hy
  by_cases hm : m = 0
  · -- a zero is exact
    have hexact : |x.rat - (ofFp32 (toFp32 x)).rat| = 0 := by
      subst hm
      rw [ofFp32_toFp32_zero, Val.rat_zero neg neg e (-149), sub_self, abs_zero]
    rw [hexact]
    refine ⟨abs_nonneg _, fun htie hne => absurd ?_ hne⟩
    rw [← sub_eq_zero.mp (abs_eq_zero.mp htie.symm), sub_eq_zero.mp (abs_eq_zero.mp hexact)]
  · obtain ⟨unit, n, hround⟩ := quantize_rounded (f := .fp32) (by decide) neg hm e
    obtain ⟨hval, heven⟩ := toFp32_fin hround rfl hx
    obtain ⟨hnear, htie⟩ := nearest_of_unit hround.multiple hround.near hround.full (b := sy) hk hj
    rw [hy, hval]
    exact ⟨hnear, fun heq hne => heven (hround.even (htie heq hne))⟩
end

section
/-! SUPPORT. Accesses of a lane to the pond and the tarn (R114-R118, R126): what stays of memories and gangs, and the bytes a load
returns and a store leaves. -/

namespace Sys2Proof.Machine

/-- The gangs and every memory are as they were. -/
def keepsStores (s t : State) : Prop := t.herd.gangs = s.herd.gangs ∧ ∀ m, memOf t m = memOf s m

theorem keepsStores.refl (s : State) : keepsStores s s := ⟨rfl, fun _ => rfl⟩

theorem keepsStores.trans {s t u : State} (h : keepsStores s t) (h' : keepsStores t u) : keepsStores s u :=
  ⟨h'.1.trans h.1, fun m => (h'.2 m).trans (h.2 m)⟩

theorem sameButAccess.keepsStores {s t : State} (h : sameButAccess s t) : keepsStores s t := by
  rw [h]
  exact ⟨rfl, fun _ => rfl⟩

theorem keepsStores.groupAt {s t : State} (h : keepsStores s t) (r : GroupRef) : groupAt t r = groupAt s r := by
  rw [Machine.groupAt, Machine.groupAt, gangAt, gangAt, h.1]

theorem forEach_keepsStores {α : Type} {l : List α} {g : α → State → State} (h : ∀ x s, keepsStores s (g x s)) (s : State) :
    keepsStores s (forEach l g s) := by
  induction l generalizing s with
  | nil => exact .refl s
  | cons x l ih => exact (h x s).trans (ih (g x s))

theorem setCache_keepsStores (core : Nat) (c : Tab Nat) (s : State) : keepsStores s (setCache core c s) := ⟨rfl, fun _ => rfl⟩

theorem cacheEvict_keepsStores (core : Nat) (s : State) : keepsStores s (cacheEvict core s) := ⟨rfl, fun _ => rfl⟩

theorem cacheFill_keepsStores (core k : Nat) (bs : List Byte) (s : State) : keepsStores s (cacheFill core k bs s) :=
  (setCache_keepsStores _ _ _).trans (forEach_keepsStores (fun _ s => cacheEvict_keepsStores core s) _)

theorem pondReq_keepsStores (t : GroupRef) (i : Issue) (mem off n : Nat) (s : State) : keepsStores s (pondReq t i mem off n s) := by
  unfold pondReq
  split <;> exact ⟨rfl, fun _ => rfl⟩

theorem acquireEffect_keepsStores (f : MFmt) (core : Nat) (s : State) : keepsStores s (acquireEffect f core s) := by
  unfold acquireEffect
  split
  · exact setCache_keepsStores _ _ _
  · exact .refl s

theorem setGroup_memOf (t : GroupRef) (g : Group) (s : State) (m : Nat) : memOf (setGroup t g s) m = memOf s m := by
  unfold memOf
  split <;> simp

/-! ### Bytes of registers -/

theorem le_ceilDiv_mul (n : Nat) : n ≤ 4 * ceilDiv n 4 := by
  unfold ceilDiv
  omega

theorem length_regBytes (g : Group) (lane r n : Nat) : (regBytes g lane r n).length = n := by
  have hwords : ((List.range (ceilDiv n 4)).flatMap fun i => leBytes 4 (getReg g lane (r + i)).toNat).length = 4 * ceilDiv n 4 := by
    rw [List.length_flatMap]
    simp [mul_comm]
  rw [regBytes, List.length_take, hwords]
  exact Nat.min_eq_left (le_ceilDiv_mul n)

theorem setRegs_wait (g : Group) (lane r : Nat) (bs : List Byte) : (setRegs g lane r bs).wait = g.wait := by
  unfold setRegs
  generalize List.range (ceilDiv bs.length 4) = l
  induction l using List.reverseRecOn with
  | nil => rfl
  | append_singleton l x ih => rw [List.foldl_append]; exact ih

/-! ### One lane's access -/

section
variable {s : State} {mem off n : Nat}

theorem partPoison_of_clean (h : poisoned s mem off n = false) : partPoison s mem off n = false := by
  unfold poisoned at h
  rw [List.any_eq_false] at h
  rw [partPoison, List.any_eq_false]
  intro p hp hpart
  rw [Bool.and_eq_true] at hpart
  exact h p hp hpart.1

/-- Nothing stops an access to a clean place of the pond or the tarn that is reached. -/
theorem laneStop_none {i : Issue} {a : AccessKind} (lane va : Nat) (hmem : mem < 2) (hland : landOk s i.cmd.tag mem off = true)
    (hreach : reachable s i.cmd.tag mem off n = true) (hclean : poisoned s mem off n = false) :
    laneStop s i a n (lane, va, .loc mem off) = none := by
  have hread : readFails s i.cmd.tag mem off n = false := by rw [readFails, if_neg (by omega), hclean]
  have hmerge : mergeFails s mem off n = false := by rw [mergeFails, partPoison_of_clean hclean, Bool.false_and]
  have hnohost : ¬ (a = .atomic ∧ mem = 3) := by omega
  simp [laneStop, hland, hreach, hread, hmerge, hnohost]

end

theorem globalAddr_lt (i : Issue) (f : MFmt) (lane : Nat) : globalAddr i f lane < 2 ^ 64 := by
  unfold globalAddr wrapInt
  omega

section
variable {t : GroupRef} {f : MFmt} {n align disp lane mem off : Nat} {a : AccessKind} {s s2 : State} {i : Issue}
variable {legal : Issue → Bool} {repro waits : Bool} {op : Issue → Nat → Nat → Spot → Group × State → Group × State}

/-- A lane's access that reaches the pond or the tarn takes its effect on the state after its translation. -/
theorem globalOp_lane (h : laneReaches t f n align disp a s i lane mem off s2) (hlegal : legal i = true)
    (hrepro : (repro && i.repro) = false) : ∃ k, globalOp t f n align disp a legal repro waits op s =
      let r := op { i with free := k } lane ((globalAddr i f lane + disp) % 2 ^ 64) (.loc mem off)
        (i.grp, acquireEffect f i.gang.core s2)
      onBehalfOfNone (setGroup t { nextPc r.1 with wait := .none } r.2) := by
  obtain ⟨s1, hissue, hlanes, halign, hfree, hreach, hmem, hland, hin, hclean⟩ := h
  refine ⟨s1.free, ?_⟩
  rw [globalOp, issue_next hissue hlegal]
  obtain ⟨j, hj⟩ : ∃ j : Issue, j = { i with free := s1.free } := ⟨_, rfl⟩
  have hrepro' : (repro && j.repro) = false := by rw [hj]; exact hrepro
  have hlanes' : j.lanes = [lane] := by rw [hj]; exact hlanes
  have halign' : globalAddr j f lane % align = 0 := by rw [hj]; exact halign
  have hfree' : releaseWaits s1 f t j = false := by rw [hj]; exact hfree
  have hresolve : resolveLanes j f disp a [lane] (onBehalfAt j.cmd.uid j.master (some t) j.grp.pc s1) =
      ([(lane, (globalAddr i f lane + disp) % 2 ^ 64, .loc mem off)], s2) := by
    have hreach' : reach j.place j.cmd.tag ((globalAddr j f lane + disp) % 2 ^ 64) a
        (onBehalfAt j.cmd.uid j.master (some t) j.grp.pc s1) = (.loc mem off, s2) := by rw [hj]; exact hreach
    simp only [resolveLanes, hreach']
    rw [hj]
    rfl
  have hstop : laneStop s2 j a n (lane, (globalAddr i f lane + disp) % 2 ^ 64, .loc mem off) = none :=
    laneStop_none lane _ hmem (by rw [hj]; exact hland) (by rw [hj]; exact hin) hclean
  rw [← hj]
  simp only [hrepro', hlanes', halign', hfree', hresolve, hstop, List.any_cons, List.any_nil, List.findSome?_cons,
    List.findSome?_nil, laneEffects, laneWait, List.foldl_cons, List.foldl_nil, ne_eq, not_true_eq_false, decide_false, Bool.or_false,
    Bool.false_eq_true, if_false, List.filter_cons, List.filter_nil, List.length_nil, lt_self_iff_false, Bool.and_false]
  rw [hj]

end

theorem laneReaches_group {t : GroupRef} {f : MFmt} {n align disp lane mem off : Nat} {a : AccessKind} {s s2 : State} {i : Issue}
    (h : laneReaches t f n align disp a s i lane mem off s2) : groupAt s2 t = some i.grp ∧ i.grp.wait = .none ∧ mem < 2 := by
  obtain ⟨s1, hissue, -, -, -, hreach, hmem, -⟩ := h
  have hsame := (reach_sameButXlate i.place i.cmd.tag ((globalAddr i f lane + disp) % 2 ^ 64) a
    (onBehalfAt i.cmd.uid i.master (some t) i.grp.pc s1)).access.keepsStores
  rw [hreach] at hsame
  have hfrom : keepsStores s1 (onBehalfAt i.cmd.uid i.master (some t) i.grp.pc s1) := ⟨rfl, fun _ => rfl⟩
  refine ⟨by rw [(hfrom.trans hsame).groupAt, (issues_found hissue).2], ?_, hmem⟩
  obtain ⟨-, -, w, ⟨hi, -⟩, -⟩ := hissue
  obtain ⟨-, -, -, -, -, -, hwait, -⟩ := issueOf_some hi
  exact hwait

/-- What one lane's access leaves of its group, and of the memories after its effect. -/
theorem groupAt_stored {t : GroupRef} {g g' : Group} {r : State} (hg : groupAt r t = some g) (hwait : g'.wait = .none) :
    groupAt (onBehalfOfNone (setGroup t { nextPc g' with wait := .none } r)) t = some { g' with pc := g'.pc + 8 } := by
  have hread := groupAt_setGroup (g' := { nextPc g' with wait := .none }) hg
  have hsame : { nextPc g' with wait := Wait.none } = { g' with pc := g'.pc + 8 } := by rw [nextPc, ← hwait]
  rw [hsame] at hread ⊢
  exact hread

theorem memOf_stored (t : GroupRef) (g : Group) (r : State) (m : Nat) :
    memOf (onBehalfOfNone (setGroup t g r)) m = memOf r m := setGroup_memOf t g r m

/-! ### Loads -/

theorem memBytes_near {mem : Nat} (hmem : mem < 2) (off n : Nat) (s : State) : memBytes mem off n s = (memRead (memOf s mem) off n, s) := by
  obtain rfl | rfl : mem = 0 ∨ mem = 1 := by omega
  · rfl
  · rfl

theorem getBytes_near {mem : Nat} (hmem : mem < 2) (tag : W16) (off n : Nat) (s : State) :
    getBytes tag mem off n s = (memRead (memOf s mem) off n, charge tag mem off n false s) := by
  simp only [getBytes, memBytes_near hmem, if_neg (show ¬ mem = 3 by omega)]

theorem length_cached {c : Tab Nat} {k n : Nat} {bs : List Byte} (h : cached c k n = some bs) : bs.length = n := by
  unfold cached at h
  dsimp only at h
  split at h
  · rw [← Option.some.inj h]
    simp
  · exact absurd h (by simp)

/-- A load returns the bytes of memory, or, when it is relaxed, those that the core's cache holds (R118). -/
theorem loadBytes_spec {t : GroupRef} {i : Issue} {f : MFmt} {va mem off n : Nat} {s : State} (hmem : mem < 2) :
    ((loadBytes t i f va mem off n s).1 = memRead (memOf s mem) off n ∨ f.order = 0 ∧
      cached (coreCache s i.gang.core) (cacheKey i.cmd.tag va) n = some (loadBytes t i f va mem off n s).1) ∧
    keepsStores s (loadBytes t i f va mem off n s).2 := by
  have hdraw : keepsStores s (drawChoice s).2 := ⟨rfl, fun _ => rfl⟩
  unfold loadBytes
  dsimp only
  split
  · next bs hhit =>
    split at hhit
    · next hrelaxed =>
      rw [Bool.and_eq_true, decide_eq_true_eq] at hrelaxed
      exact ⟨.inr ⟨hrelaxed.1, hhit⟩, hdraw⟩
    · exact absurd hhit (by simp)
  · have hcharge := (charge_sameButAccess i.cmd.tag mem off n false (drawChoice s).2).keepsStores
    have hreq := pondReq_keepsStores t i mem off n (charge i.cmd.tag mem off n false (drawChoice s).2)
    rw [getBytes_near hmem]
    dsimp only
    exact ⟨.inl rfl, ((hdraw.trans hcharge).trans hreq).trans (cacheFill_keepsStores _ _ _ _)⟩

/-- A relaxed access ends no acquire. -/
theorem acquireEffect_relaxed {f : MFmt} (h : f.order = 0) (core : Nat) (s : State) : acquireEffect f core s = s := by
  have hnot : acquires f = false := by rw [acquires, h]; rfl
  rw [acquireEffect, acquiresWide, hnot, Bool.false_and, if_neg Bool.false_ne_true]

section
variable {t : GroupRef} {f : MFmt} {n rd ty lane mem off : Nat} {s s2 : State} {i : Issue} {legal : Issue → Bool}

/-- A load of one lane. -/
theorem load_lane (h : laneReaches t f n n 0 .read s i lane mem off s2) (hlegal : legal i = true) : ∃ bs,
    groupAt (globalOp t f n n 0 .read legal false true (loadLane t f n rd ty) s) t =
      some { setRegs i.grp lane rd bs with pc := i.grp.pc + 8 } ∧
    (bs = memRead (memOf s2 mem) off n ∨ f.order = 0 ∧
      cached (coreCache s2 i.gang.core) (cacheKey i.cmd.tag (globalAddr i f lane)) n = some bs) ∧
    ∀ m, memOf (globalOp t f n n 0 .read legal false true (loadLane t f n rd ty) s) m = memOf s2 m := by
  obtain ⟨hgroup, hwait, hmem⟩ := laneReaches_group h
  obtain ⟨k, hop⟩ := globalOp_lane (op := loadLane t f n rd ty) (waits := true) h hlegal (Bool.false_and _)
  have hva : (globalAddr i f lane + 0) % 2 ^ 64 = globalAddr i f lane := Nat.mod_eq_of_lt (globalAddr_lt i f lane)
  have hacquire := acquireEffect_keepsStores f i.gang.core s2
  obtain ⟨hbytes, hkeeps⟩ := loadBytes_spec (t := t) (i := { i with free := k }) (f := f) (va := globalAddr i f lane) (off := off)
    (n := n) (s := acquireEffect f i.gang.core s2) hmem
  rw [hva] at hop
  refine ⟨(loadBytes t { i with free := k } f (globalAddr i f lane) mem off n (acquireEffect f i.gang.core s2)).1, ?_, ?_, fun m => ?_⟩
  · have hstored := groupAt_stored (g' := setRegs i.grp lane rd
      (loadBytes t { i with free := k } f (globalAddr i f lane) mem off n (acquireEffect f i.gang.core s2)).1)
      (((hacquire.trans hkeeps).groupAt t).trans hgroup) ((setRegs_wait ..).trans hwait)
    rw [setRegs_pc] at hstored
    rw [hop]
    exact hstored
  · obtain hmemory | ⟨hrelaxed, hcache⟩ := hbytes
    · exact .inl (by rw [hmemory, hacquire.2])
    · rw [acquireEffect_relaxed hrelaxed] at hcache ⊢
      exact .inr ⟨hrelaxed, hcache⟩
  · rw [hop]
    exact (memOf_stored ..).trans ((hacquire.trans hkeeps).2 m)

end

/-! ### Stores -/

/-- Bytes are stored in one memory; the gangs and every other memory are as they were. -/
def storesBytes (mem off : Nat) (bs : List Byte) (s t : State) : Prop :=
  t.herd.gangs = s.herd.gangs ∧ ∀ m, memOf t m = if m = mem then memWrite (memOf s mem) off bs else memOf s m

theorem storesBytes.keeps {mem off : Nat} {bs : List Byte} {s t u : State} (h : storesBytes mem off bs s t) (h' : keepsStores t u) :
    storesBytes mem off bs s u := ⟨h'.1.trans h.1, fun m => (h'.2 m).trans (h.2 m)⟩

theorem keepsStores.storesBytes {mem off : Nat} {bs : List Byte} {s t u : State} (h : keepsStores s t)
    (h' : storesBytes mem off bs t u) : storesBytes mem off bs s u :=
  ⟨h'.1.trans h.1, fun m => by rw [h'.2, h.2, h.2]⟩

theorem markPond_keepsStores (off n : Nat) (s : State) : keepsStores s (markPond off n s) := by
  refine forEach_keepsStores (fun k s => ?_) s
  exact ⟨rfl, fun _ => rfl⟩

theorem memStore_near {mem : Nat} (hmem : mem < 2) (off : Nat) (bs : List Byte) (s : State) :
    storesBytes mem off bs s (memStore mem off bs s) := by
  cases bs with
  | nil => exact ⟨rfl, fun m => by split <;> simp_all [memStore, memWrite]⟩
  | cons b bs =>
    obtain rfl | rfl : mem = 0 ∨ mem = 1 := by omega
    · have hwritten : storesBytes 0 off (b :: bs) s { s with pond := memWrite s.pond off (b :: bs) } := by
        refine ⟨rfl, fun m => ?_⟩
        match m with
        | 0 | 1 | 2 | m + 3 => rfl
      exact (hwritten.keeps (markPond_keepsStores off (b :: bs).length _)).keeps ⟨rfl, fun _ => rfl⟩
    · refine ⟨rfl, fun m => ?_⟩
      match m with
      | 0 | 1 | 2 | m + 3 => rfl

theorem putBytes_near {mem off : Nat} {bs : List Byte} {s : State} (hmem : mem < 2) (tag : W16)
    (hclean : poisoned s mem off bs.length = false) : storesBytes mem off bs s (putBytes tag mem off bs s) := by
  rw [putBytes, if_neg (by simp [partPoison_of_clean hclean])]
  simp only [if_neg (show ¬ mem = 3 by omega)]
  exact (memStore_near hmem off bs s).keeps (charge_sameButAccess ..).keepsStores

/-- What was stored reads back, and no other byte of any memory has changed. -/
theorem stored_spec {mem off : Nat} {bs : List Byte} {s t : State}
    (h : ∀ m, memOf t m = if m = mem then memWrite (memOf s mem) off bs else memOf s m) (hwf : Tab.wf 0 (memOf s mem) = true) :
    memRead (memOf t mem) off bs.length = bs ∧ onlyStored mem off bs.length s t := by
  refine ⟨by rw [h, if_pos rfl, memRead_memWrite off bs hwf], fun m a _ hout => ?_⟩
  rw [h]
  split
  · next heq =>
    subst heq
    exact get_memWrite_out bs _ off a (by omega)
  · rfl

theorem canon_memOf {s : State} (h : canon s = true) (m : Nat) : Tab.wf 0 (memOf s m) = true := by
  simp only [canon, memsCanon, Bool.and_eq_true] at h
  unfold memOf
  split <;> tauto

theorem acquireEffect_poison (f : MFmt) (core : Nat) (s : State) : (acquireEffect f core s).poison = s.poison := by
  unfold acquireEffect
  split <;> rfl

section
variable {t : GroupRef} {f : MFmt} {n lane mem off : Nat} {s s2 : State} {i : Issue} {legal : Issue → Bool}

/-- A store of one lane: of the bytes of its registers from `rd`. -/
theorem store_lane (rd : Nat) (h : laneReaches t f n n 0 .write s i lane mem off s2) (hlegal : legal i = true) (hcanon : canon s2 = true) :
    let s' := globalOp t f n n 0 .write legal false false
      (fun i lane va sp gs => storeLane t i lane va (regBytes i.grp lane rd n) sp gs) s
    groupAt s' t = some { i.grp with pc := i.grp.pc + 8 } ∧
      memRead (memOf s' mem) off n = regBytes i.grp lane rd n ∧ onlyStored mem off n s2 s' := by
  intro s'
  obtain ⟨hgroup, hwait, hmem⟩ := laneReaches_group h
  have hclean : poisoned s2 mem off n = false := by
    obtain ⟨-, -, -, -, -, -, -, -, -, hclean⟩ := h
    exact hclean
  obtain ⟨k, hop⟩ := globalOp_lane (waits := false)
    (op := fun i lane va sp gs => storeLane t i lane va (regBytes i.grp lane rd n) sp gs) h hlegal (Bool.false_and _)
  have hacquire := acquireEffect_keepsStores f i.gang.core s2
  have hlen := length_regBytes i.grp lane rd n
  have hput := putBytes_near (s := acquireEffect f i.gang.core s2) hmem i.cmd.tag (bs := regBytes i.grp lane rd n) (off := off)
    (by rw [hlen, poisoned, acquireEffect_poison]; exact hclean)
  obtain ⟨r, hr, hstores⟩ : ∃ r, s' = onBehalfOfNone (setGroup t { nextPc i.grp with wait := .none } r) ∧
      storesBytes mem off (regBytes i.grp lane rd n) s2 r :=
    ⟨_, hop, hacquire.storesBytes ((hput.keeps (cacheFill_keepsStores _ _ _ _)).keeps (pondReq_keepsStores _ _ _ _ _ _))⟩
  have hread : groupAt r t = some i.grp := by
    rw [← hgroup, groupAt, groupAt, gangAt, gangAt, hstores.1]
  have hspec := stored_spec (t := s') (fun m => by rw [hr, memOf_stored]; exact hstores.2 m) (canon_memOf hcanon mem)
  rw [hlen] at hspec
  exact ⟨by rw [hr]; exact groupAt_stored hread hwait, hspec⟩

end

end Sys2Proof.Machine

open Sys2Proof Sys2Proof.Machine

/-- Settles O15: a load returns the bytes that are reached, a store writes its own bytes alone. -/
theorem globalLoadsAndStores : Obligations.GlobalLoadsAndStores := by
  unfold Obligations.GlobalLoadsAndStores
  intro t f s s2 i lane mem off hcanon sz
  refine ⟨fun hty hra hrd => ?sized, fun hrd hra => ?ledger, fun s1 h hra => ?pref⟩
  case sized =>
    have hlegal : (accLegal f i && pairLegal f i) = true := by
      rw [accLegal_of hty (by omega) hrd]
      simp [pairLegal, regsOk, hra]
    refine ⟨fun h => ?_, fun h => ⟨_, rfl, store_lane f.rd.toNat h hlegal hcanon⟩⟩
    obtain ⟨bs, hgroup, hbytes, hmems⟩ := load_lane (rd := f.rd.toNat) (ty := f.ty.toNat) (legal := fun i => accLegal f i && pairLegal f i) h hlegal
    refine ⟨_, bs, rfl, hgroup, ?_, hbytes, fun m a _ => congrArg (Tab.get 0 · a) (hmems m)⟩
    obtain rfl | ⟨-, hcache⟩ := hbytes
    · exact memRead_length _ _ _
    · exact length_cached hcache
  case ledger =>
    have hlegal : (ledgerLegal f i && pairLegal f i) = true := by
      simp [ledgerLegal, ledgersOk, pairLegal, regsOk, hrd, hra]
    refine ⟨fun h hordered => ?_, fun h => ⟨_, rfl, store_lane (8 * f.rd.toNat) h hlegal hcanon⟩⟩
    obtain ⟨bs, hgroup, hbytes, hmems⟩ := load_lane (rd := 8 * f.rd.toNat) (ty := 5) (legal := fun i => ledgerLegal f i && pairLegal f i) h hlegal
    obtain rfl := hbytes.resolve_right fun hrelaxed => hordered hrelaxed.1
    exact ⟨_, rfl, hgroup, fun m a _ => congrArg (Tab.get 0 · a) (hmems m)⟩
  case pref =>
    have hlegal : pairLegal f i = true := by simp [pairLegal, regsOk, hra]
    exact congrArg Host.Outcome.next (issue_next h hlegal)
end

section
/-! SUPPORT. Launches that start alone (R108, R141, R221): a lone launch's rounds, and blocks that are at rest again once a command has
ended and a fault has been recorded. -/

namespace Sys2Proof.Machine

/-! ### A block that rests -/

/-- A block at rest with no twin enabled, its conditions table by table. -/
def resting (s : State) : Prop :=
  s.cmds = [] ∧ s.twin.state = 0 ∧
    (s.hostPort.accesses.isEmpty && s.net.outbox.isEmpty && s.net.serving.isEmpty && s.xlate.held.isEmpty &&
      s.resvG.resolutions.isEmpty && s.twin.own.isEmpty && s.power.down == 0 && s.flock.proposing.isNone) = true ∧
    (s.folds.all fun p => p.2.state != .resetting && !p.2.resv.leaving) = true ∧
    (s.queues.all fun p => p.2.state != .notReady) = true ∧
    (s.engines.all fun p => p.2.queue.isEmpty && (!p.2.blocked || p.2.resetting || p.2.abandoned)) = true ∧
    (s.halves.all fun p => !p.2.blocked || p.2.resetting) = true ∧
    (s.ctxs.all fun p => !p.2.boosted) = true

theorem unitClaimed_none {s : State} (h : s.cmds = []) (herd : Bool) (u : Nat) : unitClaimed s herd u = false := by
  simp [unitClaimed, h]

theorem resting.atRest {s : State} (h : resting s) : atRest s = true := by
  obtain ⟨hcmds, -, hports, hfolds, hqueues, hengines, hhalves, hctxs⟩ := h
  unfold Machine.atRest still
  simp only [unitClaimed_none hcmds, Bool.or_false, hcmds, hports, hfolds, hqueues, hengines, hhalves, hctxs]
  rfl

/-- A step leaves a block that rests at rest. -/
def keepsRest (s t : State) : Prop := resting s → resting t

theorem keepsRest.refl (s : State) : keepsRest s s := id

theorem keepsRest.trans {s t u : State} (h : keepsRest s t) (h' : keepsRest t u) : keepsRest s u := fun hs => h' (h hs)

/-- The same, the last step first: the state between is read off it. -/
theorem keepsRest.after {s t u : State} (h' : keepsRest t u) (h : keepsRest s t) : keepsRest s u := h.trans h'

theorem keepsRest.ite {c : Prop} [Decidable c] {s t u : State} (ht : keepsRest s t) (hu : keepsRest s u) :
    keepsRest s (if c then t else u) := by
  split
  · exact ht
  · exact hu

theorem forEach_keepsRest {α : Type} (l : List α) (g : α → State → State) (hg : ∀ x s, keepsRest s (g x s)) (s : State) :
    keepsRest s (forEach l g s) := by
  induction l generalizing s with
  | nil => exact .refl s
  | cons x l ih => exact (hg x s).trans (ih (g x s))

/-! ### Queues, folds and engines -/

/-- A queue is written that does not wait for READY unless it did. -/
theorem setQueue_keepsRest (s : State) (q : Nat) {x : Queue} (hx : (queueAt s q).state ≠ .notReady → x.state ≠ .notReady) :
    keepsRest s (setQueue s q x) := by
  rintro ⟨hcmds, htwin, hports, hfolds, hqueues, hrest⟩
  have hq := Tab.get_of_all Queue.reset (fun x => x.state != .notReady) s.queues q (by decide) hqueues
  exact ⟨hcmds, htwin, hports, hfolds, Tab.all_set (q := fun x : Queue => x.state != .notReady) hqueues
    (bne_iff_ne.mpr (hx (bne_iff_ne.mp hq))), hrest⟩

theorem modQueue_keepsRest (s : State) (q : Nat) {g : Queue → Queue} (hg : ∀ x, x.state ≠ .notReady → (g x).state ≠ .notReady) :
    keepsRest s (modQueue s q g) := setQueue_keepsRest s q (hg _)

theorem modFold_keepsRest (s : State) (n : Nat) {g : Fold → Fold}
    (hg : ∀ f, f.state ≠ .resetting ∧ f.resv.leaving = false → (g f).state ≠ .resetting ∧ (g f).resv.leaving = false) :
    keepsRest s (modFold s n g) := by
  rintro ⟨hcmds, htwin, hports, hfolds, hrest⟩
  have hf := Tab.get_of_all Fold.reset (fun f => f.state != .resetting && !f.resv.leaving) s.folds n (by decide) hfolds
  simp only [Bool.and_eq_true, bne_iff_ne, Bool.not_eq_true'] at hf
  refine ⟨hcmds, htwin, hports, Tab.all_set (q := fun f : Fold => f.state != .resetting && !f.resv.leaving) hfolds ?_, hrest⟩
  rw [Bool.and_eq_true, bne_iff_ne, Bool.not_eq_true']
  exact hg _ hf

/-- An engine forgets a command. -/
theorem modEngine_keepsRest (s : State) (e : Nat) {g : Engine → Engine}
    (hg : ∀ x, (x.queue.isEmpty && (!x.blocked || x.resetting || x.abandoned)) = true →
      ((g x).queue.isEmpty && (!(g x).blocked || (g x).resetting || (g x).abandoned)) = true) :
    keepsRest s (modEngine s e g) := by
  rintro ⟨hcmds, htwin, hports, hfolds, hqueues, hengines, hrest⟩
  have he := Tab.get_of_all Engine.reset (fun x => x.queue.isEmpty && (!x.blocked || x.resetting || x.abandoned)) s.engines e
    (by decide) hengines
  exact ⟨hcmds, htwin, hports, hfolds, hqueues,
    Tab.all_set (q := fun x : Engine => x.queue.isEmpty && (!x.blocked || x.resetting || x.abandoned)) hengines (hg _ he), hrest⟩

/-! ### Completions and the journal -/

theorem raiseVector_keepsRest (v : W16) (s : State) : keepsRest s (raiseVector v s) := by
  unfold raiseVector
  exact .ite (.refl s) (.ite id id)

theorem hostWrite_keepsRest (a : Nat) (bs : List Byte) (s : State) : keepsRest s (hostWrite a bs s) := by
  unfold hostWrite
  exact .ite id id

theorem announce_keepsRest (q : Nat) (s : State) : keepsRest s (announce q s) := by
  unfold announce
  exact .ite (raiseVector_keepsRest _ s) (.ite (.after (raiseVector_keepsRest _ _) (setQueue_keepsRest s q id))
    (setQueue_keepsRest s q id))

theorem writeCompletion_keepsRest (q : Nat) (rec : BitVec 256) (s : State) : keepsRest s (writeCompletion q rec s) :=
  .after (announce_keepsRest q _) ((hostWrite_keepsRest _ _ s).trans (modQueue_keepsRest _ q fun _ hx => hx))

theorem journalWrite_keepsRest (e : BitVec 512) (s : State) : keepsRest s (journalWrite e s) :=
  .after (.ite (raiseVector_keepsRest _ _) (.refl _)) (.after (.ite id (.refl _)) ((hostWrite_keepsRest _ _ s).trans id))

theorem putRecord_keepsRest (q : Nat) (rec : BitVec 256) (s : State) : keepsRest s (putRecord q rec s) :=
  .ite (writeCompletion_keepsRest q rec s) id

theorem putOut_keepsRest (q : Nat) (rec : BitVec 256) (e : BitVec 512) (s : State) : keepsRest s (putOut q rec e s) := by
  have hw := writeCompletion_keepsRest q rec s
  exact .ite id (.ite (hw.trans id) (hw.trans (journalWrite_keepsRest e _)))

theorem forgetWaiter_keepsRest (uid : Nat) (s : State) : keepsRest s (forgetWaiter uid s) := by
  refine .after (forEach_keepsRest _ _ (fun e s => modEngine_keepsRest s e fun x hx => ?_) _) (forEach_keepsRest _ _ ?_ s)
  case refine_2 => exact fun _ _ => id
  simp only [Bool.and_eq_true, List.isEmpty_iff] at hx ⊢
  exact ⟨by rw [hx.1]; rfl, hx.2⟩

/-- No command is noted for a twin where none is enabled. -/
theorem twinNote_keepsRest (c : Cmd) (r : Done) (s : State) : keepsRest s (twinNote c r s) := by
  intro hs
  rw [twinNote, if_pos (.inr (.inr (by rw [hs.2.1]; rfl)))]
  exact hs

/-! ### Records of faults and their actions -/

theorem noteFault_keepsRest (f : FaultInfo) (level : Nat) (w : Where) (s : State) : keepsRest s (noteFault f level w s) := by
  unfold noteFault
  exact .ite id id

theorem ringWrite_keepsRest (rc : BitVec 512) (s : State) : keepsRest s (ringWrite rc s) :=
  (hostWrite_keepsRest _ _ s).trans id

theorem requestPowerCycle_keepsRest (s : State) : keepsRest s (requestPowerCycle s) := by
  unfold requestPowerCycle
  exact .ite id id

/-- Where no command is accepted none ends. -/
theorem complete_keepsRest (uid : Nat) (r : Done) (s : State) : keepsRest s (complete uid r s) := by
  intro hs
  have hnone : cmdAt s uid = none := by rw [cmdAt, hs.1]; rfl
  rw [complete, hnone]
  exact hs

theorem endFreezing_keepsRest (n : Nat) (s : State) : keepsRest s (endFreezing n s) := by
  unfold endFreezing
  split
  · exact .refl s
  · exact .after (complete_keepsRest _ _ _) (modFold_keepsRest s n fun _ hf => hf)

theorem fenceQueue_keepsRest (q : Nat) (s : State) : keepsRest s (fenceQueue q s) := by
  refine modQueue_keepsRest s q fun x hx => ?_
  split
  · exact hx
  · nofun

theorem closeFold_keepsRest (n : Nat) (s : State) : keepsRest s (closeFold n s) :=
  .after (forEach_keepsRest _ _ (fun u s => complete_keepsRest u _ s) _)
    (.after (forEach_keepsRest _ _ fenceQueue_keepsRest _) (modFold_keepsRest s n fun _ hf => hf))

theorem setFoldState_keepsRest (s : State) (n : Nat) {st : FoldState} (h : st ≠ .resetting) : keepsRest s (setFoldState s n st) :=
  .after (modFold_keepsRest _ n fun _ hf => hf) (.after (modFold_keepsRest _ n fun _ hf => hf)
    (modFold_keepsRest s n fun _ hf => ⟨h, hf.2⟩))

theorem disableFold_keepsRest (n : Nat) (s : State) : keepsRest s (disableFold n s) := by
  unfold disableFold
  exact .ite (.after (closeFold_keepsRest n _) (.after (modFold_keepsRest _ n fun _ hf => hf)
    (.after (setFoldState_keepsRest _ n nofun) (endFreezing_keepsRest n s)))) (.refl s)

theorem actOn_keepsRest (level cls : Nat) (fold : Option Nat) (s : State) : keepsRest s (actOn level cls fold s) := by
  refine .after (.ite (requestPowerCycle_keepsRest _) (.refl _)) (.after (.ite id (.refl _)) (.after (.ite ?_ (.refl _))
    (.ite (raiseVector_keepsRest _ s) (.refl s))))
  cases fold with
  | none => exact .refl _
  | some n => exact disableFold_keepsRest n _

theorem raiseFault_keepsRest (f : FaultInfo) (s : State) : keepsRest s (raiseFault f s) := by
  have hnote (level : Nat) (w : Where) {t : State} (h : keepsRest s t) : keepsRest s (noteFault f level w t) :=
    h.trans (noteFault_keepsRest f level w t)
  refine .after (actOn_keepsRest _ f.cls f.fold _) (.after (.ite (raiseVector_keepsRest _ _) (.refl _)) ?_)
  exact .ite (hnote _ _ (ringWrite_keepsRest _ s)) (.ite (hnote _ _ id) (hnote _ _ id))

/-! ### A lone launch -/

/-- The only command of a still block is a launch that is accepted or dispatched; nothing is boosted and no semaphore waited for. -/
def loneLaunch (s : State) (c : Cmd) : Prop :=
  still s = true ∧ s.cmds = [c] ∧ opcodeOf c.desc = 2 ∧ (c.phase = .accepted ∨ c.phase = .launched) ∧ c.boosted = false ∧
    (s.ctxs.all fun p => !p.2.boosted) = true ∧ (s.sems.all fun p => p.2.waiters.isEmpty) = true

theorem unitClaimed_launch {s : State} {c : Cmd} (hc : s.cmds = [c]) (hp : c.phase = .accepted ∨ c.phase = .launched) (herd : Bool)
    (u : Nat) : unitClaimed s herd u = false := by
  rcases hp with hp | hp <;> simp [unitClaimed, hc, hp]

section
variable {s : State} {c : Cmd} (h : loneLaunch s c)
include h

theorem loneLaunch.cmdAt : cmdAt s c.uid = some c := by
  obtain ⟨-, hc, -⟩ := h
  simp [Machine.cmdAt, hc]

theorem loneLaunch.moverFor : moverFor s c = none := by
  obtain ⟨-, -, hop, -⟩ := h
  simp [Machine.moverFor, hop]

theorem loneLaunch.placeReady (lc : Bool) (n : Nat) : placeReady lc n s = s := by
  obtain ⟨-, hc, -, hp, -⟩ := h
  have hnone (m : Nat) : readyOrder s m lc = [] := by
    rcases hp with hp | hp <;> simp [readyOrder, hc, hp, turned]
  refine forEach_id _ _ _ fun m _ => ?_
  cases n with
  | zero => rfl
  | succ n => rw [placeFold, hnone, List.find?_nil]

theorem loneLaunch.orderQueues : orderQueues s = s := by
  obtain ⟨hs, hc, -, -, hb, hctx, hw⟩ := h
  have hq : (s.engines.filter fun p => !p.2.queue.isEmpty) = [] := by
    rw [List.filter_eq_nil_iff]
    intro p hp
    have h1 := List.all_eq_true.mp (still_engines hs) p hp
    simp only [Bool.and_eq_true] at h1
    simp [h1.1]
  rw [Machine.orderQueues, refreshBoosts_acceptedTile hc hb hctx hw, hq]
  rfl

theorem loneLaunch.moverRun (n : Nat) : moverRun n s = s := by
  obtain ⟨-, hc, -⟩ := id h
  cases n with
  | zero => rfl
  | succ n => simp [Machine.moverRun, hc, h.moverFor]

/-- What a round does after the commands' work leaves a lone launch's block alone. -/
theorem loneLaunch.reviewAll : reviewAll s = s := by
  obtain ⟨-, hc, -, hp, -⟩ := h
  rcases hp with hp | hp <;> simp [Machine.reviewAll, cmdsWhere, hc, hp, forEach]

theorem loneLaunch.reMovers : reMovers s = s := by
  obtain ⟨-, hc, hop, -⟩ := h
  simp [Machine.reMovers, cmdsWhere, hc, hop, forEach]

theorem loneLaunch.readsDue : readsDue s = s := by
  obtain ⟨-, hc, -, hp, -⟩ := h
  rcases hp with hp | hp <;> simp [Machine.readsDue, cmdsWhere, hc, hp, forEach]

/-- A round of a lone launch is the launch's work, when that leaves one. -/
theorem loneLaunch.workRound {s' : State} {c' : Cmd} (h' : loneLaunch s' c') (e : workOn c.uid s = s') : workRound s = s' := by
  obtain ⟨hs, hc, -⟩ := id h
  obtain ⟨hs', -⟩ := id h'
  have hwork : forEach (s.cmds.map fun c => c.uid) workOn s = s' := by
    rw [hc]
    exact e
  simp only [Machine.workRound, pruneHeld_still hs, h.reMovers, accessesRun_still hs, wakeQueues_still hs, h.readsDue,
    proposeAgain_still hs, heldOrder_still hs, forEach_nil, hwork, still_serving hs', List.map_nil, handRun_still hs',
    rvResolveDue_still hs', twinCompare_still hs', h'.reviewAll, foldResetsEnd_still hs', settleUnits_still hs', h'.orderQueues,
    h'.placeReady, h'.moverRun, flushMsgs_still hs', restorePower_still hs']

/-- A lone launch that cannot go on waits. -/
theorem loneLaunch.pump_waits (e : workOn c.uid s = s) : pump s = s := by
  rw [pump, pumpRun.eq_def]
  simp [h.workRound h e]

/-- A lone launch that is dispatched waits for its gangs. -/
theorem loneLaunch.pump_dispatched {s' : State} {c' : Cmd} (h' : loneLaunch s' c') (e : workOn c.uid s = s')
    (e' : workOn c'.uid s' = s') (hphase : c'.phase ≠ c.phase) : pump s = s' := by
  obtain ⟨-, hc, -⟩ := id h
  obtain ⟨-, hc', -⟩ := id h'
  have hmoved : signature s' ≠ signature s := by
    simp [signature, hc, hc', progressOf, hphase]
  rw [pump, pumpRun.eq_def]
  simp only [h.workRound h' e, if_neg hmoved]
  rw [pumpRun.eq_def]
  simp [h'.workRound h' e']

end

/-- A launch none of whose gangs has exited goes on by its gangs alone. -/
theorem loneLaunch.workOn_dispatched {s : State} {c : Cmd} (h : loneLaunch s c) (hp : c.phase = .launched) (hexit : c.launch.exited = 0) :
    workOn c.uid s = s := by
  obtain ⟨-, -, hop, -⟩ := id h
  have hstart : mayStart s c = false := by simp [mayStart, hp]
  have hgo : goOn c s = launchFinish c.uid s := by simp [goOn, hp, hop]
  have hwait : ¬ (c.launch.exited = hlGangs c.desc ∧ settled s c = true ∧ (!c.launch.stopped) = true) := by
    rintro ⟨he, -⟩
    rw [hexit, hlGangs] at he
    omega
  rw [workOn, h.cmdAt]
  dsimp only
  rw [hstart, if_neg nofun, hgo, launchFinish, h.cmdAt]
  exact if_neg hwait

/-- What ends the command of a lone accepted launch leaves the block at rest. -/
theorem loneLaunch.complete_resting {s : State} {c : Cmd} (h : loneLaunch s c) (hp : c.phase = .accepted) (hin : c.carriedIn = none)
    (htwin : s.twin.state = 0) (r : Done) : resting (complete c.uid r s) := by
  obtain ⟨hs, hc, hop, hcp, -, hctx, -⟩ := id h
  have hgauge : taskGauge c s = s := by simp [taskGauge, counted, underReview, hp]
  have hdrop : resting (dropCmd s c.uid) := by
    unfold still at hs
    simp only [unitClaimed_launch hc hcp, Bool.or_false, Bool.and_eq_true] at hs
    obtain ⟨⟨⟨⟨hports, hfolds⟩, hqueues⟩, hengines⟩, hhalves⟩ := hs
    refine ⟨by simp [dropCmd, hc], htwin, ?_, hfolds, hqueues, hengines, hhalves, hctx⟩
    simp only [Bool.and_eq_true]
    exact hports
  have hnoted : resting (twinNote c (digestFlags c.desc r) (forgetWaiter c.uid (dropCmd (taskGauge c s) c.uid))) := by
    rw [hgauge]
    exact twinNote_keepsRest _ _ _ (forgetWaiter_keepsRest _ _ hdrop)
  unfold complete
  rw [h.cmdAt]
  dsimp only
  rw [hin]
  exact keepsRest.ite (.refl _) (.ite (putOut_keepsRest _ _ _ _) (putRecord_keepsRest _ _ _)) hnoted

/-! ### A launch accepted in a block at rest -/

section
variable {q : Nat} {d : BitVec 512} {s : State}

/-- The kernel queue accepts no launch. -/
theorem queue_ne_zero (h : accepts q d s = true) (hop : opcodeOf d = 2) : q ≠ 0 := by
  rintro rfl
  simp [accepts, opcodeAccepted, hop] at h

theorem loneLaunch_taken (h : alone q d s) (hop : opcodeOf d = 2) : loneLaunch (taken q d s) (accepted q d s) := by
  obtain ⟨-, -, -, hrest, -, hsems, -⟩ := h
  have hcmds := atRest_cmds hrest
  have ht := taken_sameButIntake (q := q) (d := d) (s := s)
  refine ⟨still_taken (atRest_still hrest) hcmds, by rw [taken_cmds, hcmds]; rfl, hop, .inl rfl, rfl, ?_, ?_⟩
  · rw [ht]
    unfold atRest at hrest
    simp only [Bool.and_eq_true] at hrest
    exact hrest.2
  · rw [ht]
    exact hsems

/-- Acceptance leaves a queue's state and binding. -/
theorem queueAt_headPassed (hwf : Tab.wf Queue.reset s.queues = true) : queueAt (headPassed q s) q = advanced (queueAt s q) := by
  rw [queueAt, headPassed_queues, Tab.get_set_self _ _ _ hwf]

theorem accepted_tag (hwf : Tab.wf Queue.reset s.queues = true) : (accepted q d s).tag = (queueAt s q).tag := by
  show (queueAt (headPassed q s) q).tag = _
  rw [queueAt_headPassed hwf]
  rfl

theorem queueAt_taken (hwf : Tab.wf Queue.reset s.queues = true) :
    queueAt (taken q d s) q = { advanced (queueAt s q) with nextSeq := (queueAt s q).nextSeq + 1 } := by
  have hwf' : Tab.wf Queue.reset (headPassed q s).queues = true := by
    rw [headPassed_queues]
    exact Tab.set_wf _ _ _ hwf
  show queueAt (modQueue (headPassed q s) q fun x => { x with nextSeq := x.nextSeq + 1 }) q = _
  rw [modQueue, queueAt_setQueue_self _ _ _ hwf', queueAt_headPassed hwf]
  rfl

theorem canon_queues (h : canon s = true) : Tab.wf Queue.reset s.queues = true := by
  unfold canon at h
  simp only [Bool.and_eq_true] at h
  obtain ⟨⟨⟨⟨⟨-, hq⟩, -⟩, -⟩, -⟩, -⟩ := h
  exact hq

/-- What stands of a queue whose descriptor is accepted (R177, R178). -/
theorem accepts_open (h : accepts q d s = true) (hq : q ≠ 0) : (queueAt s q).state = .active ∧ tagOpen s (queueAt s q).tag = true ∧
    (ctxAt s (tagSlot (queueAt s q).tag)).sluiceClosed = false ∧ s.faults.sluiceClosed = false := by
  obtain ⟨hread, hclosed⟩ : mayRead s q = true ∧ queueClosed s q = false := by
    simp only [accepts, Bool.and_eq_true, Bool.not_eq_true'] at h
    obtain ⟨⟨⟨⟨⟨⟨hread, -⟩, hclosed⟩, -⟩, -⟩, -⟩, -⟩ := h
    exact ⟨hread, hclosed⟩
  have hstate : (queueAt s q).state = .active ∨ (queueAt s q).state = .fenced := by
    simp only [mayRead, Bool.and_eq_true, Bool.or_eq_true, beq_iff_eq] at hread
    obtain ⟨⟨⟨⟨⟨⟨hstate, -⟩, -⟩, -⟩, -⟩, -⟩, -⟩ := hread
    exact hstate
  simp only [queueClosed, Bool.or_eq_false_iff, Bool.and_eq_false_iff, bne_eq_false_iff_eq, hq, false_or, Bool.not_eq_false',
    beq_eq_false_iff_ne] at hclosed
  obtain ⟨hfenced, ⟨⟨⟨-, htag⟩, hctx⟩, -⟩, hall⟩ := hclosed
  exact ⟨hstate.resolve_right hfenced, htag, hctx, hall⟩

/-- A launch accepted in a block at rest starts at once (R185, R422). -/
theorem mayStart_taken (h : alone q d s) (hop : opcodeOf d = 2) : mayStart (taken q d s) (accepted q d s) = true := by
  obtain ⟨-, hacc, hcanon, hrest, -, -, hfold⟩ := id h
  have hq := queue_ne_zero hacc hop
  obtain ⟨hactive, hfreezing⟩ := (hfold.resolve_left fun h0 => hq h0.1).2
  have hwf := canon_queues hcanon
  have hcmds : (taken q d s).cmds = [accepted q d s] := by rw [taken_cmds, atRest_cmds hrest]; rfl
  have hfolds (n : Nat) : foldAt (taken q d s) n = foldAt s n := by rw [taken_sameButIntake (q := q) (d := d) (s := s)]; rfl
  have hstopped : queueStopped (taken q d s) (accepted q d s) = false := by
    show ((queueAt (taken q d s) q).state == .waitSlots) = false
    rw [queueAt_taken hwf]
    simp [advanced, (accepts_open hacc hq).1]
  have hfirst : earlier (taken q d s) (accepted q d s) = [] := by
    simp [earlier, cmdsOf, hcmds]
  have horder : orderMay (taken q d s) (accepted q d s) = true := by
    simp [orderMay, hfirst]
  have hheld (t : W16) : ctxHeld (taken q d s) t = false := by
    simp [ctxHeld, hcmds, show (accepted q d s).phase = .accepted from rfl]
  have hq' : (accepted q d s).q ≠ 0 := hq
  simp [mayStart, show (accepted q d s).phase = .accepted from rfl, hstopped, hq', horder, hfolds, accepted_tag hwf, hactive,
    hfreezing, hheld]

theorem tagClosed_taken (h : alone q d s) (hop : opcodeOf d = 2) : tagClosed (taken q d s) (accepted q d s).tag = false := by
  obtain ⟨-, hacc, hcanon, -, -, -, hfold⟩ := id h
  have hq := queue_ne_zero hacc hop
  obtain ⟨hactive, -⟩ := (hfold.resolve_left fun h0 => hq h0.1).2
  obtain ⟨-, htag, hctx, hall⟩ := accepts_open hacc hq
  have hfree : foldClosed s (tagFold (queueAt s q).tag) = false := by rw [foldClosed, hactive]
  have hsame (t : W16) : tagClosed (taken q d s) t = tagClosed s t := by
    rw [taken_sameButIntake (q := q) (d := d) (s := s)]
    rfl
  rw [hsame, accepted_tag (canon_queues hcanon), tagClosed, htag, hctx, hfree, hall]
  rfl

end

/-! ### Dispatch (R108, R141, R216, R220) -/

theorem still_modFold {s : State} (h : still s = true) (n : Nat) {g : Fold → Fold}
    (hg : ∀ f, (g f).state = f.state ∧ (g f).resv = f.resv) : still (modFold s n g) = true := by
  have hf := Tab.get_of_all Fold.reset (fun f => f.state != .resetting && !f.resv.leaving) s.folds n (by decide) (still_folds h)
  have hfolds : ((modFold s n g).folds.all fun p => p.2.state != .resetting && !p.2.resv.leaving) = true := by
    refine Tab.all_set (q := fun f : Fold => f.state != .resetting && !f.resv.leaving) (still_folds h) ?_
    rw [(hg _).1, (hg _).2]
    exact hf
  unfold still at h ⊢
  rw [hfolds]
  simp only [Bool.and_eq_true] at h ⊢
  obtain ⟨⟨⟨⟨hports, -⟩, hqueues⟩, hengines⟩, hhalves⟩ := h
  exact ⟨⟨⟨⟨hports, trivial⟩, hqueues⟩, hengines⟩, hhalves⟩

section
variable {s : State} {c : Cmd}

/-- A dispatch notes its time in its context, and in its model where one is bound. -/
theorem noteDispatch_cases (tag : W16) (s : State) : ∃ x : Ctx, x.boosted = (ctxAt s (tagSlot tag)).boosted ∧
    (noteDispatch tag s = setCtx s (tagSlot tag) x ∨
      ∃ ms, noteDispatch tag s = setModels (tagFold tag) ms (setCtx s (tagSlot tag) x)) := by
  refine ⟨{ ctxAt s (tagSlot tag) with lastDispatch := now s }, rfl, ?_⟩
  unfold noteDispatch
  dsimp only
  split
  · exact .inl rfl
  · exact .inr ⟨_, rfl⟩

theorem loneLaunch_noteDispatch (h : loneLaunch s c) (tag : W16) : loneLaunch (noteDispatch tag s) c := by
  obtain ⟨hs, hc, hop, hp, hb, hctx, hsems⟩ := h
  obtain ⟨x, hx, hcases⟩ := noteDispatch_cases tag s
  have hunboosted : ((setCtx s (tagSlot tag) x).ctxs.all fun p => !p.2.boosted) = true := by
    refine Tab.all_set (q := fun x : Ctx => !x.boosted) hctx ?_
    rw [hx]
    exact Tab.get_of_all Ctx.reset (fun x => !x.boosted) s.ctxs _ (by decide) hctx
  rcases hcases with hn | ⟨ms, hn⟩ <;> rw [hn]
  · exact ⟨hs, hc, hop, hp, hb, hunboosted, hsems⟩
  · have hs' : still (setModels (tagFold tag) ms (setCtx s (tagSlot tag) x)) = true :=
      still_modFold (s := setCtx s (tagSlot tag) x) hs _ fun _ => ⟨rfl, rfl⟩
    exact ⟨hs', hc, hop, hp, hb, hunboosted, hsems⟩

/-- A dispatch leaves every fold's half-groups and the logical map. -/
theorem noteDispatch_live (tag : W16) (hwf : Tab.wf Fold.reset s.folds = true) (n : Nat) :
    (foldAt (noteDispatch tag s) n).live = (foldAt s n).live := by
  obtain ⟨x, -, hn | ⟨ms, hn⟩⟩ := noteDispatch_cases tag s <;> rw [hn]
  · rfl
  · by_cases h : tagFold tag = n
    · subst h
      exact (congrArg Fold.live (foldAt_setFold_self (setCtx s (tagSlot tag) x) _ _ hwf)).trans rfl
    · rw [setModels, modFold, foldAt_setFold_ne _ _ h]
      rfl

theorem noteDispatch_tables (tag : W16) (s : State) : (noteDispatch tag s).lmap = s.lmap ∧ (noteDispatch tag s).twin = s.twin ∧ (noteDispatch tag s).tb = s.tb := by
  obtain ⟨x, -, hn | ⟨ms, hn⟩⟩ := noteDispatch_cases tag s <;> rw [hn] <;> exact ⟨rfl, rfl, rfl⟩

end

/-- A launch that is dispatched. -/
def dispatched (t : W64) (c : Cmd) : Cmd := { c with phase := .launched, readyAt := t }

theorem loneLaunch_dispatched {t : State} {c : Cmd} (hl : loneLaunch t c) (time : W64) :
    loneLaunch (modCmd t c.uid (dispatched time)) (dispatched time c) := by
  obtain ⟨hs, hc, hopc, hcp, hb, hctx, hsems⟩ := hl
  have hc' : (modCmd t c.uid (dispatched time)).cmds = [dispatched time c] := by simp [modCmd, hc]
  have hclaim (herd : Bool) (u : Nat) : unitClaimed (modCmd t c.uid (dispatched time)) herd u = unitClaimed t herd u := by
    rw [unitClaimed_launch hc' (.inr rfl), unitClaimed_launch hc hcp]
  refine ⟨?_, hc', hopc, .inr rfl, hb, hctx, hsems⟩
  unfold still at hs ⊢
  simp only [hclaim]
  exact hs

section
variable {q : Nat} {d : BitVec 512} {s : State} (h : alone q d s) (hop : opcodeOf d = 2)
include h hop

/-- A launch accepted in a block at rest: what goes on is its start. -/
theorem workOn_taken : workOn (accepted q d s).uid (taken q d s) =
    if residencyOk s (accepted q d s).tag then startLaunch (accepted q d s) (noteDispatch (accepted q d s).tag (taken q d s))
    else taken q d s := by
  have hresident (t : W16) : residencyOk (taken q d s) t = residencyOk s t := by
    rw [taken_sameButIntake (q := q) (d := d) (s := s)]
    rfl
  have hstart : startCmd (accepted q d s) (taken q d s) = launchStart (accepted q d s) (taken q d s) := by
    have hop' : opcodeOf (accepted q d s).desc = 2 := hop
    simp [startCmd, hop']
  rw [workOn, (loneLaunch_taken h hop).cmdAt]
  dsimp only
  rw [if_pos (mayStart_taken h hop), hstart, launchStart, tagClosed_taken h hop, hresident,
    if_neg nofun]
  cases residencyOk s (accepted q d s).tag <;> rfl

omit hop in
/-- A dispatch decides on what the block held before. -/
theorem halves_dispatched : foldHalves (noteDispatch (accepted q d s).tag (taken q d s)) = foldHalves s ∧
    halfVacant (noteDispatch (accepted q d s).tag (taken q d s)) = halfVacant s := by
  obtain ⟨-, -, hcanon, -⟩ := h
  have ht := taken_sameButIntake (q := q) (d := d) (s := s)
  have hwf : Tab.wf Fold.reset (taken q d s).folds = true := by
    rw [ht]
    unfold canon at hcanon
    simp only [Bool.and_eq_true] at hcanon
    obtain ⟨⟨⟨⟨⟨⟨⟨⟨-, hf⟩, -⟩, -⟩, -⟩, -⟩, -⟩, -⟩, -⟩ := hcanon
    exact hf
  have hlmap : (noteDispatch (accepted q d s).tag (taken q d s)).lmap = s.lmap := by
    rw [(noteDispatch_tables _ _).1, ht]
  constructor
  · funext n
    rw [foldHalves, noteDispatch_live _ hwf, ht]
    rfl
  · funext u
    simp only [halfVacant, paddockOut, coreUnusable, unitOut, hlmap]

omit hop in
theorem startLaunch_taken : startLaunch (accepted q d s) (noteDispatch (accepted q d s).tag (taken q d s)) =
    match launchCheck s (accepted q d s) with
    | some k => raiseEngine k hostMaster (accepted q d s).tag
        (complete (accepted q d s).uid (.broken 7) (noteDispatch (accepted q d s).tag (taken q d s)))
    | none =>
      if (launchHalves s (tagFold (accepted q d s).tag) (hlMask d)).all (halfVacant s) then
        complete (accepted q d s).uid (.broken 0x11) (noteDispatch (accepted q d s).tag (taken q d s))
      else modCmd (noteDispatch (accepted q d s).tag (taken q d s)) (accepted q d s).uid (dispatched s.tb.time) := by
  obtain ⟨hhalves, hvacant⟩ := halves_dispatched h
  have hcheck : launchCheck (noteDispatch (accepted q d s).tag (taken q d s)) (accepted q d s) = launchCheck s (accepted q d s) := by
    rw [launchCheck, launchCheck, hhalves]
  have hlist (n : Nat) (m : W16) : launchHalves (noteDispatch (accepted q d s).tag (taken q d s)) n m = launchHalves s n m := by
    rw [launchHalves, launchHalves, hhalves]
  have htime : now (noteDispatch (accepted q d s).tag (taken q d s)) = s.tb.time := by
    rw [now, (noteDispatch_tables _ _).2.2, taken_sameButIntake (q := q) (d := d) (s := s)]
  rw [startLaunch, hcheck, hlist, hvacant, htime]
  rfl

theorem exec_herdLaunch : exec (.herdLaunch q d) s = .next (pump (taken q d s)) := by
  obtain ⟨hlt, hacc, -⟩ := h
  have hrow : exec (.herdLaunch q d) s = .next (pump (acceptOne q d s)) := need_of_true (by simp [hlt, hop])
  rw [hrow, acceptOne_taken hacc (by omega)]

/-- A launch whose model is not resident waits (R221). -/
theorem exec_herdLaunch_waits (hres : residencyOk s (accepted q d s).tag = false) :
    exec (.herdLaunch q d) s = .next (taken q d s) := by
  rw [exec_herdLaunch h hop, (loneLaunch_taken h hop).pump_waits (by rw [workOn_taken h hop, hres]; rfl)]

variable (hres : residencyOk s (accepted q d s).tag = true)
include hres

theorem workOn_resident : workOn (accepted q d s).uid (taken q d s) =
    startLaunch (accepted q d s) (noteDispatch (accepted q d s).tag (taken q d s)) := by
  rw [workOn_taken h hop, hres, if_pos rfl]

/-- What a launch leaves that ends at its dispatch. -/
theorem exec_herdLaunch_ends {t : State}
    (hstart : startLaunch (accepted q d s) (noteDispatch (accepted q d s).tag (taken q d s)) = t) (ht : resting t) :
    exec (.herdLaunch q d) s = .next t := by
  obtain ⟨hs, hc, hop', -⟩ := loneLaunch_taken h hop
  have hwork := (workOn_resident h hop hres).trans hstart
  have hopc : opcodeOf (accepted q d s).desc ≠ 3 := by rw [hop']; decide
  rw [exec_herdLaunch h hop, pump_lone hs hc hopc nofun (by rw [hwork]; exact ht.atRest), hwork]

omit hres in
/-- The end of a launch at its dispatch leaves the block at rest. -/
theorem complete_dispatched (r : Done) :
    resting (complete (accepted q d s).uid r (noteDispatch (accepted q d s).tag (taken q d s))) := by
  refine (loneLaunch_noteDispatch (loneLaunch_taken h hop) _).complete_resting rfl rfl ?_ r
  obtain ⟨-, -, -, -, htwin, -⟩ := h
  rw [(noteDispatch_tables _ _).2.1, taken_sameButIntake (q := q) (d := d) (s := s)]
  exact htwin

/-- A launch that passes its checks and has a half-group in service is dispatched, and waits for its gangs (R108). -/
theorem exec_herdLaunch_dispatched
    (hstart : startLaunch (accepted q d s) (noteDispatch (accepted q d s).tag (taken q d s)) =
      modCmd (noteDispatch (accepted q d s).tag (taken q d s)) (accepted q d s).uid (dispatched s.tb.time)) :
    exec (.herdLaunch q d) s = .next (modCmd (noteDispatch (accepted q d s).tag (taken q d s)) (accepted q d s).uid
      (dispatched s.tb.time)) := by
  have hl := loneLaunch_taken h hop
  have hl' := loneLaunch_dispatched (loneLaunch_noteDispatch hl (accepted q d s).tag) s.tb.time
  have hwork := (workOn_resident h hop hres).trans hstart
  rw [exec_herdLaunch h hop, hl.pump_dispatched hl' hwork (hl'.workOn_dispatched rfl rfl) nofun]

end

end Sys2Proof.Machine
end

section
/-! SUPPORT. Launches (R101, R103, R107-R111, R138, R139, R141, R209): the next gang of a half-group and where it starts, the record of
a launch's trap, and the end of a memory's request. -/

namespace Sys2Proof.Machine

/-! ### The launch whose turn it is (R209) -/

section
variable {s : State} {h : Nat} {c : Cmd} (hnext : nextLaunch s h = some c)
include hnext

/-- The launch taken next is one that may place, and a latency-critical one while there is one. -/
theorem nextLaunch_first : (c ∈ s.cmds ∧ mayPlace s h c = true) ∧
    ∀ x ∈ s.cmds, mayPlace s h x = true → cmdLc s x = true → cmdLc s c = true := by
  unfold nextLaunch at hnext
  dsimp only at hnext
  split at hnext
  next y hy =>
    obtain rfl := Option.some.inj hnext
    exact ⟨List.mem_filter.mp (List.mem_of_find?_eq_some hy), fun _ _ _ _ => List.find?_some hy⟩
  next hnone =>
    refine ⟨List.mem_filter.mp (List.mem_of_head? hnext), fun x hx hmay hlc => ?_⟩
    exact absurd hlc (List.find?_eq_none.mp hnone x (List.mem_filter.mpr ⟨hx, hmay⟩))

end

/-! ### GANG_PLACE (R103, R109, R110) -/

theorem exec_gangPlace {core : Nat} (h : core < 128) (s : State) : exec (.gangPlace core) s = .next (pump (placeGang core s)) :=
  need_of_true (decide_eq_true h)

/-- The core, its half-group or its domain is out of use, or the core has no room for the launch's next gang. -/
def unfitFor (s : State) (core : Nat) (c : Cmd) : Prop :=
  coreUnusable s core = true ∨ halfVacant s (core / 8) = true ∨ bitAt s.power.down (9 * (core / 8 / 2) + 4 + core / 8 % 2) = true ∨
    coreRoom s core c.desc = false

theorem unfitFor_iff {s : State} {core : Nat} {c : Cmd} : (coreUnusable s core || halfVacant s (core / 8) ||
    bitAt s.power.down (9 * (core / 8 / 2) + 4 + core / 8 % 2) || !coreRoom s core c.desc) = true ↔ unfitFor s core c := by
  simp only [unfitFor, Bool.or_eq_true, Bool.not_eq_true', or_assoc]

section
variable {s : State} {core : Nat}

theorem placeGang_idle (h : nextLaunch s (core / 8) = none) : placeGang core s = s := by
  simp [placeGang, h]

variable {c : Cmd} (hnext : nextLaunch s (core / 8) = some c)
include hnext

theorem placeGang_unfit (h : unfitFor s core c) : placeGang core s = s := by
  unfold placeGang
  dsimp only
  rw [hnext]
  exact if_pos (unfitFor_iff.mpr h)

theorem placeGang_starts (h : ¬ unfitFor s core c) {args : List Byte} {s1 : State}
    (hargs : fetchRange c (core / 16) (coreMaster core) (hlArgBase c.desc) (hlArgLen c.desc) s = (.ok args, s1)) :
    placeGang core s = gangStart core c args s1 := by
  unfold placeGang
  dsimp only
  rw [hnext]
  dsimp only
  rw [if_neg (unfitFor_iff.not.mpr h), hargs]

end

/-- The data caches a gang's start leaves: the core drops the context's lines before the launch's first gang there (R110). -/
def startCaches (core : Nat) (c : Cmd) (s : State) : Tab (Tab Nat) :=
  if c.launch.cores.contains core then s.herd.caches
  else Tab.set [] s.herd.caches core ((coreCache s core).filter fun p => p.1 / 2 ^ 57 != c.tag.toNat)

section
variable {core : Nat} {c : Cmd} {s : State}

theorem startCaches_again (h : core ∈ c.launch.cores) : startCaches core c s = s.herd.caches :=
  if_pos (List.contains_iff_mem.mpr h)

variable (h : core ∉ c.launch.cores)
include h

theorem startCaches_first :
    startCaches core c s = Tab.set [] s.herd.caches core ((coreCache s core).filter fun p => p.1 / 2 ^ 57 != c.tag.toNat) :=
  if_neg (List.contains_iff_mem.not.mpr h)

theorem startCaches_dropped (hwf : Tab.wf [] s.herd.caches = true) :
    ∀ p ∈ Tab.get [] (startCaches core c s) core, p.1 / 2 ^ 57 ≠ c.tag.toNat := by
  intro p hp
  rw [startCaches_first h, Tab.get_set_self _ _ _ hwf] at hp
  simpa using (List.mem_filter.mp hp).2

theorem startCaches_others {k : Nat} (hk : k ≠ core) : Tab.get [] (startCaches core c s) k = Tab.get [] s.herd.caches k := by
  rw [startCaches_first h]
  exact Tab.get_set_ne _ _ _ (Ne.symm hk)

end

/-- A gang's start: the gang on its core, the launch one gang on, and what the caches and half-groups keep. -/
theorem gangStart_eq (core : Nat) (c : Cmd) (args : List Byte) (s : State) : ∃ halves, gangStart core c args s =
    modCmd { s with
      herd := { s.herd with
        gangs := s.herd.gangs ++ [{
          launch := c.uid, gang := c.launch.next, core := core, store := memWrite [] 0 args,
          groups := List.replicate (hlGroups c.desc) (newGroup (hlCode c.desc)) }]
        caches := startCaches core c s }
      halves := halves } c.uid fun y => { y with
        startAt := if y.launch.next = 0 then s.tb.time else y.startAt
        coll := { y.coll with parts := [] }
        launch := { y.launch with next := y.launch.next + 1, cores := addOnce core y.launch.cores } } := by
  unfold gangStart startCaches
  split
  · exact ⟨_, rfl⟩
  · exact ⟨_, rfl⟩

/-! ### LAUNCH_TRAP_RECORD (R138, R139, R141) -/

/-- A command has a request outstanding, here or on a link. -/
def waitsForRequests (s : State) (c : Cmd) : Prop :=
  (∃ r ∈ s.xlate.reqs, r.uid = c.uid ∧ r.abandoned = false) ∨ unackedOf s (tagFold c.tag) c.uid ≠ 0

theorem settled_iff {s : State} {c : Cmd} : settled s c = true ↔ ¬ waitsForRequests s c := by
  simp [settled, waitsForRequests, reqsOut]

/-- The status of a trapped launch (R138, R141). -/
theorem trapStatus_eq (dataError : Bool) (detail : Nat) : trapStatus dataError detail =
    if dataError then 8 else if detail = 0x22 ∨ detail = 0x23 then 6 else if detail = 0x24 then 0x0E
      else if detail = 0x29 then 8 else 7 := by
  unfold trapStatus
  refine if_congr Iff.rfl rfl ?_
  split
  case h_5 h22 h23 h24 h29 => rw [if_neg (not_or.mpr ⟨h22, h23⟩), if_neg h24, if_neg h29]; rfl
  all_goals rfl

section
variable {uid : Nat} {s : State} {c : Cmd} {tr : Trap} (hat : cmdAt s uid = some c) (htrap : c.launch.trap = some tr)
include hat htrap

theorem trapRecord_waits (h : settled s c = false) : trapRecord uid s = s := by
  simp [trapRecord, hat, htrap, h]

theorem trapRecord_ends (h : settled s c = true) : trapRecord uid s =
    complete uid (.broken (trapStatus c.launch.dataError tr.detail)) (dropGangs uid (raiseFault {
      cls := 3, detail := tr.detail, master := tr.master, tag := c.tag, fold := some (tagFold c.tag),
      address := tr.pc.toNat, count := c.launch.traps, gang := tr.gang, group := tr.group, lanes := tr.lanes.toNat,
      imm := tr.imm.toNat, time := some tr.time } s)) := by
  simp [trapRecord, abortLaunch, hat, htrap, h]

end

/-! ### MEMORY_RESPONSE (R110, R160, R259) -/

theorem modMeter_xlate (n k : Nat) (g : Meter → Meter) (s : State) : (modMeter n k g s).xlate = s.xlate := rfl

theorem noteLatency_xlate (n k : Nat) (t : W64) (s : State) : (noteLatency n k t s).xlate = s.xlate := by
  unfold noteLatency
  dsimp only
  split
  · rfl
  split
  · rfl
  · rfl

theorem endReq_xlate {id : Nat} {s : State} {r : Req} (h : s.xlate.reqs.find? (fun r => r.id == id) = some r) :
    (endReq id s).xlate = { s.xlate with
      reqs := s.xlate.reqs.filter fun x => x.id != id
      holders := s.xlate.holders.filter fun x => x.owner != .request id } := by
  unfold endReq
  rw [h]
  dsimp only
  split
  · split <;> rfl
  · rw [noteLatency_xlate]
    split <;> rfl

section
variable {id : Nat} {s : State} {r : Req} (h : s.xlate.reqs.find? (fun r => r.id == id) = some r)
include h

theorem memResponse_good {err : Bool} (he : err = false ∨ r.abandoned = true) :
    memResponse id err s = afterResponse r.uid (endReq id s) := by
  unfold memResponse
  rw [h]
  rcases he with rfl | ha
  · rfl
  · simp [reqFailed, ha]

theorem memResponse_failed : memResponse id true s = afterResponse r.uid (reqFailed r (endReq id s)) := by
  unfold memResponse
  rw [h]
  rfl

end

end Sys2Proof.Machine
open Sys2Proof Sys2Proof.Machine

/-- Settles O44: a launch's start is the lone work of its acceptance; each event is its own effect and what it lets go on. -/
theorem herdLaunches : Obligations.HerdLaunches := by
  unfold Obligations.HerdLaunches
  refine ⟨fun q d s h hop => ?launch, fun core s hcore => ?place, fun uid s c tr hat htrap => ?record, fun id err s => ?response⟩
  case launch =>
    intro c s1 s2
    refine ⟨exec_herdLaunch_waits h hop, fun hres => ⟨fun k hk => ?_, fun hk => ⟨fun hall => ?_, fun hsome => ?_⟩⟩⟩
    · exact exec_herdLaunch_ends h hop hres (by rw [startLaunch_taken h, hk])
        (raiseFault_keepsRest _ _ (complete_dispatched h hop _))
    · refine exec_herdLaunch_ends h hop hres ?_ (complete_dispatched h hop _)
      rw [startLaunch_taken h, hk]
      exact if_pos (List.all_eq_true.mpr hall)
    · refine exec_herdLaunch_dispatched h hop hres ?_
      rw [startLaunch_taken h, hk]
      exact if_neg (List.all_eq_true.not.mpr hsome)
  case place =>
    intro h
    refine ⟨fun hnone => by rw [exec_gangPlace hcore, placeGang_idle hnone], fun c hnext => ?_⟩
    obtain ⟨⟨hmem, hmay⟩, hfirst⟩ := nextLaunch_first hnext
    refine ⟨hmem, hmay, hfirst, fun hunfit => by rw [exec_gangPlace hcore, placeGang_unfit hnext hunfit],
      fun hfit args s1 hargs => ?_⟩
    obtain ⟨halves, hstart⟩ := gangStart_eq core c args s1
    refine ⟨startCaches core c s1, halves, ?_, startCaches_again,
      fun hnew hwf => ⟨startCaches_dropped hnew hwf, fun k hk => startCaches_others hnew hk⟩⟩
    rw [exec_gangPlace hcore, placeGang_starts hnext hfit hargs, hstart]
    rfl
  case record =>
    have huid := uid_of_cmdAt hat
    subst huid
    refine ⟨fun hwaits => ?_, fun hsettled => ?_⟩
    · have hopen : settled s c = false := by
        rw [← Bool.not_eq_true, settled_iff, not_not]
        exact hwaits
      exact congrArg (fun t => Host.Outcome.next (pump t)) (trapRecord_waits hat htrap hopen)
    · rw [← trapStatus_eq]
      exact congrArg (fun t => Host.Outcome.next (pump t)) (trapRecord_ends hat htrap (settled_iff.mpr hsettled))
  case response =>
    have hexec : exec (.memoryResponse id err) s = .next (pump (memResponse id err s)) := rfl
    rw [hexec]
    refine ⟨fun hnone => by rw [memResponse, hnone], fun r hr => ?_⟩
    have hx := endReq_xlate hr
    refine ⟨by rw [hx], by rw [hx], fun hgood => by rw [memResponse_good hr hgood], fun herr ha => ?_⟩
    rw [herr, memResponse_failed hr]
    refine ⟨fun hg hu => ?_, fun hg hu => ?_, fun t hg => ?_⟩
    · simp [reqFailed, ha, hg, hu]
    · simp [reqFailed, ha, hg, hu]
    · simp [reqFailed, ha, hg, trDataError]
end

section
/-! SUPPORT. Commands of the kernel queue that start alone (R426, R511): a lone command's rounds while it waits, and the block at rest
again once it has ended. -/

namespace Sys2Proof.Machine

/-! ### A lone command that goes on by itself alone -/

/-- A phase in which nothing but its command's own work goes on: no read of a fence, no place in a dispatch queue, no unit held. -/
def quiet (p : Phase) : Bool :=
  match p with
  | .ready => false
  | .reading _ => false
  | .held _ _ => false
  | .rerun _ _ => false
  | .unitReset _ _ => false
  | .review _ _ _ => false
  | _ => true

/-- The only command of a still block is a privileged one in a quiet phase; nothing is boosted, no semaphore waited for and no twin
enabled. -/
def loneKernel (s : State) (c : Cmd) : Prop :=
  still s = true ∧ s.cmds = [c] ∧ privileged (opcodeOf c.desc) = true ∧ quiet c.phase = true ∧ c.boosted = false ∧
    (s.ctxs.all fun p => !p.2.boosted) = true ∧ (s.sems.all fun p => p.2.waiters.isEmpty) = true ∧ s.twin.state = 0

theorem privileged_range {op : Nat} (h : privileged op = true) : 0x10 ≤ op ∧ op ≤ 0x1F := by
  simpa [privileged] using h

section
variable {s : State} {c : Cmd} (hc : s.cmds = [c]) (hp : quiet c.phase = true)
include hc hp

theorem unitClaimed_quiet (herd : Bool) (u : Nat) : unitClaimed s herd u = false := by
  cases h : c.phase
  case held | rerun | unitReset | review => simp [quiet, h] at hp
  all_goals simp [unitClaimed, hc, h]

theorem reviewAll_quiet : reviewAll s = s := by
  cases h : c.phase
  case review => simp [quiet, h] at hp
  all_goals simp [reviewAll, cmdsWhere, hc, h, forEach]

theorem readsDue_quiet : readsDue s = s := by
  cases h : c.phase
  case reading => simp [quiet, h] at hp
  all_goals simp [readsDue, cmdsWhere, hc, h, forEach]

theorem readyOrder_quiet (n : Nat) (lc : Bool) : readyOrder s n lc = [] := by
  have hready : c.phase ≠ .ready := by
    intro h
    simp [quiet, h] at hp
  simp [readyOrder, hc, hready, turned]

theorem placeReady_quiet (lc : Bool) (n : Nat) : placeReady lc n s = s := by
  refine forEach_id _ _ _ fun m _ => ?_
  cases n with
  | zero => rfl
  | succ n => rw [placeFold, readyOrder_quiet hc hp, List.find?_nil]

end

section
variable {s : State} {c : Cmd} (h : loneKernel s c)
include h

theorem loneKernel.cmdAt : cmdAt s c.uid = some c := by
  obtain ⟨-, hc, -⟩ := h
  simp [Machine.cmdAt, hc]

theorem loneKernel.reMovers : reMovers s = s := by
  obtain ⟨-, hc, hop, -⟩ := h
  have := privileged_range hop
  simp [Machine.reMovers, cmdsWhere, hc, show opcodeOf c.desc ≠ 3 by omega, forEach]

theorem loneKernel.moverRun (n : Nat) : moverRun n s = s := by
  obtain ⟨-, hc, hop, -⟩ := h
  have hrange := privileged_range hop
  have hnone : moverFor s c = none := by
    unfold moverFor
    dsimp only
    split
    · omega
    · omega
    · rfl
  cases n with
  | zero => rfl
  | succ n => simp [Machine.moverRun, hc, hnone]

/-- A privileged command is boosted by nothing (R212). -/
theorem loneKernel.orderQueues : orderQueues s = s := by
  obtain ⟨hs, hc, -, -, hb, hctx, hw, -⟩ := h
  have hq : (s.engines.filter fun p => !p.2.queue.isEmpty) = [] := by
    rw [List.filter_eq_nil_iff]
    intro p hp
    have h1 := List.all_eq_true.mp (still_engines hs) p hp
    simp only [Bool.and_eq_true] at h1
    simp [h1.1]
  rw [Machine.orderQueues, refreshBoosts_acceptedTile hc hb hctx hw, hq]
  rfl

/-- A round of a lone command is its work, when that leaves one. -/
theorem loneKernel.workRound {s' : State} {c' : Cmd} (h' : loneKernel s' c') (e : workOn c.uid s = s') : workRound s = s' := by
  obtain ⟨hs, hc, -, hp, -⟩ := id h
  obtain ⟨hs', hc', -, hp', -⟩ := id h'
  have hwork : forEach (s.cmds.map fun c => c.uid) workOn s = s' := by
    rw [hc]
    exact e
  simp only [Machine.workRound, pruneHeld_still hs, h.reMovers, accessesRun_still hs, wakeQueues_still hs, readsDue_quiet hc hp,
    proposeAgain_still hs, heldOrder_still hs, forEach_nil, hwork, still_serving hs', List.map_nil, handRun_still hs',
    rvResolveDue_still hs', twinCompare_still hs', reviewAll_quiet hc' hp', foldResetsEnd_still hs', settleUnits_still hs',
    h'.orderQueues, placeReady_quiet hc' hp', h'.moverRun, flushMsgs_still hs', restorePower_still hs']

/-- What goes on is the lone command's work, when that leaves it waiting. -/
theorem loneKernel.pump_waits {s' : State} {c' : Cmd} (h' : loneKernel s' c') (e : workOn c.uid s = s') (e' : workOn c'.uid s' = s') :
    pump s = s' := by
  rw [pump, pumpRun.eq_def]
  simp only [h.workRound h' e]
  split
  · rfl
  · rw [pumpRun.eq_def]
    simp [h'.workRound h' e']

/-- What goes on is the lone command's work, when that ends it. -/
theorem loneKernel.pump_ends (hrest : resting (workOn c.uid s)) : pump s = workOn c.uid s := by
  obtain ⟨hs, hc, hop, hp, -⟩ := h
  have hrange := privileged_range hop
  refine pump_lone hs hc (by omega) (fun v hv => ?_) hrest.atRest
  simp [quiet, hv] at hp

/-- A change of the lone command's phase. -/
theorem loneKernel.setPhase {p : Phase} (hp' : quiet p = true) :
    loneKernel (setPhase s c.uid p) { c with phase := p } := by
  obtain ⟨hs, hc, hop, hp, hb, hctx, hw⟩ := h
  have hc' : (Machine.setPhase s c.uid p).cmds = [{ c with phase := p }] := by simp [Machine.setPhase, modCmd, hc]
  refine ⟨?_, hc', hop, hp', hb, hctx, hw⟩
  unfold still at hs ⊢
  simp only [unitClaimed_quiet hc hp] at hs
  simp only [unitClaimed_quiet hc' hp']
  exact hs

theorem loneKernel.modCtx (n : Nat) {g : Ctx → Ctx} (hg : ∀ x, (g x).boosted = x.boosted) : loneKernel (modCtx s n g) c := by
  obtain ⟨hs, hc, hop, hp, hb, hctx, hw⟩ := h
  refine ⟨hs, hc, hop, hp, hb, Tab.all_set (q := fun y : Ctx => !y.boosted) hctx ?_, hw⟩
  rw [hg]
  exact Tab.get_of_all Ctx.reset (fun y => !y.boosted) s.ctxs n (by decide) hctx

theorem loneKernel.modFold (n : Nat) {g : Fold → Fold} (hg : ∀ f, (g f).state = f.state ∧ (g f).resv = f.resv) :
    loneKernel (modFold s n g) c := by
  obtain ⟨hs, hrest⟩ := h
  exact ⟨still_modFold hs n hg, hrest⟩

theorem loneKernel.withXlate {x : Xlate} (hx : x.held = s.xlate.held) : loneKernel { s with xlate := x } c := by
  obtain ⟨hs, hrest⟩ := h
  refine ⟨?_, hrest⟩
  unfold still at hs ⊢
  dsimp only
  rw [hx]
  exact hs

theorem loneKernel.withGangs (gs : List Gang) : loneKernel { s with herd := { s.herd with gangs := gs } } c := h

theorem loneKernel.purge (p : TlbEntry → Bool) (w : WalkEntry → Bool) : loneKernel (purge p w s) c :=
  h.withXlate rfl

theorem loneKernel.purgeSlot (slot : Nat) : loneKernel (purgeSlot slot s) c := h.purge _ _

theorem loneKernel.dropFarLines (p : FarLine → Bool) : loneKernel (dropFarLines p s) c := by
  unfold Machine.dropFarLines
  split
  · exact h
  · exact h

/-- The gauges count tasks and launches alone. -/
theorem loneKernel.taskGauge : taskGauge c s = s := by
  obtain ⟨-, -, hop, hp, -⟩ := h
  have hrange := privileged_range hop
  have hheld : underReview c = false := by
    cases hph : c.phase
    case held => simp [quiet, hph] at hp
    all_goals simp [underReview, hph]
  simp [Machine.taskGauge, counted, hheld, show opcodeOf c.desc ≠ 1 by omega, show opcodeOf c.desc ≠ 2 by omega]

/-- The end of a lone command leaves the block at rest. -/
theorem loneKernel.complete_resting (hin : c.carriedIn = none) (r : Done) :
    resting (complete c.uid r s) := by
  obtain ⟨hs, hc, -, hp, -, hctx, -, htwin⟩ := id h
  have hdrop : resting (dropCmd s c.uid) := by
    unfold still at hs
    simp only [unitClaimed_quiet hc hp, Bool.or_false, Bool.and_eq_true] at hs
    obtain ⟨⟨⟨⟨hports, hfolds⟩, hqueues⟩, hengines⟩, hhalves⟩ := hs
    refine ⟨by simp [dropCmd, hc], htwin, ?_, hfolds, hqueues, hengines, hhalves, hctx⟩
    simp only [Bool.and_eq_true]
    exact hports
  have hnoted : resting (twinNote c (digestFlags c.desc r) (forgetWaiter c.uid (dropCmd (Machine.taskGauge c s) c.uid))) := by
    rw [h.taskGauge]
    exact twinNote_keepsRest _ _ _ (forgetWaiter_keepsRest _ _ hdrop)
  unfold complete
  rw [h.cmdAt]
  dsimp only
  rw [hin]
  exact keepsRest.ite (.refl _) (.ite (putOut_keepsRest _ _ _ _) (putRecord_keepsRest _ _ _)) hnoted

/-- A lone command's end does not tell the phase it ended in. -/
theorem loneKernel.complete_setPhase {p : Phase} (hp' : quiet p = true) (r : Done) :
    complete c.uid r (Machine.setPhase s c.uid p) = complete c.uid r s := by
  have h' := h.setPhase hp'
  have hat : Machine.cmdAt (Machine.setPhase s c.uid p) c.uid = some { c with phase := p } := h'.cmdAt
  have hdrop : dropCmd (Machine.setPhase s c.uid p) c.uid = dropCmd s c.uid := by
    obtain ⟨-, hc, -⟩ := h
    simp [dropCmd, Machine.setPhase, modCmd, hc]
  unfold complete
  rw [hat, h.cmdAt]
  dsimp only
  rw [h'.taskGauge, h.taskGauge, hdrop]
  rfl

end

/-! ### A privileged command accepted in a block at rest -/

section
variable {q : Nat} {d : BitVec 512} {s : State} (h : alone q d s) (hop : privileged (opcodeOf d) = true)
include h hop

theorem loneKernel_taken : loneKernel (taken q d s) (accepted q d s) := by
  obtain ⟨-, -, -, hrest, htwin, hsems, -⟩ := h
  have hcmds := atRest_cmds hrest
  have ht := taken_sameButIntake (q := q) (d := d) (s := s)
  refine ⟨still_taken (atRest_still hrest) hcmds, by rw [taken_cmds, hcmds]; rfl, hop, rfl, rfl, ?_, ?_, ?_⟩
  · rw [ht]
    unfold atRest at hrest
    simp only [Bool.and_eq_true] at hrest
    exact hrest.2
  · rw [ht]
    exact hsems
  · rw [ht]
    exact htwin

/-- Only the kernel queue accepts a privileged command (R175). -/
theorem kernel_of_privileged : q = 0 := by
  obtain ⟨-, hacc, -⟩ := h
  by_contra hq
  simp [accepts, hop, hq] at hacc

/-- A privileged command accepted in a block at rest starts at once (R426, R511). -/
theorem mayStart_privileged : mayStart (taken q d s) (accepted q d s) = true := by
  obtain ⟨-, hacc, hcanon, hrest, -⟩ := id h
  have hq := kernel_of_privileged h hop
  have hcmds : (taken q d s).cmds = [accepted q d s] := by rw [taken_cmds, atRest_cmds hrest]; rfl
  have hstopped : queueStopped (taken q d s) (accepted q d s) = false := by
    show ((queueAt (taken q d s) q).state == .waitSlots) = false
    rw [queueAt_taken (canon_queues hcanon)]
    simp only [accepts, Bool.and_eq_true, mayRead, Bool.or_eq_true, beq_iff_eq] at hacc
    obtain ⟨⟨⟨⟨⟨⟨⟨⟨⟨⟨⟨⟨hstate, -⟩, -⟩, -⟩, -⟩, -⟩, -⟩, -⟩, -⟩, -⟩, -⟩, -⟩, -⟩ := hacc
    rcases hstate with hstate | hstate <;> simp [advanced, hstate]
  have hfirst : earlier (taken q d s) (accepted q d s) = [] := by
    simp [earlier, cmdsOf, hcmds]
  have hkernel : kernelMay (taken q d s) (accepted q d s) = true := by
    unfold kernelMay
    rw [hfirst]
    dsimp only
    split
    · rfl
    · exact if_pos hop
  have hq' : (accepted q d s).q = 0 := hq
  simp [mayStart, show (accepted q d s).phase = .accepted from rfl, hstopped, hq', hkernel]

theorem workOn_privileged : workOn (accepted q d s).uid (taken q d s) = startCmd (accepted q d s) (taken q d s) := by
  rw [workOn, (loneKernel_taken h hop).cmdAt]
  exact if_pos (mayStart_privileged h hop)

/-- The row of a privileged command. -/
theorem queueRow_privileged (mnemonic : String) {ofRow : Bool} (hrow : ofRow = true) :
    queueRow q d mnemonic ofRow s = .next (pump (taken q d s)) := by
  obtain ⟨hlt, hacc, -⟩ := id h
  have hrange := privileged_range hop
  exact (need_of_true (by simp [hlt, hrow])).trans (by rw [acceptOne_taken hacc (by omega)])

variable {t : State} (hstart : startCmd (accepted q d s) (taken q d s) = t)
include hstart

/-- A command that ends where it starts. -/
theorem pump_taken_ends (ht : resting t) : pump (taken q d s) = t := by
  have hwork := (workOn_privileged h hop).trans hstart
  rw [(loneKernel_taken h hop).pump_ends (by rwa [hwork]), hwork]

/-- A command that waits where its start has left it. -/
theorem pump_taken_waits {c : Cmd} (hc : loneKernel t c) (hphase : c.phase ≠ .accepted) (hgo : goOn c t = t) :
    pump (taken q d s) = t := by
  have hwork := (workOn_privileged h hop).trans hstart
  refine (loneKernel_taken h hop).pump_waits hc hwork ?_
  rw [workOn, hc.cmdAt]
  exact (if_neg (by simp [mayStart, hphase])).trans hgo

end

end Sys2Proof.Machine
end

section
/-! SUPPORT. The end of a command (R179, R192, R295): what it leaves of the other commands and of the block. -/

namespace Sys2Proof.Machine

/-- Between two states differs at most what reports an end and forgets its command: queues, journal, packets, vectors, gauges and host
memory, twins, and who waited for semaphores and engines. -/
def sameButReports (s t : State) : Prop := t = { s with
  queues := t.queues, sems := t.sems, journal := t.journal, engines := t.engines, twin := t.twin, ports := t.ports, net := t.net
  stack := t.stack, hostPort := t.hostPort, gauges := t.gauges, host := t.host, poison := t.poison, free := t.free }

theorem sameButReports.refl (s : State) : sameButReports s s := rfl

theorem sameButReports.trans {s t u : State} (h : sameButReports s t) (h' : sameButReports t u) : sameButReports s u := by
  unfold sameButReports at *
  rw [h', h]

/-- The same, the last step first: the state between is read off it. -/
theorem sameButReports.after {s t u : State} (h' : sameButReports t u) (h : sameButReports s t) : sameButReports s u := h.trans h'

theorem sameButReports.ite {c : Prop} [Decidable c] {s t u : State} (ht : sameButReports s t) (hu : sameButReports s u) :
    sameButReports s (if c then t else u) := by
  split
  · exact ht
  · exact hu

theorem forEach_sameButReports {α : Type} (l : List α) (g : α → State → State) (hg : ∀ x s, sameButReports s (g x s)) (s : State) :
    sameButReports s (forEach l g s) := by
  induction l generalizing s with
  | nil => exact .refl s
  | cons x l ih => exact (hg x s).trans (ih (g x s))

theorem raiseVector_sameButReports (v : W16) (s : State) : sameButReports s (raiseVector v s) := by
  rw [raiseVector_eq]
  exact rfl

theorem hostWrite_sameButReports (a : Nat) (bs : List Byte) (s : State) : sameButReports s (hostWrite a bs s) := by
  unfold hostWrite
  exact .ite rfl rfl

theorem packetToStack_sameButReports (inst : BitVec 4) (k : Packet) (s : State) : sameButReports s (packetToStack inst k s) := by
  refine .ite ?_ rfl
  rw [packetCross]
  exact .ite rfl rfl

theorem routeOnce_sameButReports {vc : Nat} {k : Packet} {s t : State} (h : routeOnce vc k s = some t) : sameButReports s t := by
  unfold routeOnce at h
  split at h
  · exact Option.some.inj h ▸ .ite rfl rfl
  split at h
  · exact Option.some.inj h ▸ packetToStack_sameButReports _ k s
  dsimp only at h
  split at h
  · cases h
  split at h
  · exact Option.some.inj h ▸ rfl
  · exact Option.some.inj h ▸ packetToStack_sameButReports _ k s

theorem routePacket_sameButReports (vc : Nat) (k : Packet) (s : State) : sameButReports s (routePacket vc k s) := by
  unfold routePacket
  split
  next t h => exact routeOnce_sameButReports h
  next =>
    split
    · split
      next t h => exact routeOnce_sameButReports h
      next => exact .refl s
    · exact .refl s

theorem announce_sameButReports (q : Nat) (s : State) : sameButReports s (announce q s) := by
  unfold announce
  exact .ite (raiseVector_sameButReports _ s) (.ite (.after (raiseVector_sameButReports _ _) rfl) rfl)

theorem writeCompletion_sameButReports (q : Nat) (rec : BitVec 256) (s : State) : sameButReports s (writeCompletion q rec s) :=
  .after (announce_sameButReports q _) ((hostWrite_sameButReports _ _ s).trans rfl)

theorem journalWrite_sameButReports (e : BitVec 512) (s : State) : sameButReports s (journalWrite e s) :=
  .after (.ite (raiseVector_sameButReports _ _) (.refl _)) (.after (.ite rfl (.refl _))
    ((hostWrite_sameButReports _ _ s).trans rfl))

theorem putRecord_sameButReports (q : Nat) (rec : BitVec 256) (s : State) : sameButReports s (putRecord q rec s) :=
  .ite (writeCompletion_sameButReports q rec s) rfl

theorem putOut_sameButReports (q : Nat) (rec : BitVec 256) (e : BitVec 512) (s : State) : sameButReports s (putOut q rec e s) := by
  have hw := writeCompletion_sameButReports q rec s
  exact .ite rfl (.ite (hw.trans rfl) (hw.trans (journalWrite_sameButReports e _)))

theorem forgetWaiter_sameButReports (uid : Nat) (s : State) : sameButReports s (forgetWaiter uid s) := by
  refine .after (forEach_sameButReports _ _ ?_ _) (forEach_sameButReports _ _ ?_ s)
  · exact fun _ _ => rfl
  · exact fun _ _ => rfl

theorem twinNote_sameButReports (c : Cmd) (r : Done) (s : State) : sameButReports s (twinNote c r s) := by
  unfold twinNote
  exact .ite (.refl s) (.ite rfl rfl)

/-- The end of a command takes it from the list, and changes neither another nor the translation state. -/
theorem complete_sameButReports {uid : Nat} {s : State} {c : Cmd} (h : cmdAt s uid = some c) (r : Done) :
    sameButReports (dropCmd s uid) (complete uid r s) := by
  unfold complete
  rw [h]
  dsimp only
  have hgauge : sameButReports (dropCmd s uid) (dropCmd (taskGauge c s) uid) := by
    unfold taskGauge
    split
    · rfl
    · rfl
  have hend := hgauge.trans ((forgetWaiter_sameButReports uid _).trans (twinNote_sameButReports c (digestFlags c.desc r) _))
  split
  next => exact .after (routePacket_sameButReports _ _ _) (hend.trans rfl)
  next => exact .ite hend (.ite (hend.trans (putOut_sameButReports ..)) (hend.trans (putRecord_sameButReports ..)))

theorem cmdAt_dropCmd_self (s : State) (uid : Nat) : cmdAt (dropCmd s uid) uid = none := by
  simp [cmdAt, dropCmd]

theorem cmdAt_dropCmd_ne (s : State) {uid u : Nat} (h : u ≠ uid) : cmdAt (dropCmd s uid) u = cmdAt s u := by
  rw [cmdAt, cmdAt, dropCmd, List.find?_filter]
  congr 1
  funext c
  by_cases hc : c.uid = u
  · simp [hc, h]
  · simp [hc]

theorem cmdAt_complete_self {s : State} {uid : Nat} {c : Cmd} (h : cmdAt s uid = some c) (r : Done) :
    cmdAt (complete uid r s) uid = none := by
  rw [complete_sameButReports h r]
  exact cmdAt_dropCmd_self s uid

theorem cmdAt_complete_ne {s : State} {uid u : Nat} {c : Cmd} (h : cmdAt s uid = some c) (r : Done) (hu : u ≠ uid) :
    cmdAt (complete uid r s) u = cmdAt s u := by
  rw [complete_sameButReports h r]
  exact cmdAt_dropCmd_ne s hu

end Sys2Proof.Machine
end

section
/-! SUPPORT. Translation commands (R158-R163, R510): the end of an invalidation's drain, the frames' owner bytes, the groups that a
resolution lets issue again. -/

namespace Sys2Proof.Machine

/-! ### Draining invalidations (R161) -/

theorem drainsTo_eq_some {c : Cmd} {t : Nat} : drainsTo c = some t ↔ c.phase = .draining t := by
  unfold drainsTo
  split
  next u hu => rw [hu, Option.some.injEq, Phase.draining.injEq]
  next hne => exact ⟨nofun, fun h => absurd h (hne t)⟩

theorem drainOne_gone {s : State} {uid : Nat} (h : cmdAt s uid = none) : drainOne uid s = s := by
  rw [drainOne, h]

/-- The commands that an end of a drain to an epoch is about. -/
def drainsWithin (t : Nat) (c : Cmd) : Bool :=
  match drainsTo c with
  | some u => decide (u ≤ t)
  | none => false

theorem drainsWithin_iff {t : Nat} {c : Cmd} : drainsWithin t c = true ↔ ∃ u, c.phase = .draining u ∧ u ≤ t := by
  unfold drainsWithin
  split
  next u hu => simp [drainsTo_eq_some.mp hu]
  next hnone => exact ⟨nofun, fun ⟨u, hu, _⟩ => absurd (hnone.symm.trans (drainsTo_eq_some.mpr hu)) nofun⟩

theorem drainOrder_eq (s : State) (t : Nat) : drainOrder s t =
    ((s.cmds.filter (drainsWithin t)).insertionSort fun a b => (drainsTo a).getD 0 ≤ (drainsTo b).getD 0).map fun c => c.uid := rfl

theorem mem_drainOrder {s : State} {t u : Nat} : u ∈ drainOrder s t ↔ ∃ x ∈ s.cmds, drainsWithin t x = true ∧ x.uid = u := by
  simp only [drainOrder_eq, List.mem_map, List.mem_insertionSort, List.mem_filter, and_assoc]

section
variable {s : State} {uid t : Nat} {c : Cmd} (hat : cmdAt s uid = some c) (hp : c.phase = .draining t)
include hat hp

theorem drainOne_draining : drainOne uid s = if drainedTo s t then complete uid (.plain stSuccess) s else s := by
  simp only [drainOne, hat, drainsTo_eq_some.mpr hp, success, uid_of_cmdAt hat]

theorem invalDone_draining : invalDone uid s = forEach (drainOrder s t) drainOne s := by
  simp only [invalDone, hat, Option.bind_some, drainsTo_eq_some.mpr hp]

variable (hd : drainedTo s t = true)
include hd

/-- A drained invalidation with none of an earlier or the same epoch beside it completes alone. -/
theorem invalDone_alone (hfirst : ∀ x ∈ s.cmds, ∀ u, x.phase = .draining u → x.uid ≠ uid → t < u) :
    invalDone uid s = complete uid (.plain stSuccess) s := by
  have hall : ∀ u ∈ drainOrder s t, u = uid := by
    intro u hu
    obtain ⟨x, hx, hw, rfl⟩ := mem_drainOrder.mp hu
    obtain ⟨v, hv, hle⟩ := drainsWithin_iff.mp hw
    by_contra hne
    exact absurd (hfirst x hx v hv hne) (by omega)
  have hmem : uid ∈ drainOrder s t :=
    mem_drainOrder.mpr ⟨c, List.mem_of_find?_eq_some hat, drainsWithin_iff.mpr ⟨t, hp, le_refl t⟩, uid_of_cmdAt hat⟩
  rw [invalDone_draining hat hp]
  generalize drainOrder s t = l at hall hmem
  cases l with
  | nil => cases hmem
  | cons u l =>
    rw [forEach_cons, hall u (by simp), drainOne_draining hat hp, if_pos hd]
    refine forEach_id _ _ _ fun v hv => drainOne_gone ?_
    rw [hall v (by simp [hv])]
    exact cmdAt_complete_self hat _

end

/-- A list of at most two elements that holds two different ones holds nothing else. -/
theorem pair_of_mem {α : Type} {a b : α} (hab : a ≠ b) {l : List α} (ha : a ∈ l) (hb : b ∈ l) (hl : l.length ≤ 2) :
    l = [a, b] ∨ l = [b, a] := by
  match l, hl with
  | [x], _ => exact absurd ((List.mem_singleton.mp ha).trans (List.mem_singleton.mp hb).symm) hab
  | [x, y], _ =>
    simp only [List.mem_cons, List.not_mem_nil, or_false] at ha hb
    rcases ha with rfl | rfl <;> rcases hb with rfl | rfl
    · exact absurd rfl hab
    · exact .inl rfl
    · exact .inr rfl
    · exact absurd rfl hab

/-- Of two drained invalidations the one of the earlier epoch completes first. -/
theorem invalDone_pair {s : State} {uid t u : Nat} {c x : Cmd} (hat : cmdAt s uid = some c) (hp : c.phase = .draining t)
    (hatx : cmdAt s x.uid = some x) (hpx : x.phase = .draining u) (hlt : u < t) (hd : drainedTo s t = true)
    (hdx : drainedTo s u = true) (hlater : ∀ y ∈ s.cmds, ∀ v, y.phase = .draining v → y ≠ c → y ≠ x → t < v)
    (hlen : (s.cmds.filter fun y => y.uid == uid || y.uid == x.uid).length = 2) :
    invalDone uid s = complete uid (.plain stSuccess) (complete x.uid (.plain stSuccess) s) := by
  have hne : c ≠ x := by
    rintro rfl
    exact absurd (Phase.draining.inj (hp.symm.trans hpx)) (by omega)
  have huid : uid ≠ x.uid := by
    rintro rfl
    exact hne (Option.some.inj (hat.symm.trans hatx))
  have hw : drainsWithin t c = true := drainsWithin_iff.mpr ⟨t, hp, le_refl t⟩
  have hwx : drainsWithin t x = true := drainsWithin_iff.mpr ⟨u, hpx, hlt.le⟩
  have hshort : (s.cmds.filter (drainsWithin t)).length ≤ 2 := by
    rw [← hlen]
    simp only [← List.countP_eq_length_filter]
    refine List.countP_mono_left fun y hy hwy => ?_
    obtain ⟨v, hv, hle⟩ := drainsWithin_iff.mp hwy
    by_contra hno
    rw [Bool.or_eq_true, beq_iff_eq, beq_iff_eq, not_or, ← uid_of_cmdAt hat] at hno
    exact absurd (hlater y hy v hv (fun e => hno.1 (e ▸ rfl)) (fun e => hno.2 (e ▸ rfl))) (by omega)
  have horder : drainOrder s t = [x.uid, uid] := by
    have hcx : ¬ (drainsTo c).getD 0 ≤ (drainsTo x).getD 0 := by
      rw [drainsTo_eq_some.mpr hp, drainsTo_eq_some.mpr hpx]
      exact not_le.mpr hlt
    have hxc : (drainsTo x).getD 0 ≤ (drainsTo c).getD 0 := (not_le.mp hcx).le
    have hmem := List.mem_filter.mpr ⟨List.mem_of_find?_eq_some hat, hw⟩
    have hmemx := List.mem_filter.mpr ⟨List.mem_of_find?_eq_some hatx, hwx⟩
    rw [drainOrder_eq]
    rcases pair_of_mem hne hmem hmemx hshort with h | h
    · simp [h, hcx, uid_of_cmdAt hat]
    · simp [h, hxc, uid_of_cmdAt hat]
  have hat' : cmdAt (complete x.uid (.plain stSuccess) s) uid = some c := by rw [cmdAt_complete_ne hatx _ huid, hat]
  have hd' : drainedTo (complete x.uid (.plain stSuccess) s) t = true := by
    rw [complete_sameButReports hatx]
    exact hd
  rw [invalDone_draining hat hp, horder, forEach_cons, forEach_cons, forEach_nil, drainOne_draining hatx hpx, if_pos hdx,
    drainOne_draining hat' hp, if_pos hd']

/-- FRAME_OWN ends when no request it waits for is left (R510). -/
theorem frameOwnDone_ended {s : State} {uid : Nat} {c : Cmd} (hat : cmdAt s uid = some c) {ids : List Nat}
    (hp : c.phase = .frameWait ids) (hended : ∀ r ∈ s.xlate.reqs, r.id ∉ ids) :
    frameOwnDone uid s = complete uid (.plain stSuccess) s := by
  have hnone : ¬ (s.xlate.reqs.any fun r => ids.contains r.id) = true := by
    simpa using hended
  simp only [frameOwnDone, hat, hp, if_neg hnone, success, uid_of_cmdAt hat]

/-! ### The first step of an invalidation (R161) -/

/-- The translation epoch advances past t. -/
def epochAdvanced (t : Nat) (s : State) : State := { s with xlate := { s.xlate with epoch := t + 1 } }

/-- What a lone invalidation does when it starts, and each time it goes on before its first step. -/
theorem invalRun_lone {s : State} {c : Cmd} {effect : State → State} (he : loneKernel (effect s) c)
    (hh : (effect s).xlate.holders = s.xlate.holders) : invalRun c effect s =
      if outstanding s (s.xlate.epoch + 1) ≠ 0 then setPhase s c.uid .invalWait
      else if drainedTo s s.xlate.epoch then complete c.uid (.plain stSuccess) (epochAdvanced s.xlate.epoch (effect s))
      else setPhase (epochAdvanced s.xlate.epoch (effect s)) c.uid (.draining s.xlate.epoch) := by
  have hu : loneKernel (epochAdvanced s.xlate.epoch (effect s)) c := he.withXlate rfl
  have hq := hu.setPhase (p := .draining s.xlate.epoch) rfl
  have hdrained : drainedTo (setPhase (epochAdvanced s.xlate.epoch (effect s)) c.uid (.draining s.xlate.epoch)) s.xlate.epoch =
      drainedTo s s.xlate.epoch := by
    simp only [drainedTo, epochDrained]
    rw [← hh]
    rfl
  have horder : drainOrder (setPhase (epochAdvanced s.xlate.epoch (effect s)) c.uid (.draining s.xlate.epoch)) s.xlate.epoch =
      [c.uid] := by
    rw [drainOrder_eq, hq.2.1]
    simp [drainsWithin, drainsTo]
  unfold invalRun
  refine ite_congr rfl (fun _ => rfl) fun _ => ?_
  refine (invalDone_draining (t := s.xlate.epoch) hq.cmdAt rfl).trans ?_
  rw [horder, forEach_cons, forEach_nil]
  refine (drainOne_draining (t := s.xlate.epoch) hq.cmdAt rfl).trans ?_
  rw [hdrained]
  exact if_congr Iff.rfl (hu.complete_setPhase rfl _) rfl

theorem taken_xlate {q : Nat} {d : BitVec 512} {s : State} : (taken q d s).xlate = s.xlate := by
  rw [taken_sameButIntake (q := q) (d := d) (s := s)]

theorem setPhase_again (s : State) (uid : Nat) (p : Phase) : setPhase (setPhase s uid p) uid p = setPhase s uid p :=
  modCmd_modCmd s uid fun _ => rfl

section
variable {q : Nat} {d : BitVec 512} {s : State} (h : alone q d s) (hop : privileged (opcodeOf d) = true)
include h hop

/-- What an invalidation accepted in a block at rest leaves: it waits for the next epoch's counter, ends, or drains. -/
theorem pump_taken_invalidation {effect : State → State} (hstart : startCmd (accepted q d s) (taken q d s) =
      invalRun (accepted q d s) effect (taken q d s))
    (hagain : goOn { accepted q d s with phase := .invalWait } (setPhase (taken q d s) (accepted q d s).uid .invalWait) =
      invalRun { accepted q d s with phase := .invalWait } effect (setPhase (taken q d s) (accepted q d s).uid .invalWait))
    (he : loneKernel (effect (taken q d s)) (accepted q d s))
    (hx : (effect (taken q d s)).xlate.holders = s.xlate.holders) :
    pump (taken q d s) =
      if outstanding s (s.xlate.epoch + 1) ≠ 0 then setPhase (taken q d s) (accepted q d s).uid .invalWait
      else if drainedTo s s.xlate.epoch then
        complete (accepted q d s).uid (.plain stSuccess) (epochAdvanced s.xlate.epoch (effect (taken q d s)))
      else setPhase (epochAdvanced s.xlate.epoch (effect (taken q d s))) (accepted q d s).uid (.draining s.xlate.epoch) := by
  have hxs := taken_xlate (q := q) (d := d) (s := s)
  have hl := loneKernel_taken h hop
  have hu : loneKernel (epochAdvanced s.xlate.epoch (effect (taken q d s))) (accepted q d s) := he.withXlate rfl
  have hrun := invalRun_lone he (by rw [hx, hxs])
  have hout (e : Nat) : outstanding (taken q d s) e = outstanding s e := by rw [outstanding, hxs, outstanding]
  have hdrained (e : Nat) : drainedTo (taken q d s) e = drainedTo s e := by
    simp only [drainedTo, epochDrained, hxs]
  rw [hxs, hout, hdrained] at hrun
  rw [hrun] at hstart
  by_cases hwait : outstanding s (s.xlate.epoch + 1) ≠ 0
  · rw [if_pos hwait] at hstart ⊢
    refine pump_taken_waits h hop hstart (hl.setPhase rfl) nofun (hagain.trans ?_)
    refine (if_pos ?_).trans (setPhase_again _ _ _)
    rw [← hout, ← hxs] at hwait
    exact hwait
  · rw [if_neg hwait] at hstart ⊢
    by_cases hend : drainedTo s s.xlate.epoch = true
    · rw [if_pos hend] at hstart ⊢
      exact pump_taken_ends h hop hstart (hu.complete_resting rfl _)
    · rw [if_neg hend] at hstart ⊢
      exact pump_taken_waits h hop hstart (hu.setPhase rfl) nofun rfl

end

/-! ### Owners of frames (R510) -/

/-- A run of entries written alike. -/
theorem get_foldl_set {e : Byte} {first : Nat} {m : Tab Byte} (hwf : Tab.wf 0 m = true) (n i : Nat) :
    Tab.get 0 ((List.range n).foldl (fun t i => Tab.set 0 t (first + i) e) m) i =
      if first ≤ i ∧ i < first + n then e else Tab.get 0 m i := by
  have hkept : ∀ n, Tab.wf 0 ((List.range n).foldl (fun t i => Tab.set 0 t (first + i) e) m) = true := by
    intro n
    induction n with
    | zero => exact hwf
    | succ n ih =>
      rw [List.range_succ, List.foldl_concat]
      exact Tab.set_wf 0 _ e ih
  induction n with
  | zero => simp
  | succ n ih =>
    rw [List.range_succ, List.foldl_concat]
    by_cases hi : first + n = i
    · rw [← hi, Tab.get_set_self 0 _ e (hkept n), if_pos (by omega)]
    · rw [Tab.get_set_ne 0 _ e hi, ih]
      exact if_congr (by omega) rfl rfl

/-- The owner byte of FRAME_OWN: the fold and the valid bit. -/
theorem ownerByte (x : W64) : (place (field x 0 4) 0 4 ||| place (if bitAt x 8 then 1 else 0) 7 1 : Byte) =
    BitVec.ofNat 8 (field x 0 4 + if bitAt x 8 then 128 else 0) := by
  have hall : ∀ f < 16, ∀ v : Bool, (place f 0 4 ||| place (if v then 1 else 0) 7 1 : Byte) =
      BitVec.ofNat 8 (f + if v then 128 else 0) := by decide
  exact hall _ (Nat.mod_lt _ (by decide)) _

/-! ### Groups that issue again (R163) -/

/-- Between two states only gangs differ. -/
def sameButGangs (s t : State) : Prop := t = { s with herd := { s.herd with gangs := t.herd.gangs } }

theorem sameButGangs.trans {s t u : State} (h : sameButGangs s t) (h' : sameButGangs t u) : sameButGangs s u := by
  unfold sameButGangs at *
  rw [h', h]

theorem setGroup_sameButGangs (t : GroupRef) (g : Group) (s : State) : sameButGangs s (setGroup t g s) := by
  unfold setGroup
  split
  · rfl
  · rfl

theorem lookupAgain_sameButGangs (t : GroupRef) (s : State) : sameButGangs s (lookupAgain (.group t) s) := by
  unfold lookupAgain
  dsimp only
  split
  · split
    · exact setGroup_sameButGangs t _ s
    · exact setGroup_sameButGangs t _ s
    · rfl
  · rfl

/-- A gang stored leaves every other as it is. -/
theorem gangAt_setGang_ne {s : State} {y : Gang} {l g : Nat} (h : ¬ (l = y.launch ∧ g = y.gang)) :
    gangAt (setGang y s) l g = gangAt s l g := by
  have hy : isGang l g y = false := by
    rw [← Bool.not_eq_true]
    intro hy
    simp only [isGang, Bool.and_eq_true, beq_iff_eq] at hy
    exact h ⟨hy.1.symm, hy.2.symm⟩
  have hz {z : Gang} (hz : isGang l g z = true) : ¬ isGang y.launch y.gang z = true := by
    intro hyz
    simp only [isGang, Bool.and_eq_true, beq_iff_eq] at hz hyz
    exact h ⟨hz.1.symm.trans hyz.1, hz.2.symm.trans hyz.2⟩
  show (s.herd.gangs.map fun z => if isGang y.launch y.gang z then y else z).find? (isGang l g) = s.herd.gangs.find? (isGang l g)
  induction s.herd.gangs with
  | nil => rfl
  | cons z zs ih =>
    by_cases hlg : isGang l g z = true
    · rw [List.map_cons, if_neg (hz hlg), List.find?_cons_of_pos hlg, List.find?_cons_of_pos hlg]
    · rw [List.map_cons, List.find?_cons_of_neg hlg, ← ih]
      refine List.find?_cons_of_neg ?_
      split
      · simp [hy]
      · exact hlg

/-- A group stored leaves every other as it is. -/
theorem groupAt_setGroup_ne {s : State} {t t' : GroupRef} (hne : t' ≠ t) (g : Group) :
    groupAt (setGroup t' g s) t = groupAt s t := by
  cases hx : gangAt s t'.launch t'.gang with
  | none => rw [setGroup, hx]
  | some x =>
    have hid : x.launch = t'.launch ∧ x.gang = t'.gang := by
      simpa [isGang] using List.find?_some hx
    by_cases hg : t.launch = t'.launch ∧ t.gang = t'.gang
    · have hgroup : t'.group ≠ t.group := by
        intro e
        obtain ⟨l, k, j⟩ := t
        obtain ⟨l', k', j'⟩ := t'
        simp_all
      have hset := gangAt_setGroup (g' := g) hx
      rw [groupAt, groupAt, hg.1, hg.2, hset, hx]
      exact List.getElem?_set_ne hgroup
    · have hother : gangAt (setGroup t' g s) t.launch t.gang = gangAt s t.launch t.gang := by
        rw [setGroup, hx]
        exact gangAt_setGang_ne (by rw [hid.1, hid.2]; exact hg)
      rw [groupAt, groupAt, hother]

theorem groupAt_lookupAgain_ne {s : State} {t t' : GroupRef} (hne : t' ≠ t) :
    groupAt (lookupAgain (.group t') s) t = groupAt s t := by
  unfold lookupAgain
  dsimp only
  split
  · split
    · exact groupAt_setGroup_ne hne _
    · exact groupAt_setGroup_ne hne _
    · rfl
  · rfl

theorem lookupAgain_idle {s : State} {t : GroupRef} {g : Group} (hg : groupAt s t = some g) (hw : g.wait = .none) :
    lookupAgain (.group t) s = s := by
  simp only [lookupAgain, hg, hw]

theorem groupAt_lookupAgain_self {s : State} {t : GroupRef} {g : Group} (hg : groupAt s t = some g) {i : Nat} (hw : g.wait = .fault i) :
    groupAt (lookupAgain (.group t) s) t = some { g with wait := .none } := by
  simp only [lookupAgain, hg, hw]
  exact groupAt_setGroup hg

/-- Groups that are looked up again: only gangs change, a group that waits for nothing stays, and one among them that waits on a fault
issues its instruction again. -/
theorem forEach_lookupAgain {l : List Requester} (hl : ∀ w ∈ l, ∃ t, w = .group t) (s : State) :
    sameButGangs s (forEach l lookupAgain s) ∧
      ∀ t g, groupAt s t = some g → (g.wait = .none → groupAt (forEach l lookupAgain s) t = some g) ∧
        ∀ i, g.wait = .fault i → .group t ∈ l → groupAt (forEach l lookupAgain s) t = some { g with wait := .none } := by
  induction l generalizing s with
  | nil => exact ⟨rfl, fun t g hg => ⟨fun _ => hg, nofun⟩⟩
  | cons w l ih =>
    obtain ⟨t', rfl⟩ := hl w (by simp)
    obtain ⟨hsame, hgroups⟩ := ih (fun w hw => hl w (by simp [hw])) (lookupAgain (.group t') s)
    refine ⟨(lookupAgain_sameButGangs t' s).trans hsame, fun t g hg => ?_⟩
    rw [forEach_cons]
    by_cases ht : t' = t
    · subst ht
      refine ⟨fun hw => ?_, fun i hw _ => (hgroups t' _ (groupAt_lookupAgain_self hg hw)).1 rfl⟩
      rw [lookupAgain_idle hg hw] at hgroups ⊢
      exact (hgroups t' g hg).1 hw
    · obtain ⟨hidle, hfault⟩ := hgroups t g ((groupAt_lookupAgain_ne ht).trans hg)
      refine ⟨hidle, fun i hw hmem => hfault i hw ((List.mem_cons.mp hmem).resolve_left fun e => ?_)⟩
      exact ht (Requester.group.inj e).symm

/-! ### What acceptance leaves (R177) -/

section
variable {q : Nat} {d : BitVec 512} {s : State}

theorem taken_ctxAt (n : Nat) : ctxAt (taken q d s) n = ctxAt s n := by
  rw [ctxAt, taken_sameButIntake (q := q) (d := d) (s := s)]
  rfl

theorem taken_groupAt (t : GroupRef) : groupAt (taken q d s) t = groupAt s t := by
  rw [groupAt, taken_sameButIntake (q := q) (d := d) (s := s)]
  rfl

theorem taken_foldExists (n : Nat) : foldExists (taken q d s) n = foldExists s n := by
  rw [foldExists, taken_sameButIntake (q := q) (d := d) (s := s)]
  rfl

theorem taken_tagLive (t : W16) : tagLive (taken q d s) t = tagLive s t := by
  simp only [tagLive, taken_ctxAt]

theorem taken_flagsPlaced : flagsPlaced (taken q d s) = flagsPlaced s := by
  simp only [flagsPlaced, taken_xlate]

theorem taken_isHostPa (a : Nat) : isHostPa (taken q d s) a = isHostPa s a := by
  simp only [isHostPa, decodePa, taken_xlate]

theorem taken_frameArgsOk (e : BitVec 512) : frameArgsOk (taken q d s) e = frameArgsOk s e := by
  simp only [frameArgsOk, taken_xlate, taken_foldExists]

theorem taken_frameReqs (first n : Nat) : frameReqs (taken q d s) first n = frameReqs s first n := by
  simp only [frameReqs, taken_xlate]

theorem taken_invalOk (e : BitVec 512) : invalOk (taken q d s) e = invalOk s e := by
  simp only [invalOk, taken_tagLive, taken_foldExists]

theorem taken_invalSlot (e : BitVec 512) (slot : Nat) : invalSlot (taken q d s) e slot = invalSlot s e slot := by
  simp only [invalSlot, taken_ctxAt]

theorem accepted_desc : (accepted q d s).desc = d := rfl

end

/-! ### SET_ROOT and FRAME_OWN (R158, R510) -/

/-- The frames' owner bytes that FRAME_OWN leaves. -/
def ownedFrames (d : BitVec 512) (s : State) : Tab Byte :=
  (List.range (frameCount d)).foldl (fun t i => Tab.set 0 t (frameFirst s d + i)
    (place (field (arg2 d) 0 4) 0 4 ||| place (if bitAt (arg2 d) 8 then 1 else 0) 7 1)) s.xlate.frames

theorem get_ownedFrames {d : BitVec 512} {s : State} (hwf : Tab.wf 0 s.xlate.frames = true) (i : Nat) :
    Tab.get 0 (ownedFrames d s) i = if frameFirst s d ≤ i ∧ i < frameFirst s d + frameCount d then
      BitVec.ofNat 8 (field (arg2 d) 0 4 + if bitAt (arg2 d) 8 then 128 else 0) else Tab.get 0 s.xlate.frames i := by
  rw [ownedFrames, get_foldl_set hwf, ownerByte]

theorem canon_frames {s : State} (h : canon s = true) : Tab.wf 0 s.xlate.frames = true := by
  simp only [canon, Bool.and_eq_true] at h
  tauto

/-- The state in which the frames named have their new owner, and no line of theirs is cached. -/
def framesOwned (d : BitVec 512) (s t : State) : State :=
  dropFarLines (fun l => decide (frameFirst s d ≤ l.line / 8192) && decide (l.line / 8192 < frameFirst s d + frameCount d))
    { t with xlate := { t.xlate with frames := ownedFrames d s } }

section
variable {q : Nat} {d : BitVec 512} {s : State} (hop : opcodeOf d = 0x10)
include hop

theorem privileged_map : privileged (opcodeOf d) = true := by
  rw [hop]
  rfl

theorem startCmd_map (u : State) : startCmd (accepted q d s) u = startMapUpdate (accepted q d s) u := by
  simp only [startCmd, accepted_desc, hop]

variable (h : alone q d s)
include h

theorem exec_setRoot (hf : mapFunc d = 1) (hflags : flagsPlaced s = true) (hlive : tagLive s (targetTag d) = true)
    (halign : (arg0 d).toNat % 4096 = 0) (hhost : isHostPa s (arg0 d).toNat = true) :
    exec (.setRoot q d) s = .next (complete (accepted q d s).uid (.plain stSuccess)
      (purgeSlot (tagSlot (targetTag d)) (modCtx (taken q d s) (tagSlot (targetTag d)) fun x =>
        { x with root := some (arg0 d), pasid := bitsAt (arg1 d) 0 20 }))) := by
  have hpriv := privileged_map hop
  have hroot := ((loneKernel_taken h hpriv).modCtx (tagSlot (targetTag d))
    (g := fun x => { x with root := some (arg0 d), pasid := bitsAt (arg1 d) 0 20 }) fun _ => rfl).purgeSlot (tagSlot (targetTag d))
  refine (queueRow_privileged h hpriv _ (by simp [hop, hf])).trans ?_
  refine congrArg Host.Outcome.next (pump_taken_ends h hpriv ?_ (hroot.complete_resting rfl _))
  rw [startCmd_map hop, startMapUpdate, accepted_desc, hf]
  simp only [startSetRoot, accepted_desc, taken_flagsPlaced, hflags, taken_tagLive, hlive, halign, taken_isHostPa, hhost]
  rfl

theorem exec_frameOwn (hf : mapFunc d = 2) (hargs : frameArgsOk s d = true) : exec (.frameOwn q d) s = .next
    (if frameReqs s (frameFirst s d) (frameCount d) = [] then
      complete (accepted q d s).uid (.plain stSuccess) (framesOwned d s (taken q d s))
    else setPhase (framesOwned d s (taken q d s)) (accepted q d s).uid
      (.frameWait (frameReqs s (frameFirst s d) (frameCount d)))) := by
  have hpriv := privileged_map hop
  have howned : loneKernel (framesOwned d s (taken q d s)) (accepted q d s) :=
    ((loneKernel_taken h hpriv).withXlate (x := { (taken q d s).xlate with frames := ownedFrames d s }) rfl).dropFarLines _
  have hfirst : frameFirst (taken q d s) d = frameFirst s d := by rw [frameFirst, taken_xlate, frameFirst]
  have hframes : framesOwned d s (taken q d s) = framesOwned d (taken q d s) (taken q d s) := by
    rw [framesOwned, framesOwned, hfirst, ownedFrames, ownedFrames, hfirst, taken_xlate]
  have hstart : startCmd (accepted q d s) (taken q d s) = if frameReqs s (frameFirst s d) (frameCount d) = [] then
      complete (accepted q d s).uid (.plain stSuccess) (framesOwned d s (taken q d s))
      else setPhase (framesOwned d s (taken q d s)) (accepted q d s).uid
        (.frameWait (frameReqs s (frameFirst s d) (frameCount d))) := by
    rw [startCmd_map hop, startMapUpdate, accepted_desc, hf, hframes, ← taken_frameReqs (q := q) (d := d), ← hfirst]
    refine (if_neg ?_).trans (if_congr List.isEmpty_iff rfl rfl)
    rw [accepted_desc, taken_frameArgsOk, hargs]
    exact Bool.false_ne_true
  refine (queueRow_privileged h hpriv _ (by simp [hop, hf])).trans (congrArg Host.Outcome.next ?_)
  by_cases hnone : frameReqs s (frameFirst s d) (frameCount d) = []
  · rw [if_pos hnone] at hstart ⊢
    exact pump_taken_ends h hpriv hstart (howned.complete_resting rfl _)
  · rw [if_neg hnone] at hstart ⊢
    exact pump_taken_waits h hpriv hstart (howned.setPhase rfl) nofun rfl

/-- WINDOW replaces an entry at the first step of an invalidation. -/
theorem exec_window (hf : mapFunc d = 3) (hfold : foldExists s (tagFold (targetTag d)) = true) : exec (.window q d) s = .next
    (if outstanding s (s.xlate.epoch + 1) ≠ 0 then setPhase (taken q d s) (accepted q d s).uid .invalWait
    else if drainedTo s s.xlate.epoch then
      complete (accepted q d s).uid (.plain stSuccess) (epochAdvanced s.xlate.epoch (windowReplace d (taken q d s)))
    else setPhase (epochAdvanced s.xlate.epoch (windowReplace d (taken q d s))) (accepted q d s).uid (.draining s.xlate.epoch)) := by
  have hpriv := privileged_map hop
  have hrun (c : Cmd) (hd : c.desc = d) {u : State} (hu : foldExists u (tagFold (targetTag d)) = true) :
      startMapUpdate c u = invalRun c (windowReplace d) u := by
    rw [startMapUpdate, hd, hf]
    simp only [startWindow, hd, hu]
    rfl
  have htaken : foldExists (taken q d s) (tagFold (targetTag d)) = true := by rw [taken_foldExists, hfold]
  refine (queueRow_privileged h hpriv _ (by simp [hop, hf])).trans (congrArg Host.Outcome.next ?_)
  refine pump_taken_invalidation h hpriv ?_ ?_ ((loneKernel_taken h hpriv).modFold _ fun _ => ⟨rfl, rfl⟩) ?_
  · rw [startCmd_map hop, hrun _ accepted_desc htaken]
  · simp only [goOn, accepted_desc, hop]
    exact hrun _ accepted_desc htaken
  · rw [windowReplace, modFold, setFold_xlate, taken_xlate]

end

/-! ### INVALIDATE (R159, R161) -/

section
variable {q : Nat} {d : BitVec 512} {s : State} (hop : opcodeOf d = 0x11) (h : alone q d s)
include hop h

/-- INVALIDATE purges at its first step. -/
theorem exec_invalidate (hok : invalOk s d = true) : exec (.invalidate q d) s = .next
    (if outstanding s (s.xlate.epoch + 1) ≠ 0 then setPhase (taken q d s) (accepted q d s).uid .invalWait
    else if drainedTo s s.xlate.epoch then
      complete (accepted q d s).uid (.plain stSuccess) (epochAdvanced s.xlate.epoch (invalPurge d (taken q d s)))
    else setPhase (epochAdvanced s.xlate.epoch (invalPurge d (taken q d s))) (accepted q d s).uid (.draining s.xlate.epoch)) := by
  have hpriv : privileged (opcodeOf d) = true := by
    rw [hop]
    rfl
  have hrun (c : Cmd) (hd : c.desc = d) {u : State} (hu : invalOk u d = true) : startInvalidate c u = invalRun c (invalPurge d) u := by
    simp only [startInvalidate, hd, hu]
    rfl
  have htaken : invalOk (taken q d s) d = true := by rw [taken_invalOk, hok]
  refine (queueRow_privileged h hpriv _ (by simp [hop])).trans (congrArg Host.Outcome.next ?_)
  refine pump_taken_invalidation h hpriv ?_ ?_ ((loneKernel_taken h hpriv).purge _ _) ?_
  · simp only [startCmd, accepted_desc, hop]
    exact hrun _ accepted_desc htaken
  · simp only [goOn, accepted_desc, hop]
    exact hrun _ accepted_desc htaken
  · show (taken q d s).xlate.holders = _
    rw [taken_xlate]

omit hop h in
/-- What is purged is what the context slots before acceptance say. -/
theorem invalPurge_taken : invalPurge d (taken q d s) = purge
    (fun e => invalSlot s d e.slot && (field d 128 2 != 0 || overlap e.va e.size (field d 448 64) (4096 * field d 416 32)))
    (fun w => invalSlot s d w.slot && (field d 128 2 != 0 ||
      overlap w.va (2 ^ (12 + 9 * (w.level - 1))) (field d 448 64) (4096 * field d 416 32))) (taken q d s) := by
  simp only [invalPurge, taken_invalSlot]

end

/-! ### RESOLVE (R163) -/

/-- A stale identifier changes nothing. -/
theorem resolveFault_stale {id : Nat} {fail : Bool} {s : State}
    (h : s.xlate.pending.find? (fun e => e.idx == id % 256 && e.seq.toNat == id / 256) = none) : resolveFault id fail s = s := by
  rw [resolveFault, h]

/-- A fault resolved frees its entry and lets its groups issue again; nothing is parked. -/
theorem resolveFault_groups {id : Nat} {s : State} {e : PendingFault}
    (h : s.xlate.pending.find? (fun e => e.idx == id % 256 && e.seq.toNat == id / 256) = some e)
    (hparked : s.xlate.parked = []) {t : State} (ht : forEach e.waiters lookupAgain (freePending e.idx s) = t) (hsame : sameButGangs (freePending e.idx s) t) :
    resolveFault id false s = t := by
  have htp : t.xlate.parked = [] := by
    rw [hsame]
    exact hparked
  have htx : { t.xlate with parked := [] } = t.xlate := by rw [← htp]
  simp only [resolveFault, h, Bool.false_eq_true, if_false, ht, retryParked, htp, List.map_nil, forEach_nil, htx]

section
variable {q : Nat} {d : BitVec 512} {s : State} (hop : opcodeOf d = 0x10) (h : alone q d s) (hf : mapFunc d = 4)
include hop h hf

/-- RESOLVE ends with success on what resolving its fault leaves. -/
theorem exec_resolve {t : State} (ht : resolveFault (field d 448 16) (bitAt (arg1 d) 0) (taken q d s) = t)
    (hlone : loneKernel t (accepted q d s)) :
    exec (.resolve q d) s = .next (complete (accepted q d s).uid (.plain stSuccess) t) := by
  have hpriv := privileged_map hop
  refine (queueRow_privileged h hpriv _ (by simp [hop, hf])).trans (congrArg Host.Outcome.next ?_)
  refine pump_taken_ends h hpriv ?_ (hlone.complete_resting rfl _)
  rw [startCmd_map hop, startMapUpdate, accepted_desc, hf, ← ht]
  rfl

theorem exec_resolve_stale
    (hstale : s.xlate.pending.find? (fun e => e.idx == field d 448 16 % 256 && e.seq.toNat == field d 448 16 / 256) = none) :
    exec (.resolve q d) s = .next (complete (accepted q d s).uid (.plain stSuccess) (taken q d s)) := by
  rw [← taken_xlate (q := q) (d := d)] at hstale
  exact exec_resolve hop h hf (resolveFault_stale hstale) (loneKernel_taken h (privileged_map hop))

/-- The groups that waited on the entry named issue their instructions again. -/
theorem exec_resolve_groups (hparked : s.xlate.parked = []) {e : PendingFault}
    (he : s.xlate.pending.find? (fun e => e.idx == field d 448 16 % 256 && e.seq.toNat == field d 448 16 / 256) = some e)
    (hfail : bitAt (arg1 d) 0 = false) (hgroups : ∀ w ∈ e.waiters, ∃ t, w = .group t) :
    ∃ gs, exec (.resolve q d) s = .next (complete (accepted q d s).uid (.plain stSuccess)
        { taken q d s with
          herd := { (taken q d s).herd with gangs := gs }, xlate := (freePending e.idx (taken q d s)).xlate }) ∧
      ∀ t g, .group t ∈ e.waiters → groupAt s t = some g → g.wait = .fault e.idx →
        groupAt { taken q d s with herd := { (taken q d s).herd with gangs := gs } } t = some { g with wait := .none } := by
  obtain ⟨hsame, hissue⟩ := forEach_lookupAgain hgroups (freePending e.idx (taken q d s))
  unfold sameButGangs at hsame
  generalize hgs : (forEach e.waiters lookupAgain (freePending e.idx (taken q d s))).herd.gangs = gs at hsame
  have hleft : loneKernel { taken q d s with
      herd := { (taken q d s).herd with gangs := gs }, xlate := (freePending e.idx (taken q d s)).xlate } (accepted q d s) :=
    ((loneKernel_taken h (privileged_map hop)).withGangs gs).withXlate rfl
  refine ⟨gs, exec_resolve hop h hf ?_ hleft, fun t g hmem hg hw => ?_⟩
  · rw [← taken_xlate (q := q) (d := d)] at he hparked
    rw [hfail]
    exact resolveFault_groups he hparked hsame rfl
  · have hg' : groupAt (taken q d s) t = some g := (taken_groupAt t).trans hg
    subst hgs
    exact (hissue t g hg').2 _ hw hmem

end

end Sys2Proof.Machine
open Sys2Proof Sys2Proof.Machine

/-- Settles O20: what a translation command leaves is its start's effect, as the lone work of its acceptance; each drain's end completes
what has drained. -/
theorem translationCommands : Obligations.TranslationCommands := by
  unfold Obligations.TranslationCommands
  refine ⟨fun q d s h => ?start, fun s uid c hat => ?drain⟩
  case start =>
    intro c s1 tag next ends
    refine ⟨fun hop hf hflags hlive halign hhost => ?_, fun hop hf hargs => ?_, fun hop hf hfold => exec_window hop h hf hfold,
      fun hop hf hparked => ⟨fun e he hfail hgroups => exec_resolve_groups hop h hf hparked he hfail hgroups,
        exec_resolve_stale hop h hf⟩, fun hop hok => ?_⟩
    · rw [exec_setRoot hop h hf hflags hlive halign hhost, modCtx, taken_ctxAt]
    · obtain ⟨-, -, hcanon, -⟩ := id h
      exact ⟨ownedFrames d s, get_ownedFrames (canon_frames hcanon), exec_frameOwn hop h hf hargs⟩
    · rw [exec_invalidate hop h hok, invalPurge_taken]
      rfl
  case drain =>
    refine ⟨fun t hp hd hfirst => ?_, fun t x u hp hatx hpx hlt hd hdx hlater hlen => ?_, fun ids hp hended => ?_⟩
    · exact congrArg (fun u => Host.Outcome.next (pump u)) (invalDone_alone hat hp hd hfirst)
    · exact congrArg (fun u => Host.Outcome.next (pump u)) (invalDone_pair hat hp hatx hpx hlt hd hdx hlater hlen)
    · exact congrArg (fun u => Host.Outcome.next (pump u)) (frameOwnDone_ended hat hp hended)
end

section
/-! SUPPORT. Reservoir requests at a member (R252, R288, R315-R323): what each op answers and leaves of the record of its key, the way
a reservation takes, and what a stale version changes. -/

namespace Sys2Proof.Machine

/-! ### A message that has come whole (R348) -/

/-- A message whose fragments are new acts on the state that taking them leaves. -/
theorem onMessage_fresh {vc : Nat} {h : MsgHdr} {s : State} (hfresh : freshMsg vc h s = true) (act : State → State) :
    onMessage vc h act s = act (msgTaken vc h s) := by
  simp only [msgTaken, onMessage, ite_self]
  exact if_pos hfresh

section
variable {s : State} {n : Nat} {lc : Bool} {h : MsgHdr} {d : BitVec 512} {bytes : List Byte} (hn : n < 16)
include hn

theorem exec_resvReq_waits (hw : rvWaits s n h d = true) : exec (.resvReq h ⟨n, lc⟩ d bytes) s = .next (pump s) :=
  (need_of_true (decide_eq_true hn)).trans (by rw [if_pos hw])

theorem exec_resvReq_acts (hw : rvWaits s n h d = false) (hfresh : freshMsg (dataChannel h.senderFold.toNat lc bytes) h s = true) :
    exec (.resvReq h ⟨n, lc⟩ d bytes) s =
      .next (pump (rvRequestAt n h d bytes lc (msgTaken (dataChannel h.senderFold.toNat lc bytes) h s))) :=
  (need_of_true (decide_eq_true hn)).trans (by rw [hw, if_neg Bool.false_ne_true, onMessage_fresh hfresh])

end

/-! ### A version refused (R288, R289) -/

/-- A value other than the default is read back, whatever the table. -/
theorem Tab.get_set_of_ne {α : Type} [DecidableEq α] {d x : α} (hx : x ≠ d) (m : Tab α) (a : Nat) :
    Tab.get d (Tab.set d m a x) a = x := by
  rw [Tab.set, if_neg hx, Tab.get_put_self]

/-- A fold whose membership is changed to one in a flock is read back changed. -/
theorem foldAt_modMember {s : State} {n : Nat} {g : Member → Member} (hg : (g (foldAt s n).member).state ≠ 0) :
    foldAt (modFold s n fun f => { f with member := g f.member }) n = { foldAt s n with member := g (foldAt s n).member } :=
  Tab.get_set_of_ne (fun e => hg (congrArg (fun f : Fold => f.member.state) e)) _ _

theorem setMemberState_frame (n st : Nat) (s : State) : setMemberState n st s =
    { s with folds := (setMemberState n st s).folds, hostPort := (setMemberState n st s).hostPort } := by
  unfold setMemberState
  dsimp only
  split
  · rfl
  · rw [raiseVector_eq]
    rfl

theorem foldAt_setMemberState {n st : Nat} (hst : st ≠ 0) (s : State) : foldAt (setMemberState n st s) n =
    { foldAt s n with member := { (foldAt s n).member with state := st } } := by
  unfold setMemberState
  dsimp only
  split
  next h => rw [← h]
  next =>
    rw [raiseVector_eq]
    exact foldAt_modMember (g := fun m => { m with state := st }) hst

/-- An exclusion changes folds and what the host port raises. -/
theorem excludeFold_frame (n : Nat) (s : State) : excludeFold n s =
    { s with folds := (excludeFold n s).folds, hostPort := (excludeFold n s).hostPort } := by
  unfold excludeFold
  split
  · rw [setMemberState_frame]
    rfl
  · rfl

theorem excludeFold_resv (n : Nat) (s : State) : (foldAt (excludeFold n s) n).resv = (foldAt s n).resv := by
  unfold excludeFold
  split
  next h =>
    have hheld : (dropHeld (foldAt s n).member).state ≠ 0 := by
      rw [show (dropHeld (foldAt s n).member).state = 2 from h]
      decide
    rw [foldAt_setMemberState (by decide), foldAt_modMember hheld]
  next => rfl

/-- A version refused is counted; the fold's records and the memories stay. -/
theorem refuseVersion_spec (n : Nat) (v : W32) (s : State) :
    (refuseVersion n false v s).flock.staleRefused = s.flock.staleRefused + 1 ∧
      (foldAt (refuseVersion n false v s) n).resv = (foldAt s n).resv ∧
      (refuseVersion n false v s).far = s.far ∧ (refuseVersion n false v s).tarn = s.tarn := by
  unfold refuseVersion
  dsimp only
  split
  · refine ⟨?_, excludeFold_resv n _, ?_, ?_⟩ <;> rw [excludeFold_frame]
  · exact ⟨rfl, rfl, rfl, rfl⟩

/-! ### The member's answer (R321, R323) -/

section
variable {n : Nat} {h : MsgHdr} {d : BitVec 512} {bytes : List Byte} {lc : Bool} {t : State}

theorem rvRequestAt_refused (hv : judgeVersion t n false h.senderNode h.senderFold.toNat h.version = .refuse) :
    rvRequestAt n h d bytes lc t = rvTell n (senderOf h) 0x21 2 1 (leBytes 32 0) (refuseVersion n false h.version t) := by
  simp only [rvRequestAt, if_pos hv]
  rfl

variable (hv : judgeVersion t n false h.senderNode h.senderFold.toNat h.version ≠ .refuse)
include hv

theorem rvRequestAt_closed (hc : rvClosed t n = true) :
    rvRequestAt n h d bytes lc t = rvTell n (senderOf h) 0x21 2 1 (leBytes 32 0) t := by
  simp only [rvRequestAt, if_neg hv, if_pos hc]
  rfl

variable (hc : rvClosed t n = false)
include hc

theorem rvRequestAt_record {st : Byte} {rec' : BitVec 256} {u : State} (hop : rvOpAt n d bytes t = (.ans st rec' [], u)) :
    rvRequestAt n h d bytes lc t = handRun n (rvTell n (senderOf h) 0x21 st 1 (leBytes 32 rec'.toNat) u) := by
  simp only [rvRequestAt, if_neg hv, hc, hop]
  rfl

theorem rvRequestAt_page {st : Byte} {rec' : BitVec 256} {bs : List Byte} {u : State} (hbs : bs ≠ [])
    (hop : rvOpAt n d bytes t = (.ans st rec' bs, u)) : rvRequestAt n h d bytes lc t =
      handRun n (noteRead n d h.senderNode (2 * h.senderFold.toNat + (if lc then 0 else 1))
        (rvSend (2 * h.senderFold.toNat + (if lc then 0 else 1)) n (senderOf h) 0x21 st (leBytes 32 rec'.toNat ++ bs) u)) := by
  simp only [rvRequestAt, if_neg hv, hc, hop, List.isEmpty_eq_false_iff.mpr hbs, Bool.false_eq_true, if_false]
  rfl

theorem rvRequestAt_disclaimed {u : State} (hop : rvOpAt n d bytes t = (.disclaim, u)) : rvRequestAt n h d bytes lc t =
    rvTell n (senderOf h) 0x22 0 0 [] { u with resvG := { u.resvG with disclaims := satAdd u.resvG.disclaims 1 } } := by
  simp only [rvRequestAt, if_neg hv, hc, hop, Bool.false_eq_true, if_false]

end

/-! ### Ops on a record -/

section
variable {n : Nat} {d : BitVec 512} {bytes : List Byte} {t : State}

theorem answerOf_committed {x : ResvSlot} (hx : x.committed = true) (req : W64) :
    answerOf t n x req = answerRec t n x.token x.digest 2 x.length := if_pos hx

theorem answerOf_reserved {x : ResvSlot} (hx : x.committed = false) (req : W64) :
    answerOf t n x req = answerRec t n x.token 0 (if x.request = req then 1 else 3) 0 := if_neg (by simp [hx])

section
variable (hop : rvOp d = 0)
include hop

theorem rvOpAt_lookup_none (hrec : recOf t n (rvKey d) = none) :
    rvOpAt n d bytes t = (.ans 1 (answerRec t n 0 0 0 0) [], countHit n false t) := by
  simp only [rvOpAt, hop, rvLookup, hrec]
  rfl

theorem rvOpAt_lookup_some {i : Nat} {x : ResvSlot} (hrec : recOf t n (rvKey d) = some (i, x)) : rvOpAt n d bytes t =
    (.ans 1 (answerOf t n x (rvRequest d)) [], countHit n x.committed (if x.committed then touch n i t else t)) := by
  simp only [rvOpAt, hop, rvLookup, hrec]
  rfl

end

section
variable (hop : rvOp d = 1)
include hop

theorem rvOpAt_reserve_leaving (hl : (foldAt t n).resv.leaving = true) : rvOpAt n d bytes t = (.ans 2 0 [], t) := by
  simp only [rvOpAt, hop, rvReserve, resvOf, hl, if_true]
  rfl

variable (hl : (foldAt t n).resv.leaving = false)
include hl

theorem rvOpAt_reserve_some {i : Nat} {x : ResvSlot} (hrec : recOf t n (rvKey d) = some (i, x)) :
    rvOpAt n d bytes t = (.ans 1 (answerOf t n x (rvRequest d)) [], t) := by
  simp only [rvOpAt, hop, rvReserve, resvOf, hl, hrec]
  rfl

theorem rvOpAt_reserve_full (hrec : recOf t n (rvKey d) = none) (hway : takeWay n (rvKey d) t = none) :
    rvOpAt n d bytes t = (.ans 0x12 0 [], t) := by
  simp only [rvOpAt, hop, rvReserve, resvOf, hl, hrec, hway]
  rfl

theorem rvOpAt_reserve_way (hrec : recOf t n (rvKey d) = none) {i : Nat} {u : State} (hway : takeWay n (rvKey d) t = some (i, u)) :
    rvOpAt n d bytes t =
      (.ans 1 (answerRec u n (mkToken u.tb.epoch (foldAt u n).member.memberNo i (Tab.get 0 (foldAt u n).resv.gens i)) 0 1 0) [],
        putSlot n i {
            committed := false, gen := Tab.get 0 (foldAt u n).resv.gens i,
            token := mkToken u.tb.epoch (foldAt u n).member.memberNo i (Tab.get 0 (foldAt u n).resv.gens i), key := rvKey d,
            request := rvRequest d, length := 0, digest := 0, lastUse := 0, reads := 0, dropAt := none, sent := false }
          (memStore 2 (pageOff u n i 0) (List.replicate 16384 0) u)) := by
  simp only [rvOpAt, hop, rvReserve, resvOf, hl, hrec, hway]
  rfl

end

theorem rvOpAt_disclaims (hop : rvOp d = 2 ∨ rvOp d = 3) (hrec : matchOf t n (rvKey d) (rvToken d) = none) :
    rvOpAt n d bytes t = (.disclaim, t) := by
  rcases hop with hop | hop
  · simp only [rvOpAt, hop, rvFill, hrec]
  · simp only [rvOpAt, hop, rvCommit, hrec]

theorem rvOpAt_duplicate (hop : rvOp d = 2 ∨ rvOp d = 3) {i : Nat} {x : ResvSlot}
    (hrec : matchOf t n (rvKey d) (rvToken d) = some (i, x)) (hx : x.committed = true) :
    rvOpAt n d bytes t = (.ans 4 (answerRec t n x.token x.digest 2 x.length) [], t) := by
  rcases hop with hop | hop
  · simp only [rvOpAt, hop, rvFill, hrec, if_pos hx, answerOf_committed hx]
    rfl
  · simp only [rvOpAt, hop, rvCommit, hrec, if_pos hx, answerOf_committed hx]
    rfl

section
variable {i : Nat} {x : ResvSlot} (hrec : matchOf t n (rvKey d) (rvToken d) = some (i, x)) (hx : x.committed = false)
include hrec hx

theorem rvOpAt_fill (hop : rvOp d = 2) : rvOpAt n d bytes t = (.ans 1 (answerOf t n x (rvRequest d)) [],
    rvCharge n i (256 * rvOff d) (rvBytes d) true (memStore 2 (pageOff t n i (256 * rvOff d)) (bytes.take (rvBytes d)) t)) := by
  simp only [rvOpAt, hop, rvFill, hrec, hx]
  rfl

variable (hop : rvOp d = 3)
include hop

theorem rvOpAt_commit_spoilt (hp : poisoned t 2 (pageOff t n i 0) (rvBytes d) = true) : rvOpAt n d bytes t =
    (.ans 8 0 [], raiseData 0x42 (paOf t 2 (badUnit t 2 (pageOff t n i 0) (rvBytes d))) niMaster 0 t) := by
  simp only [rvOpAt, hop, rvCommit, hrec, hx, hp]
  rfl

theorem rvOpAt_commit (hp : poisoned t 2 (pageOff t n i 0) (rvBytes d) = false) {page : List Byte}
    (hpage : (memBytes 2 (pageOff t n i 0) (rvBytes d) t).1 = page) : rvOpAt n d bytes t =
    (.ans 1 (answerRec t n x.token (crc64 page) 2 (rvBytes d)) [], rvCharge n i 0 (rvBytes d) false (touch n i (modSlot n i
      (fun _ => { x with committed := true, length := rvBytes d, digest := crc64 page }) { t with free := t.free + rvBytes d }))) := by
  subst hpage
  simp only [rvOpAt, hop, rvCommit, hrec, hx, hp]
  rfl

end

section
variable (hop : rvOp d = 4)
include hop

theorem rvOpAt_read_none (hrec : recOf t n (rvKey d) = none) :
    rvOpAt n d bytes t = (.ans 1 (answerRec t n 0 0 0 0) [], countHit n false t) := by
  simp only [rvOpAt, hop, rvRead, hrec]
  rfl

variable {i : Nat} {x : ResvSlot} (hrec : recOf t n (rvKey d) = some (i, x))
include hrec

theorem rvOpAt_read_reserved (hx : x.committed = false) :
    rvOpAt n d bytes t = (.ans 1 (answerRec t n 0 0 0 0) [], countHit n false t) := by
  simp only [rvOpAt, hop, rvRead, hrec, hx]
  rfl

theorem rvOpAt_read_spoilt (hx : x.committed = true) (hp : poisoned t 2 (pageOff t n i (256 * rvOff d)) (rvBytes d) = true) :
    rvOpAt n d bytes t = (.ans 8 0 [],
      raiseData 0x42 (paOf t 2 (badUnit t 2 (pageOff t n i (256 * rvOff d)) (rvBytes d))) niMaster 0 t) := by
  simp only [rvOpAt, hop, rvRead, hrec, hx, hp]
  rfl

theorem rvOpAt_read (hx : x.committed = true) (hp : poisoned t 2 (pageOff t n i (256 * rvOff d)) (rvBytes d) = false) :
    rvOpAt n d bytes t = (.ans 1 (answerRec t n x.token x.digest 2 x.length)
        (memBytes 2 (pageOff t n i (256 * rvOff d)) (rvBytes d) t).1,
      rvCharge n i (256 * rvOff d) (rvBytes d) false (countHit n true (touch n i { t with free := t.free + rvBytes d }))) := by
  rw [← answerOf_committed hx (rvRequest d)]
  simp only [rvOpAt, hop, rvRead, hrec, hx, hp]
  rfl

end

/-- The page of a READ is never empty. -/
theorem readPage_ne_nil (off : Nat) : (memBytes 2 off (rvBytes d) t).1 ≠ [] := by
  simp [memBytes, rvBytes]

section
variable (hop : 5 ≤ rvOp d)
include hop

/-- An op past READ is a RELEASE. -/
theorem rvOpAt_release : rvOpAt n d bytes t = rvRelease n d t := by
  unfold rvOpAt
  split
  case h_6 => rfl
  all_goals omega

theorem rvOpAt_release_none (hrec : matchOf t n (rvKey d) (rvToken d) = none) : rvOpAt n d bytes t = (.ans 1 0 [], t) := by
  rw [rvOpAt_release hop, rvRelease, hrec]
  rfl

theorem rvOpAt_release_some {i : Nat} {x : ResvSlot} (hrec : matchOf t n (rvKey d) (rvToken d) = some (i, x))
    (hheld : readHeld t x = false) : rvOpAt n d bytes t = (.ans 1 0 [], freeSlot n i t) := by
  rw [rvOpAt_release hop, rvRelease, hrec]
  simp only [hheld]
  rfl

end

end

/-! ### The way a reservation takes (R321, R322) -/

/-- A choice that goes through a list, keeping what it has or taking the next, ends with one of the list's elements; it has none only
of an empty list. -/
theorem foldl_choice {α : Type} {f : Option α → α → Option α} (hf : ∀ o a, f o a = some a ∨ o ≠ none ∧ f o a = o) (l : List α) :
    (l.foldl f none = none → l = []) ∧ ∀ x, l.foldl f none = some x → x ∈ l := by
  have go (l : List α) : ∀ o, (l.foldl f o = none → o = none ∧ l = []) ∧ ∀ x, l.foldl f o = some x → o = some x ∨ x ∈ l := by
    induction l with
    | nil => exact fun o => ⟨fun h => ⟨h, rfl⟩, fun x h => .inl h⟩
    | cons a l ih =>
      intro o
      obtain ⟨hnone, hsome⟩ := ih (f o a)
      rcases hf o a with ha | ⟨ho, ha⟩
      · rw [ha] at hnone hsome
        refine ⟨fun h => absurd (hnone (ha ▸ h)).1 nofun, fun x h => ?_⟩
        rcases hsome x (ha ▸ h) with hx | hx
        · exact .inr (Option.some.inj hx ▸ .head l)
        · exact .inr (.tail a hx)
      · rw [ha] at hnone hsome
        refine ⟨fun h => absurd (hnone (ha ▸ h)).1 ho, fun x h => ?_⟩
        exact (hsome x (ha ▸ h)).imp_right (.tail a)
  obtain ⟨hnone, hsome⟩ := go l none
  exact ⟨fun h => (hnone h).2, fun x h => (hsome x h).resolve_left nofun⟩

/-- A committed record of the key's set that no READ holds. -/
def evictable (t : State) (n : Nat) (key : BitVec 128) (p : Nat × ResvSlot) : Bool :=
  (waysOf t n key).contains p.1 && p.2.committed && !readHeld t p.2

theorem evictable_iff {t : State} {n : Nat} {key : BitVec 128} {p : Nat × ResvSlot} :
    evictable t n key p = true ↔ (p.1 ∈ waysOf t n key ∧ p.2.committed = true) ∧ readHeld t p.2 = false := by
  simp [evictable]

/-- The record evicted: the one of oldest last use. -/
def oldest (l : List (Nat × ResvSlot)) : Option (Nat × ResvSlot) :=
  l.foldl (fun o p => match o with
    | none => some p
    | some q => if p.2.lastUse < q.2.lastUse then some p else some q) none

theorem oldest_choice (l : List (Nat × ResvSlot)) : (oldest l = none → l = []) ∧ ∀ p, oldest l = some p → p ∈ l := by
  refine foldl_choice (fun o a => ?_) l
  cases o with
  | none => exact .inl rfl
  | some q =>
    dsimp only
    split
    · exact .inl rfl
    · exact .inr ⟨nofun, rfl⟩

/-- The ways of a key's set that hold no record. -/
def openWays (t : State) (n : Nat) (key : BitVec 128) : List Nat :=
  (waysOf t n key).filter fun i => (foldAt t n).resv.slots.all fun p => p.1 != i

theorem mem_openWays {t : State} {n : Nat} {key : BitVec 128} {i : Nat} :
    i ∈ openWays t n key ↔ i ∈ waysOf t n key ∧ ¬ ∃ x, (i, x) ∈ (foldAt t n).resv.slots := by
  simp only [openWays, List.mem_filter, List.all_eq_true, bne_iff_ne, not_exists]
  refine and_congr_right fun _ => ⟨fun h x hx => h _ hx rfl, fun h p hp e => h p.2 ?_⟩
  rw [← e]
  exact hp

section
variable {n : Nat} {key : BitVec 128} {t : State}

theorem takeWay_full (h : openWays t n key = []) : takeWay n key t =
    (oldest ((foldAt t n).resv.slots.filter (evictable t n key))).map fun p =>
      (p.1, modResv n (fun r => { r with evictions := satAdd r.evictions 1 }) (freeSlot n p.1 t)) := by
  have hopen : (openWays t n key).isEmpty = true := by rw [h]; rfl
  refine (if_pos hopen).trans ?_
  show (match oldest ((foldAt t n).resv.slots.filter (evictable t n key)) with
    | none => none
    | some p => some (p.1, _)) = _
  cases oldest ((foldAt t n).resv.slots.filter (evictable t n key)) <;> rfl

/-- Every way holds a record where none is open. -/
theorem records_of_full (h : openWays t n key = []) {i : Nat} (hi : i ∈ waysOf t n key) : ∃ x, (i, x) ∈ (foldAt t n).resv.slots := by
  by_contra hx
  exact List.not_mem_nil (h ▸ mem_openWays.mpr ⟨hi, hx⟩)

theorem takeWay_open (h : openWays t n key ≠ []) : ∃ i ∈ openWays t n key, ∃ u, takeWay n key t = some (i, u) := by
  have hopen : ¬ (openWays t n key).isEmpty = true := by rwa [List.isEmpty_iff]
  have hlen : (drawBelow (openWays t n key).length t).1 < (openWays t n key).length := Nat.mod_lt _ (List.length_pos_iff.mpr h)
  refine ⟨_, List.getElem_mem hlen, (drawBelow (openWays t n key).length t).2, (if_neg hopen).trans ?_⟩
  rw [← List.getD_eq_getElem _ 0 hlen]
  rfl

/-- Where no way can be taken each holds a reservation, or a record that a READ holds. -/
theorem takeWay_none (h : takeWay n key t = none) {i : Nat} (hi : i ∈ waysOf t n key) :
    ∃ x, (i, x) ∈ (foldAt t n).resv.slots ∧ (x.committed = true → readHeld t x = true) := by
  by_cases hopen : openWays t n key = []
  · rw [takeWay_full hopen, Option.map_eq_none_iff] at h
    obtain ⟨x, hx⟩ := records_of_full hopen hi
    refine ⟨x, hx, fun hcom => ?_⟩
    by_contra hheld
    have hno := List.filter_eq_nil_iff.mp ((oldest_choice _).1 h) _ hx
    exact hno (evictable_iff.mpr ⟨⟨hi, hcom⟩, Bool.not_eq_true _ ▸ hheld⟩)
  · obtain ⟨j, -, u, hu⟩ := takeWay_open hopen
    rw [hu] at h
    cases h

/-- The way taken is one of the key's set; it holds a record only where all do, and then a committed one that no READ holds. -/
theorem takeWay_some {i : Nat} {u : State} (h : takeWay n key t = some (i, u)) : i ∈ waysOf t n key ∧
    ((∃ x, (i, x) ∈ (foldAt t n).resv.slots) → (∀ j ∈ waysOf t n key, ∃ y, (j, y) ∈ (foldAt t n).resv.slots) ∧
      ∃ x, (i, x) ∈ (foldAt t n).resv.slots ∧ x.committed = true ∧ readHeld t x = false) := by
  by_cases hopen : openWays t n key = []
  · rw [takeWay_full hopen, Option.map_eq_some_iff] at h
    obtain ⟨⟨j, x⟩, hold, he⟩ := h
    obtain ⟨hmem, hev⟩ := List.mem_filter.mp ((oldest_choice _).2 _ hold)
    obtain ⟨⟨hway, hcom⟩, hheld⟩ := evictable_iff.mp hev
    obtain rfl : j = i := congrArg Prod.fst he
    exact ⟨hway, fun _ => ⟨fun _ hj => records_of_full hopen hj, x, hmem, hcom, hheld⟩⟩
  · obtain ⟨j, hj, v, hv⟩ := takeWay_open hopen
    obtain rfl : j = i := congrArg Prod.fst (Option.some.inj (hv.symm.trans h))
    obtain ⟨hway, hfree⟩ := mem_openWays.mp hj
    exact ⟨hway, fun hx => absurd hx hfree⟩

end

end Sys2Proof.Machine
open Sys2Proof Sys2Proof.Machine

/-- Settles O49: the member's answer is its op's, on the state that taking the message leaves. -/
theorem reservoirRequests : Obligations.ReservoirRequests := by
  unfold Obligations.ReservoirRequests
  intro s n lc h d bytes hn hfresh t r key does refused tells record same at' disclaimed spoilt
  refine ⟨fun hw => exec_resvReq_waits hn hw, fun hw => ?_⟩
  have acts : does (rvRequestAt n h d bytes lc t) := exec_resvReq_acts hn hw hfresh
  refine ⟨fun hv => ?_, fun hv hc => ?_, fun hv hc => ?answer⟩
  · exact ⟨refuseVersion n false h.version t, by rwa [rvRequestAt_refused hv] at acts, refuseVersion_spec n h.version t⟩
  · rwa [rvRequestAt_closed hv hc] at acts
  case answer =>
    have told {st : Byte} {rec' : BitVec 256} {u : State} (hop : rvOpAt n d bytes t = (.ans st rec' [], u)) : tells st rec' u := by
      rwa [rvRequestAt_record hv hc hop] at acts
    refine ⟨fun hop => ⟨fun hrec => told (rvOpAt_lookup_none hop hrec), fun i x hrec => ⟨fun hx => ?_, fun hx => ?_⟩⟩,
      fun hop hl => told (rvOpAt_reserve_leaving hop hl),
      fun hop hl => ⟨fun i x hrec => told (rvOpAt_reserve_some hop hl hrec),
        fun hrec hway => ⟨told (rvOpAt_reserve_full hop hl hrec hway), fun i hi => takeWay_none hway hi⟩,
        fun hrec i u hway => ⟨(takeWay_some hway).1, (takeWay_some hway).2, told (rvOpAt_reserve_way hop hl hrec hway)⟩⟩,
      fun hop => ⟨fun hrec => ?_, fun i x hrec => ⟨fun hx => told (rvOpAt_duplicate hop hrec hx), fun hx =>
        ⟨fun hop => told (rvOpAt_fill hrec hx hop), fun hop hp => told (rvOpAt_commit_spoilt hrec hx hop hp),
          fun hop hp => told (rvOpAt_commit hrec hx hop hp rfl)⟩⟩⟩,
      fun hop => ⟨fun hrec => told (rvOpAt_read_none hop hrec), fun i x hrec =>
        ⟨fun hx => told (rvOpAt_read_reserved hop hrec hx), fun hx hp => told (rvOpAt_read_spoilt hop hrec hx hp), fun hx hp => ?_⟩⟩,
      fun hop => ⟨fun hrec => told (rvOpAt_release_none hop hrec),
        fun i x hrec hheld => told (rvOpAt_release_some hop hrec hheld)⟩⟩
    · rw [← answerOf_committed hx (rvRequest d)]
      exact told (by rw [rvOpAt_lookup_some hop hrec, hx]; rfl)
    · rw [← answerOf_reserved hx (rvRequest d)]
      exact told (by rw [rvOpAt_lookup_some hop hrec, hx]; rfl)
    · rwa [rvRequestAt_disclaimed hv hc (rvOpAt_disclaims hop hrec)] at acts
    · rwa [rvRequestAt_page hv hc (readPage_ne_nil _) (rvOpAt_read hop hrec hx hp)] at acts
end

section
/-! SUPPORT. Answers to requests of this block (R155, R170, R295, R303, R347, R351): the request an answer ends, and what each answer
does for the command, the lane or the collective behind it. -/

namespace Sys2Proof.Machine

/-! ### Rows of packets -/

/-- A packet delivered here acts, and what waited for it goes on. -/
theorem packetRow_here {k : Packet} {s : State} (hd : k.destNode = myNode s) {ptype : Byte} (ht : k.ptype = ptype)
    (mnemonic : String) (act : State → State) : packetRow k ptype mnemonic act s = .next (pump (act s)) := by
  rw [packetRow, need_of_true (beq_iff_eq.mpr ht), if_pos hd]

/-- What a REFUSE leaves once its request has ended: an unreachable node is recorded (R349). -/
def refusalNoted (k : Packet) (e : E2E) (s : State) : State :=
  if k.op = 3 then raiseFault {
    cls := 2, detail := 0x56, master := e.master, tag := e.tag, fold := some k.srcFold.toNat, address := e.va } s else s

/-- What an ACK without an error does before its command goes on. -/
def ackTaken (k : Packet) (e : E2E) (s : State) : State :=
  match e.use with
  | .lane t lane rd ty => if e.packet.ptype = 3 then laneArrive t lane rd ty k.payload s else releaseLane e s
  | _ => s

theorem ackTaken_none (k : Packet) {e : E2E} (hu : e.use = .none) (s : State) : ackTaken k e s = s := by
  rw [ackTaken, hu]

theorem releaseLane_none {e : E2E} (hu : e.use = .none) (s : State) : releaseLane e s = s := by
  rw [releaseLane, hu]

theorem releaseLane_lane {e : E2E} {g : GroupRef} {lane rd ty : Nat} (hu : e.use = .lane g lane rd ty) (hty : ty < 8) (s : State) :
    releaseLane e s = groupAnswered g s := by
  rw [releaseLane, hu]
  exact if_neg (by omega)

/-- A failed request of a MOVE, made for no lane, ends it. -/
theorem failRequest_move {e : E2E} {s : State} {c : Cmd} (hat : cmdAt s e.uid = some c) (hop : opcodeOf c.desc = 3) (st : Byte)
    (trap : Nat) : failRequest e st trap s = complete e.uid (.broken st) s := by
  rw [failRequest, hat]
  simp only [hop, stopCmd, uid_of_cmdAt hat]

/-! ### Data that comes (R347) -/

section
variable {e : E2E} {key len : Nat} {s : State} {c : Cmd} (hu : e.use = .piece key len) (hat : cmdAt s e.uid = some c) (bs : List Byte)
include hu hat

theorem dataArrive_operand (hop : opcodeOf c.desc = 1) (hkey : key < c.asked) : dataArrive e bs s = operandArrive c key bs s := by
  simp only [dataArrive, hu, hat, hop, if_pos hkey]

theorem dataArrive_move (hop : opcodeOf c.desc = 3) : dataArrive e bs s = moveArrive c key bs s := by
  simp only [dataArrive, hu, hat, hop]

theorem dataArrive_fence (hop : opcodeOf c.desc = 5) : dataArrive e bs s = fenceArrive c bs s := by
  simp only [dataArrive, hu, hat, hop]

theorem dataArrive_kept (h1 : opcodeOf c.desc = 1 → c.asked ≤ key) (h3 : opcodeOf c.desc ≠ 3) (h5 : opcodeOf c.desc ≠ 5) :
    dataArrive e bs s = keepPart e.uid key bs s := by
  simp only [dataArrive, hu, hat]
  split
  next hop => exact if_neg (by have := h1 hop; omega)
  next hop => exact absurd hop h3
  next hop => exact absurd hop h5
  next => rfl

end

/-! ### Answers that name no request -/

section
variable {k : Packet} {s : State} (hnone : requestOf (takeIn k s) k = none)
include hnone

theorem readDataIn_unknown : readDataIn k s = takeIn k s := by simp only [readDataIn, hnone]

theorem ackIn_unknown : ackIn k s = takeIn k s := by simp only [ackIn, hnone]

theorem refuseIn_unknown : refuseIn k s = takeIn k s := by simp only [refuseIn, hnone]

end

/-! ### Answers that end a request (R351) -/

section
variable {k : Packet} {s : State} {e : E2E} (hreq : requestOf (takeIn k s) k = some e)
include hreq

theorem readDataIn_abandoned (ha : e.abandoned = true) : readDataIn k s = endAnswered k.srcFold.toNat e (takeIn k s) := by
  simp only [readDataIn, hreq, ha, if_true]

theorem readDataIn_live (ha : e.abandoned = false) :
    readDataIn k s = dataArrive e k.payload (endAnswered k.srcFold.toNat e (takeIn k s)) := by
  simp only [readDataIn, hreq, ha, Bool.false_eq_true, if_false]

theorem ackIn_abandoned (ha : e.abandoned = true) : ackIn k s = endAnswered k.srcFold.toNat e (takeIn k s) := by
  simp only [ackIn, hreq, ha, if_true]

theorem ackIn_error (ha : e.abandoned = false) (hop : k.op = 8) : ackIn k s =
    raiseData 0x43 e.va e.master e.tag
      (failRequest e 8 trDataError (releaseLane e (endAnswered k.srcFold.toNat e (takeIn k s)))) := by
  simp only [ackIn, hreq, ha, hop, stDataError, Bool.false_eq_true, if_false, if_true]

section
variable {c : Cmd} (ha : e.abandoned = false) (hop : k.op ≠ 8) (hat : cmdAt (endAnswered k.srcFold.toNat e (takeIn k s)) e.uid = some c)
include ha hop hat

theorem ackIn_signal (h4 : opcodeOf c.desc = 4) :
    ackIn k s = complete e.uid (.plain k.op) (endAnswered k.srcFold.toNat e (takeIn k s)) := by
  simp only [ackIn, hreq, ha, stDataError, if_neg hop, hat, if_pos h4, uid_of_cmdAt hat, Bool.false_eq_true, if_false]

theorem ackIn_goes_on (h4 : opcodeOf c.desc ≠ 4) :
    ackIn k s = requestDone e.uid (ackTaken k e (endAnswered k.srcFold.toNat e (takeIn k s))) := by
  simp only [ackIn, hreq, ha, stDataError, if_neg hop, hat, if_neg h4, Bool.false_eq_true, if_false]
  rfl

end

theorem refuseIn_busy (hop : k.op = 4) : refuseIn k s = modFold (takeIn k s) k.srcFold.toNat fun f => { f with
    unacked := f.unacked.map fun x => if x.seq = e.seq then { x with sentAt := (takeIn k s).tb.time } else x } := by
  simp only [refuseIn, hreq, if_pos hop, beq_iff_eq]
  rfl

/-- A refusal of an abandoned request, of a message or of a collective's packet ends it and nothing more. -/
theorem refuseIn_ends (hop : k.op ≠ 4) (h : (e.abandoned || e.packet.ptype == 0x20 || e.packet.ptype == 0x12) = true) :
    refuseIn k s = refusalNoted k e (endAnswered k.srcFold.toNat e (takeIn k s)) := by
  simp only [refuseIn, hreq, if_neg hop, if_pos h]
  rfl

section
variable {c : Cmd} (hop : k.op ≠ 4) (h : (e.abandoned || e.packet.ptype == 0x20 || e.packet.ptype == 0x12) = false)
  (hat : cmdAt (refusalNoted k e (endAnswered k.srcFold.toNat e (takeIn k s))) e.uid = some c)
include hop h hat

theorem refuseIn_recarried {x : Nat} (hp : c.phase = .carried x) (h2 : k.op = 2) :
    refuseIn k s = recarry c x (refusalNoted k e (endAnswered k.srcFold.toNat e (takeIn k s))) := by
  rw [refusalNoted] at hat
  simp only [refuseIn, hreq, if_neg hop, h, hat, Bool.false_eq_true, if_false]
  split
  next y hy _ =>
    obtain rfl := Phase.carried.inj (hp.symm.trans hy)
    rfl
  next hnot => exact (hnot x hp h2).elim

theorem refuseIn_failed (hp : ∀ x, c.phase = .carried x → k.op ≠ 2) : refuseIn k s =
    raiseAccess e.va e.tag e.master (packetAccess e.packet.ptype) .remoteRefused (noteWalk e.va e.level
      (failRequest e 6 trAccess (releaseLane e (refusalNoted k e (endAnswered k.srcFold.toNat e (takeIn k s)))))) := by
  rw [refusalNoted] at hat
  simp only [refuseIn, hreq, if_neg hop, h, hat, Bool.false_eq_true, if_false]
  split
  next x hx h2 => exact absurd h2 (hp x hx)
  next => rfl

end

end

/-! ### TASK_RESULT (R295, R299, R303) -/

section
variable {k : Packet} {s : State} {e : E2E} {c : Cmd} (hreq' : requestOf s k = some e) (hat' : cmdAt s e.uid = some c)
include hreq' hat'

theorem resultIn_task (hop : opcodeOf c.desc ≠ 8) : resultIn k s = taskResultIn k s := by
  simp only [resultIn, hreq', hat', if_pos hop]

theorem resultIn_part (hop : opcodeOf c.desc = 8) (ha : e.abandoned = false) :
    resultIn k s = collReport c k.payload (endAnswered k.srcFold.toNat e (takeIn k s)) := by
  simp [resultIn, hreq', hat', hop, ha]

variable (hreq : requestOf (takeIn k s) k = some e)
include hreq

theorem resultIn_abandoned (ha : e.abandoned = true) : resultIn k s = endAnswered k.srcFold.toNat e (takeIn k s) := by
  by_cases hop : opcodeOf c.desc = 8
  · simp [resultIn, hreq', hat', hop, ha]
  · rw [resultIn_task hreq' hat' hop]
    simp only [taskResultIn, hreq, ha, if_true]

theorem resultIn_carried (hop : opcodeOf c.desc ≠ 8) (ha : e.abandoned = false)
    (hat : cmdAt (endAnswered k.srcFold.toNat e (takeIn k s)) e.uid = some c) {x : Nat} (hp : c.phase = .carried x) :
    resultIn k s = complete e.uid
      { status := k.payload.getD 0 0, digest := BitVec.ofNat 64 (ofLe ((k.payload.drop 8).take 8)),
        part := bitAt (k.payload.getD 1 0) 0, failed := bitAt (k.payload.getD 1 0) 1, result := 0 }
      (endAnswered k.srcFold.toNat e (takeIn k s)) := by
  rw [resultIn_task hreq' hat' hop]
  simp only [taskResultIn, hreq, ha, hat, hp, uid_of_cmdAt hat, Bool.false_eq_true, if_false]

end

/-- A part that has ended well reports nothing: its result comes as COLL packets. -/
theorem collReport_good {c : Cmd} {payload : List Byte} {s : State} (h : payload.getD 0 0 = 1) : collReport c payload s = s :=
  if_pos h

/-- A collective that ends with TIMEOUT_PEER at its origin (R303). -/
theorem timeoutCmd_collective {uid : Nat} {s : State} {c : Cmd} (hat : cmdAt s uid = some c) (hop : opcodeOf c.desc = 8)
    (ho : c.coll.origin = none) : timeoutCmd uid s = complete uid (.broken 0x0F) (endHolder (.task uid) (countTimeout s)) := by
  simp only [timeoutCmd, hat, hop, ho, endedDone]
  rfl

section
variable {c : Cmd} {payload : List Byte} {s : State} {st : Byte} (hst : payload.getD 0 0 = st)
include hst

theorem collReport_failed (h : st ≠ 1) : collReport c payload s = collFail c st (payload.getD 2 0).toNat s := by
  rw [collReport, hst]
  exact if_neg h

/-- A coordinator of a part of a larger collective reports upward. -/
theorem collReport_upward (h : st ≠ 1) {o : Packet} (ho : c.coll.origin = some o) : collReport c payload s =
    dropCmd (sendReply o 0x11 st (reportBytes st (payload.getD 2 0).toNat)
      (recordSeq o st (BitVec.ofNat 64 (payload.getD 2 0).toNat) (if st = 0x0F then countTimeout s else s))) c.uid := by
  rw [collReport_failed hst h, collFail, ho]
  rfl

variable (ho : c.coll.origin = none)
include ho

theorem collReport_range (h : st = 7) : collReport c payload s = collRange c (payload.getD 2 0).toNat s := by
  rw [collReport_failed hst (by rw [h]; decide), collFail, ho]
  exact if_pos h

theorem collReport_timeout (h : st = 0x0F) : collReport c payload s = timeoutCmd c.uid s := by
  rw [collReport_failed hst (by rw [h]; decide), collFail, ho, h]
  rfl

theorem collReport_ends (h1 : st ≠ 1) (h7 : st ≠ 7) (hF : st ≠ 0x0F) : collReport c payload s = complete c.uid (.broken st) s := by
  rw [collReport_failed hst h1, collFail, ho]
  exact (if_neg h7).trans (if_neg hF)

end

end Sys2Proof.Machine
open Sys2Proof Sys2Proof.Machine

/-- Settles O54: each answer is its own effect on the state that its request's end leaves. -/
theorem packetAnswers : Obligations.PacketAnswers := by
  unfold Obligations.PacketAnswers
  intro s k hd t n answers
  have data (ht : k.ptype = 8) : exec (.readData k) s = .next (pump (readDataIn k s)) := packetRow_here hd ht _ _
  have ack (ht : k.ptype = 9) : exec (.packetAck k) s = .next (pump (ackIn k s)) := packetRow_here hd ht _ _
  have refusal (ht : k.ptype = 0x0A) : exec (.refuse k) s = .next (pump (refuseIn k s)) := packetRow_here hd ht _ _
  have result (ht : k.ptype = 0x11) : exec (.taskResult k) s = .next (pump (resultIn k s)) := packetRow_here hd ht _ _
  refine ⟨fun hnone => ⟨fun ht => ?_, fun ht => ?_, fun ht => ?_⟩, fun e hreq => ?request, fun e hreq hreq' => ?result⟩
  · rw [data ht, readDataIn_unknown hnone]
  · rw [ack ht, ackIn_unknown hnone]
  · rw [refusal ht, refuseIn_unknown hnone]
  case request =>
    intro gone told
    refine ⟨fun ha => ⟨fun ht => ?_, fun ht => ?_, fun hop ht => ?_⟩, fun hop ht => ?_, fun ha => ?live⟩
    · rw [data ht, readDataIn_abandoned hreq ha]
    · rw [ack ht, ackIn_abandoned hreq ha]
    · rw [refusal ht, refuseIn_ends hreq hop (by simp [ha])]
      rfl
    · rw [refusal ht, refuseIn_busy hreq hop]
    case live =>
      refine ⟨fun g lane rd ty hu hty => ⟨fun ht => ?_, fun hop c hat h2 => ⟨fun hp ht => ?_, fun hp ht => ?_⟩⟩,
        fun key len c hu hat => ⟨fun h1 hkey ht => ?_, fun h3 ht => ?_, fun h5 ht => ?_, fun h1 h3 h5 ht => ?_⟩,
        fun hop ht => ?_, fun c hat => ⟨fun hop h4 ht => ?_, fun hop h4 hu ht => ?_, fun h3 hop hu ht => ?_⟩, ?refused⟩
      · rw [data ht, readDataIn_live hreq ha, dataArrive, hu]
        exact congrArg (fun u => Host.Outcome.next (pump u)) (if_neg (by omega))
      · rw [ack ht, ackIn_goes_on hreq ha hop hat (by omega), ackTaken, hu]
        exact congrArg (fun u => Host.Outcome.next (pump (requestDone e.uid u))) (if_pos hp)
      · rw [ack ht, ackIn_goes_on hreq ha hop hat (by omega), ackTaken, hu, ← releaseLane_lane hu hty]
        exact congrArg (fun u => Host.Outcome.next (pump (requestDone e.uid u))) (if_neg hp)
      · rw [data ht, readDataIn_live hreq ha, dataArrive_operand hu hat _ h1 hkey]
      · rw [data ht, readDataIn_live hreq ha, dataArrive_move hu hat _ h3]
      · rw [data ht, readDataIn_live hreq ha, dataArrive_fence hu hat _ h5]
      · rw [data ht, readDataIn_live hreq ha, dataArrive_kept hu hat _ h1 h3 h5]
      · rw [ack ht, ackIn_error hreq ha hop]
      · rw [ack ht, ackIn_signal hreq ha hop hat h4]
      · rw [ack ht, ackIn_goes_on hreq ha hop hat h4, ackTaken_none k hu]
      · rw [ack ht, ackIn_error hreq ha hop, releaseLane_none hu, failRequest_move hat h3]
      case refused =>
        intro c hat hop h20 h12 refused
        have hlive : (e.abandoned || e.packet.ptype == 0x20 || e.packet.ptype == 0x12) = false := by
          rw [ha, beq_eq_false_iff_ne.mpr h20, beq_eq_false_iff_ne.mpr h12]
          rfl
        refine ⟨fun x hp h2 ht => ?_, fun hp => ⟨fun ht => ?_, fun h3 hu ht => ?_⟩⟩
        · rw [refusal ht, refuseIn_recarried hreq hop hlive hat hp h2]
          rfl
        · rw [refusal ht, refuseIn_failed hreq hop hlive hat hp]
          rfl
        · rw [refusal ht, refuseIn_failed hreq hop hlive hat hp, releaseLane_none hu]
          exact congrArg (fun u => Host.Outcome.next (pump (refused u))) (failRequest_move hat h3 6 trAccess)
  case result =>
    intro gone c hat'
    refine ⟨fun ha ht => ?_, fun ha hat => ?_⟩
    · rw [result ht, resultIn_abandoned hreq' hat' hreq ha]
    intro st detail timed
    refine ⟨fun x hp hop ht => ?_, fun hop hst ht => ?_, fun hop ho => ⟨fun hst ht => ?_, fun hst ht => ?_, fun h1 h7 hF ht => ?_⟩,
      fun o hop ho hst ht => ?_⟩
    · rw [result ht, resultIn_carried hreq' hat' hreq hop ha hat hp]
    · rw [result ht, resultIn_part hreq' hat' hop ha, collReport_good hst]
    · rw [result ht, resultIn_part hreq' hat' hop ha, collReport_range rfl ho hst]
    · rw [result ht, resultIn_part hreq' hat' hop ha, collReport_timeout rfl ho hst, uid_of_cmdAt hat,
        timeoutCmd_collective hat hop ho]
      rfl
    · rw [result ht, resultIn_part hreq' hat' hop ha, collReport_ends rfl ho h1 h7 hF, uid_of_cmdAt hat]
    · rw [result ht, resultIn_part hreq' hat' hop ha, collReport_upward rfl hst ho, uid_of_cmdAt hat]
      rfl
end

section
/-! SUPPORT. The state after reset (R3, R182, R198, R413, R488): what its tables list, and that they are canonical. -/

namespace Sys2Proof.Machine

/-- After reset every table but that of the context slots lists nothing, and that lists slot 0 alone (R182). -/
theorem canon_reset : canon State.reset = true := by decide

theorem ctxAt_reset (i : Nat) : ctxAt State.reset i = Ctx.atReset (if i = 0 then 1 else 0) := by
  show (if i = 0 then Ctx.atReset 1 else Ctx.reset) = _
  split
  · rfl
  · rfl

/-- Bank 0's window grants every engine to every fold: its bits from 16 on are set (R198). -/
theorem planWindow_reset : ∀ k < 64, 16 ≤ k → bitAt (planWindow State.reset 0) k = true := by decide

theorem faultLevels_reset : ∀ c < 8, Tab.get 0 State.reset.faults.base c = Faults.baseDefault c ∧
    Tab.get 0 State.reset.faults.cap c = Faults.capDefault c := by decide

end Sys2Proof.Machine
open Sys2Proof Sys2Proof.Machine

/-- Settles O58: each entry is read off the state after reset. -/
theorem resetState : Obligations.ResetState := by
  unfold Obligations.ResetState
  intro s
  refine ⟨canon_reset, rfl, rfl, fun n _ => rfl, fun h => rfl, fun q => rfl, fun i => rfl, fun i => ?contexts, rfl, rfl, rfl, rfl, rfl,
    fun e n he hn => ⟨planWindow_reset _ (by omega) (by omega), planWindow_reset _ (by omega) (by omega)⟩, rfl, rfl,
    faultLevels_reset, fun p => ⟨rfl, rfl⟩, rfl, rfl⟩
  case contexts =>
    rw [ctxAt_reset]
    exact ⟨rfl, rfl⟩
end

section
/-! SUPPORT. Tables read by their keys, and the queues, contexts and semaphores that a test finds in them. -/

namespace Sys2Proof.Machine

/-! ### Entries of a table and what its keys read -/

section
variable {α : Type} [DecidableEq α] {d : α} {m : Tab α} {k : Nat} {v : α}

theorem Tab.le_of_mem {lo : Nat} (h : Tab.wfFrom d lo m = true) (hp : (k, v) ∈ m) : lo ≤ k := by
  induction m generalizing lo with
  | nil => cases hp
  | cons c m ih =>
    obtain ⟨a, x⟩ := c
    simp only [Tab.wfFrom, Bool.and_eq_true, decide_eq_true_eq] at h
    obtain ⟨⟨hlo, -⟩, hrest⟩ := h
    rcases List.mem_cons.mp hp with hp | hp
    · cases hp
      exact hlo
    · have := ih hrest hp
      omega

/-- A listed entry is what its key reads. -/
theorem Tab.get_of_mem (h : Tab.wf d m = true) (hp : (k, v) ∈ m) : Tab.get d m k = v := by
  unfold Tab.wf at h
  generalize 0 = lo at h
  induction m generalizing lo with
  | nil => cases hp
  | cons c m ih =>
    obtain ⟨a, x⟩ := c
    simp only [Tab.wfFrom, Bool.and_eq_true, decide_eq_true_eq] at h
    obtain ⟨-, hrest⟩ := h
    rcases List.mem_cons.mp hp with hp | hp
    · cases hp
      simp [Tab.get]
    · have := Tab.le_of_mem hrest hp
      rw [Tab.get, if_neg (by omega)]
      exact ih hp _ hrest

omit [DecidableEq α] in
/-- A key that does not read the default is listed. -/
theorem Tab.mem_of_get_ne (h : Tab.get d m k ≠ d) : (k, Tab.get d m k) ∈ m := by
  induction m with
  | nil => exact absurd rfl h
  | cons c m ih =>
    obtain ⟨a, x⟩ := c
    unfold Tab.get at h ⊢
    split
    next hk => rw [hk]; exact List.mem_cons_self ..
    next hk =>
      rw [if_neg hk] at h
      exact List.mem_cons_of_mem _ (ih h)

/-- The keys a test finds are those that pass it, when the default does not. -/
theorem Tab.mem_keys_filter {p : α → Bool} (hwf : Tab.wf d m = true) (hd : p d = false) :
    k ∈ (m.filter fun e => p e.2).map (fun e => e.1) ↔ p (Tab.get d m k) = true := by
  constructor
  · intro h
    obtain ⟨⟨a, x⟩, he, rfl⟩ := List.mem_map.mp h
    obtain ⟨hm, hx⟩ := List.mem_filter.mp he
    rw [Tab.get_of_mem hwf hm]
    exact hx
  · intro h
    have hne : Tab.get d m k ≠ d := by
      intro he
      rw [he, hd] at h
      cases h
    exact List.mem_map.mpr ⟨_, List.mem_filter.mpr ⟨Tab.mem_of_get_ne hne, h⟩, rfl⟩

end

/-! ### Queues -/

theorem mem_queuesWhere {s : State} (hwf : Tab.wf Queue.reset s.queues = true) {p : Queue → Bool} {q : Nat} :
    q ∈ queuesWhere s p ↔ (queueAt s q).state ≠ .free ∧ p (queueAt s q) = true := by
  rw [queuesWhere, Tab.mem_keys_filter (p := fun x : Queue => x.state != .free && p x) hwf rfl]
  simp [queueAt]

theorem mem_hqiQueues {s : State} (hwf : Tab.wf Queue.reset s.queues = true) {h q : Nat} :
    q ∈ hqiQueues s h ↔ (queueAt s q).state ≠ .free ∧ (queueAt s q).hqi = h := by
  rw [hqiQueues, mem_queuesWhere hwf, beq_iff_eq]

/-- The slot of a doorbell page names a queue that stands there. -/
theorem queueAtSlot_eq_some {s : State} (hwf : Tab.wf Queue.reset s.queues = true) {h loc q : Nat}
    (hq : queueAtSlot s h loc = some q) : (queueAt s q).state ≠ .free ∧ (queueAt s q).hqi = h ∧ (queueAt s q).loc = loc := by
  unfold queueAtSlot at hq
  obtain ⟨⟨a, x⟩, he, rfl⟩ := Option.map_eq_some_iff.mp hq
  have hx := List.find?_some he
  rw [queueAt, Tab.get_of_mem hwf (List.mem_of_find?_eq_some he)]
  simpa [and_assoc] using hx

/-! ### The lowest of a test -/

theorem lowest_eq_some {n i : Nat} {p : Nat → Bool} (hi : i < n) (hp : p i = true) (hlow : ∀ j < i, p j = false) :
    lowest n p = some i := by
  rw [lowest, List.find?_eq_some_iff_getElem]
  refine ⟨hp, i, by simpa using hi, by simp, fun j hj => ?_⟩
  simp [hlow j hj]

end Sys2Proof.Machine
end

section
/-! SUPPORT. Requests of host objects (R172-R174, R178, R187, R495): the access a request is, and what destroying queues leaves. -/

namespace Sys2Proof.Machine

/-! ### A request that has its outcome -/

/-- The access at 0x4200.20 that a request is. -/
def requestAccess (r : BitVec 512) : DictAccess :=
  { path := none, write := true, index := 0x4200, sub := 0x20, offset := 0, length := 64, bytes := bytesOf 64 r }

/-- The request is the access under way. -/
def asking (r : BitVec 512) (s : State) : State := { s with hostPort := { s.hostPort with accesses := [requestAccess r] } }

/-- The request has its outcome, and no access is under way. -/
def outcomeIn (st : Byte) (sem : Nat) (s : State) : State :=
  { s with hostPort := { s.hostPort with outcome := outcomeWord st sem, accesses := [] } }

theorem ofLe_bytesOf_request (r : BitVec 512) : BitVec.ofNat 512 (ofLe (bytesOf 64 r)) = r := by
  rw [bytesOf, ofLe_leBytes, Nat.mod_eq_of_lt r.isLt, BitVec.ofNat_toNat, BitVec.setWidth_eq]

theorem judgeAccess_request {s : State} (hserve : bootOnly s = false) (r : BitVec 512) : judgeAccess s (requestAccess r) = dOk := by
  simp only [judgeAccess, hserve, Bool.false_and, Bool.false_eq_true, if_false]
  rfl

/-- The number of a semaphore stands above the code of success. -/
theorem outcomeWord_success {i : Nat} (hi : i < 1024) : outcomeWord stSuccess i = BitVec.ofNat 32 (1 + 65536 * i) := by
  have hcode : (place 1 0 8 : W32) = 1#32 := rfl
  have hsem : (place i 16 10 : W32) = BitVec.ofNat 32 (65536 * i) := by
    rw [place, Nat.mod_eq_of_lt (show i < 2 ^ 10 by omega), Nat.shiftLeft_eq, Nat.mul_comm]
  show (place 1 0 8 : W32) ||| place i 16 10 = _
  rw [hcode, hsem]
  apply BitVec.eq_of_toNat_eq
  simp only [BitVec.toNat_or, BitVec.toNat_ofNat]
  rw [Nat.mod_eq_of_lt (by omega), Nat.mod_eq_of_lt (by omega), Nat.mod_eq_of_lt (by omega)]
  have h := Nat.two_pow_add_eq_or_of_lt (i := 16) (b := 1) (by omega) i
  rw [show 65536 * i = 2 ^ 16 * i from rfl, Nat.or_comm, ← h, Nat.add_comm]

section
variable {s : State} {r : BitVec 512} (hserve : bootOnly s = false) (hacc : s.hostPort.accesses = [])
include hserve hacc

/-- A request that is carried out at once leaves its outcome. -/
theorem objectIn_done {st : Byte} {i : Nat} {t : State} (hrun : objectRun r (asking r s) = (.done st i, t)) :
    objectIn r s = outcomeIn st i t := by
  have hin : objectIn r s = accessesRun 1 (asking r s) := by
    unfold objectIn accessIn
    rw [hacc]
    rfl
  have hgo : accessGo (requestAccess r) (asking r s) =
      ({ t with hostPort := { t.hostPort with outcome := outcomeWord st i } }, some (dOk, [])) := by
    have hjudge : judgeAccess (asking r s) (requestAccess r) = dOk := judgeAccess_request hserve r
    have hbytes : BitVec.ofNat 512 (ofLe (requestAccess r).bytes) = r := ofLe_bytesOf_request r
    simp only [accessGo, hjudge, hbytes, hrun]
    rfl
  rw [hin, accessesRun, show (asking r s).hostPort.accesses = [requestAccess r] from rfl]
  dsimp only
  rw [hgo]
  dsimp only
  split
  next hnone =>
    rw [List.isEmpty_iff] at hnone
    rw [outcomeIn, ← hnone]
  next => rfl

variable {op : Nat} (hop : hoOp r = op)
include hop

/-- The row of a request that is carried out at once. -/
theorem objectRow_done (mnemonic : String) {st : Byte} {i : Nat} {t : State} (hrun : objectRun r (asking r s) = (.done st i, t)) :
    objectRow r op mnemonic s = .next (pump (outcomeIn st i t)) := by
  rw [objectRow, need_of_true (by simp [hop]), objectIn_done hserve hacc hrun]

/-- The row of a request that succeeds, on a state which differs from `t` in the access under way. -/
theorem objectRow_success (mnemonic : String) {i : Nat} (hi : i < 1024) {t : State}
    (hrun : objectRun r (asking r s) = (.done stSuccess i, asking r t)) (ht : t.hostPort.accesses = []) :
    objectRow r op mnemonic s = .next (pump
      { t with hostPort := { t.hostPort with outcome := BitVec.ofNat 32 (1 + 65536 * i) } }) := by
  rw [objectRow_done hserve hacc hop mnemonic hrun, outcomeIn, outcomeWord_success hi]
  unfold asking
  dsimp only
  rw [← ht]

end

/-! ### Requests that are carried out at once -/

section
variable {s : State} {r : BitVec 512}

theorem hqiCreate_free (h0 : hoHqi r ≠ 0) (hfree : (hqiAt s (hoHqi r)).created = false) (hfold : foldExists s (hoFold r) = true) :
    hqiCreate r s = (.done stSuccess 0, { setHqi s (hoHqi r) { hqiAt s (hoHqi r) with
      created := true, fold := hoFold r, closed := false, drainUntil := none } with boot := { s.boot with locked := true } }) :=
  if_neg (by simp [h0, hfree, hfold])

theorem queueCreate_valid (h0 : hoHqi r ≠ 0) (hq : hoQueue r ≠ 0) (hc : (hqiAt s (hoHqi r)).created = true)
    (hfree : (queueAt s (hoQueue r)).state = .free) (htag : tagOpen s (hoTag r) = true)
    (hfold : tagFold (hoTag r) = (hqiAt s (hoHqi r)).fold) (hslot : queueAtSlot s (hoHqi r) (hoLoc r) = none)
    (hring : (hoRing r).toNat % 4096 = 0) (hcring : (hoCring r).toNat % 4096 = 0) (hwb : (hoHeadWb r).toNat % 8 = 0)
    (hsize : hoSize r ≤ 12) (hquota : (foldAt s (hqiAt s (hoHqi r)).fold).live.queueQuota = 0 ∨
      (foldQueues s (hqiAt s (hoHqi r)).fold).length < (foldAt s (hqiAt s (hoHqi r)).fold).live.queueQuota.toNat) :
    queueCreate r s = (.done stSuccess 0, setQueue s (hoQueue r) { Queue.reset with
      state := madeState s, hqi := hoHqi r, loc := hoLoc r, tag := hoTag r, ring := hoRing r, cring := hoCring r,
      headWb := hoHeadWb r, size := hoSize r, msix := bitsAt r 232 16, modCount := bitsAt r 216 16, modTime := bitsAt r 200 16 }) := by
  refine (if_neg (by simp [h0, hq, hc, hfree, htag, hfold, hslot, hring, hcring, hwb, hsize])).trans (if_neg ?_)
  rintro ⟨hne, hle⟩
  rcases hquota with hquota | hquota
  · exact hne hquota
  · omega

theorem queueResume_stopped {q : Nat} (h : (queueAt s q).state = .seqGap ∨ (queueAt s q).state = .waitSlots ∨
    (queueAt s q).state = .hang ∨ (queueAt s q).state = .readError) :
    queueResume q s = (.done stSuccess 0, setQueue s q { queueAt s q with state := .active }) := by
  rcases h with h | h | h | h <;> rw [queueResume, h] <;> rfl

theorem semAlloc_lowest (hfold : foldExists s (hoFold r) = true) (hmax : hoMax r ≠ 0) (hcount : (hoCount r).toNat ≤ (hoMax r).toNat)
    (hquota : (foldAt s (hoFold r)).live.semQuota = 0 ∨
      (foldSems s (hoFold r)).length < (foldAt s (hoFold r)).live.semQuota.toNat)
    {i : Nat} (hi : i < 1024) (hfree : (semAt s i).created = false) (hlow : ∀ j < i, (semAt s j).created = true) :
    semAlloc r s = (.done stSuccess i, setSem s i
      { Sem.reset with created := true, fold := hoFold r, count := hoCount r, max := hoMax r }) := by
  have hfound : lowest 1024 (fun i => !(semAt s i).created) = some i :=
    lowest_eq_some hi (by simp [hfree]) fun j hj => by simp [hlow j hj]
  have hroom : ¬ ((foldAt s (hoFold r)).live.semQuota.toNat ≠ 0 ∧
      (foldAt s (hoFold r)).live.semQuota.toNat ≤ (foldSems s (hoFold r)).length) := by
    rintro ⟨hne, hle⟩
    rcases hquota with hquota | hquota
    · exact hne (by rw [hquota]; rfl)
    · omega
  refine (if_neg (by simpa [hfold, hcount] using hmax)).trans ((if_neg hroom).trans ?_)
  rw [hfound]

theorem semFree_unused {i : Nat} (hc : (semAt s i).created = true) (hh : (semAt s i).holders = []) (hw : (semAt s i).waiters = []) :
    semFree i s = (.done stSuccess 0, setSem s i Sem.reset) :=
  if_neg (by simp [hc, hh, hw])

end

/-! ### Destroying queues (R174) -/

/-- Between two states only marks of queues and HQIs differ: no queue is freed or moved to another HQI, no HQI's counts change. -/
def sameButMarks (s t : State) : Prop :=
  t = { s with queues := t.queues, hqis := t.hqis } ∧
    (Tab.wf Queue.reset s.queues = true → Tab.wf Queue.reset t.queues = true ∧
      ∀ k, (queueAt t k).state = (queueAt s k).state ∧ (queueAt t k).hqi = (queueAt s k).hqi) ∧
    (Tab.wf Hqi.reset s.hqis = true → Tab.wf Hqi.reset t.hqis = true ∧
      ∀ k, (hqiAt t k).spoof = (hqiAt s k).spoof ∧ (hqiAt t k).doorbellBad = (hqiAt s k).doorbellBad)

theorem sameButMarks.refl (s : State) : sameButMarks s s :=
  ⟨rfl, fun h => ⟨h, fun _ => ⟨rfl, rfl⟩⟩, fun h => ⟨h, fun _ => ⟨rfl, rfl⟩⟩⟩

theorem sameButMarks.trans {s t u : State} (h : sameButMarks s t) (h' : sameButMarks t u) : sameButMarks s u := by
  obtain ⟨he, hq, hh⟩ := h
  obtain ⟨he', hq', hh'⟩ := h'
  refine ⟨by rw [he', he], fun hwf => ?_, fun hwf => ?_⟩
  · obtain ⟨hwf1, hsame1⟩ := hq hwf
    obtain ⟨hwf2, hsame2⟩ := hq' hwf1
    exact ⟨hwf2, fun k => ⟨(hsame2 k).1.trans (hsame1 k).1, (hsame2 k).2.trans (hsame1 k).2⟩⟩
  · obtain ⟨hwf1, hsame1⟩ := hh hwf
    obtain ⟨hwf2, hsame2⟩ := hh' hwf1
    exact ⟨hwf2, fun k => ⟨(hsame2 k).1.trans (hsame1 k).1, (hsame2 k).2.trans (hsame1 k).2⟩⟩

/-- The same, the last step first: the state between is read off it. -/
theorem sameButMarks.after {s t u : State} (h' : sameButMarks t u) (h : sameButMarks s t) : sameButMarks s u := h.trans h'

theorem setQueue_sameButMarks (s : State) (q : Nat) {x : Queue} (hs : x.state = (queueAt s q).state) (hh : x.hqi = (queueAt s q).hqi) :
    sameButMarks s (setQueue s q x) := by
  refine ⟨rfl, fun hwf => ⟨Tab.set_wf _ _ _ hwf, fun k => ?_⟩, fun hwf => ⟨hwf, fun _ => ⟨rfl, rfl⟩⟩⟩
  by_cases hk : q = k
  · subst hk
    rw [queueAt_setQueue_self _ _ _ hwf]
    exact ⟨hs, hh⟩
  · rw [queueAt_setQueue_ne _ _ hk]
    exact ⟨rfl, rfl⟩

theorem modHqi_sameButMarks (s : State) (h : Nat) {g : Hqi → Hqi}
    (hg : ∀ x, (g x).spoof = x.spoof ∧ (g x).doorbellBad = x.doorbellBad) :
    sameButMarks s (modHqi s h g) := by
  refine ⟨rfl, fun hwf => ⟨hwf, fun _ => ⟨rfl, rfl⟩⟩, fun hwf => ⟨Tab.set_wf _ _ _ hwf, fun k => ?_⟩⟩
  by_cases hk : h = k
  · subst hk
    rw [modHqi, hqiAt_setHqi_self _ _ _ hwf]
    exact hg _
  · rw [modHqi, hqiAt_setHqi_ne _ _ hk]
    exact ⟨rfl, rfl⟩

/-- A queue without commands is marked, and its HQI's drain limit counts. -/
theorem beginDestroy_idle {s : State} {q : Nat} (h : cmdsOf s q = []) : sameButMarks s (beginDestroy q s) ∧
    ∀ k ≠ q, queueAt (beginDestroy q s) k = queueAt s k := by
  have hnone : cmdsWhere s (fun c => c.q == q && undispatched c) = [] := by
    rw [cmdsOf, List.filter_eq_nil_iff] at h
    rw [cmdsWhere, List.map_eq_nil_iff, List.filter_eq_nil_iff]
    intro c hc
    simp [h c hc]
  have heq : beginDestroy q s = modHqi (setQueue s q { queueAt s q with destroying := true, batch := 0 }) (queueAt s q).hqi
      fun h => { h with drainUntil := earlierOf h.drainUntil (drainDeadline s) } := by
    unfold beginDestroy
    show completeAll (cmdsWhere s fun c => c.q == q && undispatched c) _ _ = _
    rw [hnone]
    rfl
  rw [heq]
  refine ⟨.after (modHqi_sameButMarks _ _ fun _ => ⟨rfl, rfl⟩) (setQueue_sameButMarks s q rfl rfl), fun k hk => ?_⟩
  exact queueAt_setQueue_ne s _ hk.symm

theorem forEach_beginDestroy_idle {l : List Nat} {s : State} (h : ∀ q ∈ l, cmdsOf s q = []) :
    sameButMarks s (forEach l beginDestroy s) := by
  induction l generalizing s with
  | nil => exact .refl s
  | cons q l ih =>
    obtain ⟨hmark, -⟩ := beginDestroy_idle (h q (by simp))
    refine hmark.trans (ih fun k hk => ?_)
    obtain ⟨he, -⟩ := hmark
    rw [he]
    exact h k (by simp [hk])

/-- What a queue still waits for does not change with marks. -/
theorem sameButMarks.queueDone {s t : State} (h : sameButMarks s t) (q : Nat) : queueDone t q = queueDone s q := by
  obtain ⟨he, -⟩ := h
  rw [he]
  rfl

theorem sameButMarks.hqiAwaits {s t : State} (h : sameButMarks s t) (k : Nat) : hqiAwaits t k = hqiAwaits s k := by
  obtain ⟨he, -⟩ := h
  rw [he]
  rfl

theorem sameButMarks.mem_hqiQueues {s t : State} (h : sameButMarks s t) (hwf : Tab.wf Queue.reset s.queues = true) {k q : Nat} :
    q ∈ hqiQueues t k ↔ q ∈ hqiQueues s k := by
  obtain ⟨-, hq, -⟩ := h
  obtain ⟨hwf', hsame⟩ := hq hwf
  rw [Machine.mem_hqiQueues hwf', Machine.mem_hqiQueues hwf, (hsame q).1, (hsame q).2]

/-- Queues freed one after the other. -/
theorem queueAt_freed (l : List Nat) {s : State} (hwf : Tab.wf Queue.reset s.queues = true) (k : Nat) :
    queueAt (forEach l (fun q s => setQueue s q Queue.reset) s) k = if k ∈ l then Queue.reset else queueAt s k := by
  induction l generalizing s with
  | nil => rfl
  | cons q l ih =>
    have hwf' : Tab.wf Queue.reset (setQueue s q Queue.reset).queues = true := Tab.set_wf Queue.reset q Queue.reset hwf
    rw [forEach_cons, ih hwf']
    by_cases hk : q = k
    · subst hk
      simp [queueAt_setQueue_self _ _ _ hwf]
    · simp [queueAt_setQueue_ne _ _ hk, Ne.symm hk]

theorem hqis_freed (l : List Nat) (s : State) : (forEach l (fun q s => setQueue s q Queue.reset) s).hqis = s.hqis := by
  induction l generalizing s with
  | nil => rfl
  | cons q l ih => exact ih _

/-- QUEUE_DESTROY of a queue that waits for nothing frees it. -/
theorem queueDestroy_idle {s : State} {q : Nat} (hwf : Tab.wf Queue.reset s.queues = true) (h0 : q ≠ 0)
    (hstate : (queueAt s q).state ≠ .free) (hdone : queueDone s q = true) :
    ∃ t, queueDestroy q s = (.done stSuccess 0, t) ∧ queueAt t q = Queue.reset ∧ ∀ k ≠ q, queueAt t k = queueAt s k := by
  have hcmds : cmdsOf s q = [] := by
    simp only [queueDone, Bool.and_eq_true, List.isEmpty_iff] at hdone
    obtain ⟨⟨⟨hcmds, -⟩, -⟩, -⟩ := hdone
    exact hcmds
  obtain ⟨t, ht, hmark, hothers⟩ : ∃ t, (if (queueAt s q).destroying then s else beginDestroy q s) = t ∧ sameButMarks s t ∧
      ∀ k ≠ q, queueAt t k = queueAt s k := by
    refine ⟨_, rfl, ?_⟩
    split
    · exact ⟨.refl s, fun _ _ => rfl⟩
    · exact beginDestroy_idle hcmds
  obtain ⟨-, hq, -⟩ := id hmark
  refine ⟨setQueue t q Queue.reset, ?_, queueAt_setQueue_self _ _ _ (hq hwf).1, fun k hk => ?_⟩
  · refine (if_neg (by simp [h0, hstate])).trans ?_
    rw [ht]
    exact if_pos ((hmark.queueDone q).trans hdone)
  · rw [queueAt_setQueue_ne _ _ hk.symm, hothers k hk]

/-- HQI_DESTROY of an HQI whose queues wait for nothing and for which nothing is outstanding frees it and its queues. -/
theorem hqiDestroy_idle {s : State} {h : Nat} (hwq : Tab.wf Queue.reset s.queues = true) (hwh : Tab.wf Hqi.reset s.hqis = true)
    (h0 : h ≠ 0) (hc : (hqiAt s h).created = true) (hdone : ∀ k ∈ hqiQueues s h, queueDone s k = true)
    (hawait : hqiAwaits s h = false) :
    ∃ t, hqiDestroy h s = (.done stSuccess 0, t) ∧
      hqiAt t h = { Hqi.reset with spoof := (hqiAt s h).spoof, doorbellBad := (hqiAt s h).doorbellBad } ∧
      ∀ k ∈ hqiQueues s h, queueAt t k = Queue.reset := by
  obtain ⟨t, ht, hmark⟩ : ∃ t, (if (hqiAt s h).closed then s else
      forEach (hqiQueues (modHqi s h fun x => { x with closed := true, drainUntil := earlierOf x.drainUntil (drainDeadline s) }) h)
        beginDestroy (modHqi s h fun x => { x with closed := true, drainUntil := earlierOf x.drainUntil (drainDeadline s) })) = t ∧
      sameButMarks s t := by
    refine ⟨_, rfl, ?_⟩
    split
    · exact .refl s
    · refine .after (forEach_beginDestroy_idle fun k hk => ?_) (modHqi_sameButMarks s h fun _ => ⟨rfl, rfl⟩)
      have hk' := hdone k hk
      simp only [queueDone, Bool.and_eq_true, List.isEmpty_iff] at hk'
      obtain ⟨⟨⟨hcmds, -⟩, -⟩, -⟩ := hk'
      exact hcmds
  obtain ⟨-, hq, hh⟩ := id hmark
  obtain ⟨hwt, hcounts⟩ := hh hwh
  have hends : ((hqiQueues t h).all (queueDone t) && !hqiAwaits t h) = true := by
    rw [hmark.hqiAwaits, hawait, Bool.not_false, Bool.and_true, List.all_eq_true]
    intro k hk
    rw [hmark.queueDone]
    exact hdone k ((hmark.mem_hqiQueues hwq).mp hk)
  refine ⟨modHqi (forEach (hqiQueues t h) (fun q s => setQueue s q Queue.reset) t) h fun x =>
    { Hqi.reset with spoof := x.spoof, doorbellBad := x.doorbellBad }, ?_, ?_, fun k hk => ?_⟩
  · refine (if_neg (by simp [h0, hc])).trans ?_
    dsimp only
    rw [ht]
    exact if_pos hends
  · rw [modHqi, hqiAt_setHqi_self _ _ _ (by rw [hqis_freed]; exact hwt)]
    have hat : hqiAt (forEach (hqiQueues t h) (fun q s => setQueue s q Queue.reset) t) h = hqiAt t h := by
      rw [hqiAt, hqis_freed, hqiAt]
    rw [hat, (hcounts h).1, (hcounts h).2]
  · show queueAt (forEach (hqiQueues t h) (fun q s => setQueue s q Queue.reset) t) k = _
    rw [queueAt_freed _ (hq hwq).1, if_pos ((hmark.mem_hqiQueues hwq).mpr hk)]

end Sys2Proof.Machine
open Sys2Proof Sys2Proof.Machine

/-- Settles O27: each request as its meaning carries it out, while it is the access under way. -/
theorem hostObjectRequests : Obligations.HostObjectRequests := by
  unfold Obligations.HostObjectRequests
  intro s r hcanon hserve hacc hclean h q x good
  have hwq := canon_queues hcanon
  have hwh : Tab.wf Hqi.reset s.hqis = true := by
    simp only [canon, Bool.and_eq_true] at hcanon
    tauto
  have hqueue (k : Nat) (hcmds : cmdsOf s k = []) (hheld : ∀ y ∈ s.journal.heldBack, y.1 ≠ k) (hposted : s.hostPort.posted = [])
      (hout : ∀ o ∈ s.hostPort.out, o.use ≠ .batch k) : queueDone s k = true := by
    simp only [queueDone, hcmds, hposted, List.isEmpty_nil, Bool.true_and, Bool.and_true, Bool.and_eq_true, List.all_eq_true, bne_iff_ne]
    exact ⟨hheld, hout⟩
  refine ⟨fun hop h0 hfree hfold => ?hqiCreate, fun hop h0 hc hqs hposted hout hreqs hunacked => ?hqiDestroy,
    fun hop h0 hq0 hc hfree htag hfold hslot hring hcring hwb hsize hquota => ?queueCreate,
    fun hop hq0 hstate hcmds hheld hposted hout => ?queueDestroy, fun hop hstop => ?resume,
    fun hop hfold hmax hcount hquota i hi hfree hlow => ?semAlloc, fun hop hc hh hw => ?semFree⟩
  case hqiCreate =>
    refine objectRow_success hserve hacc hop _ (by omega) ?_ hacc
    rw [objectRun, hclean, hop]
    exact hqiCreate_free h0 hfree hfold
  case hqiDestroy =>
    have hawait : hqiAwaits s h = false := by
      simp only [hqiAwaits, Bool.or_eq_false_iff, List.any_eq_false, beq_iff_eq]
      exact ⟨⟨hreqs, hout⟩, fun p hp hany => (List.any_eq_true.mp hany).elim fun e he => hunacked p hp e he.1 (by simpa using he.2)⟩
    obtain ⟨t, ht, hat, hfreed⟩ := hqiDestroy_idle (s := asking r s) hwq hwh h0 hc (fun k hk => by
      obtain ⟨hcmds, hheld, hbatch⟩ := hqs k hk
      exact hqueue k hcmds hheld (hposted.resolve_left (List.ne_nil_of_mem hk)) hbatch) hawait
    refine ⟨outcomeIn stSuccess 0 t, objectRow_done hserve hacc hop _ ?_, hat, hfreed, rfl⟩
    rw [objectRun, hclean, hop]
    exact ht
  case queueCreate =>
    refine objectRow_success hserve hacc hop _ (by omega) ?_ hacc
    rw [objectRun, hclean, hop]
    exact queueCreate_valid h0 hq0 hc hfree htag hfold hslot hring hcring hwb hsize hquota
  case queueDestroy =>
    obtain ⟨t, ht, hat, hothers⟩ := queueDestroy_idle (s := asking r s) hwq hq0 hstate (hqueue q hcmds hheld hposted hout)
    refine ⟨outcomeIn stSuccess 0 t, objectRow_done hserve hacc hop _ ?_, hat, hothers, rfl⟩
    rw [objectRun, hclean, hop]
    exact ht
  case resume =>
    refine objectRow_success hserve hacc hop _ (by omega) ?_ hacc
    rw [objectRun, hclean, hop]
    exact queueResume_stopped (s := asking r s) hstop
  case semAlloc =>
    refine objectRow_success hserve hacc hop _ hi ?_ hacc
    rw [objectRun, hclean, hop]
    exact semAlloc_lowest (s := asking r s) hfold hmax hcount hquota hi hfree hlow
  case semFree =>
    refine objectRow_success hserve hacc hop _ (by omega) ?_ hacc
    rw [objectRun, hclean, hop]
    exact semFree_unused (s := asking r s) hc hh hw
end

section
/-! SUPPORT. Writes of registers that take effect or are refused: doorbells, FENCE_DB, the kernel queue, the fault ring, the journal ring,
and interrupt moderation (R172, R176, R185, R376, R411, R502-R507). -/

namespace Sys2Proof.Machine

/-! ### Sizes of rings -/

theorem powerOfTwo_iff {a b n : Nat} : powerOfTwo (2 ^ a) (2 ^ b) n = true ↔ ∃ e, a ≤ e ∧ e ≤ b ∧ n = 2 ^ e := by
  simp only [powerOfTwo, Bool.and_eq_true, decide_eq_true_eq, beq_iff_eq]
  constructor
  · rintro ⟨⟨hlo, hhi⟩, he⟩
    rw [← he] at hlo hhi
    exact ⟨Nat.log2 n, (Nat.pow_le_pow_iff_right (by omega)).mp hlo, (Nat.pow_le_pow_iff_right (by omega)).mp hhi, he.symm⟩
  · rintro ⟨e, hlo, hhi, rfl⟩
    exact ⟨⟨Nat.pow_le_pow_right (by omega) hlo, Nat.pow_le_pow_right (by omega) hhi⟩, by rw [Nat.log2_two_pow]⟩

/-! ### FENCE_DB -/

/-- A FENCE_DB that no command waits for wakes none. -/
theorem fenceDoorbell_unwaited {s : State} {a : W64} (h : Nat) (hc : ∀ c ∈ s.cmds, opcodeOf c.desc = 5 → operand0 c.desc ≠ a) :
    fenceDoorbell h a s = s := by
  refine forEach_id _ _ _ fun u hu => ?_
  obtain ⟨c, hm, -⟩ := List.mem_map.mp hu
  obtain ⟨hm, ht⟩ := List.mem_filter.mp hm
  rw [Bool.and_eq_true, Bool.and_eq_true, Bool.and_eq_true, beq_iff_eq, beq_iff_eq, beq_iff_eq] at ht
  obtain ⟨⟨⟨-, hop⟩, ha⟩, -⟩ := ht
  exact absurd ha (hc c hm hop)

/-- A wait that its fence satisfies completes. -/
theorem evalWait_satisfied {s s1 s2 : State} {c : Cmd} {mem off : Nat} {bs : List Byte} (hat : cmdAt s c.uid = some c)
    (hr : reach 8 c.tag (operand0 c.desc).toNat .read (onBehalf c.uid hostMaster s) = (.loc mem off, s1))
    (hl : locRead c.tag mem off 16 s1 = (.ok bs, s2)) (hv : (operand1 c.desc).toNat ≤ fsValue (BitVec.ofNat 128 (ofLe bs))) :
    evalWait c.uid s = { complete c.uid (.plain stSuccess) s2 with
      xlate := { (complete c.uid (.plain stSuccess) s2).xlate with agent := s.xlate.agent } } := by
  have hread : readFence c.uid (onBehalf c.uid hostMaster s) = complete c.uid (.plain stSuccess) s2 := by
    have hat' : cmdAt (onBehalf c.uid hostMaster s) c.uid = some c := hat
    unfold readFence
    rw [hat']
    dsimp only
    rw [hr]
    dsimp only
    rw [hl]
    simp [judgeFence, hv]
  rw [evalWait, doFor, hread]

/-- A FENCE_DB evaluates the one wait of its HQI that names its address. -/
theorem fenceDoorbell_lone {s : State} {c : Cmd} {pa target : W64} (hc : s.cmds = [c]) (hop : opcodeOf c.desc = 5)
    (hp : c.phase = .waitFence pa target) : fenceDoorbell (queueAt s c.q).hqi (operand0 c.desc) s = evalWait c.uid s := by
  unfold fenceDoorbell cmdsWhere
  rw [hc, List.filter_cons_of_pos, List.filter_nil]
  · rfl
  · rw [hop, hp, beq_self_eq_true, beq_self_eq_true, beq_self_eq_true]
    rfl

/-! ### The kernel queue -/

theorem kernelRingOk_iff {s : State} : kernelRingOk s = true ↔ s.kpage.ring.toNat % 4096 = 0 ∧ s.kpage.cring.toNat % 4096 = 0 ∧
    s.kpage.headWb.toNat % 8 = 0 ∧ s.kpage.size.toNat ≤ 12 := by
  simp [kernelRingOk, and_assoc]

/-! ### The fault ring -/

/-- What of a record's place leaves it unacknowledged once an enabled ring, written up to `wr`, has been read up to `rd`. -/
def unread (on : Bool) (wr rd : W64) (u : Unacked) : Bool :=
  match u.place with
  | .ring i => decide (rd.toNat ≤ i)
  | .dropped => !(on && rd == wr)
  | _ => true

/-- Dropped records are acknowledged once an enabled ring whose buffer is empty has been read to its end. -/
theorem ackDropped_eq {s : State} (hb : s.faults.buffer = []) : ackDropped s = { s with faults := { s.faults with
    unacked := s.faults.unacked.filter fun u => !(s.faults.frOn && s.faults.frRd == s.faults.frWr && u.place == .dropped) } } := by
  unfold ackDropped
  rw [hb, List.isEmpty_nil, Bool.and_true]
  cases s.faults.frOn && s.faults.frRd == s.faults.frWr
  · simp
  · rfl

section
variable {s : State} (hb : s.faults.buffer = []) (hw : s.faults.waitingB = []) (hp : ∀ e ∈ s.xlate.pending, e.written = true)
include hb hw hp

theorem ringPullOne_none : ringPullOne s = s := by
  have hnone : s.xlate.pending.find? (fun e => !e.written) = none := by
    rw [List.find?_eq_none]
    intro e he
    simp [hp e he]
  unfold ringPullOne
  rw [hb, hw, hnone]
  exact ite_self _

/-- With no record waiting the ring takes none; dropped records may be acknowledged (R409). -/
theorem ringPull_none : ringPull s = { s with faults := { s.faults with
    unacked := s.faults.unacked.filter fun u => !(s.faults.frOn && s.faults.frRd == s.faults.frWr && u.place == .dropped) } } := by
  rw [← ackDropped_eq hb]
  unfold ringPull
  dsimp only
  rw [List.foldl_fixed' fun _ => ringPullOne_none hb hw hp]

/-- FR_RD acknowledges what it passes. -/
theorem faultRead_ok {v : W64} (hlo : s.faults.frRd.toNat ≤ v.toNat) (hhi : v.toNat ≤ s.faults.frWr.toNat) :
    faultRead v s = { s with faults := { s.faults with
      frRd := v, unacked := s.faults.unacked.filter (unread s.faults.frOn s.faults.frWr v) } } := by
  refine (if_neg (by omega)).trans ((ringPull_none (by exact hb) (by exact hw) (by exact hp)).trans ?_)
  refine congrArg (fun l => { s with faults := { s.faults with frRd := v, unacked := l } }) ?_
  refine List.filter_filter.trans (List.filter_congr fun u _ => ?_)
  unfold unread
  cases u.place <;> simp [ackBehind]

/-- Enabling the fault ring acknowledges the records of the earlier ring and those dropped. -/
theorem faultRingOn_ok (hoff : s.faults.frOn = false) (hbase : s.faults.frBase.toNat % 4096 = 0)
    (hsize : ∃ e, 6 ≤ e ∧ e ≤ 16 ∧ s.faults.frEntries.toNat = 2 ^ e) :
    faultRingOn s = { s with faults := { s.faults with
      frOn := true, frWr := 0, frRd := 0
      unacked := s.faults.unacked.filter fun u => match u.place with | .ring _ => false | .dropped => false | _ => true } } := by
  have hsize' : powerOfTwo 64 65536 s.faults.frEntries.toNat = true := powerOfTwo_iff.mpr hsize
  refine (if_neg (by simp [hoff, hbase, hsize'])).trans ((ringPull_none (by exact hb) (by exact hw) (by exact hp)).trans ?_)
  refine congrArg (fun l => { s with faults := { s.faults with frOn := true, frWr := 0, frRd := 0, unacked := l } }) ?_
  refine List.filter_filter.trans (List.filter_congr fun u _ => ?_)
  cases u.place <;> simp

end

theorem faultRingOn_refused {s : State} (h : ¬ (s.faults.frOn = false ∧ s.faults.frBase.toNat % 4096 = 0 ∧
    ∃ e, 6 ≤ e ∧ e ≤ 16 ∧ s.faults.frEntries.toNat = 2 ^ e)) : faultRingOn s = s := by
  refine if_pos ?_
  by_contra hc
  simp only [Bool.or_eq_true, bne_iff_ne, Bool.not_eq_true', not_or, Bool.not_eq_true, not_not, Bool.not_eq_false] at hc
  obtain ⟨⟨hon, hbase⟩, hsize⟩ := hc
  exact h ⟨hon, hbase, powerOfTwo_iff.mp hsize⟩

/-! ### The journal ring (R376) -/

theorem journalRingOk_iff {s : State} : journalRingOk s = true ↔
    s.journal.base.toNat % 4096 = 0 ∧ ∃ e, 6 ≤ e ∧ e ≤ 24 ∧ s.journal.entries.toNat = 2 ^ e := by
  rw [journalRingOk, Bool.and_eq_true, beq_iff_eq]
  exact and_congr Iff.rfl (powerOfTwo_iff (a := 6) (b := 24))

theorem journalAdvance_none {s : State} (hb : s.journal.buffer = []) (hh : s.journal.heldBack = []) : journalAdvance s = s := by
  simp [journalAdvance, hb, hh]

/-- With nothing buffered or held back a write of JNL_RD only moves it. -/
theorem journalRead_ok {s : State} {v : W64} (hlo : s.journal.rd.toNat ≤ v.toNat) (hhi : v.toNat ≤ s.journal.wr.toNat)
    (hb : s.journal.buffer = []) (hh : s.journal.heldBack = []) :
    journalRead v s = { s with journal := { s.journal with rd := v } } :=
  (if_neg (by omega)).trans (journalAdvance_none hb hh)

/-- ENABLE and DISABLE come to their action, or to nothing. -/
theorem writeNow_journal {s : State} (hserve : bootOnly s = false) (v : Byte) :
    writeNow 0x3100 1 [v] s = (put3100 s 1 (ofLe [v])).2 := by
  have hjudge : judgeAccess s { path := none, write := true, index := 0x3100, sub := 1, offset := 0, length := 1, bytes := [v] } = dOk := by
    simp only [judgeAccess, hserve, Bool.false_and, Bool.false_eq_true, if_false]
    rfl
  unfold writeNow accessGo
  simp only [List.length_singleton, hjudge]
  rfl

/-- Where every key of the queues but the kernel queue's reads a free queue, none is listed. -/
theorem queuesWhere_kernel_iff {s : State} (hwf : Tab.wf Queue.reset s.queues = true) :
    (queuesWhere s fun _ => true).all (fun q => q == 0) = true ↔ ∀ q, q ≠ 0 → (queueAt s q).state = .free := by
  simp only [List.all_eq_true, mem_queuesWhere hwf, and_true, beq_iff_eq]
  exact forall_congr' fun q => not_imp_comm

/-- No queue but the kernel queue exists, no entry waits, and no journalled command is accepted and not completed. -/
def journalIdle (s : State) : Prop :=
  (∀ q, q ≠ 0 → (queueAt s q).state = .free) ∧ s.journal.buffer = [] ∧ s.journal.heldBack = [] ∧ ∀ c ∈ s.cmds, c.journalled = false

theorem journalOff_idle {s : State} (hwf : Tab.wf Queue.reset s.queues = true) (h : journalIdle s) :
    journalOff s = { s with journal := { s.journal with enabled := false } } := by
  obtain ⟨hq, hb, hh, hc⟩ := h
  refine if_neg ?_
  rw [(queuesWhere_kernel_iff hwf).mpr hq, hb, hh]
  simpa using hc

theorem journalOff_busy {s : State} (hwf : Tab.wf Queue.reset s.queues = true) (h : ¬ journalIdle s) : journalOff s = s := by
  refine if_pos ?_
  by_contra hc
  simp only [Bool.or_eq_true, Bool.not_eq_true', not_or, Bool.not_eq_false, List.isEmpty_iff, queuesWhere_kernel_iff hwf,
    List.any_eq_true, not_exists, not_and, Bool.not_eq_true] at hc
  obtain ⟨⟨⟨hq, hb⟩, hh⟩, hc⟩ := hc
  exact h ⟨hq, hb, hh, hc⟩

section
variable {s : State} (hserve : bootOnly s = false)
include hserve

theorem exec_journalEnable : exec .journalEnable s = .next (pump (journalOn s)) := by
  refine congrArg (fun t => Host.Outcome.next (pump t)) ((writeNow_journal hserve 1).trans ?_)
  show (putIf (!s.journal.enabled && journalRingOk s) dState (journalOn s) s).2 = journalOn s
  unfold putIf journalOn
  cases s.journal.enabled <;> cases journalRingOk s <;> rfl

theorem exec_journalDisable (h : (journalOff s).journal.enabled = false ∨ journalOff s = s) :
    exec .journalDisable s = .next (pump (journalOff s)) := by
  refine congrArg (fun t => Host.Outcome.next (pump t)) ((writeNow_journal hserve 2).trans ?_)
  show (putIf (!(journalOff s).journal.enabled) dState (journalOff s) s).2 = journalOff s
  unfold putIf
  rcases h with h | h
  · rw [h]
    rfl
  · rw [h]
    split <;> rfl

end

/-! ### Moderation (R172) -/

theorem exec_moderationTimerExpiry {s : State} {q : Nat} (hq : q < 4096) :
    exec (.moderationTimerExpiry q) s = .next (pump (moderate q s)) := need_of_true (by simp [hq])

end Sys2Proof.Machine
open Sys2Proof Sys2Proof.Machine

/-- Settles O28: each row is its register's write, which takes effect or leaves the state. -/
theorem registerRows : Obligations.RegisterRows := by
  unfold Obligations.RegisterRows
  intro s hcanon hb counted
  have hwf := canon_queues hcanon
  have next {i : Instr} {t u : State} (hexec : exec i s = .next (pump t)) (h : t = u) : exec i s = .next (pump u) := h ▸ hexec
  refine ⟨fun h loc v hh hl => ⟨fun hnone => ⟨?noDoorbell, ?noHead⟩, fun q hq => ⟨?refused, ?rung, ?headRefused, ?head⟩⟩,
    fun h a hh hc => next (exec_fenceDb hb hh a) (fenceDoorbell_unwaited h hc), ?fence, ⟨?kernel, ?kernelRefused⟩,
    ⟨?ringRefused, exec_faultRingDisable hb, ?ring, ?rdRefused⟩, ⟨?jnlRefused, ?jnl, ?journal⟩, fun q hq => ⟨?due, ?notDue⟩⟩
  case noDoorbell => exact next (exec_doorbell hb hh hl v) (by rw [doorbell, hnone]; rfl)
  case noHead => exact next (exec_cqHeadWrite hb hh hl v) (by rw [cqHead, hnone]; rfl)
  case refused =>
    intro hbad
    refine next (exec_doorbell hb hh hl v) ?_
    rw [doorbell, hq]
    exact if_pos hbad
  case rung =>
    intro hd hroom hahead
    refine next (exec_doorbell hb hh hl v) ?_
    rw [doorbell, hq]
    refine if_neg ?_
    rintro (h | h | h)
    · exact Bool.noConfusion (hd.symm.trans h)
    · exact absurd h (Nat.not_lt.mpr hroom)
    · exact absurd h (Nat.not_lt.mpr hahead)
  case headRefused =>
    intro hbad
    refine next (exec_cqHeadWrite hb hh hl v) ?_
    rw [cqHead, hq]
    exact if_pos hbad
  case head =>
    intro hok
    refine next (exec_cqHeadWrite hb hh hl v) ?_
    rw [cqHead, hq]
    exact if_neg (Nat.not_lt.mpr hok)
  case fence =>
    intro h c pa target mem off s1 bs s2 hh hc hqi hop hp hr hl hv
    have hat : cmdAt s c.uid = some c := by simp [cmdAt, hc]
    subst hqi
    exact next (exec_fenceDb hb hh _) ((fenceDoorbell_lone hc hop hp).trans (evalWait_satisfied hat hr hl hv))
  case kernel =>
    intro hoff hvalid
    refine next (exec_kqEnable hb) (if_neg ?_)
    rw [hoff, kernelRingOk_iff.mpr hvalid]
    exact Bool.false_ne_true
  case kernelRefused =>
    intro hbad
    refine next (exec_kqEnable hb) (if_pos ?_)
    rw [Bool.or_eq_true, Bool.not_eq_true', ← Bool.not_eq_true, kernelRingOk_iff]
    exact hbad
  case ringRefused => exact fun hbad => next (exec_faultRingEnable hb) (faultRingOn_refused hbad)
  case ring =>
    intro hbuf hwait hpend
    refine ⟨?_, fun v hlo hhi => ?_⟩
    · rintro ⟨hoff, hbase, hsize⟩
      exact next (exec_faultRingEnable hb) (faultRingOn_ok hbuf hwait hpend hoff hbase hsize)
    · exact next (exec_frRdWrite hb v) (faultRead_ok hbuf hwait hpend hlo hhi)
  case rdRefused => exact fun v hbad => next (exec_frRdWrite hb v) (if_pos hbad)
  case jnlRefused => exact fun v hbad => next (exec_jnlRdWrite hb v) (if_pos hbad)
  case jnl => exact fun v hlo hhi hbuf hheld => next (exec_jnlRdWrite hb v) (journalRead_ok hlo hhi hbuf hheld)
  case journal =>
    intro hserve valid
    refine ⟨fun hoff hvalid => next (exec_journalEnable hserve) (if_neg ?_), fun hbad => next (exec_journalEnable hserve) (if_pos ?_),
      fun hidle => ?_, fun hbusy => ?_⟩
    · rw [hoff, journalRingOk_iff.mpr hvalid]
      exact Bool.false_ne_true
    · rw [Bool.or_eq_true, Bool.not_eq_true', ← Bool.not_eq_true, journalRingOk_iff]
      exact hbad
    · have hoff := journalOff_idle hwf hidle
      exact next (exec_journalDisable hserve (.inl (by rw [hoff]))) hoff
    · have hsame := journalOff_busy hwf hbusy
      exact next (exec_journalDisable hserve (.inr hsame)) hsame
  case due =>
    rintro ⟨htime, hcount, hdue⟩
    refine next (exec_moderationTimerExpiry hq) (if_neg ?_)
    rintro (h | h | h)
    · exact htime h
    · exact hcount h
    · omega
  case notDue =>
    intro hnot
    refine next (exec_moderationTimerExpiry hq) (if_pos ?_)
    by_contra hc
    rw [not_or, not_or, Nat.not_lt] at hc
    exact hnot hc
end

section
/-! SUPPORT. Descriptors at a queue's head (R175-R179, R512, R513): the row of a descriptor, the record that answers one, what passing the
head leaves of its queue, and the batches of the ring. -/

namespace Sys2Proof.Machine

/-! ### Rows of descriptors (R175) -/

section
variable {q : Nat} {d : BitVec 512} {s : State}

theorem queueRow_ok (mnemonic : String) {r : Bool} (h : (queueOk q && r) = true) :
    q < 4096 ∧ queueRow q d mnemonic r s = .next (pump (acceptOne q d s)) :=
  ⟨of_decide_eq_true (Bool.and_eq_true_iff.mp h).1, need_of_true h⟩

theorem queueRow_ok_op (mnemonic : String) {a b : Bool} (h : (queueOk q && a && b) = true) :
    q < 4096 ∧ queueRow q d mnemonic (a && b) s = .next (pump (acceptOne q d s)) :=
  queueRow_ok mnemonic ((Bool.and_assoc ..).symm.trans h)

theorem fzThaw_eq : fzThaw d = fieldIs d 132 1 1 := by
  rw [fzThaw, bitAt, fieldIs, BitVec.getLsbD, Nat.testBit_eq_decide_div_mod_eq, Nat.shiftRight_eq_div_pow, Nat.pow_one]
  rfl

theorem not_fzThaw : (!fzThaw d) = fieldIs d 132 1 0 := by
  rw [fzThaw_eq, fieldIs, fieldIs, Nat.pow_one]
  rcases Nat.mod_two_eq_zero_or_one (d.toNat >>> 132) with h | h <;> rw [h] <;> rfl

/-- The block reads a well-formed descriptor at its queue's head. -/
theorem exec_descriptor {i : Instr} (hwf : i.wf = true) (hd : descriptorOf i = some (q, d)) :
    q < 4096 ∧ exec i s = .next (pump (acceptOne q d s)) := by
  cases i
  case tileTask | herdLaunch | fenceSignal | fenceWait | semAcquire | semRelease | modelLoad | modelEvict | mark | invalidate |
      contextCreate | contextTeardown | foldExport | foldImport | suspectReview | engineReset | foldReset =>
    cases hd
    exact queueRow_ok _ hwf
  case moveCopy | moveFill | moveReduce | allReduce | reduce | broadcast | allGather | resvLookup | resvReserve | resvFill |
      resvCommit | resvRead | resvRelease | setRoot | frameOwn | window | resolve =>
    cases hd
    exact queueRow_ok_op _ hwf
  case foldFreeze =>
    cases hd
    exact queueRow_ok_op _ (by rw [not_fzThaw]; exact hwf)
  case foldThaw =>
    cases hd
    exact queueRow_ok_op _ (by rw [fzThaw_eq]; exact hwf)
  all_goals cases hd

end

/-! ### Records that answer a descriptor (R177, R179) -/

/-- A field above a number that lies below it. -/
theorem place_or_ofNat {w v lo len y : Nat} (hv : v < 2 ^ len) (hy : y < 2 ^ lo) :
    (place v lo len : BitVec w) ||| BitVec.ofNat w y = BitVec.ofNat w (v * 2 ^ lo + y) := by
  rw [place, Nat.mod_eq_of_lt hv, ← BitVec.ofNat_or, ← Nat.shiftLeft_add_eq_or_of_lt hy, Nat.shiftLeft_eq]

/-- The fields of a completion record without a result, in their places. -/
theorem recordFields {digest time seq q op st : Nat} (hdigest : digest < 2 ^ 64) (htime : time < 2 ^ 64) (hseq : seq < 2 ^ 32)
    (hq : q < 2 ^ 12) (hop : op < 2 ^ 8) (hst : st < 2 ^ 8) :
    (place digest 192 64 ||| place time 128 64 ||| place 0 96 32 ||| place seq 64 32 ||| place q 52 12 ||| place op 44 8 |||
      place 0 9 1 ||| place 1 8 1 ||| place st 0 8 : BitVec 256) =
    BitVec.ofNat 256 (digest * 2 ^ 192 + time * 2 ^ 128 + seq * 2 ^ 64 + q * 2 ^ 52 + op * 2 ^ 44 + 2 ^ 8 + st) := by
  have hlow : (place st 0 8 : BitVec 256) = BitVec.ofNat 256 st := by
    rw [place, Nat.mod_eq_of_lt hst, Nat.shiftLeft_zero]
  simp only [BitVec.or_assoc, hlow]
  rw [place_or_ofNat (by omega) (by omega), place_or_ofNat (by omega) (by omega), place_or_ofNat hop (by omega),
    place_or_ofNat hq (by omega), place_or_ofNat hseq (by omega), place_or_ofNat (by omega) (by omega),
    place_or_ofNat htime (by omega), place_or_ofNat hdigest (by omega)]
  refine congrArg (BitVec.ofNat 256) ?_
  ring

/-- The record of a command without an output, as a number. -/
theorem completionRecord_plain (st : Byte) (digest time : W64) (seq : W32) {q op : Nat} (hq : q < 4096) (hop : op < 256) :
    completionRecord { Done.plain st with digest := digest } time seq q op = BitVec.ofNat 256
      (digest.toNat * 2 ^ 192 + time.toNat * 2 ^ 128 + seq.toNat * 2 ^ 64 + q * 2 ^ 52 + op * 2 ^ 44 + 2 ^ 8 + st.toNat) :=
  recordFields digest.isLt time.isLt seq.isLt hq hop st.isLt

/-- The record of a descriptor that is not accepted. -/
def refusal (q : Nat) (d : BitVec 512) (time : W64) (st : Byte) : BitVec 256 :=
  BitVec.ofNat 256 ((if opcodeOf d = 0x0C then (operand0 d).toNat else 0) * 2 ^ 192 + time.toNat * 2 ^ 128 +
    (seqOf d).toNat * 2 ^ 64 + q * 2 ^ 52 + opcodeOf d * 2 ^ 44 + 2 ^ 8 + st.toNat)

theorem opcodeOf_lt (d : BitVec 512) : opcodeOf d < 256 := Nat.mod_lt _ (by omega)

theorem refuseDesc_headPassed {q : Nat} (hq : q < 4096) (d : BitVec 512) (st : Byte) (s : State) :
    refuseDesc q d st (headPassed q s) = putRecord q (refusal q d s.tb.time st) (headPassed q s) := by
  have htime : now (headPassed q s) = s.tb.time := by
    rw [headPassed_sameButIntake q s]
    rfl
  have hmark : (markDigest d 0).toNat = if opcodeOf d = 0x0C then (operand0 d).toNat else 0 := by
    unfold markDigest
    split <;> rfl
  rw [refuseDesc, htime, completionRecord_plain st _ _ _ hq (opcodeOf_lt d), hmark, refusal]

/-! ### The head of a queue (R177, R178) -/

section
variable {q : Nat} {d : BitVec 512} {s : State}

theorem headPassed_journal (q : Nat) (s : State) : (headPassed q s).journal = s.journal := by
  unfold headPassed hostWrite
  dsimp only
  split
  · rfl
  · split <;> rfl

theorem mayRead_state (h : mayRead s q = true) : (queueAt s q).state = .active ∨ (queueAt s q).state = .fenced := by
  simp only [mayRead, Bool.and_eq_true, Bool.or_eq_true, beq_iff_eq] at h
  obtain ⟨⟨⟨⟨⟨⟨hstate, -⟩, -⟩, -⟩, -⟩, -⟩, -⟩ := h
  exact hstate

/-- A queue that exists is read back as it is written. -/
theorem queueAt_setQueue_exists (s : State) (q : Nat) {x : Queue} (hx : x.state ≠ .free) : queueAt (setQueue s q x) q = x :=
  Tab.get_set_of_ne (fun e => hx (congrArg Queue.state e)) _ _

theorem mayRead_ne_free (h : mayRead s q = true) : (queueAt s q).state ≠ .free := by
  rcases mayRead_state h with h | h <;> rw [h] <;> nofun

/-- What a queue that was read holds once its head has passed. -/
theorem queueAt_headPassed_read (h : mayRead s q = true) : queueAt (headPassed q s) q = advanced (queueAt s q) := by
  rw [queueAt, headPassed_queues]
  exact Tab.get_set_of_ne (fun e => mayRead_ne_free h (congrArg Queue.state e)) _ _

theorem queueAt_taken_read (h : mayRead s q = true) :
    queueAt (taken q d s) q = { advanced (queueAt s q) with nextSeq := (queueAt s q).nextSeq + 1 } := by
  have hat := queueAt_headPassed_read h
  show queueAt (modQueue (headPassed q s) q fun x => { x with nextSeq := x.nextSeq + 1 }) q = _
  rw [modQueue, hat]
  exact queueAt_setQueue_exists _ _ (mayRead_ne_free h)

theorem acceptOne_unread (h : mayRead s q = false) : acceptOne q d s = s := by
  rw [acceptOne, h]
  rfl

/-- The checks of a descriptor that is read, in their order (R177). -/
theorem acceptOne_read (h : mayRead s q = true) : acceptOne q d s =
    if flockClosed s (queueAt s q).tag ∧ q ≠ 0 then refuseDesc q d stFenced (headPassed q s)
    else if queueClosed s q then modQueue (refuseDesc q d stFenced (headPassed q s)) q fun y => { y with state := .fenced }
    else if !bindingOk (queueAt s q) q d then countSpoof (queueAt s q).hqi (refuseDesc q d stSpoof (headPassed q s))
    else if privileged (opcodeOf d) ∧ q ≠ 0 then countSpoof (queueAt s q).hqi (refuseDesc q d stSpoof (headPassed q s))
    else if !opcodeAccepted s q (opcodeOf d) then refuseDesc q d stRange (headPassed q s)
    else if ((queueAt s q).nextSeq - seqOf d).toNat ≠ 0 then
      (if ((queueAt s q).nextSeq - seqOf d).toNat ≤ 65536 then refuseDesc q d stDuplicate (headPassed q s)
      else modQueue (refuseDesc q d stRange (headPassed q s)) q fun y => { y with state := .seqGap, batch := 0 })
    else if opcodeOf d = 5 then acceptWait q d (headPassed q s) else taken q d s := by
  rw [acceptOne, h]
  rfl

end

/-! ### Batches of the ring (R176, R512, R513) -/

section
variable {s : State} {q : Nat}

theorem batchOut_iff : batchOut s q = true ↔ ∃ r ∈ s.hostPort.out, r.use = .batch q := by
  simp [batchOut]

theorem ringDue_iff : ringDue s q = true ↔ mayRead s q = true ∧ ∀ r ∈ s.hostPort.out, r.use ≠ .batch q := by
  rw [ringDue, Bool.and_eq_true, Bool.not_eq_true', ← Bool.not_eq_true, batchOut_iff]
  simp only [not_exists, not_and, ne_eq]

/-- A queue whose ring is due is listed. -/
theorem notTurn_iff : notTurn s q = true ↔
    q ∈ s.hostPort.served ∧ ∃ k, (mayRead s k = true ∧ ∀ r ∈ s.hostPort.out, r.use ≠ .batch k) ∧ k ∉ s.hostPort.served := by
  simp only [notTurn, Bool.and_eq_true, List.contains_iff_mem, List.any_eq_true, Bool.not_eq_true', ← Bool.not_eq_true, ringDue_iff]
  refine and_congr_right fun _ => ⟨fun ⟨p, _, hp⟩ => ⟨p.1, hp⟩, fun ⟨k, hk⟩ => ⟨(k, queueAt s k), ?_, hk⟩⟩
  exact Tab.mem_of_get_ne fun e => mayRead_ne_free hk.1.1 (congrArg Queue.state e)

theorem batchSize_le (s : State) (q : Nat) : batchSize s q ≤ s.hostPort.maxRead.toNat / 64 ∧
    batchSize s q ≤ ringEntries (queueAt s q) - (queueAt s q).sqHead.toNat % ringEntries (queueAt s q) ∧
    batchSize s q ≤ ((queueAt s q).sqTail - (queueAt s q).sqHead).toNat ∧ batchSize s q ≤ answerable s q :=
  ⟨(min_le_left _ _).trans (min_le_left _ _), (min_le_left _ _).trans (min_le_right _ _),
    (min_le_right _ _).trans (min_le_left _ _), (min_le_right _ _).trans (min_le_right _ _)⟩

theorem takeTurn_eq (q : Nat) (s : State) : takeTurn q s = { s with hostPort := { s.hostPort with
    served := if q ∈ s.hostPort.served then [q] else s.hostPort.served ++ [q] } } := by
  rw [takeTurn]
  simp only [List.contains_iff_mem]

theorem batchArrive_none (h : ¬ ∃ r ∈ s.hostPort.out, r.use = .batch q) : batchArrive q s = s :=
  if_neg fun hb => h (batchOut_iff.mp hb)

theorem batchFail_none (h : ¬ ∃ r ∈ s.hostPort.out, r.use = .batch q) : batchFail q s = s :=
  if_neg fun hb => h (batchOut_iff.mp hb)

/-- A batch of one descriptor takes the one at SQ_HEAD. -/
theorem batchArrive_one (h : ∃ r ∈ s.hostPort.out, r.use = .batch q) (hone : (queueAt s q).batch = 1) :
    batchArrive q s = modQueue (acceptOne q (ringDesc s q) (dropBatch q s)) q fun x => { x with batch := 0 } := by
  have hin : batchIn q (dropBatch q s) = acceptOne q (ringDesc s q) (dropBatch q s) := by
    unfold batchIn
    rw [show (queueAt (dropBatch q s) q).batch = 1 from hone]
    rfl
  rw [batchArrive, if_pos (batchOut_iff.mpr h), hin]

/-- The record of a read of the ring that failed. -/
theorem completionRecord_readFailed (time : W64) (hq : q < 4096) : completionRecord (.plain stDataError) time 0 q 0 =
    BitVec.ofNat 256 (time.toNat * 2 ^ 128 + q * 2 ^ 52 + 2 ^ 8 + 8) := by
  refine (completionRecord_plain stDataError 0 time 0 hq (by omega)).trans (congrArg (BitVec.ofNat 256) ?_)
  rw [show (0 : W64).toNat = 0 from rfl, show (0 : W32).toNat = 0 from rfl, show stDataError.toNat = 8 from rfl]
  ring

theorem batchFail_read (h : ∃ r ∈ s.hostPort.out, r.use = .batch q) : batchFail q s = readFailed q (dropBatch q s) :=
  if_pos (batchOut_iff.mpr h)

end

end Sys2Proof.Machine
open Sys2Proof Sys2Proof.Machine

/-- Settles O42: the checks of a descriptor's acceptance in their order, and the batches of the ring. -/
theorem descriptorsOfQueues : Obligations.DescriptorsOfQueues := by
  unfold Obligations.DescriptorsOfQueues
  refine ⟨fun i q d s hwf hd => ?row, fun q s hq => ?ring⟩
  case row =>
    intro x marker answered inState spoofed excluded bound mine dist
    obtain ⟨hq, hexec⟩ := exec_descriptor (s := s) hwf hd
    have hanswer (st : Byte) : refuseDesc q d st (headPassed q s) = answered st := refuseDesc_headPassed hq d st s
    have next {t : State} (h : acceptOne q d s = t) : exec i s = .next (pump t) := h ▸ hexec
    refine ⟨fun h => next (acceptOne_unread h), fun hread => ?_⟩
    have haccept := acceptOne_read (d := d) hread
    rw [hanswer, hanswer, hanswer, hanswer, show stFenced = 0x02 from rfl, show stSpoof = 0x05 from rfl,
      show stRange = 0x07 from rfl, show stDuplicate = 0x04 from rfl] at haccept
    refine ⟨fun hex => next (haccept.trans (if_pos hex.symm)), fun hex hclosed => ?closed, fun hex hclosed => ?opened⟩
    case closed => exact next (haccept.trans ((if_neg fun h => hex h.symm).trans (if_pos hclosed)))
    case opened =>
    rw [if_neg fun h => hex h.symm, hclosed, if_neg nofun] at haccept
    have hpriv : (privileged (opcodeOf d) = true ∧ q ≠ 0) ↔ ¬ mine := by
      simp only [privileged, Bool.and_eq_true, decide_eq_true_eq, and_assoc, mine, not_not]
    have hpassed (hbound : bound) (hmine : mine) := haccept.trans ((if_neg (show ¬ (!bindingOk (queueAt s q) q d) = true by
      rw [show bindingOk (queueAt s q) q d = true from hbound]; nofun)).trans (if_neg fun h => hpriv.mp h hmine))
    refine ⟨fun hnot => next (haccept.trans ?spoofed), fun hbound hmine hop => ?unadmitted, fun hbound hmine hop => ?sequence⟩
    case spoofed =>
      split
      next => rfl
      next hb =>
        refine if_pos (hpriv.mpr fun hmine => hnot ⟨?_, hmine⟩)
        simpa using hb
    case unadmitted =>
      refine next ((hpassed hbound hmine).trans (if_pos ?_))
      rw [hop]
      rfl
    case sequence =>
    have hadmitted := hpassed hbound hmine
    rw [hop, if_neg (by nofun)] at hadmitted
    refine ⟨fun hlo hhi => next (hadmitted.trans ((if_pos (Nat.ne_of_gt hlo)).trans (if_pos hhi))),
      fun hfar => next (hadmitted.trans ((if_pos (show dist ≠ 0 by omega)).trans (if_neg (Nat.not_le.mpr hfar)))), fun hdist h5 => ?_⟩
    have htaken := hadmitted.trans ((if_neg (not_not.mpr hdist)).trans (if_neg h5))
    refine ⟨next htaken, ?_, ?_, rfl, ?_, ?_, ?_, ?_, ?_⟩
    · rw [taken_cmds, headPassed_cmds]
    · show now (headPassed q s) = _
      rw [headPassed_sameButIntake q s]
      rfl
    · show (queueAt (headPassed q s) q).tag = _
      rw [queueAt_headPassed_read hread]
      rfl
    · show (headPassed q s).journal.enabled = _
      rw [headPassed_journal]
    · rw [queueAt_taken_read hread]
    · rw [queueAt_taken_read hread]
      rfl
    · show (if (headPassed q s).journal.enabled = true then (headPassed q s).journal else _).unjournalled = _
      rw [headPassed_journal]
      split
      · exact (BitVec.add_zero _).symm
      · exact congrArg (·.unjournalled + 1) (headPassed_journal q s)
  case ring =>
    intro x entry reading due early s1
    have hexec : exec (.descriptorFetch q) s = .next (fetchRing q s) := need_of_true (by simp [hq])
    have harrive : exec (.descriptorBatchArrival q) s = .next (pump (batchArrive q s)) := need_of_true (by simp [hq])
    have hfail : exec (.descriptorReadFailure q) s = .next (pump (batchFail q s)) := need_of_true (by simp [hq])
    refine ⟨fun hnot => hexec.trans (congrArg _ ?idle), fun hdue hturn => ?fetch, fun hnone => ⟨?noArrival, ?noFailure⟩,
      fun hread hone => ?arrival, fun hread => ?failure⟩
    case idle =>
      refine if_pos ?_
      rw [Bool.or_eq_true, Bool.not_eq_true', ← Bool.not_eq_true, ringDue_iff, notTurn_iff]
      exact hnot
    case fetch =>
      have hgo : fetchRing q s = takeTurn q (hostRequest (.batch q) x.tag (modQueue s q fun x => { x with batch := batchSize s q })) := by
        refine if_neg ?_
        rw [Bool.or_eq_true, Bool.not_eq_true', ← Bool.not_eq_true, ringDue_iff, notTurn_iff]
        exact not_or.mpr ⟨not_not.mpr hdue, hturn⟩
      have hbatch : (queueAt (fetchRing q s) q).batch = batchSize s q := by
        rw [hgo]
        show (queueAt (setQueue s q { x with batch := batchSize s q }) q).batch = _
        rw [queueAt_setQueue_exists s q (by exact mayRead_ne_free hdue.1)]
      have hone : x.sqHead.toNat % 2 ^ (x.size + 4) < 2 ^ (x.size + 4) := Nat.mod_lt _ (Nat.two_pow_pos _)
      obtain ⟨hread, hring, hposted, hroom⟩ := batchSize_le s q
      refine ⟨_, _, hexec, by rw [hgo, takeTurn_eq]; rfl, rfl, rfl, ?_⟩
      rw [hbatch]
      refine ⟨?_, ?_, hposted, hroom⟩
      · omega
      · change batchSize s q ≤ 2 ^ (x.size + 4) - x.sqHead.toNat % 2 ^ (x.size + 4) at hring
        omega
    case noArrival => rw [harrive, batchArrive_none hnone]
    case noFailure => rw [hfail, batchFail_none hnone]
    case arrival =>
      intro d hacc h5
      rw [harrive, batchArrive_one hread hone]
      show _ = Host.Outcome.next (pump (modQueue (taken q d s1) q fun x => { x with batch := 0 }))
      rw [← acceptOne_taken hacc h5]
      rfl
    case failure =>
      rw [hfail, batchFail_read hread, readFailed, completionRecord_readFailed _ hq]
      rfl
end

section
/-! SUPPORT. The stack port's answers, credits and packets, the completions of the host port and its link (R470-R473, R482, R483). -/

namespace Sys2Proof.Machine

/-! ### Answers of the base die -/

theorem rekeyUnit_reqs (u : Nat) (s : State) : (rekeyUnit u s).xlate.reqs = s.xlate.reqs := by
  unfold rekeyUnit
  dsimp only
  split <;> rfl

/-- Storing bytes in tarn or far memory ends no request. -/
theorem memStore_reqs {mem : Nat} (hmem : mem = 1 ∨ mem = 2) (off : Nat) (bs : List Byte) (s : State) :
    (memStore mem off bs s).xlate.reqs = s.xlate.reqs := by
  unfold memStore
  split
  · rfl
  · rcases hmem with rfl | rfl
    · rfl
    · exact forEach_keeps (fun s => s.xlate.reqs) rekeyUnit_reqs s

theorem scrambleWrite_reqs (id : Nat) (s : State) : (scrambleWrite id s).xlate.reqs = s.xlate.reqs := by
  unfold scrambleWrite
  split
  · rfl
  · exact memStore_reqs (by split <;> simp) _ _ _

/-- The transaction leaves the port. -/
def answered (r : StackReq) (s : State) : State :=
  { s with stack := { s.stack with out := s.stack.out.filter fun x => x != r } }

/-- An answer reports to the request that its transaction carried. -/
theorem stackAnswer_some {s : State} {ch tag : Nat} {write : Bool} {status : BitVec 3} {r : StackReq}
    (hr : stackReqAt s ch tag write = some r) (hstatus : ¬ 2 < status.toNat) :
    stackAnswer ch tag write status s = .next (memResponse r.req (status != 0)
      (if (write && status != 0) = true then scrambleWrite r.req (answered r s) else answered r s)) := by
  rw [stackAnswer, hr]
  exact if_neg hstatus

theorem stackAnswer_reserved {s : State} {ch tag : Nat} {write : Bool} {status : BitVec 3} {r : StackReq}
    (hr : stackReqAt s ch tag write = some r) (hstatus : 2 < status.toNat) :
    ∃ m, stackAnswer ch tag write status s = .fault (.breach m) := by
  rw [stackAnswer, hr]
  exact ⟨_, if_pos hstatus⟩

theorem memResponse_none {s : State} {id : Nat} (err : Bool) (h : ∀ q ∈ s.xlate.reqs, q.id ≠ id) : memResponse id err s = s := by
  have hnone : s.xlate.reqs.find? (fun q => q.id == id) = none := by simpa using h
  rw [memResponse, hnone]

/-- An answer of the base die, read or write, acts through `stackAnswer` and lets go on what it can. -/
theorem exec_stackAnswer (write : Bool) (ch tag : Nat) (status : BitVec 3) (s : State) :
    exec (if write then .stackWriteAck ch tag status else .stackReadData ch tag status) s =
      andPump (stackAnswer ch tag write status s) := by
  cases write <;> rfl

/-! ### Credits -/

theorem stackNext_idle {s : State} {ch : Nat} (h : ∀ r ∈ s.stack.waiting, r.ch ≠ ch) : stackNext ch s = s := by
  have hnone : s.stack.waiting.find? (fun r => r.ch == ch) = none := by simpa using h
  rw [stackNext, hnone]

theorem foldl_stackNext_idle {s : State} {ch : Nat} (h : ∀ r ∈ s.stack.waiting, r.ch ≠ ch) (l : List Nat) :
    l.foldl (fun s _ => stackNext ch s) s = s := by
  induction l with
  | nil => rfl
  | cons x l ih => rw [List.foldl_cons, stackNext_idle h, ih]

/-- The only transaction that waits is sent if its channel has a credit. -/
theorem stackNext_only {s : State} {r : StackReq} (h : s.stack.waiting = [r]) :
    stackNext r.ch s = if stackMay s r.ch = true then stackSend r { s with stack := { s.stack with waiting := [] } } else s := by
  have hfind : s.stack.waiting.find? (fun x => x.ch == r.ch) = some r := by simp [h]
  have hempty : s.stack.waiting.filter (fun x => x != r) = [] := by simp [h]
  rw [stackNext, hfind]
  dsimp only
  rw [hempty]

/-- The credits that a channel has after some came back. -/
def credited (ch count : Nat) (s : State) : State :=
  { s with stack := { s.stack with credits := Tab.set 0 s.stack.credits ch (Tab.get 0 s.stack.credits ch + count) } }

theorem stackCredit_idle {s : State} {ch : Nat} (count : Nat) (h : ∀ r ∈ s.stack.waiting, r.ch ≠ ch) :
    stackCredit ch count s = packetsCross (credited ch count s) :=
  congrArg packetsCross (foldl_stackNext_idle (s := credited ch count s) h _)

theorem stackCredit_only {s : State} {r : StackReq} (count : Nat) (h : s.stack.waiting = [r]) :
    stackCredit r.ch count s = packetsCross (stackNext r.ch (credited r.ch count s)) := by
  have hone : List.range s.stack.waiting.length = [0] := by rw [h]; rfl
  show packetsCross ((List.range s.stack.waiting.length).foldl (fun s _ => stackNext r.ch s) (credited r.ch count s)) = _
  rw [hone]
  rfl

theorem stackMay_credited {s : State} (ch count : Nat) (hwf : Tab.wf 0 s.stack.credits = true) :
    stackMay (credited ch count s) ch = true ↔ Tab.get 0 s.stack.sent ch < Tab.get 0 s.stack.credits ch + count := by
  show decide (_ < Tab.get 0 (Tab.set 0 s.stack.credits ch _) ch) = true ↔ _
  rw [Tab.get_set_self 0 ch _ hwf, decide_eq_true_eq]
  rfl

/-! ### Packets of the module -/

theorem routePacket_of_routeOnce {vc : Nat} {k : Packet} {s t : State} (h : routeOnce vc k s = some t) : routePacket vc k s = t := by
  rw [routePacket, h]

theorem routeOnce_here {vc : Nat} {k : Packet} {s : State} (h : k.destNode = myNode s) : routeOnce vc k s = some (arrive vc k s) :=
  if_pos h

theorem routeOnce_neighbour {vc : Nat} {k : Packet} {s : State} (hnode : k.destNode ≠ myNode s)
    (hmodule : moduleOf k.destNode = moduleOf (myNode s)) :
    routeOnce vc k s = some (packetToStack (BitVec.ofNat 4 (instanceOf k.destNode)) k s) :=
  (if_neg hnode).trans (if_pos hmodule)

/-- A packet to another module follows a valid route while its hop count lasts. -/
theorem routeOnce_away {vc : Nat} {k : Packet} {s : State} (hmodule : moduleOf k.destNode ≠ moduleOf (myNode s))
    (hvalid : bitAt (Tab.get 0 s.net.route (moduleOf k.destNode)) 7 = true) (httl : k.ttl ≠ 0) :
    routeOnce vc k s =
      if field (Tab.get 0 s.net.route (moduleOf k.destNode)) 0 4 = instanceOf (myNode s) then
        some (portSend (field (Tab.get 0 s.net.route (moduleOf k.destNode)) 4 1) vc (packetBytes { k with ttl := k.ttl - 1 }) s)
      else some (packetToStack (BitVec.ofNat 4 (field (Tab.get 0 s.net.route (moduleOf k.destNode)) 0 4)) k s) := by
  have hnode : k.destNode ≠ myNode s := fun h => hmodule (congrArg moduleOf h)
  refine (if_neg hnode).trans ((if_neg hmodule).trans (if_neg ?_))
  simpa using ⟨hvalid, httl⟩

/-! ### Completions of the host port -/

theorem hostComplete_none {s : State} {tag : Nat} (status : HostStatus) (h : hostReqAt s tag = none) : hostComplete tag status s = s := by
  rw [hostComplete, h]

theorem hostLate_none {s : State} {tag : Nat} (h : hostReqAt s tag = none) : hostLate tag s = s := by rw [hostLate, h]

theorem hostLate_early {s : State} {tag : Nat} {r : HostReq} (h : hostReqAt s tag = some r) (hearly : s.tb.cycle < r.since + 5000000) :
    hostLate tag s = s := by
  rw [hostLate, h]
  exact if_pos hearly

/-- A completion that is counted as an error. -/
def countedError (tag : Nat) (s : State) : State :=
  { dropHostReq tag s with hostPort := { (dropHostReq tag s).hostPort with cplErrors := s.hostPort.cplErrors + 1 } }

/-- A request that got no completion: counted, and its tag rests. -/
def rested (tag : Nat) (s : State) : State :=
  { dropHostReq tag s with hostPort := { (dropHostReq tag s).hostPort with
      cplTimeouts := s.hostPort.cplTimeouts + 1, heldTags := s.hostPort.heldTags ++ [(tag, s.tb.cycle + 10000000)] } }

theorem hostComplete_good {s : State} {tag : Nat} {r : HostReq} (h : hostReqAt s tag = some r) :
    hostComplete tag .good s = hostDone r .good (dropHostReq tag s) := by
  rw [hostComplete, h]
  rfl

theorem hostComplete_error {s : State} {tag : Nat} {r : HostReq} {status : HostStatus} (h : hostReqAt s tag = some r)
    (herror : status ≠ .good) : hostComplete tag status s = hostDone r status (countedError tag s) := by
  rw [hostComplete, h]
  dsimp only
  rw [if_neg herror]
  rfl

theorem hostLate_due {s : State} {tag : Nat} {r : HostReq} (h : hostReqAt s tag = some r) (hdue : r.since + 5000000 ≤ s.tb.cycle) :
    hostLate tag s = hostDone r .abort (rested tag s) := by
  rw [hostLate, h]
  exact if_neg (Nat.not_lt.mpr hdue)

/-- A read of a batch that fails, whatever the error. -/
theorem hostDone_batch_error {r : HostReq} {q : Nat} {status : HostStatus} (hr : r.use = .batch q) (herror : status ≠ .good) (s : State) :
    hostDone r status s = readFailed q s := by
  rw [hostDone, hr]
  exact if_neg herror

/-- A FENCE_SIGNAL on host memory that fails otherwise than for want of atomics ends with DATA_ERROR and a record. -/
theorem hostDone_fence_error {r : HostReq} {uid : Nat} {c : Cmd} {status : HostStatus} {s : State} (hr : r.use = .fence uid)
    (hc : cmdAt s uid = some c) (hgood : status ≠ .good) (hatomics : status ≠ .unsupported) :
    hostDone r status s = raiseData 0x43 (operand0 c.desc).toNat hostMaster c.tag (complete uid (.plain 8) s) := by
  rw [hostDone, hr]
  dsimp only
  rw [fenceCompleted, hc]
  cases status with
  | good => exact absurd rfl hgood
  | unsupported => exact absurd rfl hatomics
  | abort => rfl
  | poisoned => rfl

/-- A FENCE packet that fails so is answered with DATA_ERROR. -/
theorem hostDone_packet_error {r : HostReq} {k : Packet} {status : HostStatus} (s : State) (hr : r.use = .packet k)
    (hgood : status ≠ .good) (hatomics : status ≠ .unsupported) :
    hostDone r status s =
      sendReply k 9 8 [] (recordSeq k 8 0 (raiseData 0x43 k.address.toNat niMaster k.destTag s)) := by
  rw [hostDone, hr]
  cases status with
  | good => exact absurd rfl hgood
  | unsupported => exact absurd rfl hatomics
  | abort => rfl
  | poisoned => rfl

/-! ### The link of the host port -/

/-- HP_LINK, field by field. -/
theorem linkWord (up : Bool) (speed : BitVec 3) (width : BitVec 5) :
    (place (if up then 1 else 0) 0 1 ||| place speed.toNat 1 3 ||| place width.toNat 4 5 : W16) =
      BitVec.ofNat 16 ((if up then 1 else 0) + 2 * speed.toNat + 16 * width.toNat) := by
  have hspeed := speed.isLt
  have hwidth := width.isLt
  have hup : (if up then 1 else 0) < 2 := by split <;> omega
  generalize (if up then 1 else 0) = u at hup ⊢
  have hlow : (place u 0 1 : W16) = BitVec.ofNat 16 u := by
    rw [place, Nat.mod_eq_of_lt (show u < 2 ^ 1 from hup), Nat.shiftLeft_zero]
  rw [hlow, BitVec.or_comm (BitVec.ofNat 16 u), place_or_ofNat (by omega) (by omega), BitVec.or_comm,
    place_or_ofNat (by omega) (by omega)]
  congr 1
  omega

theorem linkWord_up (speed : BitVec 3) (width : BitVec 5) : bitAt (BitVec.ofNat 16 (1 + 2 * speed.toNat + 16 * width.toNat)) 0 = true := by
  rw [bitAt, BitVec.getLsbD_ofNat]
  simp
  omega

/-- A posted write as the port presents it while the link is up. -/
def presentWrite (u : State) (w : Nat × List Byte) : State :=
  presentTlp { write := true, relaxed := false, address := w.1, length := w.2.length, pasid := none }
    (clearPoison 3 w.1 w.2.length { u with host := memWrite u.host w.1 w.2 })

theorem hostWrite_linkUp {s : State} (h : linkUp s = true) (w : Nat × List Byte) : hostWrite w.1 w.2 s = presentWrite s w := if_pos h

/-- With the link up what was posted is written in its order. -/
theorem foldl_hostWrite {s : State} (h : linkUp s = true) (l : List (Nat × List Byte)) :
    l.foldl (fun s w => hostWrite w.1 w.2 s) s = l.foldl presentWrite s := by
  induction l generalizing s with
  | nil => rfl
  | cons w l ih =>
    rw [List.foldl_cons, List.foldl_cons, hostWrite_linkUp h]
    exact ih h

theorem foldl_presentWrite_boot (l : List (Nat × List Byte)) (s : State) : (l.foldl presentWrite s).boot = s.boot := by
  induction l generalizing s with
  | nil => rfl
  | cons w l ih => exact ih _

end Sys2Proof.Machine

open Sys2Proof Sys2Proof.Machine

/-- Settles O55: a transaction's answer through the request behind it, a credit through the one transaction that waits, a packet
through its routing decision, a completion and its timeout through the request of the tag, and the link through the posted writes. -/
theorem hostAndStackPorts : Obligations.HostAndStackPorts := by
  unfold Obligations.HostAndStackPorts
  refine ⟨fun s ch tag status write => ?answer, fun s ch count hch hcount => ?credit, fun s src vc k hvc => ?packet,
    fun s tag status r => ?completion, fun s up speed width hboot => ?link⟩
  case answer =>
    intro i
    have hexec : exec i s = andPump (stackAnswer ch tag write status s) := exec_stackAnswer write ch tag status s
    refine ⟨fun hnone => ⟨_, hexec.trans (by rw [stackAnswer, hnone]; rfl)⟩, fun r hr => ?_⟩
    intro s1
    have hnext : ¬ 2 < status.toNat → exec i s = .next (pump (memResponse r.req (status != 0)
        (if (write && status != 0) = true then scrambleWrite r.req s1 else s1))) := fun h => by
      rw [hexec, stackAnswer_some hr h]
      rfl
    have hgood : status = 0 → exec i s = .next (pump (memResponse r.req false s1)) := by
      rintro rfl
      rw [hnext (by decide)]
      simp
    refine ⟨fun hreserved => ?_, fun h0 hnone => ?_, fun q hq => ⟨fun h0 => ?_, fun herror => ?_⟩⟩
    · obtain ⟨m, hm⟩ := stackAnswer_reserved hr hreserved
      exact ⟨m, by rw [hexec, hm]; rfl⟩
    · rw [hgood h0, memResponse_none (s := s1) false hnone]
    · exact (hgood h0).trans (congrArg (fun t => Host.Outcome.next (pump t)) (memResponse_good (s := s1) hq (.inl rfl)))
    · intro s2 s3 ends
      have hne : (status != 0) = true := by rcases herror with rfl | rfl <;> rfl
      have hreq : (if write then scrambleWrite r.req s1 else s1).xlate.reqs.find? (fun q => q.id == r.req) = some q := by
        split
        · rw [scrambleWrite_reqs]; exact hq
        · exact hq
      have hends : ends (reqFailed q s2) := by
        show exec i s = _
        rw [hnext (by rcases herror with rfl | rfl <;> decide), hne, Bool.and_true, memResponse_failed hreq]
      refine ⟨fun habandoned => ?_, fun hlive hgrp huid => ?_, fun hlive hgrp huid => ?_, fun g hlive hgrp => ?_⟩
      · rwa [reqFailed, if_pos habandoned] at hends
      all_goals rw [reqFailed, if_neg (by rw [hlive]; nofun), hgrp] at hends
      · simpa only [if_pos huid] using hends
      · simpa only [if_neg huid] using hends
      · exact hends
  case credit =>
    have hexec : exec (.stackCreditReturn ch count) s = .next (pump (stackCredit ch count s)) := need_of_true (by simp [hch, hcount])
    refine ⟨fun hidle => hexec.trans (by rw [stackCredit_idle count hidle]; rfl), fun r hr hrch hwf => ?_⟩
    subst hrch
    rw [hexec, stackCredit_only count hr, stackNext_only (s := credited r.ch count s) hr]
    refine ⟨fun hroom => ?_, fun hroom => ?_⟩
    · rw [if_neg (mt (stackMay_credited r.ch count hwf).mp hroom)]
      rfl
    · rw [if_pos ((stackMay_credited r.ch count hwf).mpr hroom)]
      rfl
  case packet =>
    have hexec : ∀ {t}, routeOnce vc k s = some t → exec (.stackPacket ⟨src, vc⟩ k) s = .next t := fun h =>
      (need_of_true (by simpa using hvc)).trans (congrArg _ (routePacket_of_routeOnce h))
    refine ⟨fun hhere hfragment => ?_, fun hhere hwhole => ?_, fun hnode hmodule => hexec (routeOnce_neighbour hnode hmodule),
      fun hmodule => ?_⟩
    · exact hexec ((routeOnce_here hhere).trans (congrArg some (if_pos hfragment)))
    · exact hexec ((routeOnce_here hhere).trans (congrArg some (if_neg hwhole)))
    · intro route hvalid httl
      have haway := routeOnce_away (vc := vc) hmodule hvalid httl
      exact ⟨fun hown => hexec (haway.trans (if_pos hown)), fun hother => hexec (haway.trans (if_neg hother))⟩
  case completion =>
    intro got late ended failed rested'
    have hgot : got = .next (pump (hostComplete tag status s)) := rfl
    have hlate : late = .next (pump (hostLate tag s)) := rfl
    refine ⟨fun hnone => ?_, fun hr hearly => ?_, fun hr => ?_⟩
    · rw [hgot, hlate, hostComplete_none status hnone, hostLate_none hnone]
      exact ⟨rfl, rfl⟩
    · rw [hlate, hostLate_early hr hearly]
    have hgood : status = .good → got = .next (pump (hostDone r .good ended)) := by
      rintro rfl
      rw [hgot, hostComplete_good hr]
      rfl
    have herror : status ≠ .good → got = .next (pump (hostDone r status failed)) := fun h => by
      rw [hgot, hostComplete_error hr h]
      rfl
    have hdue : r.since + 5000000 ≤ s.tb.cycle → late = .next (pump (hostDone r .abort rested')) := fun h => by
      rw [hlate, hostLate_due hr h]
      rfl
    intro due
    refine ⟨fun q hq => ⟨fun h => ?_, fun h => ?_, fun h => ?_⟩, fun uid c huse hc => ?_, fun k huse => ?_⟩
    · rw [herror h, hostDone_batch_error hq h]
    · rw [hdue h, hostDone_batch_error hq (by decide)]
    · rw [hgood h, hostDone, hq]
      rfl
    · intro a dataError
      refine ⟨fun h => ?_, fun hbad hatomics => ?_, fun h => ?_, fun h mem off s1 hreach => ?_⟩
      · subst h
        rw [herror (by decide), hostDone, huse]
        dsimp only
        rw [fenceCompleted, show cmdAt failed uid = some c from hc]
        rfl
      · rw [herror hbad, hostDone_fence_error huse (show cmdAt failed uid = some c from hc) hbad hatomics]
      · rw [hdue h, hostDone_fence_error huse (show cmdAt rested' uid = some c from hc) (by decide) (by decide)]
      · rw [hgood h, hostDone, huse]
        dsimp only
        rw [fenceCompleted, show cmdAt ended uid = some c from hc]
        dsimp only
        rw [hreach]
    · intro says' dataError
      refine ⟨fun h => ?_, fun hbad hatomics => ?_, fun h => ?_, fun h mem off w s1 hspot => ?_⟩
      · subst h
        rw [herror (by decide), hostDone, huse]
        rfl
      · rw [herror hbad, hostDone_packet_error _ huse hbad hatomics]
      · rw [hdue h, hostDone_packet_error _ huse (by decide) (by decide)]
      · rw [hgood h, hostDone, huse]
        dsimp only
        rw [packetCompleted]
        dsimp only
        rw [hspot]
        rfl
  case link =>
    intro link shown
    have hlink : linkChange up speed width s = if up then hostFlush shown else shown := by
      rw [linkChange]
      dsimp only
      rw [linkWord]
    have hexec : exec (.hpLinkUpChange up speed width) s = .next (pump (bootAdvance (linkChange up speed width s))) := rfl
    rw [hexec, hlink]
    refine ⟨fun hdown => ?_, fun hup => ?_⟩
    · rw [if_neg (by rw [hdown]; nofun), bootAdvance_settled (s := shown) hboot]
    · have hbit : linkUp shown = true := by
        show bitAt (BitVec.ofNat 16 ((if up then 1 else 0) + _ + _)) 0 = true
        rw [if_pos hup]
        exact linkWord_up speed width
      have hflush : hostFlush shown =
          s.hostPort.posted.foldl presentWrite { shown with hostPort := { shown.hostPort with posted := [] } } :=
        foldl_hostWrite (s := { shown with hostPort := { shown.hostPort with posted := [] } }) hbit _
      rw [if_pos hup, hflush, bootAdvance_settled (by rw [foldl_presentWrite_boot]; exact hboot)]
      rfl

end

section
/-! SUPPORT. A lone command of any queue that starts alone and waits or ends (R178, R185, R188, R189, R191): its rounds, its end, and
what an admitted access to a local memory leaves of them. -/

namespace Sys2Proof.Machine

/-! ### A lone command -/

/-- A phase in which a command holds no unit, waits for no place in a dispatch queue and for no review. -/
def unclaiming (p : Phase) : Bool :=
  match p with
  | .ready => false
  | .held _ _ => false
  | .rerun _ _ => false
  | .unitReset _ _ => false
  | .review _ _ _ => false
  | _ => true

/-- A still block has one command, which holds no unit; nothing is boosted, no semaphore waited for and no twin enabled. -/
def lone (s : State) (c : Cmd) : Prop :=
  still s = true ∧ s.cmds = [c] ∧ unclaiming c.phase = true ∧ c.boosted = false ∧
    (s.ctxs.all fun p => !p.2.boosted) = true ∧ (s.sems.all fun p => p.2.waiters.isEmpty) = true ∧ s.twin.state = 0

theorem quiet_of_unclaiming {p : Phase} (h : unclaiming p = true) (hr : ∀ v, p ≠ .reading v) : quiet p = true := by
  cases p
  case ready | held | rerun | unitReset | review => simp [unclaiming] at h
  case reading v => exact absurd rfl (hr v)
  all_goals rfl

theorem unitClaimed_unclaiming {s : State} {c : Cmd} (hc : s.cmds = [c]) (hp : unclaiming c.phase = true) (herd : Bool) (u : Nat) :
    unitClaimed s herd u = false := by
  cases h : c.phase
  case held | rerun | unitReset | review => simp [unclaiming, h] at hp
  all_goals simp [unitClaimed, hc, h]

section
variable {s : State} {c : Cmd} (h : lone s c)
include h

theorem lone.cmds : s.cmds = [c] := h.2.1

theorem lone.cmdAt : cmdAt s c.uid = some c := by
  simp [Machine.cmdAt, h.cmds]

/-- Nothing that a block at rest forbids stands but the one command. -/
theorem lone.dropped : resting (dropCmd s c.uid) := by
  obtain ⟨hs, hc, hp, -, hctx, -, htwin⟩ := id h
  unfold still at hs
  simp only [unitClaimed_unclaiming hc hp, Bool.or_false, Bool.and_eq_true] at hs
  obtain ⟨⟨⟨⟨hports, hfolds⟩, hqueues⟩, hengines⟩, hhalves⟩ := hs
  refine ⟨by simp [dropCmd, hc], htwin, ?_, hfolds, hqueues, hengines, hhalves, hctx⟩
  simp only [Bool.and_eq_true]
  exact hports

/-- The gauges count tasks and launches alone. -/
theorem lone.taskGauge (hop : 2 < opcodeOf c.desc) : taskGauge c s = s := by
  obtain ⟨-, -, hp, -⟩ := h
  have hheld : underReview c = false := by
    cases hph : c.phase
    case held => simp [unclaiming, hph] at hp
    all_goals simp [underReview, hph]
  simp [Machine.taskGauge, counted, hheld, show opcodeOf c.desc ≠ 1 by omega, show opcodeOf c.desc ≠ 2 by omega]

/-- The end of a lone command leaves the block at rest. -/
theorem lone.complete_resting (hop : 2 < opcodeOf c.desc) (hin : c.carriedIn = none) (r : Done) : resting (complete c.uid r s) := by
  have hnoted : resting (twinNote c (digestFlags c.desc r) (forgetWaiter c.uid (dropCmd (Machine.taskGauge c s) c.uid))) := by
    rw [h.taskGauge hop]
    exact twinNote_keepsRest _ _ _ (forgetWaiter_keepsRest _ _ h.dropped)
  unfold complete
  rw [h.cmdAt]
  dsimp only
  rw [hin]
  exact keepsRest.ite (.refl _) (.ite (putOut_keepsRest _ _ _ _) (putRecord_keepsRest _ _ _)) hnoted

/-- A change of the lone command's phase. -/
theorem lone.setPhase {p : Phase} (hp' : unclaiming p = true) : lone (setPhase s c.uid p) { c with phase := p } := by
  obtain ⟨hs, hc, hp, hrest⟩ := h
  have hc' : (Machine.setPhase s c.uid p).cmds = [{ c with phase := p }] := by simp [Machine.setPhase, modCmd, hc]
  refine ⟨?_, hc', hp', hrest⟩
  unfold still at hs ⊢
  simp only [unitClaimed_unclaiming hc hp] at hs
  simp only [unitClaimed_unclaiming hc' hp']
  exact hs

/-- A lone command's end does not tell the phase it ended in. -/
theorem lone.complete_setPhase (hop : 2 < opcodeOf c.desc) {p : Phase} (hp' : unclaiming p = true) (r : Done) :
    complete c.uid r (Machine.setPhase s c.uid p) = complete c.uid r s := by
  have h' := h.setPhase hp'
  have hat : Machine.cmdAt (Machine.setPhase s c.uid p) c.uid = some { c with phase := p } := h'.cmdAt
  have hdrop : dropCmd (Machine.setPhase s c.uid p) c.uid = dropCmd s c.uid := by
    simp [dropCmd, Machine.setPhase, modCmd, h.cmds]
  unfold complete
  rw [hat, h.cmdAt]
  dsimp only
  rw [h'.taskGauge hop, h.taskGauge hop, hdrop]
  rfl

/-- No boost begins or ends where no command waits on a semaphore (R212). -/
theorem lone.refreshBoosts : refreshBoosts s = s := by
  obtain ⟨-, hc, -, hb, hctx, hw, -⟩ := h
  exact refreshBoosts_acceptedTile hc hb hctx hw

theorem lone.orderQueues : orderQueues s = s := by
  obtain ⟨hs, -⟩ := id h
  have hq : (s.engines.filter fun p => !p.2.queue.isEmpty) = [] := by
    rw [List.filter_eq_nil_iff]
    intro p hp
    have h1 := List.all_eq_true.mp (still_engines hs) p hp
    simp only [Bool.and_eq_true] at h1
    simp [h1.1]
  rw [Machine.orderQueues, h.refreshBoosts, hq]
  rfl

/-- No mover serves a command that is no task and no MOVE. -/
theorem lone.moverRun (hop : 3 < opcodeOf c.desc) (n : Nat) : moverRun n s = s := by
  have hnone : moverFor s c = none := by
    unfold moverFor
    dsimp only
    split
    · omega
    · omega
    · rfl
  cases n with
  | zero => rfl
  | succ n => simp [Machine.moverRun, h.cmds, hnone]

/-- A round of a lone command whose work leaves it waiting. -/
theorem lone.workRound (hop : 3 < opcodeOf c.desc) (hr : ∀ v, c.phase ≠ .reading v) {s' : State} {c' : Cmd} (h' : lone s' c')
    (hop' : 3 < opcodeOf c'.desc) (hr' : ∀ v, c'.phase ≠ .reading v) (e : workOn c.uid s = s') : workRound s = s' := by
  obtain ⟨hs, hc, hp, -⟩ := id h
  obtain ⟨hs', hc', hp', -⟩ := id h'
  have hquiet := quiet_of_unclaiming hp hr
  have hquiet' := quiet_of_unclaiming hp' hr'
  have hmovers : reMovers s = s := by simp [reMovers, cmdsWhere, hc, show opcodeOf c.desc ≠ 3 by omega, forEach]
  have hwork : forEach (s.cmds.map fun c => c.uid) workOn s = s' := by
    rw [hc]
    exact e
  simp only [Machine.workRound, pruneHeld_still hs, hmovers, accessesRun_still hs, wakeQueues_still hs, readsDue_quiet hc hquiet,
    proposeAgain_still hs, heldOrder_still hs, forEach_nil, hwork, still_serving hs', List.map_nil, handRun_still hs',
    rvResolveDue_still hs', twinCompare_still hs', reviewAll_quiet hc' hquiet', foldResetsEnd_still hs', settleUnits_still hs',
    h'.orderQueues, placeReady_quiet hc' hquiet', h'.moverRun hop', flushMsgs_still hs', restorePower_still hs']

/-- What goes on is the lone command's work, when that leaves it waiting. -/
theorem lone.pump_waits (hop : 3 < opcodeOf c.desc) (hr : ∀ v, c.phase ≠ .reading v) {s' : State} {c' : Cmd} (h' : lone s' c')
    (hop' : 3 < opcodeOf c'.desc) (hr' : ∀ v, c'.phase ≠ .reading v) (e : workOn c.uid s = s') (e' : workOn c'.uid s' = s') :
    pump s = s' := by
  rw [pump, pumpRun.eq_def]
  simp only [h.workRound hop hr h' hop' hr' e]
  split
  · rfl
  · rw [pumpRun.eq_def]
    simp [h'.workRound hop' hr' h' hop' hr' e']

/-- A lone command that waits for what is outside goes on by nothing. -/
theorem lone.pump_rests (hop : 3 < opcodeOf c.desc) (hr : ∀ v, c.phase ≠ .reading v) (e : workOn c.uid s = s) : pump s = s :=
  h.pump_waits hop hr h hop hr e e

/-- What goes on is the lone command's work, when that ends it. -/
theorem lone.pump_ends (hop : 3 < opcodeOf c.desc) (hr : ∀ v, c.phase ≠ .reading v) (hrest : resting (workOn c.uid s)) :
    pump s = workOn c.uid s := by
  obtain ⟨hs, hc, -⟩ := h
  exact pump_lone hs hc (by omega) hr hrest.atRest

/-- A lone command past its start waits for what is outside when it has no step of its own in its phase. -/
theorem lone.workOn_waits (hp : c.phase ≠ .accepted) (hgo : goOn c s = s) : workOn c.uid s = s := by
  rw [workOn, h.cmdAt]
  exact (if_neg (by simp [mayStart, hp])).trans hgo

end

/-! ### A command accepted in a block at rest -/

section
variable {q : Nat} {d : BitVec 512} {s : State} (h : alone q d s)
include h

theorem lone_taken : lone (taken q d s) (accepted q d s) := by
  obtain ⟨-, -, -, hrest, htwin, hsems, -⟩ := h
  have hcmds := atRest_cmds hrest
  have ht := taken_sameButIntake (q := q) (d := d) (s := s)
  refine ⟨still_taken (atRest_still hrest) hcmds, by rw [taken_cmds, hcmds]; rfl, rfl, rfl, ?_, ?_, ?_⟩
  · rw [ht]
    unfold atRest at hrest
    simp only [Bool.and_eq_true] at hrest
    exact hrest.2
  · rw [ht]
    exact hsems
  · rw [ht]
    exact htwin

/-- A command accepted in a block at rest starts at once (R185, R422, R426, R511). -/
theorem mayStart_alone : mayStart (taken q d s) (accepted q d s) = true := by
  obtain ⟨-, hacc, hcanon, hrest, -, -, hfold⟩ := id h
  have hwf := canon_queues hcanon
  have hcmds : (taken q d s).cmds = [accepted q d s] := (lone_taken h).cmds
  have hphase : (accepted q d s).phase = .accepted := rfl
  have hstopped : queueStopped (taken q d s) (accepted q d s) = false := by
    show ((queueAt (taken q d s) q).state == .waitSlots) = false
    rw [queueAt_taken hwf]
    simp only [accepts, Bool.and_eq_true, mayRead, Bool.or_eq_true, beq_iff_eq] at hacc
    obtain ⟨⟨⟨⟨⟨⟨⟨⟨⟨⟨⟨⟨hstate, -⟩, -⟩, -⟩, -⟩, -⟩, -⟩, -⟩, -⟩, -⟩, -⟩, -⟩, -⟩ := hacc
    rcases hstate with hstate | hstate <;> simp [advanced, hstate]
  have hfirst : earlier (taken q d s) (accepted q d s) = [] := by
    simp [earlier, cmdsOf, hcmds]
  have hheld (t : W16) : ctxHeld (taken q d s) t = false := by
    simp [ctxHeld, hcmds, hphase]
  rcases hfold with ⟨rfl, -⟩ | ⟨hq, hactive, hfreezing⟩
  · have hq' : (accepted 0 d s).q = 0 := rfl
    simp [mayStart, hphase, hstopped, hq', kernelMay, hfirst]
  · have hq' : (accepted q d s).q ≠ 0 := hq
    have hfolds (n : Nat) : foldAt (taken q d s) n = foldAt s n := by rw [taken_sameButIntake (q := q) (d := d) (s := s)]; rfl
    simp [mayStart, hphase, hstopped, hq', orderMay, hfirst, hfolds, accepted_tag hwf, hactive, hfreezing, hheld]

theorem workOn_alone : workOn (accepted q d s).uid (taken q d s) = startCmd (accepted q d s) (taken q d s) := by
  rw [workOn, (lone_taken h).cmdAt]
  exact if_pos (mayStart_alone h)

/-- The row of a descriptor, no FENCE_WAIT, that is accepted. -/
theorem queueRow_alone (mnemonic : String) {ofRow : Bool} (hrow : ofRow = true) (h5 : opcodeOf d ≠ 5) :
    queueRow q d mnemonic ofRow s = .next (pump (taken q d s)) := by
  obtain ⟨hlt, hacc, -⟩ := h
  exact (need_of_true (by simp [hlt, hrow])).trans (by rw [acceptOne_taken hacc h5])

variable {t : State} (hop : 3 < opcodeOf d) (hstart : startCmd (accepted q d s) (taken q d s) = t)
include hop hstart

/-- A command that ends where it starts. -/
theorem pump_alone_ends (ht : resting t) : pump (taken q d s) = t := by
  have hwork := (workOn_alone h).trans hstart
  rw [(lone_taken h).pump_ends hop (fun _ => nofun) (by rwa [hwork]), hwork]

/-- A command that waits where its start has left it. -/
theorem pump_alone_waits {c : Cmd} (hc : lone t c) (hop' : 3 < opcodeOf c.desc) (hphase : c.phase ≠ .accepted)
    (hr : ∀ v, c.phase ≠ .reading v) (hgo : goOn c t = t) : pump (taken q d s) = t :=
  (lone_taken h).pump_waits hop (fun _ => nofun) hc hop' hr ((workOn_alone h).trans hstart) (hc.workOn_waits hphase hgo)

end

/-! ### What an access leaves of a lone command -/

/-- A step leaves a lone command alone. -/
def keepsLone (s t : State) : Prop := ∀ c, lone s c → lone t c

theorem keepsLone.refl (s : State) : keepsLone s s := fun _ h => h

theorem keepsLone.trans {s t u : State} (h : keepsLone s t) (h' : keepsLone t u) : keepsLone s u := fun c hc => h' c (h c hc)

theorem forEach_keepsLone {α : Type} (l : List α) (g : α → State → State) (hg : ∀ x s, keepsLone s (g x s)) (s : State) :
    keepsLone s (forEach l g s) := by
  induction l generalizing s with
  | nil => exact .refl s
  | cons x l ih => exact (hg x s).trans (ih (g x s))

theorem setFold_keepsLone (s : State) (n : Nat) {f : Fold} (hf : f.state = (foldAt s n).state ∧ f.resv = (foldAt s n).resv) :
    keepsLone s (setFold s n f) := by
  rintro c ⟨hs, hrest⟩
  have hcalm := Tab.get_of_all Fold.reset (fun f => f.state != .resetting && !f.resv.leaving) s.folds n (by decide) (still_folds hs)
  have hfolds : ((setFold s n f).folds.all fun p => p.2.state != .resetting && !p.2.resv.leaving) = true := by
    refine Tab.all_set (q := fun f : Fold => f.state != .resetting && !f.resv.leaving) (still_folds hs) ?_
    rw [hf.1, hf.2]
    exact hcalm
  refine ⟨?_, hrest⟩
  unfold still at hs ⊢
  rw [hfolds]
  simp only [Bool.and_eq_true] at hs ⊢
  obtain ⟨⟨⟨⟨hports, -⟩, hqueues⟩, hengines⟩, hhalves⟩ := hs
  exact ⟨⟨⟨⟨hports, trivial⟩, hqueues⟩, hengines⟩, hhalves⟩

theorem modMeter_keepsLone (n k : Nat) (g : Meter → Meter) (s : State) : keepsLone s (modMeter n k g s) :=
  setFold_keepsLone s n ⟨rfl, rfl⟩

theorem weirCharge_keepsLone (tag : W16) (k b : Nat) (s : State) : keepsLone s (weirCharge tag k b s) := by
  unfold weirCharge
  split
  · exact .refl s
  · exact modMeter_keepsLone _ _ _ s

theorem unhold_keepsLone (k unit : Nat) (s : State) : keepsLone s (unhold k unit s) := by
  rintro c ⟨hs, hrest⟩
  refine ⟨?_, hrest⟩
  have hheld : (unhold k unit s).xlate.held.isEmpty = true := by simp [unhold, still_held hs]
  unfold still at hs ⊢
  rw [hheld]
  simp only [Bool.and_eq_true] at hs ⊢
  obtain
    ⟨⟨⟨⟨⟨⟨⟨⟨⟨⟨⟨haccesses, houtbox⟩, hserving⟩, -⟩, hres⟩, hown⟩, hdown⟩, hprop⟩, hfolds⟩, hqueues⟩, hengines⟩, hhalves⟩ := hs
  exact
    ⟨⟨⟨⟨⟨⟨⟨⟨⟨⟨⟨haccesses, houtbox⟩, hserving⟩, trivial⟩, hres⟩, hown⟩, hdown⟩, hprop⟩, hfolds⟩, hqueues⟩, hengines⟩, hhalves⟩

theorem tlbFill_keepsLone (e : TlbEntry) (s : State) : keepsLone s (tlbFill e s) := by
  unfold tlbFill
  dsimp only
  split
  · exact fun _ h => h
  · exact fun _ h => h

theorem walkFill_keepsLone (w : WalkEntry) (s : State) : keepsLone s (walkFill w s) := by
  unfold walkFill
  dsimp only
  split
  · exact fun _ h => h
  · exact fun _ h => h

/-- A walk that comes to a leaf was admitted, and holds nothing. -/
theorem lookupLeaf_keepsLone {place slot va : Nat} {s t : State} {e : TlbEntry} {l : Nat}
    (h : lookupLeaf place slot va s = (.leaf e l, t)) : keepsLone s t := by
  have hfill (e : TlbEntry) (s : State) : keepsLone s (if place < 8 then tlbFill { e with place := place } s else s) := by
    split
    · exact tlbFill_keepsLone _ s
    · exact .refl s
  unfold lookupLeaf at h
  dsimp only at h
  split at h
  · cases h
    exact .refl s
  split at h
  · cases h
    exact hfill _ s
  split at h
  · cases h
  split at h
  · cases h
  split at h
  · obtain ⟨-, rfl⟩ := Prod.mk.inj h
    exact (weirCharge_keepsLone _ _ _ s).trans ((forEach_keepsLone _ _ (fun w s => walkFill_keepsLone _ s) _).trans
      ((tlbFill_keepsLone _ _).trans (hfill _ _)))
  next hleaf =>
    obtain ⟨hw, -⟩ := Prod.mk.inj h
    exact absurd hw (hleaf _ _)

theorem translate_keepsLone {place : Nat} {tag : W16} {va p : Nat} {a : AccessKind} {s t : State}
    (h : translate place tag va a s = (.pa p, t)) : keepsLone s t := by
  unfold translate at h
  split at h
  · cases h
  split at h
  next e l s1 hleaf =>
    have hkeeps : keepsLone s (noteWalk va l s1) := (lookupLeaf_keepsLone hleaf).trans fun _ h => h
    dsimp only at h
    split at h
    · cases h
    split at h
    · cases h
    · cases h
      exact hkeeps
  all_goals cases h

/-- An address that reaches a local memory was translated without a wait. -/
theorem reach_keepsLone {place : Nat} {tag : W16} {va mem off : Nat} {a : AccessKind} {s t : State}
    (h : reach place tag va a s = (.loc mem off, t)) : keepsLone s t := by
  unfold reach at h
  split at h
  · obtain ⟨-, rfl⟩ := Prod.mk.inj h
    exact .refl s
  split at h
  next p s1 htran =>
    rw [Prod.mk.injEq] at h
    obtain ⟨-, rfl⟩ := h
    exact translate_keepsLone htran
  all_goals cases h

theorem noteLatency_keepsLone (n k : Nat) (t : W64) (s : State) : keepsLone s (noteLatency n k t s) := by
  have hgauge : keepsLone s (foldGauge n (classOf k) (measured s t) s) := fun _ h => h
  unfold noteLatency
  dsimp only
  split
  · exact hgauge
  split
  · exact hgauge.trans ((modMeter_keepsLone _ _ _ _).trans (modMeter_keepsLone _ _ _ _))
  · exact hgauge.trans (modMeter_keepsLone _ _ _ _)

theorem endAbandoned_keepsLone (tag : W16) (s : State) : keepsLone s (endAbandoned tag s) := by
  rintro c ⟨hs, hc, hp, hb, hctx, hrest⟩
  refine ⟨hs, hc, hp, hb, Tab.all_set (q := fun y : Ctx => !y.boosted) hctx ?_, hrest⟩
  exact Tab.get_of_all Ctx.reset (fun y => !y.boosted) s.ctxs (tagSlot tag) (by decide) hctx

theorem endReq_keepsLone (id : Nat) (s : State) : keepsLone s (endReq id s) := by
  unfold endReq
  split
  · exact .refl s
  next r hr =>
    dsimp only
    generalize hended : (endHolder (.request id) _ : State) = s0
    have h0 : keepsLone s s0 := by
      subst hended
      exact fun _ h => h
    have h1 : keepsLone s (if r.abandoned then endAbandoned r.tag s0 else s0) := by
      split
      · exact h0.trans (endAbandoned_keepsLone _ _)
      · exact h0
    split
    · exact h1
    · exact h1.trans (noteLatency_keepsLone _ _ _ _)

theorem stackIssue_keepsLone (mem off n : Nat) (w : Bool) (bs : List Byte) (s : State) : keepsLone s (stackIssue mem off n w bs s) := by
  unfold stackIssue
  split
  · exact .refl s
  · dsimp only
    have hpick : keepsLone s (pickChannel (stackChannels s mem off) s).2 := fun _ h => h
    split
    · exact hpick.trans fun _ h => h
    · exact hpick.trans fun _ h => h

theorem farPlace_keepsLone (n line : Nat) (s : State) : keepsLone s (farPlace n line s) := by
  unfold farPlace
  dsimp only
  have hdrop (p : FarLine → Bool) : keepsLone s (dropFarLines p s) := by
    unfold dropFarLines
    split
    · exact .refl s
    · exact fun _ h => h
  exact (hdrop _).trans fun _ h => h

theorem issueBeat_keepsLone (a : Agent) (tag : W16) (mem : Nat) (w : Bool) (b : Nat × Nat) (s : State) :
    keepsLone s (issueBeat a tag mem w b s) := by
  have hask (at' n : Nat) (f : Option Nat) : keepsLone s (issueReq tag (memClass mem) a.uid a.master at' n f a.grp a.pc
      (noteServed (memClass mem) (unitOf s (memClass mem) b.1) (tagFold tag) s)) := fun _ h => h
  unfold issueBeat
  dsimp only
  split
  · split
    · exact (hask _ _ _).trans ((farPlace_keepsLone _ _ _).trans (endReq_keepsLone _ _))
    · exact (hask _ _ _).trans ((stackIssue_keepsLone _ _ _ _ _ _).trans (farPlace_keepsLone _ _ _))
  · exact (hask _ _ _).trans (stackIssue_keepsLone _ _ _ _ _ _)

theorem charge_keepsLone (tag : W16) (mem off n : Nat) (w : Bool) (s : State) : keepsLone s (charge tag mem off n w s) := by
  unfold charge
  split
  · exact .refl s
  dsimp only
  have hcharged : keepsLone s (unhold (memClass mem) 0 (weirCharge tag (memClass mem) n s)) :=
    (weirCharge_keepsLone _ _ _ s).trans (unhold_keepsLone _ _ _)
  split
  · exact hcharged
  split
  · exact hcharged
  · exact hcharged.trans (forEach_keepsLone _ _ (fun b s => issueBeat_keepsLone _ _ _ _ b s) _)

theorem memBytes_keepsLone (mem off n : Nat) (s : State) : keepsLone s (memBytes mem off n s).2 := by
  unfold memBytes
  split <;> exact fun _ h => h

theorem getBytes_keepsLone (tag : W16) (mem off n : Nat) (s : State) : keepsLone s (getBytes tag mem off n s).2 := by
  have hbytes := memBytes_keepsLone mem off n s
  unfold getBytes
  dsimp only
  generalize memBytes mem off n s = r at hbytes
  refine hbytes.trans ((?_ : keepsLone _ _).trans (charge_keepsLone _ _ _ _ _ _))
  split
  · exact fun _ h => h
  · exact .refl _

theorem locRead_keepsLone {tag : W16} {mem off n : Nat} {bs : List Byte} {s t : State} (h : locRead tag mem off n s = (.ok bs, t)) :
    keepsLone s t := by
  unfold locRead at h
  split at h
  · cases h
  split at h
  · cases h
  split at h
  · cases h
  obtain ⟨-, rfl⟩ := Prod.mk.inj h
  exact getBytes_keepsLone tag mem off n s

theorem rekeyUnit_keepsLone (u : Nat) (s : State) : keepsLone s (rekeyUnit u s) := by
  unfold rekeyUnit
  dsimp only
  split
  · exact .refl s
  · exact fun _ h => h

theorem hostWrite_keepsLone (a : Nat) (bs : List Byte) (s : State) : keepsLone s (hostWrite a bs s) := by
  unfold hostWrite
  split <;> exact fun _ h => h

theorem memStore_keepsLone (mem off : Nat) (bs : List Byte) (s : State) : keepsLone s (memStore mem off bs s) := by
  have hmark (n : Nat) (s : State) : keepsLone s (markPond off n s) := by
    refine forEach_keepsLone _ _ (fun k s => ?_) s
    exact setFold_keepsLone s k ⟨rfl, rfl⟩
  have hclear (mem a n : Nat) (s : State) : keepsLone s (clearPoison mem a n s) := fun _ h => h
  unfold memStore
  split
  · exact .refl s
  split
  · have hpond : keepsLone s { s with pond := memWrite s.pond off bs } := fun _ h => h
    exact hpond.trans ((hmark _ _).trans (hclear _ _ _ _))
  · exact fun _ h => h
  · have hfar (m : Mem) (s : State) : keepsLone s { s with far := m } := fun _ h => h
    dsimp only
    generalize hrekeyed : forEach _ rekeyUnit s = s1
    have h1 : keepsLone s s1 := hrekeyed ▸ forEach_keepsLone _ _ rekeyUnit_keepsLone s
    exact h1.trans ((hfar _ s1).trans (hclear 2 off _ _))
  · exact hostWrite_keepsLone _ _ s

end Sys2Proof.Machine
end

section
/-! SUPPORT. FENCE_SIGNAL, FENCE_WAIT, SEM_ACQUIRE, SEM_RELEASE and MARK of a lone command (R185, R188, R189, R191). -/

namespace Sys2Proof.Machine

/-! ### On whose behalf a command acts -/

/-- A state whose requester is again the one of another state. -/
def agentOf (s t : State) : State := { t with xlate := { t.xlate with agent := s.xlate.agent } }

section
variable {q : Nat} {d : BitVec 512} {s : State}

theorem doFor_taken (uid : Nat) (master : W16) (act : State → State) :
    doFor uid master act (taken q d s) = agentOf s (act (onBehalf uid master (taken q d s))) := by
  rw [doFor, taken_xlate]
  rfl

theorem semAt_taken (i : Nat) : semAt (taken q d s) i = semAt s i := by
  rw [taken_sameButIntake (q := q) (d := d) (s := s)]
  rfl

end

theorem onBehalf_keepsLone (uid : Nat) (master : W16) (s : State) : keepsLone s (onBehalf uid master s) := fun _ h => h

theorem hostRequest_keepsLone (use : HostUse) (tag : W16) (s : State) : keepsLone s (hostRequest use tag s) := fun _ h => h

theorem agentOf_congr {s t : State} (h : t.xlate = s.xlate) (u : State) : agentOf t u = agentOf s u := by rw [agentOf, agentOf, h]

theorem agentOf_resting {s t : State} (h : resting t) : resting (agentOf s t) := h

theorem agentOf_lone {s t : State} {c : Cmd} (h : lone t c) : lone (agentOf s t) c := h

/-! ### Semaphores (R188, R189) -/

/-- A second write to a key replaces the first. -/
theorem Tab.put_put {α : Type} (m : Tab α) (a : Nat) (x y : α) : Tab.put (Tab.put m a x) a y = Tab.put m a y := by
  induction m with
  | nil => simp [Tab.put]
  | cons p m ih =>
    obtain ⟨k, v⟩ := p
    by_cases hlt : a < k
    · simp [Tab.put, hlt]
    by_cases heq : a = k
    · subst heq
      simp [Tab.put]
    · simp [Tab.put, hlt, heq, ih]

theorem setSem_setSem (s : State) (i : Nat) {x y : Sem} (hx : x ≠ Sem.reset) (hy : y ≠ Sem.reset) :
    setSem (setSem s i x) i y = setSem s i y := by
  have hsems : Tab.set Sem.reset (Tab.set Sem.reset s.sems i x) i y = Tab.set Sem.reset s.sems i y := by
    rw [Tab.set, if_neg hy, Tab.set, if_neg hx, Tab.put_put, Tab.set, if_neg hy]
  simp only [setSem, hsems]

section
variable {s : State} {c : Cmd} (h : lone s c)
include h

theorem lone.waiters (i : Nat) : (semAt s i).waiters = [] := by
  obtain ⟨-, -, -, -, -, hsems, -⟩ := h
  exact List.isEmpty_iff.mp (Tab.get_of_all Sem.reset (fun x => x.waiters.isEmpty) s.sems i rfl hsems)

/-- A semaphore is written for which no command waits. -/
theorem lone.setSem (i : Nat) {x : Sem} (hx : x.waiters = []) : lone (setSem s i x) c := by
  obtain ⟨hs, hc, hp, hb, hctx, hsems, htwin⟩ := h
  exact ⟨hs, hc, hp, hb, hctx, Tab.all_set (q := fun y : Sem => y.waiters.isEmpty) hsems (by simp [hx]), htwin⟩

end

/-- A semaphore from which a context has taken units, and to which it has returned them. -/
def semTaken (tag : W16) (u : Nat) (x : Sem) : Sem :=
  { x with count := x.count - BitVec.ofNat 32 u, holders := addHeld tag u x.holders }
def semReturned (tag : W16) (u : Nat) (x : Sem) : Sem :=
  { x with count := x.count + BitVec.ofNat 32 u, holders := subHeld tag u x.holders }

/-- A semaphore that waits on no command serves none. -/
theorem serve_none {s : State} {i : Nat} (h : (semAt s i).waiters = []) : serve i s = s := by
  rw [serve, h]
  rfl

/-- The only command takes units that are there. -/
theorem serve_only {s : State} {c : Cmd} {i : Nat} (hc : s.cmds = [c]) (hw : (semAt s i).waiters = [c.uid])
    (hfits : semFits (semAt s i) c.tag (unitsOf c.desc) = true) : serve i s = semGrant i c s := by
  have horder : semOrder s (semAt s i) = [c] := by
    cases hlc : cmdLc s c <;> simp [semOrder, hc, hw, hlc]
  simp [serve, hw, serveSem, horder, hfits]

theorem semOf_created {s : State} {c : Cmd} {i : Nat} (hi : semOf s c = some i) : (semAt s i).created = true := by
  unfold semOf at hi
  dsimp only at hi
  split at hi
  next hsem =>
    cases hi
    exact hsem.2.1
  · cases hi

section
variable {s : State} {c : Cmd} (h : lone s c) (hwf : Tab.wf Sem.reset s.sems = true) {i : Nat} (hi : semOf s c = some i)
include h hwf hi

/-- A SEM_ACQUIRE of units that are there takes them and ends. -/
theorem startAcquire_lone (hop : 2 < opcodeOf c.desc) (hin : c.carriedIn = none)
    (hfits : semFits (semAt s i) c.tag (unitsOf c.desc) = true) :
    startAcquire c s = complete c.uid (.plain stSuccess) (Machine.setSem s i (semTaken c.tag (unitsOf c.desc) (semAt s i))) := by
  have hcreated := semOf_created hi
  have hnone := h.waiters i
  have hwaits : ({ semAt s i with waiters := (semAt s i).waiters ++ [c.uid] } : Sem) ≠ Sem.reset := by
    intro he
    simpa [Sem.reset] using congrArg Sem.waiters he
  have hgranted : semTaken c.tag (unitsOf c.desc) (semAt s i) ≠ Sem.reset := by
    intro he
    have hreset : (semAt s i).created = false := congrArg Sem.created he
    rw [hcreated] at hreset
    cases hreset
  have hat : semAt (setPhase (Machine.setSem s i { semAt s i with waiters := (semAt s i).waiters ++ [c.uid] }) c.uid
      (.waitSem i (unitsOf c.desc))) i = { semAt s i with waiters := (semAt s i).waiters ++ [c.uid] } :=
    Tab.get_set_self Sem.reset i _ hwf
  have hcmds : (setPhase (Machine.setSem s i { semAt s i with waiters := (semAt s i).waiters ++ [c.uid] }) c.uid
      (.waitSem i (unitsOf c.desc))).cmds = [{ c with phase := .waitSem i (unitsOf c.desc) }] := by
    simp [setPhase, modCmd, h.cmds]
  have hlone : lone (Machine.setSem s i (semTaken c.tag (unitsOf c.desc) (semAt s i))) c := h.setSem i hnone
  have hleft : ((semAt s i).waiters ++ [c.uid]).filter (fun w => w != c.uid) = (semAt s i).waiters := by simp [hnone]
  have hgrant : semGrant i { c with phase := .waitSem i (unitsOf c.desc) }
      (setPhase (Machine.setSem s i { semAt s i with waiters := (semAt s i).waiters ++ [c.uid] }) c.uid (.waitSem i (unitsOf c.desc))) =
      complete c.uid (.plain stSuccess) (Machine.setSem s i (semTaken c.tag (unitsOf c.desc) (semAt s i))) := by
    unfold semGrant
    rw [hat]
    dsimp only
    rw [hleft]
    have hset := setSem_setSem s i hwaits hgranted
    have hswap : Machine.setSem (setPhase (Machine.setSem s i { semAt s i with waiters := (semAt s i).waiters ++ [c.uid] }) c.uid
        (.waitSem i (unitsOf c.desc))) i (semTaken c.tag (unitsOf c.desc) (semAt s i)) =
        setPhase (Machine.setSem s i (semTaken c.tag (unitsOf c.desc) (semAt s i))) c.uid (.waitSem i (unitsOf c.desc)) :=
      congrArg (fun t => setPhase t c.uid (.waitSem i (unitsOf c.desc))) hset
    exact (congrArg (complete c.uid (.plain stSuccess)) hswap).trans (hlone.complete_setPhase hop rfl _)
  have hserve := serve_only hcmds (by rw [hat, hnone]; rfl) (by rw [hat]; exact hfits)
  unfold startAcquire
  rw [hi]
  dsimp only
  rw [hserve, hgrant]
  exact refreshBoosts_rest (hlone.complete_resting hop hin _).atRest

/-- A SEM_RELEASE of units that its context holds returns them and ends. -/
theorem startRelease_lone (hheld : unitsOf c.desc ≤ heldBy (semAt s i) c.tag)
    (hmax : (semAt s i).count.toNat + unitsOf c.desc ≤ (semAt s i).max.toNat) :
    startRelease c s =
      complete c.uid (.plain stSuccess) (Machine.setSem s i (semReturned c.tag (unitsOf c.desc) (semAt s i))) := by
  have hnone := h.waiters i
  have hserve {x : Sem} (hx : x.waiters = []) : refreshBoosts (serve i (Machine.setSem s i x)) = Machine.setSem s i x := by
    have hat : semAt (Machine.setSem s i x) i = x := Tab.get_set_self Sem.reset i x hwf
    rw [serve_none (by rw [hat]; exact hx), (h.setSem i hx).refreshBoosts]
  have hrelease : releaseUnits i c.tag (unitsOf c.desc) s = some (Machine.setSem s i (semReturned c.tag (unitsOf c.desc) (semAt s i))) :=
    (if_neg (not_or.mpr ⟨Nat.not_lt.mpr hheld, Nat.not_lt.mpr hmax⟩)).trans (congrArg some (hserve hnone))
  unfold startRelease
  rw [hi]
  dsimp only
  rw [hrelease]

end

/-! ### FENCE_SIGNAL (R185) -/

/-- Where the only command waits on no fence, none is woken. -/
theorem wakeWaits_lone {s : State} {c : Cmd} (h : lone s c) (hp : c.phase = .accepted) (pa : W64) : wakeWaits pa s = s := by
  simp [wakeWaits, cmdsWhere, h.cmds, waitsAt, hp, forEach]

/-- The signal step where no command waits: the status, and the slot written or left. -/
theorem signalAt_lone {s : State} {c : Cmd} (h : lone s c) (hp : c.phase = .accepted) (mem off : Nat) (v : W64) :
    signalAt mem off v s =
      (if fsState (BitVec.ofNat 128 (ofLe (memBytes mem off 16 s).1)) = 1 then (stFenceAbandoned, (memBytes mem off 16 s).2)
      else if v.toNat < fsValue (BitVec.ofNat 128 (ofLe (memBytes mem off 16 s).1)) then
        (stFenceRegression, (memBytes mem off 16 s).2)
      else (stSuccess, memStore mem off (leBytes 8 v.toNat) (memBytes mem off 16 s).2)) := by
  have hstored := (memStore_keepsLone mem off (leBytes 8 v.toNat) _) _ (memBytes_keepsLone mem off 16 s c h)
  unfold signalAt fenceStep
  dsimp only
  by_cases habandoned : fsState (BitVec.ofNat 128 (ofLe (memBytes mem off 16 s).1)) = 1
  · rw [if_pos habandoned, if_pos habandoned]
  rw [if_neg habandoned, if_neg habandoned]
  by_cases hbehind : v.toNat < fsValue (BitVec.ofNat 128 (ofLe (memBytes mem off 16 s).1))
  · rw [if_pos hbehind, if_pos hbehind]
  · rw [if_neg hbehind, if_neg hbehind]
    dsimp only
    rw [wakeWaits_lone hstored hp]

theorem signalAt_keepsLone {s : State} {c : Cmd} (h : lone s c) (hp : c.phase = .accepted) (mem off : Nat) (v : W64) :
    lone (signalAt mem off v s).2 c := by
  have hread := memBytes_keepsLone mem off 16 s c h
  rw [signalAt_lone h hp]
  split
  · exact hread
  split
  · exact hread
  · exact memStore_keepsLone _ _ _ _ _ hread

section
variable {s s2 : State} {c : Cmd} {mem off : Nat} (halign : (operand0 c.desc).toNat % 16 = 0)
  (hreach : reach 8 c.tag (operand0 c.desc).toNat .write s = (.loc mem off, s2)) (hland : landOk s2 c.tag mem off = true)
include halign hreach hland

/-- A FENCE_SIGNAL at a slot in local memory takes its step there and ends. -/
theorem signalFor_local (hmem : mem ≠ 3) (hready : reachable s2 c.tag mem off 16 = true) (hclean : poisoned s2 mem off 16 = false) :
    signalFor c s = complete c.uid (.plain (signalAt mem off (operand1 c.desc) s2).1)
      (charge c.tag mem off 16 true (signalAt mem off (operand1 c.desc) s2).2) := by
  have hhere : signalHere c.tag mem off (operand1 c.desc) s2 = (.ok [], (signalAt mem off (operand1 c.desc) s2).1,
      charge c.tag mem off 16 true (signalAt mem off (operand1 c.desc) s2).2) := by
    simp [signalHere, hland, hready, hclean]
  unfold signalFor
  dsimp only
  rw [if_neg (not_not.mpr halign), hreach]
  dsimp only
  rw [if_neg (fun h => hmem h.1), hhere]

/-- A FENCE_SIGNAL at host memory sends one host request. -/
theorem signalFor_host (hmem : mem = 3) (hatomics : s2.hostPort.atomicOk = true) (hready : reachable s2 c.tag 3 off 8 = true) :
    signalFor c s = hostRequest (.fence c.uid) c.tag (setPhase (unhold 3 0 (weirCharge c.tag 3 8 s2)) c.uid .busy) := by
  subst hmem
  unfold signalFor
  dsimp only
  rw [if_neg (not_not.mpr halign), hreach]
  dsimp only
  rw [if_pos ⟨rfl, hland⟩, hatomics, hready]
  rfl

end

/-! ### FENCE_WAIT (R185) -/

/-- A wait at its acceptance finds a slot where it is the only command. -/
theorem slotFree_lone {s : State} {c : Cmd} (h : lone s c) (hp : c.phase = .reading false) (tag : W16) : slotFree s tag = true := by
  have hholds : holdsSlot c = false := by simp [holdsSlot, hp]
  have hquota := Nat.eq_zero_or_pos (foldAt s (tagFold tag)).live.waitQuota.toNat
  simp only [slotFree, slotsUsed, foldSlotsUsed, h.cmds, hholds, List.filter_cons, Bool.false_and, Bool.false_eq_true, if_false,
    List.filter_nil, List.length_nil, Nat.zero_lt_succ, decide_true, Bool.true_and, Bool.or_eq_true, beq_iff_eq, decide_eq_true_eq]
  exact hquota.elim (fun h => .inl (.inr h)) .inr

/-- What a wait does on its fence's verdict, at the place of the fence. -/
def onVerdict (c : Cmd) (mem off : Nat) (v : Verdict) (s : State) : State :=
  match v with
  | .done st => complete c.uid (.plain st) s
  | .keep => holdWait c (fun t => setPhase t c.uid (.waitFence (BitVec.ofNat 64 (paOf s mem off)) (operand1 c.desc))) s

section
variable {s s2 s3 : State} {c : Cmd} {mem off : Nat} {bs : List Byte} (hat : cmdAt s c.uid = some c)
  (hreach : reach 8 c.tag (operand0 c.desc).toNat .read (onBehalf c.uid hostMaster s) = (.loc mem off, s2))
  (hread : locRead c.tag mem off 16 s2 = (.ok bs, s3))
include hat hreach hread

/-- What the read of its fence makes of a wait. -/
theorem readFence_read : readFence c.uid (onBehalf c.uid hostMaster s) =
    onVerdict c mem off (judgeFence (BitVec.ofNat 128 (ofLe bs)) (operand1 c.desc)) s3 := by
  have hat' : cmdAt (onBehalf c.uid hostMaster s) c.uid = some c := hat
  unfold readFence
  rw [hat']
  dsimp only
  rw [hreach]
  dsimp only
  rw [hread]
  rfl

theorem evalWait_done {st : Byte} (hv : judgeFence (BitVec.ofNat 128 (ofLe bs)) (operand1 c.desc) = .done st) :
    evalWait c.uid s = agentOf s (complete c.uid (.plain st) s3) := by
  rw [evalWait, doFor, readFence_read hat hreach hread, hv]
  rfl

theorem evalWait_keep (hlone : lone s3 c) (hp : c.phase = .reading false)
    (hv : judgeFence (BitVec.ofNat 128 (ofLe bs)) (operand1 c.desc) = .keep) :
    evalWait c.uid s = agentOf s (setPhase s3 c.uid (.waitFence (BitVec.ofNat 64 (paOf s3 mem off)) (operand1 c.desc))) := by
  have hslot : ¬ (c.phase = .reading false ∧ (!slotFree s3 c.tag) = true) := by
    rw [slotFree_lone hlone hp]
    rintro ⟨-, h⟩
    cases h
  rw [evalWait, doFor, readFence_read hat hreach hread, hv, onVerdict, holdWait, if_neg hslot]
  rfl

end

/-! ### The rows -/

section
variable {s : State} {c : Cmd}

theorem startCmd_signal (hop : opcodeOf c.desc = 0x04) : startCmd c s = startSignal c s := by
  rw [startCmd, hop]
  rfl

theorem startCmd_acquire (hop : opcodeOf c.desc = 0x06) : startCmd c s = startAcquire c s := by
  rw [startCmd, hop]
  rfl

theorem startCmd_release (hop : opcodeOf c.desc = 0x07) : startCmd c s = startRelease c s := by
  rw [startCmd, hop]
  rfl

theorem startCmd_mark (hop : opcodeOf c.desc = 0x0C) : startCmd c s = startMark c s := by
  rw [startCmd, hop]
  rfl

/-- A FENCE_SIGNAL or FENCE_WAIT that has started has no step of its own. -/
theorem goOn_fence (hop : opcodeOf c.desc = 4 ∨ opcodeOf c.desc = 5) (hp : c.phase = .busy ∨ ∃ a v, c.phase = .waitFence a v) :
    goOn c s = s := by
  rcases hp with hp | ⟨a, v, hp⟩
  · rcases hop with hop | hop <;> simp [goOn, hp, hop]
  · simp [goOn, hp]

end

section
variable {q : Nat} {d : BitVec 512} {s : State} (h : alone q d s)
include h

/-- A FENCE_WAIT whose descriptor passes the checks is put on the list and judged at once. -/
theorem acceptOne_wait (hop : opcodeOf d = 5) : acceptOne q d s = acceptWait q d (headPassed q s) := by
  obtain ⟨-, hacc, -⟩ := h
  simp only [accepts, Bool.and_eq_true, Bool.not_eq_true', Bool.and_eq_false_iff, bne_eq_false_iff_eq, beq_iff_eq] at hacc
  obtain ⟨⟨⟨⟨⟨⟨hread, hflock⟩, hclosed⟩, hbind⟩, hpriv⟩, hadmitted⟩, hseq⟩ := hacc
  have hflock' : ¬ (flockClosed s (queueAt s q).tag = true ∧ q ≠ 0) := by
    rintro ⟨hc, hq⟩
    exact hflock.elim hq fun h => Bool.noConfusion (h.symm.trans hc)
  have hpriv' : ¬ (privileged (opcodeOf d) = true ∧ q ≠ 0) := by
    rintro ⟨hc, hq⟩
    exact hpriv.elim (fun h => Bool.noConfusion (h.symm.trans hc)) hq
  unfold acceptOne headPassed
  rw [hop] at hpriv' hadmitted ⊢
  simp only [hread, hflock', hclosed, hbind, hpriv', hadmitted, hseq, Bool.not_true, Bool.false_eq_true, if_false,
    BitVec.sub_self, BitVec.toNat_zero, ne_eq, not_true_eq_false, if_true]

theorem exec_fenceWait (hop : opcodeOf d = 5) : exec (.fenceWait q d) s = .next (pump (acceptWait q d (headPassed q s))) := by
  obtain ⟨hlt, -⟩ := id h
  exact (need_of_true (by simp [hlt, hop])).trans (by rw [acceptOne_wait h hop])

theorem canon_sems_taken : Tab.wf Sem.reset (taken q d s).sems = true := by
  obtain ⟨-, -, hcanon, -⟩ := h
  unfold canon at hcanon
  simp only [Bool.and_eq_true] at hcanon
  obtain ⟨⟨⟨⟨-, hsems⟩, -⟩, -⟩, -⟩ := hcanon
  rw [taken_sameButIntake (q := q) (d := d) (s := s)]
  exact hsems

end

/-! ### Each command, accepted in a block at rest -/

section
variable {q : Nat} {d : BitVec 512} {s : State} (h : alone q d s)
include h

theorem exec_mark_alone (hop : opcodeOf d = 0x0C) :
    exec (.mark q d) s = .next (startMark (accepted q d s) (taken q d s)) := by
  refine (queueRow_alone h "MARK" (by rw [hop]; rfl) (by omega)).trans (congrArg _ ?_)
  exact pump_alone_ends h (by omega) (startCmd_mark hop)
    ((lone_taken h).complete_resting (show 2 < opcodeOf d by omega) rfl _)

theorem semWaiters_alone (i : Nat) : (semAt s i).waiters = [] := by
  rw [← semAt_taken (q := q) (d := d)]
  exact (lone_taken h).waiters i

theorem exec_semAcquire_alone (hop : opcodeOf d = 0x06) {i : Nat} (hi : semOf (taken q d s) (accepted q d s) = some i)
    (hfits : semFits (semAt s i) (accepted q d s).tag (unitsOf d) = true) :
    exec (.semAcquire q d) s = .next (complete (accepted q d s).uid (.plain stSuccess)
      (setSem (taken q d s) i (semTaken (accepted q d s).tag (unitsOf d) (semAt s i)))) := by
  have hset : lone (setSem (taken q d s) i (semTaken (accepted q d s).tag (unitsOf d) (semAt s i))) (accepted q d s) :=
    (lone_taken h).setSem i (semWaiters_alone h i)
  have hops : 2 < opcodeOf (accepted q d s).desc := show 2 < opcodeOf d by omega
  have hstart := startAcquire_lone (lone_taken h) (canon_sems_taken h) hi hops rfl (by rw [semAt_taken]; exact hfits)
  rw [semAt_taken] at hstart
  refine (queueRow_alone h "SEM_ACQUIRE" (by rw [hop]; rfl) (by omega)).trans (congrArg _ ?_)
  exact pump_alone_ends h (by omega) ((startCmd_acquire (c := accepted q d s) hop).trans hstart)
    (hset.complete_resting hops rfl _)

theorem exec_semRelease_alone (hop : opcodeOf d = 0x07) {i : Nat} (hi : semOf (taken q d s) (accepted q d s) = some i)
    (hheld : unitsOf d ≤ heldBy (semAt s i) (accepted q d s).tag)
    (hmax : (semAt s i).count.toNat + unitsOf d ≤ (semAt s i).max.toNat) :
    exec (.semRelease q d) s = .next (complete (accepted q d s).uid (.plain stSuccess)
      (setSem (taken q d s) i (semReturned (accepted q d s).tag (unitsOf d) (semAt s i)))) := by
  have hset : lone (setSem (taken q d s) i (semReturned (accepted q d s).tag (unitsOf d) (semAt s i))) (accepted q d s) :=
    (lone_taken h).setSem i (semWaiters_alone h i)
  have hstart := startRelease_lone (lone_taken h) (canon_sems_taken h) hi (by rw [semAt_taken]; exact hheld)
    (by rw [semAt_taken]; exact hmax)
  rw [semAt_taken] at hstart
  refine (queueRow_alone h "SEM_RELEASE" (by rw [hop]; rfl) (by omega)).trans (congrArg _ ?_)
  exact pump_alone_ends h (by omega) ((startCmd_release (c := accepted q d s) hop).trans hstart)
    (hset.complete_resting (show 2 < opcodeOf d by omega) rfl _)

section
variable (hop : opcodeOf d = 0x04) (halign : (operand0 d).toNat % 16 = 0) {mem off : Nat} {s2 : State}
  (hreach : reach 8 (accepted q d s).tag (operand0 d).toNat .write (onBehalf (accepted q d s).uid hostMaster (taken q d s)) =
    (.loc mem off, s2))
  (hland : landOk s2 (accepted q d s).tag mem off = true)
include hop halign hreach hland

theorem exec_fenceSignal_local (hmem : mem ≠ 3) (hready : reachable s2 (accepted q d s).tag mem off 16 = true)
    (hclean : poisoned s2 mem off 16 = false) :
    exec (.fenceSignal q d) s = .next (agentOf s (complete (accepted q d s).uid (.plain (signalAt mem off (operand1 d) s2).1)
      (charge (accepted q d s).tag mem off 16 true (signalAt mem off (operand1 d) s2).2))) := by
  have hlone : lone s2 (accepted q d s) := reach_keepsLone hreach _ (onBehalf_keepsLone _ _ _ _ (lone_taken h))
  have hcharged : lone (charge (accepted q d s).tag mem off 16 true (signalAt mem off (operand1 d) s2).2) (accepted q d s) :=
    charge_keepsLone _ _ _ _ _ _ _ (signalAt_keepsLone hlone rfl mem off (operand1 d))
  have hrest := hcharged.complete_resting (show 2 < opcodeOf d by omega) rfl (.plain (signalAt mem off (operand1 d) s2).1)
  refine (queueRow_alone h "FENCE_SIGNAL" (by rw [hop]; rfl) (by omega)).trans (congrArg _ ?_)
  refine pump_alone_ends h (by omega) ((startCmd_signal (c := accepted q d s) hop).trans ?_) (agentOf_resting hrest)
  rw [startSignal, doFor_taken, signalFor_local (c := accepted q d s) halign hreach hland hmem hready hclean]
  rfl

theorem exec_fenceSignal_host (hmem : mem = 3) (hatomics : s2.hostPort.atomicOk = true)
    (hready : reachable s2 (accepted q d s).tag 3 off 8 = true) :
    exec (.fenceSignal q d) s = .next (agentOf s (hostRequest (.fence (accepted q d s).uid) (accepted q d s).tag
      (setPhase (unhold 3 0 (weirCharge (accepted q d s).tag 3 8 s2)) (accepted q d s).uid .busy))) := by
  have hlone : lone s2 (accepted q d s) := reach_keepsLone hreach _ (onBehalf_keepsLone _ _ _ _ (lone_taken h))
  have hcharged : lone (unhold 3 0 (weirCharge (accepted q d s).tag 3 8 s2)) (accepted q d s) :=
    unhold_keepsLone 3 0 _ _ (weirCharge_keepsLone (accepted q d s).tag 3 8 _ _ hlone)
  have hbusy : lone (agentOf s (hostRequest (.fence (accepted q d s).uid) (accepted q d s).tag
      (setPhase (unhold 3 0 (weirCharge (accepted q d s).tag 3 8 s2)) (accepted q d s).uid .busy)))
      { accepted q d s with phase := .busy } := agentOf_lone (hostRequest_keepsLone _ _ _ _ (hcharged.setPhase (p := .busy) rfl))
  have hops : 3 < opcodeOf d := by omega
  refine (queueRow_alone h "FENCE_SIGNAL" (by rw [hop]; rfl) (by omega)).trans (congrArg _ ?_)
  refine pump_alone_waits h hops ((startCmd_signal (c := accepted q d s) hop).trans ?_) hbusy hops nofun (fun _ => nofun)
    (goOn_fence (c := { accepted q d s with phase := .busy }) (.inl hop) (.inl rfl))
  rw [startSignal, doFor_taken, signalFor_host (c := accepted q d s) halign hreach hland hmem hatomics hready]

end

/-- The command of a FENCE_WAIT while its fence is read. -/
def readingCmd (q : Nat) (d : BitVec 512) (s : State) : Cmd := { accepted q d s with phase := .reading false }

section
variable (hop : opcodeOf d = 0x05) (halign : (operand0 d).toNat % 16 = 0) {mem off : Nat} {s2 s3 : State} {bs : List Byte}
  (hreach : reach 8 (accepted q d s).tag (operand0 d).toNat .read
    (onBehalf (accepted q d s).uid hostMaster (setPhase (taken q d s) (accepted q d s).uid (.reading false))) = (.loc mem off, s2))
  (hread : locRead (accepted q d s).tag mem off 16 s2 = (.ok bs, s3))

theorem lone_reading : lone (setPhase (taken q d s) (accepted q d s).uid (.reading false)) (readingCmd q d s) :=
  (lone_taken h).setPhase rfl

include hreach hread in
theorem lone_read : lone s3 (readingCmd q d s) :=
  locRead_keepsLone hread _ (reach_keepsLone hreach _ (onBehalf_keepsLone _ _ _ _ (lone_reading h)))

include hop halign in
theorem exec_fenceWait_aligned : exec (.fenceWait q d) s =
    .next (pump (evalWait (readingCmd q d s).uid (setPhase (taken q d s) (accepted q d s).uid (.reading false)))) := by
  rw [exec_fenceWait h hop]
  exact congrArg (fun t => Host.Outcome.next (pump t)) (if_neg (not_not.mpr halign))

include hop halign hreach hread

theorem exec_fenceWait_done {st : Byte} (hv : judgeFence (BitVec.ofNat 128 (ofLe bs)) (operand1 d) = .done st) :
    exec (.fenceWait q d) s = .next (agentOf s (complete (accepted q d s).uid (.plain st) s3)) := by
  have hdone := evalWait_done (lone_reading h).cmdAt hreach hread hv
  rw [agentOf_congr (s := s) (t := setPhase (taken q d s) (accepted q d s).uid (.reading false)) (taken_xlate (q := q) (d := d))] at hdone
  rw [exec_fenceWait_aligned h hop halign, hdone]
  refine congrArg _ (pump_rest ?_)
  exact (agentOf_resting ((lone_read h hreach hread).complete_resting (show 2 < opcodeOf d by omega) rfl _)).atRest

theorem exec_fenceWait_keep (hv : judgeFence (BitVec.ofNat 128 (ofLe bs)) (operand1 d) = .keep) :
    exec (.fenceWait q d) s = .next (agentOf s (setPhase s3 (accepted q d s).uid
      (.waitFence (BitVec.ofNat 64 (paOf s3 mem off)) (operand1 d)))) := by
  have hkeep := evalWait_keep (lone_reading h).cmdAt hreach hread (lone_read h hreach hread) rfl hv
  have hwaits := agentOf_lone (s := s) ((lone_read h hreach hread).setPhase
    (p := .waitFence (BitVec.ofNat 64 (paOf s3 mem off)) (operand1 d)) rfl)
  rw [agentOf_congr (s := s) (t := setPhase (taken q d s) (accepted q d s).uid (.reading false)) (taken_xlate (q := q) (d := d))] at hkeep
  rw [exec_fenceWait_aligned h hop halign, hkeep]
  refine congrArg _ (hwaits.pump_rests (show 3 < opcodeOf d by omega) (fun _ => nofun) ?_)
  exact hwaits.workOn_waits nofun (goOn_fence (.inr hop) (.inr ⟨_, _, rfl⟩))

end

theorem exec_fenceWait_misaligned (hop : opcodeOf d = 0x05) (halign : (operand0 d).toNat % 16 ≠ 0) :
    exec (.fenceWait q d) s = .next (complete (accepted q d s).uid (.plain stRange) (taken q d s)) := by
  have haccept : acceptWait q d (headPassed q s) = complete (accepted q d s).uid (.plain stRange) (taken q d s) := if_pos halign
  rw [exec_fenceWait h hop, haccept]
  exact congrArg _ (pump_rest ((lone_taken h).complete_resting (show 2 < opcodeOf d by omega) rfl _).atRest)

end

end Sys2Proof.Machine

open Sys2Proof Sys2Proof.Machine

/-- Settles O18: each command is the only one of its block; what ends leaves the block at rest, and what waits for the host port or a
fence waits for what is outside. -/
theorem fencesSemaphoresMarks : Obligations.FencesSemaphoresMarks := by
  unfold Obligations.FencesSemaphoresMarks
  intro q d s h c s1 a asked back
  refine ⟨exec_mark_alone h, fun hop i hi hfits => exec_semAcquire_alone h hop hi hfits,
    fun hop i hi hheld hmax => exec_semRelease_alone h hop hi hheld hmax,
    fun hop halign mem off s2 hreach hland => ⟨fun hmem hready hclean => ?signal, fun hmem hatomics hready =>
      exec_fenceSignal_host h hop halign hreach hland hmem hatomics hready⟩,
    fun hop halign mem off s2 bs s3 hreach hread => ⟨fun st hv => exec_fenceWait_done h hop halign hreach hread hv,
      fun hv => exec_fenceWait_keep h hop halign hreach hread hv⟩,
    fun hop halign => exec_fenceWait_misaligned h hop halign⟩
  case signal =>
    intro slot s3
    have hlone : lone s2 c := reach_keepsLone hreach _ (onBehalf_keepsLone _ _ _ _ (lone_taken h))
    rw [exec_fenceSignal_local h hop halign hreach hland hmem hready hclean, signalAt_lone hlone rfl]
    refine congrArg (fun t => Host.Outcome.next (agentOf s t)) ?_
    by_cases habandoned : fsState slot = 1
    · rw [if_pos habandoned, if_pos habandoned]
    rw [if_neg habandoned, if_neg habandoned]
    by_cases hbehind : (operand1 d).toNat < fsValue slot
    · rw [if_pos hbehind, if_pos hbehind]
    · rw [if_neg hbehind, if_neg hbehind]

end

section
/-! SUPPORT. A state in which two accepted commands bear one number: a beat of a MOVE is noted in both (R267). -/

namespace Sys2Proof.Machine

/-- A FILL of eight zero bytes at the foot of the pond, by bus address. -/
def twinFill : BitVec 512 := place (paOf State.reset 0 0) 384 64 ||| place 8 344 40 ||| place 1 70 2 ||| place 3 56 8

/-- The command of that FILL in its mover's queue, and another of the same number that has noted bytes before. -/
def fillCmd : Cmd :=
  { uid := 1, q := 0, desc := twinFill, tag := 0, acceptTime := 0, digest := 0, journalled := false, phase := .busy,
    boosted := false, judged := false, moved := 0, launch := Launch.reset, coll := CollState.reset, carriedIn := none,
    readyAt := 0, startAt := 0, pages := [], mover := 0, asked := 0, opnd := [], seg := 0, out := [], got := [], setting := none }
def fillTwin : Cmd := { fillCmd with opnd := [(0, [])] }

/-- Both are accepted. -/
def twinNumbers : State := { State.reset with cmds := [fillCmd, fillTwin] }

/-- The bytes of the FILL's one beat. -/
def twinBytes : List Byte := List.replicate 8 0

/-- The state on behalf of the FILL, and the state after its one write. -/
def twinAsked : State := onBehalf 1 (moverMaster fillCmd) twinNumbers
def twinWritten : State := (locWrite fillCmd.tag 0 0 twinBytes twinAsked).2

theorem twinFill_valid : fillCmd.moved < mvLen fillCmd.desc ∧ mvOp fillCmd.desc = 1 ∧
    pattern (bitsAt fillCmd.desc 448 64) fillCmd.moved
      (min (mvLen fillCmd.desc - fillCmd.moved) (256 - (mvDst fillCmd.desc + fillCmd.moved) % 256)) = twinBytes := by decide +kernel

theorem twinFill_reaches : reach (moverPlace fillCmd) fillCmd.tag (mvDst fillCmd.desc + fillCmd.moved) .write twinAsked = 
    (.loc 0 0, twinAsked) := by decide +kernel

theorem twinFill_writes : locWrite fillCmd.tag 0 0 twinBytes twinAsked = (.ok [], twinWritten) := by
  have hok : (locWrite fillCmd.tag 0 0 twinBytes twinAsked).1 = .ok [] := by decide +kernel
  rw [twinWritten, ← hok]

/-- The beat adds its bytes to what each of the two has noted. -/
theorem twinFill_beat : (moveBeat fillCmd twinNumbers).2.cmds.map (fun z => z.opnd) =
    [[(0, twinBytes)], [(0, []), (0, twinBytes)]] := by decide +kernel

/-- Every command of a number notes what one of them had noted, and the beat's bytes (the statement's reading of a beat). -/
def bothNote (c : Cmd) (bs : List Byte) (s : State) : State :=
  onBehalfOfNone (modCmd s c.uid fun z => { z with opnd := c.opnd ++ [(c.moved, bs)], moved := c.moved + bs.length })

/-- So read, both would show the beat's bytes alone. -/
theorem twinFill_notes : ¬ (bothNote fillCmd twinBytes twinWritten).cmds.map (fun z => z.opnd) =
    [[(0, twinBytes)], [(0, []), (0, twinBytes)]] := by decide +kernel

end Sys2Proof.Machine

open Sys2Proof Sys2Proof.Machine

/-- Refutes O19: its second part speaks of every state in which `cmdAt` finds the command, also of one that lists a second command of the
same number. A beat adds its bytes to what each of the two has noted, where the statement has both note what the first one has. -/
theorem not_moveCommands : ¬ Obligations.MoveCommands := by
  unfold Obligations.MoveCommands
  rintro ⟨-, hbeats⟩
  have hbeat : ∀ {s s2 s3 : State} {c : Cmd} {mem off : Nat} {bs : List Byte}, cmdAt s c.uid = some c →
      c.phase = .busy → c.out = [] →
      s.poison = [] → (c.moved < mvLen c.desc ∧ mvOp c.desc = 1 ∧ pattern (bitsAt c.desc 448 64) c.moved
        (min (mvLen c.desc - c.moved) (256 - (mvDst c.desc + c.moved) % 256)) = bs) →
      reach (moverPlace c) c.tag (mvDst c.desc + c.moved) .write (onBehalf c.uid (moverMaster c) s) = (.loc mem off, s2) →
      locWrite c.tag mem off bs s2 = (.ok [], s3) → (moveBeat c s).2 = bothNote c bs s3 := by
    rintro s s2 s3 c mem off bs hat hp hout hpoison ⟨hleft, hop, rfl⟩ hreach hwrite
    exact congrArg Prod.snd ((hbeats s c hat hp hout hleft hpoison).1 hop mem off s2 s3 hreach hwrite)
  have hnoted := twinFill_beat
  rw [hbeat rfl rfl rfl rfl twinFill_valid twinFill_reaches twinFill_writes] at hnoted
  exact twinFill_notes hnoted

end

section
/-! SUPPORT. A clock edge on an empty queue (R223, R262, R270, R359, R362, R387): the figures of folds and engines that a time adds to, the
timebase, and the request of a power domain that is due. -/

namespace Sys2Proof.Machine

theorem canon_folds {s : State} (h : canon s = true) : Tab.wf Fold.reset s.folds = true := by
  simp only [canon, Bool.and_eq_true] at h
  obtain ⟨⟨⟨⟨⟨⟨⟨⟨-, hfolds⟩, -⟩, -⟩, -⟩, -⟩, -⟩, -⟩, -⟩ := h
  exact hfolds

/-! ### Figures that a time adds to -/

/-- Of a fold only its scheduling figures, its meters and its statement differ. -/
def sameButCounts (f g : Fold) : Prop := g = { f with sched := g.sched, meters := g.meters, stmt := g.stmt }

/-- Only engines and the figures of folds differ. -/
def sameButFigures (s t : State) : Prop :=
  t = { s with folds := t.folds, engines := t.engines } ∧
    (Tab.wf Fold.reset s.folds = true → Tab.wf Fold.reset t.folds = true ∧ ∀ n, sameButCounts (foldAt s n) (foldAt t n))

theorem sameButFigures.refl (s : State) : sameButFigures s s := ⟨rfl, fun h => ⟨h, fun _ => rfl⟩⟩

theorem sameButFigures.trans {s t u : State} (h : sameButFigures s t) (h' : sameButFigures t u) : sameButFigures s u := by
  obtain ⟨hs, hf⟩ := h
  obtain ⟨hs', hf'⟩ := h'
  refine ⟨by rw [hs', hs], fun hwf => ⟨(hf' (hf hwf).1).1, fun n => ?_⟩⟩
  have h1 := (hf hwf).2 n
  have h2 := (hf' (hf hwf).1).2 n
  unfold sameButCounts at h1 h2 ⊢
  rw [h2, h1]

theorem forEach_sameButFigures {α : Type} (l : List α) (g : α → State → State) (hg : ∀ x s, sameButFigures s (g x s)) (s : State) :
    sameButFigures s (forEach l g s) := by
  induction l generalizing s with
  | nil => exact .refl s
  | cons x l ih => exact (hg x s).trans (ih (g x s))

theorem modFold_sameButFigures (s : State) (n : Nat) {g : Fold → Fold} (hg : ∀ f, sameButCounts f (g f)) :
    sameButFigures s (modFold s n g) := by
  refine ⟨rfl, fun hwf => ⟨Tab.set_wf _ _ _ hwf, fun k => ?_⟩⟩
  by_cases hk : k = n
  · subst hk
    rw [modFold, foldAt_setFold_self _ _ _ hwf]
    exact hg _
  · rw [modFold, foldAt_setFold_ne _ _ (Ne.symm hk)]
    rfl

theorem modMeter_sameButFigures (n k : Nat) (g : Meter → Meter) (s : State) : sameButFigures s (modMeter n k g s) := by
  refine modFold_sameButFigures s n fun f => ?_
  rfl

theorem modEngine_sameButFigures (s : State) (e : Nat) (g : Engine → Engine) : sameButFigures s (modEngine s e g) :=
  ⟨rfl, fun h => ⟨h, fun _ => rfl⟩⟩

theorem accrueFold_sameButFigures (ns n : Nat) (s : State) : sameButFigures s (accrueFold ns n s) := by
  unfold accrueFold
  dsimp only
  split
  · exact .refl s
  · exact modFold_sameButFigures s n fun _ => rfl

theorem accrueHeld_sameButFigures (ns n : Nat) (s : State) : sameButFigures s (accrueHeld ns n s) := by
  have hwindows (l : List Nat) : sameButFigures s (forEach l (fun k s => modMeter n k (fun m => { m with winHeld := m.winHeld + ns }) s) s) :=
    forEach_sameButFigures l _ (fun k s => modMeter_sameButFigures n k _ s) s
  unfold accrueHeld
  dsimp only
  split
  · exact hwindows _
  · exact (hwindows _).trans (modFold_sameButFigures _ n fun _ => rfl)

theorem enterTo_sameButFigures (e : Nat) (c : Cmd) (k : Nat) (s : State) : sameButFigures s (enterTo e c k s) :=
  by
  unfold enterTo
  exact (modEngine_sameButFigures s e _).trans (modFold_sameButFigures _ _ fun _ => rfl)

theorem accrue_sameButFigures (ns : Nat) (s : State) : sameButFigures s (accrue ns s) := by
  refine (forEach_sameButFigures _ _ (fun n s => ?folds) s).trans (forEach_sameButFigures _ _ (fun e s => ?engines) _)
  case folds => exact (accrueFold_sameButFigures ns n s).trans (accrueHeld_sameButFigures ns n _)
  case engines =>
    split
    · exact .refl s
    · exact enterTo_sameButFigures _ _ _ s

/-- A time adds nothing where no command, no held request and no tile stands. -/
theorem accrue_idle {s : State} (ns : Nat) (hcmds : s.cmds = []) (hheld : s.xlate.held = []) (htiles : ∀ p ∈ s.engines, p.2.tile = none) :
    accrue ns s = s := by
  have hnone : (s.engines.filter fun p => p.2.tile.isSome) = [] := by
    rw [List.filter_eq_nil_iff]
    intro p hp
    simp [htiles p hp]
  simp [accrue, hcmds, hheld, hnone, forEach]

/-! ### Requests that are due (R385, R387) -/

theorem raiseDue_eq (s : State) : raiseDue s = { s with power := (raiseDue s).power } := by
  unfold raiseDue
  split
  · rfl
  · split <;> rfl

theorem raiseDue_power (s : State) : (raiseDue s).power = { s.power with
    requests := (raiseDue s).power.requests, reqAt := (raiseDue s).power.reqAt, wanted := (raiseDue s).power.wanted,
    nextReq := (raiseDue s).power.nextReq } := by
  unfold raiseDue
  split
  · rfl
  · split <;> rfl

theorem raiseDue_none {s : State} (h : s.power.wanted = []) : raiseDue s = s := by
  unfold raiseDue
  split
  · rfl
  · simp [h]

/-! ### The edge -/

/-- The timebase and the herd's cycles one edge later (R359, R362). -/
def edge (s : State) : State :=
  { s with
    tb := { s.tb with time := s.tb.time + BitVec.ofNat 64 (tickNs s.tb.slew), slew := slewLeft s.tb.slew, cycle := s.tb.cycle + 1 },
    herd := { s.herd with cycles := s.herd.cycles + BitVec.ofNat 64 (s.power.clkHerd / 100) } }

theorem tick_low {s : State} (h : s.pins.resetLow = true) : tick s = { s with tb := { s.tb with cycle := s.tb.cycle + 1 } } := by
  simp [tick, h]

theorem tick_high {s : State} (h : s.pins.resetLow = false) : tick s = raiseDue (edge (accrue (tickNs s.tb.slew) s)) := by
  unfold tick
  rw [h, (accrue_sameButFigures (tickNs s.tb.slew) s).1]
  rfl

/-- While RESET_N is high an edge changes the timebase, the herd's cycles, and figures of folds, engines and power. -/
theorem tick_high_eq {s : State} (h : s.pins.resetLow = false) : tick s = { edge s with
    folds := (accrue (tickNs s.tb.slew) s).folds, engines := (accrue (tickNs s.tb.slew) s).engines, power := (tick s).power } := by
  have hpower : (raiseDue (edge (accrue (tickNs s.tb.slew) s))).power = (tick s).power := by rw [tick_high h]
  rw [tick_high h, raiseDue_eq, hpower, (accrue_sameButFigures (tickNs s.tb.slew) s).1]
  rfl

theorem tick_high_idle {s : State} (h : s.pins.resetLow = false) (hcmds : s.cmds = []) (hheld : s.xlate.held = [])
    (htiles : ∀ p ∈ s.engines, p.2.tile = none) (hwanted : s.power.wanted = []) : tick s = edge s := by
  rw [tick_high h, accrue_idle _ hcmds hheld htiles, raiseDue_none (s := edge s) hwanted]

theorem tick_power (s : State) : (tick s).power = { s.power with
    requests := (tick s).power.requests, reqAt := (tick s).power.reqAt, wanted := (tick s).power.wanted,
    nextReq := (tick s).power.nextReq } := by
  cases h : s.pins.resetLow with
  | true => rw [tick_low h]
  | false =>
    have hpower : (edge (accrue (tickNs s.tb.slew) s)).power = s.power := by rw [(accrue_sameButFigures _ s).1]; rfl
    have hraised := raiseDue_power (edge (accrue (tickNs s.tb.slew) s))
    rwa [hpower, ← tick_high h] at hraised

theorem tick_eq (s : State) : tick s = { s with
    tb := (tick s).tb, herd := { s.herd with cycles := (tick s).herd.cycles }, folds := (tick s).folds, engines := (tick s).engines,
    power := (tick s).power } := by
  cases h : s.pins.resetLow with
  | true => rw [tick_low h]
  | false =>
    conv_lhs => rw [tick_high_eq h]
    rw [tick_high_eq h]
    rfl

end Sys2Proof.Machine

open Sys2Proof Sys2Proof.Machine

/-- Settles O57: with a command in front the step is its exec; else one edge, whose parts are read off `tick`. -/
theorem stepRunsFront : Obligations.StepRunsFront := by
  unfold Obligations.StepRunsFront
  refine ⟨fun c rest s h => by rw [step, h], fun s hpending => ⟨tick s, by rw [step, hpending], ?_⟩⟩
  refine ⟨?_, ?cycle, tick_low, fun h => ?time, tick_eq s, tick_power s, fun hcanon n => ?folds, fun hcmds hheld htiles hwanted => ?idle⟩
  · rw [tick_eq]
    exact hpending
  case cycle =>
    cases h : s.pins.resetLow with
    | true => rw [tick_low h]
    | false => rw [tick_high_eq h]; rfl
  case time =>
    have htb : (tick s).tb = (edge s).tb := by rw [tick_high_eq h]
    rw [htb]
    refine ⟨fun hslew => ?_, fun hslew => ?_, fun hslew => ?_⟩
    · simp [edge, tickNs, hslew]
    · simp [edge, tickNs, slewLeft, hslew]
    · simp [edge, tickNs, slewLeft, hslew, show ¬ 0 < s.tb.slew by omega]
  case folds =>
    cases h : s.pins.resetLow with
    | true => rw [tick_low h]; rfl
    | false =>
      have hfold : foldAt (tick s) n = foldAt (accrue (tickNs s.tb.slew) s) n := by rw [tick_high_eq h]; rfl
      rw [hfold]
      exact ((accrue_sameButFigures _ s).2 (canon_folds hcanon)).2 n
  case idle =>
    cases h : s.pins.resetLow with
    | true => rw [tick_low h]
    | false => rw [tick_high_idle h hcmds hheld htiles hwanted]; rfl

end

section
/-! SUPPORT. Writes of single entries (R198, R200, R254, R265, R268, R269, R304, R367, R368, R495): a scalar entry's write as its entry
takes it, when an arming of the grazing plan is valid, and what clearing the gauges leaves. -/

namespace Sys2Proof.Machine

/-! ### The write of a scalar entry (R492, R493, R495) -/

/-- The access that a row's write of an entry is. -/
def rowAccess (index sub : Nat) (bs : List Byte) : DictAccess :=
  { path := none, write := true, index := index, sub := sub, offset := 0, length := bs.length, bytes := bs }

theorem writeNow_rowAccess (index sub : Nat) (bs : List Byte) (s : State) :
    writeNow index sub bs s = (accessGo (rowAccess index sub bs) s).1 := rfl

/-- A right under which an entry may be written now. -/
def mayWrite (s : State) (r : Right) : Prop := r = .rw ∨ r = .wo ∨ (r = .rwl ∧ s.boot.locked = false)

theorem length_bytesOf {w : Nat} (n : Nat) (d : BitVec w) : (bytesOf n d).length = n := length_leBytes n d.toNat

theorem ofLe_bytesOf {w n : Nat} (d : BitVec w) (h : w = 8 * n) : ofLe (bytesOf n d) = d.toNat := by
  subst h
  rw [bytesOf, ofLe_leBytes, Nat.mod_eq_of_lt d.isLt]

section
variable {s : State} (hserve : bootOnly s = false) {index sub n x : Nat} {r : Right} {bs : List Byte}
  (hentry : dictEntry s index sub = scalarEntry n r x) (hlen : bs.length = n) (hn : 1 ≤ n ∧ n ≤ 256)
include hserve hentry hlen hn

/-- Once the dictionary serves, a scalar's write of its own length is judged by its right alone. -/
theorem judgeAccess_scalar : judgeAccess s (rowAccess index sub bs) =
    if r = .ro ∨ r = .const then dReadOnly else if r = .rwl ∧ s.boot.locked then dLocked else dOk := by
  simp [judgeAccess, accessShape, rowAccess, hserve, hentry, scalarEntry, hlen, within, hn]

theorem writeNow_scalar (hright : mayWrite s r) (hobject : index ≠ 0x4200) :
    writeNow index sub bs s = (dictPut none index sub 0 bs s).2 := by
  have hjudge : judgeAccess s (rowAccess index sub bs) = dOk := by
    rw [judgeAccess_scalar hserve hentry hlen hn]
    rcases hright with rfl | rfl | ⟨rfl, hopen⟩
    · rfl
    · rfl
    · simp [hopen]
  rw [writeNow_rowAccess, accessGo, hjudge]
  simp [rowAccess, hobject]

theorem writeNow_locked (hright : r = .rwl) (hlocked : s.boot.locked = true) : writeNow index sub bs s = s := by
  have hjudge : judgeAccess s (rowAccess index sub bs) = dLocked := by
    rw [judgeAccess_scalar hserve hentry hlen hn, hright, hlocked]
    rfl
  rw [writeNow_rowAccess, accessGo, hjudge]
  rfl

end

/-! ### What each entry makes of its value -/

theorem dictPut_configLock (v : Byte) (s : State) : (dictPut none 0x1002 1 0 [v] s).2 =
    if v = 0x4C then { s with boot := { s.boot with locked := true } } else s := by
  have hv : (ofLe [v] == 0x4C) = decide (v = 0x4C) := by
    rw [Bool.eq_iff_iff, beq_iff_eq, decide_eq_true_iff, ← BitVec.toNat_inj]
    rfl
  show (putIf (ofLe [v] == 0x4C) dValue { s with boot := { s.boot with locked := true } } s).2 = _
  rw [putIf, hv]
  by_cases h : v = 0x4C
  · rw [if_pos h, if_pos (decide_eq_true h)]
  · rw [if_neg h, if_neg (by simpa using h)]

theorem dictPut_2300 (sub : Nat) (bs : List Byte) (s : State) : dictPut none 0x2300 sub 0 bs s = put2300 s sub (ofLe bs) := rfl
theorem dictPut_2600 (sub : Nat) (bs : List Byte) (s : State) : dictPut none 0x2600 sub 0 bs s = put2600 s sub (ofLe bs) := rfl
theorem dictPut_3000 (sub : Nat) (bs : List Byte) (s : State) : dictPut none 0x3000 sub 0 bs s = put3000 s sub (ofLe bs) := rfl

theorem put2300_switch (v : W64) (s : State) : (put2300 s 2 v.toNat).2 = switchWrite v s := by
  simp only [put2300, BitVec.ofNat_toNat, BitVec.setWidth_eq]
  split
  · rfl
  · rfl

theorem put3000_lenSwitch (v : W64) (s : State) : (put3000 s 6 v.toNat).2 = lenSwitchWrite v s := by
  have hv : (v.toNat == 0 || decide (s.tb.epoch.toNat < v.toNat)) = decide (v = 0 ∨ s.tb.epoch.toNat < v.toNat) := by
    rw [Bool.eq_iff_iff, Bool.or_eq_true, beq_iff_eq, decide_eq_true_iff, decide_eq_true_iff, ← BitVec.toNat_inj]
    rfl
  simp only [put3000, BitVec.ofNat_toNat, BitVec.setWidth_eq, putIf, hv, decide_eq_true_iff]
  by_cases h : v = 0 ∨ s.tb.epoch.toNat < v.toNat
  · rw [if_pos h]
  · rw [if_neg h, lenSwitchWrite, if_neg h]

theorem put2600_start (v : W64) (s : State) : (put2600 s 5 v.toNat).2 = (twinArm v s).getD s := by
  simp only [put2600, BitVec.ofNat_toNat, BitVec.setWidth_eq]
  cases twinArm v s <;> rfl

section
variable {s : State} (hserve : bootOnly s = false)
include hserve

theorem exec_configLock (v : Byte) : exec (.configLock v) s =
    .next (pump (if v = 0x4C then { s with boot := { s.boot with locked := true } } else s)) := by
  have hwrite := writeNow_scalar (bs := [v]) hserve (index := 0x1002) (sub := 1) (n := 1) (r := .wo) (x := 0) rfl rfl (by decide)
    (.inr (.inl rfl)) (by decide)
  rw [dictPut_configLock] at hwrite
  exact congrArg (fun t => Host.Outcome.next (pump t)) hwrite

theorem exec_switchEpochWrite (v : W64) : exec (.switchEpochWrite v) s = .next (pump (switchWrite v s)) := by
  have hwrite := writeNow_scalar (bs := bytesOf 8 v) hserve (index := 0x2300) (sub := 2) (n := 8) (r := .rw)
    (x := s.graze.switchEpoch.toNat) rfl (length_bytesOf 8 v) (by decide) (.inl rfl) (by decide)
  rw [dictPut_2300, ofLe_bytesOf v rfl, put2300_switch] at hwrite
  exact congrArg (fun t => Host.Outcome.next (pump t)) hwrite

theorem exec_lenSwitchEpochWrite (v : W64) : exec (.lenSwitchEpochWrite v) s = .next (pump (lenSwitchWrite v s)) := by
  have hwrite := writeNow_scalar (bs := bytesOf 8 v) hserve (index := 0x3000) (sub := 6) (n := 8) (r := .rw)
    (x := s.tb.lenSwitch.toNat) rfl (length_bytesOf 8 v) (by decide) (.inl rfl) (by decide)
  rw [dictPut_3000, ofLe_bytesOf v rfl, put3000_lenSwitch] at hwrite
  exact congrArg (fun t => Host.Outcome.next (pump t)) hwrite

theorem exec_startEpochWrite (v : W64) : exec (.startEpochWrite v) s = .next (pump ((twinArm v s).getD s)) := by
  have hwrite := writeNow_scalar (bs := bytesOf 8 v) hserve (index := 0x2600) (sub := 5) (n := 8) (r := .rw)
    (x := s.twin.startEpoch.toNat) rfl (length_bytesOf 8 v) (by decide) (.inl rfl) (by decide)
  rw [dictPut_2600, ofLe_bytesOf v rfl, put2600_start] at hwrite
  exact congrArg (fun t => Host.Outcome.next (pump t)) hwrite

theorem exec_gaugeClear (v : W32) : exec (.gaugeClear v) s = .next (pump (clearGauges v s)) := by
  have hwrite := writeNow_scalar (bs := bytesOf 4 v) hserve (index := 0x6100) (sub := 1) (n := 4) (r := .wo)
    (x := 0) rfl (length_bytesOf 4 v) (by decide) (.inr (.inl rfl)) (by decide)
  have hput : (dictPut none 0x6100 1 0 (bytesOf 4 v) s).2 = clearGauges (BitVec.ofNat 32 (ofLe (bytesOf 4 v))) s := rfl
  rw [hput, ofLe_bytesOf v rfl, BitVec.ofNat_toNat, BitVec.setWidth_eq] at hwrite
  exact congrArg (fun t => Host.Outcome.next (pump t)) hwrite

theorem exec_hostCapNow (v : W32) : exec (.hostCapWrite true v) s = .next (pump (hostCapSet true v s)) := by
  have hwrite := writeNow_scalar (bs := bytesOf 4 v) hserve (index := 0x2000) (sub := 0x38) (n := 4) (r := .rw)
    (x := s.weirG.hostCapNow.toNat) rfl (length_bytesOf 4 v) (by decide) (.inl rfl) (by decide)
  have hput : (dictPut none 0x2000 0x38 0 (bytesOf 4 v) s).2 = hostCapSet true (BitVec.ofNat 32 (ofLe (bytesOf 4 v))) s := rfl
  rw [hput, ofLe_bytesOf v rfl, BitVec.ofNat_toNat, BitVec.setWidth_eq] at hwrite
  exact congrArg (fun t => Host.Outcome.next (pump t)) hwrite

/-- A locked host_cap is left, by the access or by its entry. -/
theorem exec_hostCap (v : W32) : exec (.hostCapWrite false v) s = .next (pump (hostCapSet false v s)) := by
  have hentry : dictEntry s 0x2000 0x37 = scalarEntry 4 .rwl s.weirG.hostCap.toNat := rfl
  cases hlocked : s.boot.locked with
  | true =>
    have hleft : hostCapSet false v s = s := by simp [hostCapSet, hlocked]
    rw [hleft]
    exact congrArg (fun t => Host.Outcome.next (pump t))
      (writeNow_locked hserve hentry (length_bytesOf 4 v) (by decide) rfl hlocked)
  | false =>
    have hwrite := writeNow_scalar hserve hentry (length_bytesOf 4 v) (by decide) (.inr (.inr ⟨rfl, hlocked⟩)) (by decide)
    have hput : (dictPut none 0x2000 0x37 0 (bytesOf 4 v) s).2 = hostCapSet false (BitVec.ofNat 32 (ofLe (bytesOf 4 v))) s := rfl
    rw [hput, ofLe_bytesOf v rfl, BitVec.ofNat_toNat, BitVec.setWidth_eq] at hwrite
    exact congrArg (fun t => Host.Outcome.next (pump t)) hwrite

end

/-! ### host_cap (R254, R265) -/

theorem setCapacity_host (v : W32) (s : State) : (setCapacity 3 v.toNat s).weirG.hostCap = s.weirG.hostCap ∧
    (setCapacity 3 v.toNat s).weirG.hostCapNow = v ∧
    (setCapacity 3 v.toNat s).weirG.capacityEvents = s.weirG.capacityEvents + (if v = s.weirG.hostCapNow then 0 else 1) := by
  obtain ⟨risen, h⟩ := setCapacity_weirG 3 v.toNat s
  rw [h]
  simp [putCapacity, capacityNow, BitVec.toNat_inj]

/-! ### Gauges cleared (R268, R269) -/

theorem clearFoldGauges_gauges (n : Nat) (s : State) : (clearFoldGauges n s).gauges =
    { s.gauges with folds := s.gauges.folds.filter fun p => p.1 / 8 != n } := rfl

/-- Clearing some folds' gauges leaves the table of gauges without their entries. -/
theorem forEach_clearFoldGauges (l : List Nat) (s : State) : (forEach l clearFoldGauges s).gauges =
    { s.gauges with folds := s.gauges.folds.filter fun p => decide (p.1 / 8 ∉ l) } := by
  induction l generalizing s with
  | nil => simp [forEach]
  | cons n l ih =>
    rw [forEach_cons, ih, clearFoldGauges_gauges]
    simp only [List.filter_filter, List.mem_cons, not_or, Bool.decide_and]
    congr 2
    funext p
    rw [Bool.and_comm]
    congr 1
    exact Bool.eq_iff_iff.mpr (by simp)

theorem clearGauges_folds (v : W32) (s : State) (n : Nat) {k : Nat} (hk : k < 8) :
    Tab.get Gauge.reset (clearGauges v s).gauges.folds (8 * n + k) =
      if n < 16 ∧ v.getLsbD n then Gauge.reset else Tab.get Gauge.reset s.gauges.folds (8 * n + k) := by
  have hfolds : (clearGauges v s).gauges.folds = (forEach (bitList 16 v) clearFoldGauges s).gauges.folds := by
    unfold clearGauges
    dsimp only
    split <;> rfl
  have hfold : (8 * n + k) / 8 = n := by omega
  rw [hfolds, forEach_clearFoldGauges, Tab.get_filter_keys Gauge.reset (fun a => decide (a / 8 ∉ bitList 16 v)), hfold]
  by_cases h : n < 16 ∧ v.getLsbD n = true
  · rw [if_pos h, if_neg (by simpa [mem_bitList] using h)]
  · rw [if_neg h, if_pos (decide_eq_true (mt mem_bitList.mp h))]

/-- The block's own gauges are cleared by bit 16 alone, and the two counts never. -/
theorem clearGauges_own (v : W32) (s : State) : (clearGauges v s).gauges = { if v.getLsbD 16 then { s.gauges with
      clkArr := Gauge.reset, clkHerd := Gauge.reset, power := Gauge.reset, temp := Gauge.reset, rails := [] } else s.gauges with
    folds := (clearGauges v s).gauges.folds } := by
  unfold clearGauges
  dsimp only
  rw [show bitAt v 16 = v.getLsbD 16 from rfl]
  split
  · rw [forEach_clearFoldGauges]
  · rw [forEach_clearFoldGauges]

/-! ### Arming the plan (R198, R200) -/

theorem ascending_iff {l : List Nat} : ascending l = true ↔ ∀ i, (h : i + 1 < l.length) → l[i] < l[i + 1] := by
  induction l with
  | nil => simp [ascending]
  | cons a l ih =>
    cases l with
    | nil => simp [ascending]
    | cons b l =>
      rw [ascending, Bool.and_eq_true, decide_eq_true_iff, ih]
      constructor
      · rintro ⟨hab, h⟩ i hi
        cases i with
        | zero => exact hab
        | succ i => exact h i (by simpa using hi)
      · exact fun h => ⟨h 0 (by simp), fun i hi => h (i + 1) (by simpa using hi)⟩

/-- The words of the bank that is not active, by their number. -/
def idleWord (s : State) (i : Nat) : W64 := Tab.get 0 (if s.graze.activeBank = 0 then s.graze.bank1 else s.graze.bank0) i
def idleCount (s : State) : Nat := if s.graze.activeBank = 0 then s.graze.count1.toNat else s.graze.count0.toNat

theorem inactiveWords_eq (s : State) : inactiveWords s = (idleCount s, (List.range (idleCount s)).map (idleWord s)) := rfl

/-- An arming is valid (R200): the plan begins at 0, its windows rise, and none grants an engine to a sealed fold or to none. -/
theorem planOk_iff {s : State} {v : W64} : planOk s v = true ↔ s.tb.epoch.toNat < v.toNat ∧ 1 ≤ idleCount s ∧ idleCount s ≤ 64 ∧
    ((idleWord s 0).extractLsb' 0 16).toNat = 0 ∧
    (∀ i, i + 1 < idleCount s → ((idleWord s i).extractLsb' 0 16).toNat < ((idleWord s (i + 1)).extractLsb' 0 16).toNat) ∧
    ∀ i, i < idleCount s → ∀ j, j < 16 → (idleWord s i).getLsbD (16 + j) = true →
      foldExists s j = true ∧ (foldAt s j).live.sealed = false := by
  have hfield (w : W64) : field w 0 16 = (w.extractLsb' 0 16).toNat := by simp [field]
  have hgrants (w : W64) : ((bitList 16 (bitsAt w 16 16)).all fun n => foldExists s n && !(foldAt s n).live.sealed) = true ↔
      ∀ j, j < 16 → w.getLsbD (16 + j) = true → foldExists s j = true ∧ (foldAt s j).live.sealed = false := by
    simp only [List.all_eq_true, mem_bitList, bitsAt, BitVec.getLsbD_extractLsb', Bool.and_eq_true, decide_eq_true_iff,
      Bool.not_eq_true', and_imp]
    exact forall_congr' fun j => ⟨fun h hj hb => h hj hj hb, fun h hj _ hb => h hj hb⟩
  have hhead (hn : 1 ≤ idleCount s) : ((List.range (idleCount s)).map (idleWord s)).headD 0 = idleWord s 0 := by
    obtain ⟨n, hn⟩ := Nat.exists_eq_add_of_le' hn
    rw [hn, List.range_succ_eq_map]
    rfl
  unfold planOk
  rw [inactiveWords_eq]
  simp only [Bool.and_eq_true, decide_eq_true_iff, beq_iff_eq, ascending_iff, List.all_eq_true, List.mem_map, List.mem_range,
    forall_exists_index, and_imp, forall_apply_eq_imp_iff₂, hgrants, hfield, List.length_map, List.length_range, List.getElem_map,
    List.getElem_range, and_assoc]
  exact and_congr_right fun _ => and_congr_right fun hn => by rw [hhead hn]

/-! ### The twin's start (R304) -/

theorem twinArm_zero (s : State) : twinArm 0 s = some { s with twin := { s.twin with startEpoch := 0, state := 0 } } := rfl

/-- A start needs the licence, a fold that leads its flock, and an epoch ahead. -/
def twinMayStart (v : W64) (s : State) : Prop :=
  s.ident.features.getLsbD 4 = true ∧ s.twin.fold.toNat < 16 ∧ (foldAt s s.twin.fold.toNat).member.lead = 1 ∧
    s.tb.epoch.toNat < v.toNat

theorem twinArm_refuses_iff (v : W64) (s : State) : (!licTwin s || decide (s.twin.fold.toNat ≥ 16) ||
    (foldAt s s.twin.fold.toNat).member.lead != 1 || decide (v.toNat ≤ s.tb.epoch.toNat)) = true ↔ ¬ twinMayStart v s := by
  rw [← not_iff_not, not_not]
  simp [twinMayStart, licTwin, bitAt, and_assoc]

theorem twinArm_start {v : W64} {s : State} (hv : v ≠ 0) (h : twinMayStart v s) : twinArm v s = some { s with twin := { s.twin with
    startEpoch := v, state := 1, own := [], partnerHeld := [], outgoing := [], done := [], silent := 0, heard := false,
    haltPending := false } } :=
  (if_neg hv).trans (if_neg fun hr => (twinArm_refuses_iff v s).mp hr h)

theorem twinArm_refused {v : W64} {s : State} (hv : v ≠ 0) (h : ¬ twinMayStart v s) : twinArm v s = none :=
  (if_neg hv).trans (if_pos ((twinArm_refuses_iff v s).mpr h))

end Sys2Proof.Machine

open Sys2Proof Sys2Proof.Machine

/-- Settles O31: each write comes to what its entry makes of the value, and each of those is read off its meaning. -/
theorem singleEntryWrites : Obligations.SingleEntryWrites := by
  unfold Obligations.SingleEntryWrites
  intro s hserve
  have next {i : Instr} {t u : State} (hexec : exec i s = .next (pump t)) (h : t = u) : exec i s = .next (pump u) := h ▸ hexec
  refine ⟨exec_configLock hserve, fun v hopen => ⟨_, exec_hostCap hserve v, ?cap⟩, fun v hlocked => next (exec_hostCap hserve v) ?locked,
    fun v => ⟨_, exec_hostCapNow hserve v, setCapacity_host v s⟩,
    fun v => ⟨_, exec_gaugeClear hserve v, fun n k hk => clearGauges_folds v s n hk, ?inst, ?counts⟩, fun v => ?plan,
    fun v => exec_lenSwitchEpochWrite hserve v, fun v => ?twin⟩
  case cap =>
    have hset : hostCapSet false v s = setCapacity 3 v.toNat { s with weirG := { s.weirG with hostCap := v } } := by
      simp [hostCapSet, hopen]
    rw [hset]
    exact setCapacity_host v _
  case locked => simp [hostCapSet, hlocked]
  case inst =>
    rw [clearGauges_own]
    split
    · exact ⟨rfl, rfl, rfl, rfl, fun _ => rfl⟩
    · exact ⟨rfl, rfl, rfl, rfl, rfl⟩
  case counts =>
    rw [clearGauges_own]
    split <;> exact ⟨rfl, rfl⟩
  case plan =>
    intro g n word start valid
    refine ⟨fun h => next (exec_switchEpochWrite hserve v) (if_pos (h.imp_right planOk_iff.mpr)), fun h0 h =>
      next (exec_switchEpochWrite hserve v) (if_neg (not_or.mpr ⟨h0, fun hok => h (planOk_iff.mp hok)⟩))⟩
  case twin =>
    intro t valid
    refine ⟨fun h => next (exec_startEpochWrite hserve v) ?_, fun hv h => next (exec_startEpochWrite hserve v) ?_,
      fun hv h => next (exec_startEpochWrite hserve v) ?_⟩
    · rw [h, twinArm_zero]
      rfl
    · rw [twinArm_start hv h]
      rfl
    · rw [twinArm_refused hv h]
      rfl

end

section
/-! SUPPORT. The timebase and what its time ends (R197, R202, R203, R253, R258, R262, R269, R361, R362, R364, R369): an edge at SYNC_IN with
the frame that describes it, windows of misses that judge one meter, and the refresh of a meter. -/

namespace Sys2Proof.Machine

theorem timeRow_high {s : State} (h : s.pins.resetLow = false) (act : State → State) : timeRow act s = .next (pump (act s)) := by
  simp [timeRow, h]

/-! ### An edge and the frame that describes it (R361, R362, R364) -/

/-- The frame that describes an edge at the present cycle, if any. -/
def dueFrame (s : State) : Option (FrameType × W64 × W64) :=
  match s.tb.frame with
  | some (ty, time, epoch, from') => if from' ≤ s.tb.cycle then some (ty, time, epoch) else none
  | none => none

/-- The frame that describes an edge is used up by it. -/
def frameTaken (s : State) : State := { s with tb := { s.tb with frame := none } }

theorem dueFrame_some {s : State} {ty : FrameType} {time epoch : W64} (h : dueFrame s = some (ty, time, epoch)) :
    ∃ c, s.tb.frame = some (ty, time, epoch, c) ∧ c ≤ s.tb.cycle := by
  unfold dueFrame at h
  split at h
  next ty' time' epoch' c hframe =>
    split at h
    next hc =>
      cases h
      exact ⟨c, hframe, hc⟩
    · cases h
  · cases h

theorem pulse_undescribed {s : State} (hfree : s.tb.state ≠ .freeRun) (hdue : dueFrame s = none) :
    pulse s = if s.tb.state = .unset then s else plainPulse none s := by
  unfold dueFrame at hdue
  unfold pulse
  cases hstate : s.tb.state with
  | freeRun => exact absurd hstate hfree
  | unset | locked =>
    cases hframe : s.tb.frame with
    | none => simp [hstate, hframe]
    | some f =>
      have hlate : ¬ f.2.2.2 ≤ s.tb.cycle := fun h => by simp [hframe, h] at hdue
      simp [hstate, hframe, hlate]

section
variable {s : State} {ty : FrameType} {time epoch : W64} (hdue : dueFrame s = some (ty, time, epoch))
include hdue

/-- In UNSET a frame acts on an edge as a LOAD alone. -/
theorem pulse_unset (hstate : s.tb.state = .unset) :
    pulse s = if ty = .load then loadFrame time epoch (frameTaken s) else frameError (frameTaken s) := by
  obtain ⟨c, hframe, hc⟩ := dueFrame_some hdue
  unfold pulse
  cases ty <;> simp [hstate, hframe, hc, frameTaken]

theorem pulse_locked (hstate : s.tb.state = .locked) : pulse s = if ty = .rephase then
      (if s.tb.boundaryCycle + lenCycles s / 2 ≤ s.tb.cycle then rephaseFrame time epoch (frameTaken s)
        else plainPulse none (frameError (frameTaken s)))
    else plainPulse (some (time, epoch)) (frameTaken s) := by
  obtain ⟨c, hframe, hc⟩ := dueFrame_some hdue
  unfold pulse
  cases ty <;> simp [hstate, hframe, hc, frameTaken, lenCycles]

end

/-- An edge within an eighth of the epoch of the prediction. -/
def nearPrediction (s : State) : Prop :=
  s.tb.predicted ≤ s.tb.cycle + syncW s ∧ s.tb.cycle ≤ s.tb.predicted + syncW s

theorem judgePulse_near {s : State} (hstate : s.tb.state = .locked) (h : nearPrediction s) : judgePulse s = .boundary := by
  simp only [judgePulse, hstate]
  exact if_pos h

theorem judgePulse_far {s : State} (hstate : s.tb.state = .locked) (h : ¬ nearPrediction s) : judgePulse s = .ignored := by
  simp only [judgePulse, hstate]
  exact if_neg h

/-- The state LOCKED as an accepted edge leaves it. -/
def lockedNow (s : State) : State := { s with tb := { s.tb with state := .locked, consecutive := 0, realign := false } }

theorem lock_locked {s : State} (hstate : s.tb.state = .locked) : lock s = lockedNow s := by
  simp [lock, lockedNow, hstate]

theorem plainPulse_far {s : State} (hstate : s.tb.state = .locked) (h : ¬ nearPrediction s) (f : Option (W64 × W64)) :
    plainPulse f s = raiseH 0x60 (if f.isSome then frameError s else s) := by
  rw [plainPulse.eq_def, judgePulse_far hstate h]

theorem plainPulse_near {s : State} (hstate : s.tb.state = .locked) (h : nearPrediction s) :
    plainPulse none s = predictFrom s.tb.cycle (boundary (s.tb.epoch + 1) s.tb.cycle (lockedNow s)) := by
  rw [plainPulse, judgePulse_near hstate h]
  dsimp only
  rw [lock_locked hstate]
  rfl

/-- The offset of a time against the timebase is recorded, and nothing is slewed. -/
def offsetNoted (time : W64) (s : State) : State :=
  { s with tb := { s.tb with lastOffset := BitVec.ofInt 32 ((time.toNat : Int) - s.tb.time.toNat), slew := 0 } }

/-- An offset of at most 10 ns is recorded and left (R362). -/
theorem correct_small {s : State} {time : W64} (hlo : s.tb.time.toNat ≤ time.toNat + 10) (hhi : time.toNat ≤ s.tb.time.toNat + 10) :
    correct (offsetOf s time) s = offsetNoted time s := by
  have hd : -10 ≤ offsetOf s time ∧ offsetOf s time ≤ 10 := by unfold offsetOf; omega
  have hsat : max (-2147483648) (min 2147483647 (offsetOf s time)) = offsetOf s time := by omega
  rw [correct, if_pos hd, hsat]
  rfl

theorem plainPulse_check {s : State} (hstate : s.tb.state = .locked) (h : nearPrediction s) {time : W64}
    (hlo : s.tb.time.toNat ≤ time.toNat + 10) (hhi : time.toNat ≤ s.tb.time.toNat + 10) :
    plainPulse (some (time, s.tb.epoch + 1)) s = predictFrom s.tb.cycle (boundary (s.tb.epoch + 1) s.tb.cycle (lockedNow
      (offsetNoted time s))) := by
  have hcheck : checkFrame time (s.tb.epoch + 1) (s.tb.epoch + 1) s = correct (offsetOf s time) s := by
    rw [checkFrame, if_pos rfl]
  rw [plainPulse, judgePulse_near hstate h]
  dsimp only
  rw [hcheck, correct_small hlo hhi, lock_locked (s := offsetNoted time s) hstate]
  rfl

/-- The epochs that a REPHASE passes over are counted. -/
def skipsNoted (epoch : W64) (s : State) : State :=
  { s with tb := { s.tb with skipped := s.tb.skipped + BitVec.ofNat 32 (epoch.toNat - (s.tb.epoch.toNat + 1)) } }

/-- A REPHASE that names a later epoch, with an offset of at most 10 ns. -/
theorem rephaseFrame_later {s : State} (hstate : s.tb.state = .locked) {time epoch : W64} (hepoch : s.tb.epoch.toNat < epoch.toNat)
    (hlo : s.tb.time.toNat ≤ time.toNat + 10) (hhi : time.toNat ≤ s.tb.time.toNat + 10) :
    rephaseFrame time epoch s =
      predictFrom s.tb.cycle (boundary epoch s.tb.cycle (lockedNow (offsetNoted time (skipsNoted epoch s)))) := by
  have hmax : BitVec.ofNat 64 (max epoch.toNat (s.tb.epoch.toNat + 1)) = epoch := by
    rw [max_eq_left (by omega), BitVec.ofNat_toNat, BitVec.setWidth_eq]
  have hlock : lock (correct (offsetOf (skipsNoted epoch s) time) (skipsNoted epoch s)) =
      lockedNow (offsetNoted time (skipsNoted epoch s)) := by
    rw [correct_small (s := skipsNoted epoch s) hlo hhi, lock_locked (s := offsetNoted time (skipsNoted epoch s)) hstate]
  rw [rephaseFrame]
  dsimp only
  rw [if_neg (by omega), hmax]
  exact congrArg (fun u => predictFrom s.tb.cycle (boundary epoch s.tb.cycle u)) hlock

/-! ### The prediction's expiry (R364) -/

theorem expiry_open {s : State} (hstate : s.tb.state = .locked) (h : s.tb.cycle < s.tb.predicted + syncW s) : expiry s = s := by
  simp [expiry, hstate, h]

/-- The window closed empty: the epoch begins at its end, and the fourth such window in a row runs free. -/
theorem expiry_closed {s : State} (hstate : s.tb.state = .locked) (h : s.tb.predicted + syncW s ≤ s.tb.cycle) :
    expiry s =
      let u := predictFrom s.tb.predicted (boundary (s.tb.epoch + 1) (s.tb.predicted + syncW s) s)
      let n := u.tb.consecutive + 1
      let slipped := raiseH 0x60 { u with tb := { u.tb with slips := u.tb.slips + 1, consecutive := n } }
      if n = 4 then
        raiseH 0x61 { slipped with tb := { slipped.tb with
          state := .freeRun, freeRunEntries := slipped.tb.freeRunEntries + 1, realign := false } }
      else slipped := by
  have hopen : ¬ s.tb.cycle < s.tb.predicted + syncW s := by omega
  rw [expiry, hstate]
  dsimp only
  rw [if_neg hopen]

/-! ### Work on one of many -/

/-- Where only one of a list's members does anything, the list is that member. -/
theorem forEach_only {α : Type} {l : List α} {x : α} {g : α → State → State} {s : State} (hx : x ∈ l) (hnodup : l.Nodup)
    (hbefore : ∀ y ∈ l, y ≠ x → g y s = s) (hafter : ∀ y ∈ l, y ≠ x → g y (g x s) = g x s) : forEach l g s = g x s := by
  obtain ⟨l1, l2, rfl⟩ := List.append_of_mem hx
  have hout : x ∉ l1 ∧ x ∉ l2 := by
    rw [List.nodup_append] at hnodup
    obtain ⟨-, hcons, hdisj⟩ := hnodup
    exact ⟨fun h => hdisj x h x (by simp) rfl, (List.nodup_cons.mp hcons).1⟩
  have h1 : forEach l1 g s = s := forEach_id _ _ _ fun y hy => hbefore y (by simp [hy]) fun e => hout.1 (e ▸ hy)
  have h2 : forEach l2 g (g x s) = g x s := forEach_id _ _ _ fun y hy => hafter y (by simp [hy]) fun e => hout.2 (e ▸ hy)
  rw [forEach, List.foldl_append]
  show forEach l2 g (g x (forEach l1 g s)) = g x s
  rw [h1, h2]

/-! ### Windows of misses (R262, R263) -/

/-- Writing what a key reads leaves the table. -/
theorem Tab.set_get {α : Type} [DecidableEq α] (d : α) {m : Tab α} (a : Nat) (h : Tab.wf d m = true) :
    Tab.set d m a (Tab.get d m a) = m := by
  have herase : ∀ (m : Tab α) (lo : Nat), Tab.wfFrom d lo m = true → Tab.get d m a = d → Tab.erase m a = m := by
    intro m
    induction m with
    | nil => exact fun _ _ _ => rfl
    | cons c m ih =>
      obtain ⟨k, v⟩ := c
      intro lo hm hget
      simp only [Tab.wfFrom, Bool.and_eq_true, decide_eq_true_iff] at hm
      obtain ⟨⟨-, hv⟩, hrest⟩ := hm
      by_cases hak : a = k
      · exact absurd (by simpa [Tab.get, hak] using hget) hv
      · rw [Tab.erase, if_neg hak, ih _ hrest (by simpa [Tab.get, hak] using hget)]
  have hput : ∀ (m : Tab α) (lo : Nat), Tab.wfFrom d lo m = true → Tab.get d m a ≠ d → Tab.put m a (Tab.get d m a) = m := by
    intro m
    induction m with
    | nil => exact fun _ _ hget => absurd rfl hget
    | cons c m ih =>
      obtain ⟨k, v⟩ := c
      intro lo hm hget
      simp only [Tab.wfFrom, Bool.and_eq_true, decide_eq_true_iff] at hm
      obtain ⟨-, hrest⟩ := hm
      by_cases hak : a = k
      · simp [Tab.put, Tab.get, hak]
      · simp only [Tab.get, hak, if_false] at hget ⊢
        have hlow : ¬ a < k := fun hlt => hget (Tab.get_below d hrest (by omega))
        rw [Tab.put, if_neg hlow, if_neg hak, ih _ hrest hget]
  unfold Tab.set
  split
  next hget => exact herase m 0 h hget
  next hget => exact hput m 0 h hget

theorem setFold_foldAt {s : State} (h : Tab.wf Fold.reset s.folds = true) (n : Nat) : setFold s n (foldAt s n) = s :=
  congrArg (fun fs => { s with folds := fs }) (Tab.set_get Fold.reset n h)

/-- Window's counts of a meter begin again. -/
def windowAgain (m : Meter) : Meter := { m with winBytes := 0, winHeld := 0 }

/-- The meters of a fold when a class's window ends without a miss. -/
def classAgain (n c : Nat) (s : State) : State := forEach (keysOf c) (fun k s => modMeter n k windowAgain s) s

/-- A meter and a fold with a miss counted. -/
def missedMeter (m : Meter) : Meter := { m with misses := satAdd m.misses 1, announced := true }
def missedFold (f : Fold) : Fold := { f with stmt := { f.stmt with missesNow := satAdd f.stmt.missesNow 1 } }

/-- A fold's meter changed. -/
def withMeter (k : Nat) (g : Meter → Meter) (f : Fold) : Fold :=
  { f with meters := Tab.set Meter.reset f.meters k (g (meterOf f k)) }

theorem modMeter_eq (n k : Nat) (g : Meter → Meter) (s : State) : modMeter n k g s = modFold s n (withMeter k g) := rfl

/-- A miss of a class whose window has begun again. -/
def missNoted (n c : Nat) (s : State) : State := modFold (modFold s n (withMeter c missedMeter)) n missedFold

theorem judgeMiss_eq (n ns c : Nat) (s : State) : judgeMiss n ns c s =
    if ((keysOf c).any fun k => fellShort (foldAt s n) k ns || lateNow (foldAt s n) k) = true then
      if (meterOf (foldAt s n) c).announced then missNoted n c (classAgain n c s)
      else raiseVector (foldAt s n).missVector (missNoted n c (classAgain n c s))
    else classAgain n c s := rfl

/-- A meter at its reset values neither falls short nor is late. -/
theorem meter_reset_good {f : Fold} {k : Nat} (h : meterOf f k = Meter.reset) (ns : Nat) :
    fellShort f k ns = false ∧ lateNow f k = false := by
  simp [fellShort, lateNow, h, Meter.reset]

/-- A meter table that lists one key, which a class does not have, is left by the end of the class's window. -/
theorem judgeMiss_idle {s : State} {n k c : Nat} {m : Meter} (hwf : Tab.wf Fold.reset s.folds = true)
    (hmeters : (foldAt s n).meters = [(k, m)]) (hk : k ∉ keysOf c) (ns : Nat) : judgeMiss n ns c s = s := by
  have hreset (j : Nat) (hj : j ∈ keysOf c) : meterOf (foldAt s n) j = Meter.reset := by
    have hne : j ≠ k := fun e => hk (e ▸ hj)
    simp [meterOf, hmeters, Tab.get, hne]
  have hgood : ((keysOf c).any fun j => fellShort (foldAt s n) j ns || lateNow (foldAt s n) j) = false := by
    rw [List.any_eq_false]
    intro j hj
    simp [meter_reset_good (hreset j hj) ns]
  rw [judgeMiss_eq, hgood]
  refine forEach_id _ _ _ fun j hj => ?_
  have hne : j ≠ k := fun e => hk (e ▸ hj)
  have hset : Tab.set Meter.reset (foldAt s n).meters j (windowAgain (meterOf (foldAt s n) j)) = (foldAt s n).meters := by
    rw [hreset j hj, hmeters]
    simp [Tab.set, windowAgain, Meter.reset, Tab.erase, hne]
  exact (congrArg (fun ms => setFold s n { foldAt s n with meters := ms }) hset).trans (setFold_foldAt hwf n)

theorem modFold_wf {s : State} (h : Tab.wf Fold.reset s.folds = true) (n : Nat) (g : Fold → Fold) :
    Tab.wf Fold.reset (modFold s n g).folds = true := Tab.set_wf _ _ _ h

theorem foldAt_modFold_self {s : State} (h : Tab.wf Fold.reset s.folds = true) (n : Nat) (g : Fold → Fold) :
    foldAt (modFold s n g) n = g (foldAt s n) := foldAt_setFold_self _ _ _ h

theorem foldAt_modFold_ne (s : State) {n j : Nat} (hj : j ≠ n) (g : Fold → Fold) : foldAt (modFold s n g) j = foldAt s j :=
  foldAt_setFold_ne _ _ hj.symm

/-- A table of one key, written twice. -/
theorem set_set_one {k : Nat} {m x y : Meter} (hy : y ≠ Meter.reset) :
    Tab.set Meter.reset (Tab.set Meter.reset [(k, m)] k x) k y = [(k, y)] := by
  unfold Tab.set
  rw [if_neg hy]
  split
  · simp [Tab.erase, Tab.put]
  · simp [Tab.put]

theorem get_set_one (k : Nat) (m x : Meter) : Tab.get Meter.reset (Tab.set Meter.reset [(k, m)] k x) k = x := by
  unfold Tab.set
  split
  next h => simp [Tab.erase, Tab.get, h]
  · simp [Tab.put, Tab.get]

/-- A miss of the one key that a fold's meters list. -/
theorem missedFold_meters {f : Fold} {k : Nat} {m : Meter} (h : f.meters = [(k, m)]) :
    (missedFold (withMeter k missedMeter (withMeter k windowAgain f))).meters = [(k, missedMeter (windowAgain m))] := by
  have hread : Tab.get Meter.reset [(k, m)] k = m := if_pos rfl
  simp only [missedFold, withMeter, h, hread, meterOf, get_set_one]
  exact set_set_one fun he => Bool.noConfusion (congrArg Meter.announced he : true = false)

/-- A class of one key that misses: the miss is counted and announced, and its window begins again. -/
theorem judgeMiss_missed {s : State} {n k ns : Nat} {m : Meter} (hwf : Tab.wf Fold.reset s.folds = true)
    (hmeters : (foldAt s n).meters = [(k, m)]) (hk : keysOf k = [k])
    (hmiss : fellShort (foldAt s n) k ns = true ∨ lateNow (foldAt s n) k = true) :
    Tab.wf Fold.reset (judgeMiss n ns k s).folds = true ∧
      (∀ j, j ≠ n → foldAt (judgeMiss n ns k s) j = foldAt s j) ∧
      (foldAt (judgeMiss n ns k s) n).meters = [(k, missedMeter (windowAgain m))] := by
  have hany : ((keysOf k).any fun j => fellShort (foldAt s n) j ns || lateNow (foldAt s n) j) = true := by simpa [hk] using hmiss
  have hagain : classAgain n k s = modFold s n (withMeter k windowAgain) := by
    rw [classAgain, hk, forEach_cons, forEach_nil, modMeter_eq]
  have hfolds : (judgeMiss n ns k s).folds = (missNoted n k (modFold s n (withMeter k windowAgain))).folds := by
    rw [judgeMiss_eq, if_pos hany, hagain]
    split
    · rfl
    · rw [raiseVector_eq]
  have hfold (j : Nat) : foldAt (judgeMiss n ns k s) j = foldAt (missNoted n k (modFold s n (withMeter k windowAgain))) j :=
    congrArg (fun fs => Tab.get Fold.reset fs j) hfolds
  have hwf1 := modFold_wf hwf n (withMeter k windowAgain)
  have hwf2 := modFold_wf hwf1 n (withMeter k missedMeter)
  refine ⟨hfolds ▸ modFold_wf hwf2 _ _, fun j hj => ?_, ?_⟩
  · rw [hfold, missNoted, foldAt_modFold_ne _ hj, foldAt_modFold_ne _ hj, foldAt_modFold_ne _ hj]
  · rw [hfold, missNoted, foldAt_modFold_self hwf2, foldAt_modFold_self hwf1, foldAt_modFold_self hwf]
    exact missedFold_meters hmeters

/-- The classes of one fold at a window's end. -/
def judgeFold (ns n : Nat) (s : State) : State :=
  if (!foldExists s n || (foldAt s n).meters.isEmpty) = true then s else forEach [0, 1, 2, 3] (judgeMiss n ns) s

theorem judgeWindow_eq (ns : Nat) (s : State) : judgeWindow ns s = forEach (List.range 16) (judgeFold ns) s := rfl

theorem judgeFold_idle {s : State} {n : Nat} (h : foldExists s n = false ∨ (foldAt s n).meters = []) (ns : Nat) :
    judgeFold ns n s = s := by
  refine if_pos ?_
  rcases h with h | h
  · rw [h]
    rfl
  · rw [h, List.isEmpty_nil, Bool.or_true]

theorem judgeWindow_none {s : State} (h : ∀ n, n < 16 → foldExists s n = false) (ns : Nat) : judgeWindow ns s = s :=
  forEach_id _ _ _ fun n hn => judgeFold_idle (.inl (h n (List.mem_range.mp hn))) ns

section
variable {s : State} {n k ns : Nat} {m : Meter} (hwf : Tab.wf Fold.reset s.folds = true) (hk : k < 4) (hk2 : k ≠ 2)
  (hmeters : (foldAt s n).meters = [(k, m)]) (hmiss : fellShort (foldAt s n) k ns = true ∨ lateNow (foldAt s n) k = true)
  (hexists : foldExists s n = true)
include hwf hk hk2 hmeters hmiss hexists

theorem judgeFold_one : judgeFold ns n s = judgeMiss n ns k s := by
  have hkeys (c : Nat) (hc : c ∈ [0, 1, 2, 3]) (hne : c ≠ k) : k ∉ keysOf c := by
    unfold keysOf
    split
    · simp only [List.mem_cons, List.not_mem_nil, or_false]
      omega
    · simpa using hne.symm
  have hmem : k ∈ [0, 1, 2, 3] := by
    simp only [List.mem_cons, List.not_mem_nil, or_false]
    omega
  obtain ⟨hwf', -, hmeters'⟩ := judgeMiss_missed hwf hmeters (if_neg hk2) hmiss
  unfold judgeFold
  rw [if_neg (by simp [hexists, hmeters])]
  exact forEach_only hmem (by decide) (fun c hc hne => judgeMiss_idle hwf hmeters (hkeys c hc hne) ns)
    fun c hc hne => judgeMiss_idle hwf' hmeters' (hkeys c hc hne) ns

/-- The one meter of the one fold that has any misses (R262, R263). -/
theorem judgeWindow_one (hn : n < 16) (hothers : ∀ j, j < 16 → j ≠ n → foldExists s j = false ∨ (foldAt s j).meters = []) :
    judgeWindow ns s = judgeMiss n ns k s := by
  have hone := judgeFold_one hwf hk hk2 hmeters hmiss hexists
  obtain ⟨-, hframe, -⟩ := judgeMiss_missed hwf hmeters (if_neg hk2) hmiss
  rw [judgeWindow_eq, forEach_only (List.mem_range.mpr hn) List.nodup_range
    (fun j hj hne => judgeFold_idle (hothers j (List.mem_range.mp hj) hne) ns) fun j hj hne => ?_, hone]
  rw [hone]
  refine judgeFold_idle ?_ ns
  have hj' := hothers j (List.mem_range.mp hj) hne
  unfold foldExists at hj' ⊢
  rwa [hframe j hne]

end

/-! ### The refresh of meters (R253, R258) -/

/-- One meter of a fold refreshed. -/
def refreshedMeter (f : Fold) (k : Nat) : Meter :=
  { meterOf f k with
    gTokens := refill (weirOf f (classOf k)).guarantee.toNat (meterOf f k).gTokens,
    cTokens := refill (ceilingOf f (classOf k)) (meterOf f k).cTokens }
def refreshedFold (f : Fold) (k : Nat) : Fold := { f with meters := Tab.set Meter.reset f.meters k (refreshedMeter f k) }

theorem refreshMeter_eq (n k : Nat) (s : State) : refreshMeter n k s = modFold s n fun f => refreshedFold f k := rfl

/-- Changes of one fold, one after the other, leave the others. -/
theorem foldAt_forEach_modFold {α : Type} (l : List α) (n : Nat) (g : Fold → α → Fold) {s : State}
    (hwf : Tab.wf Fold.reset s.folds = true) :
    Tab.wf Fold.reset (forEach l (fun k s => modFold s n fun f => g f k) s).folds = true ∧
      foldAt (forEach l (fun k s => modFold s n fun f => g f k) s) n = l.foldl g (foldAt s n) ∧
      ∀ j, j ≠ n → foldAt (forEach l (fun k s => modFold s n fun f => g f k) s) j = foldAt s j := by
  induction l generalizing s with
  | nil => exact ⟨hwf, rfl, fun _ _ => rfl⟩
  | cons k l ih =>
    obtain ⟨hwf', hself, hne⟩ := ih (s := modFold s n fun f => g f k) (Tab.set_wf _ _ _ hwf)
    rw [forEach_cons]
    refine ⟨hwf', hself.trans ?_, fun j hj => (hne j hj).trans (foldAt_setFold_ne _ _ hj.symm)⟩
    rw [modFold, foldAt_setFold_self _ _ _ hwf]
    rfl

/-- Where each step changes its own fold alone, a fold ends as its own step leaves it. -/
theorem foldAt_forEach_own {l : List Nat} {n : Nat} {g : Nat → State → State} {f' : Fold} {s : State} (hn : n ∈ l) (hnodup : l.Nodup)
    (hwf : Tab.wf Fold.reset s.folds = true)
    (hstep : ∀ x t, Tab.wf Fold.reset t.folds = true → Tab.wf Fold.reset (g x t).folds = true ∧
      ∀ j, j ≠ x → foldAt (g x t) j = foldAt t j)
    (hown : ∀ t, Tab.wf Fold.reset t.folds = true → foldAt t n = foldAt s n → foldAt (g n t) n = f') :
    foldAt (forEach l g s) n = f' := by
  have hothers (l : List Nat) (hl : n ∉ l) (t : State) (ht : Tab.wf Fold.reset t.folds = true) :
      Tab.wf Fold.reset (forEach l g t).folds = true ∧ foldAt (forEach l g t) n = foldAt t n := by
    induction l generalizing t with
    | nil => exact ⟨ht, rfl⟩
    | cons x l ih =>
      obtain ⟨hx, hxl⟩ := not_or.mp (List.mem_cons.not.mp hl)
      obtain ⟨hwf', hframe⟩ := hstep x t ht
      obtain ⟨h1, h2⟩ := ih hxl (g x t) hwf'
      exact ⟨h1, h2.trans (hframe n hx)⟩
  obtain ⟨l1, l2, rfl⟩ := List.append_of_mem hn
  have hout : n ∉ l1 ∧ n ∉ l2 := by
    rw [List.nodup_append] at hnodup
    obtain ⟨-, hcons, hdisj⟩ := hnodup
    exact ⟨fun h => hdisj n h n (by simp) rfl, (List.nodup_cons.mp hcons).1⟩
  obtain ⟨hwf1, hfold1⟩ := hothers l1 hout.1 s hwf
  rw [forEach, List.foldl_append]
  show foldAt (forEach l2 g (g n (forEach l1 g s))) n = f'
  rw [(hothers l2 hout.2 _ (hstep n _ hwf1).1).2, hown _ hwf1 hfold1]

/-- Each key of a fold's meters is refreshed once. -/
theorem meterOf_refreshed (l : List Nat) (hnodup : l.Nodup) {f : Fold} (hwf : Tab.wf Meter.reset f.meters = true) (k : Nat) :
    meterOf (l.foldl refreshedFold f) k = if k ∈ l then refreshedMeter f k else meterOf f k := by
  induction l generalizing f with
  | nil => simp
  | cons j l ih =>
    obtain ⟨hj, hl⟩ := List.nodup_cons.mp hnodup
    have hwf' : Tab.wf Meter.reset (refreshedFold f j).meters = true := Tab.set_wf _ _ _ hwf
    rw [List.foldl_cons, ih hl hwf']
    by_cases hk : k = j
    · subst hk
      rw [if_neg hj, if_pos (by simp)]
      exact Tab.get_set_self _ _ _ hwf
    · have hmeter : meterOf (refreshedFold f j) k = meterOf f k := Tab.get_set_ne _ _ _ (Ne.symm hk)
      have hother : refreshedMeter (refreshedFold f j) k = refreshedMeter f k := by
        rw [refreshedMeter, hmeter]
        rfl
      simp [hmeter, hother, hk]

theorem refreshMeters_none {s : State} (h : ∀ n, n < 16 → foldExists s n = false) : refreshMeters s = s := by
  refine forEach_id _ _ _ fun n hn => ?_
  rw [h n (List.mem_range.mp hn)]
  rfl

theorem meterOf_refreshMeters {s : State} {n k : Nat} (hwf : Tab.wf Fold.reset s.folds = true) (hn : n < 16) (hk : k < 5)
    (hexists : foldExists s n = true) (hmeters : Tab.wf Meter.reset (foldAt s n).meters = true) :
    meterOf (foldAt (refreshMeters s) n) k = refreshedMeter (foldAt s n) k := by
  have hfold : foldAt (refreshMeters s) n = [0, 1, 2, 3, 4].foldl refreshedFold (foldAt s n) := by
    refine foldAt_forEach_own (List.mem_range.mpr hn) List.nodup_range hwf (fun x t ht => ?step) fun t ht he => ?own
    case step =>
      split
      · exact ⟨ht, fun _ _ => rfl⟩
      · obtain ⟨h1, -, h2⟩ := foldAt_forEach_modFold [0, 1, 2, 3, 4] x refreshedFold ht
        exact ⟨h1, h2⟩
    case own =>
      have hthere : foldExists t n = true := by
        unfold foldExists at hexists ⊢
        rwa [he]
      rw [hthere]
      exact (foldAt_forEach_modFold [0, 1, 2, 3, 4] n refreshedFold ht).2.1.trans (by rw [he])
  rw [hfold, meterOf_refreshed _ (by decide) hmeters, if_pos (by simp; omega)]

end Sys2Proof.Machine
open Sys2Proof Sys2Proof.Machine

/-- Settles O56: each event is its meaning, and each clause is that meaning in the case it names. -/
theorem timebaseAndWindows : Obligations.TimebaseAndWindows := by
  unfold Obligations.TimebaseAndWindows
  intro s hhigh does b error fresh waits due s1 ends near
  have row {i : Instr} {act : State → State} {u : State} (hexec : exec i s = timeRow act s) (h : act s = u) : does i u := by
    rw [← h]
    exact hexec.trans (timeRow_high hhigh act)
  have gauge {g : GaugeId} {v : Nat} {u : State} (hvalid : (match g with
      | .rail i => decide (i < 8) | .fold n k => decide (n < 16) && decide (k < 8) | _ => true) = true) (h : sampleGauge g v s = u) :
      does (.gaugeSample g v) u := row (need_of_true hvalid) h
  have framed (ty : FrameType) (time epoch : W64) : frameIn ty time epoch s = waits ty time epoch := by
    rw [frameIn_eq]
    show _ = (fun (u : State) => { u with tb := { u.tb with frame := some (ty, time, epoch, u.tb.cycle + 100) } }) fresh
    have hfresh : (if s.tb.frame.isSome = true then frameError s else s) = fresh := by
      show _ = if s.tb.frame = none then s else frameError s
      cases s.tb.frame <;> rfl
    rw [← hfresh]
  have taken {ty : FrameType} {time epoch : W64} (h : due = some (ty, time, epoch)) : s1 = frameTaken s := if_neg (by simp [h])
  refine ⟨fun time epoch => ⟨row rfl (framed _ _ _), row rfl (framed _ _ _), row rfl (framed _ _ _)⟩, row rfl rfl,
    fun hstate => ⟨?unset, ?load, ?other⟩, fun hstate => ?locked, fun w hw => ?window, ?misses, ?noRefresh, ?refresh, fun v => ?gauges⟩
  case unset =>
    have hfree : s.tb.state ≠ .freeRun := fun h => TbState.noConfusion (hstate.symm.trans h)
    exact fun hnone => row rfl ((pulse_undescribed hfree hnone).trans (if_pos hstate))
  case load =>
    intro time epoch hload
    refine row rfl ((pulse_unset (s := s) hload hstate).trans ?_)
    rw [if_pos rfl, taken hload]
    rfl
  case other =>
    intro ty time epoch hframe hload
    refine row rfl ((pulse_unset (s := s) hframe hstate).trans ?_)
    rw [if_neg hload, taken hframe]
    rfl
  case locked =>
    have hfree : s.tb.state ≠ .freeRun := fun h => TbState.noConfusion (hstate.symm.trans h)
    have hset : s.tb.state ≠ .unset := fun h => TbState.noConfusion (hstate.symm.trans h)
    intro locked
    refine ⟨fun hnone => ⟨fun h => row rfl ?_, fun h => row rfl ?_⟩, fun time epoch hcheck => ⟨fun h he hlo hhi => row rfl ?_, fun h =>
      row rfl ?_⟩, fun time epoch hre hlate he hlo hhi => row rfl ?_, fun h => row rfl (expiry_open hstate h), fun h => ?_⟩
    · rw [pulse_undescribed hfree hnone, if_neg hset, plainPulse_near hstate h]
      rfl
    · rw [pulse_undescribed hfree hnone, if_neg hset, plainPulse_far hstate h]
      rfl
    · rw [pulse_locked (s := s) hcheck hstate, if_neg (by decide), he, taken hcheck]
      exact plainPulse_check (s := frameTaken s) hstate h hlo hhi
    · rw [pulse_locked (s := s) hcheck hstate, if_neg (by decide), plainPulse_far (s := frameTaken s) hstate h, taken hcheck]
      rfl
    · rw [pulse_locked (s := s) hre hstate, if_pos rfl, if_pos hlate, taken hre]
      exact rephaseFrame_later (s := frameTaken s) hstate he hlo hhi
    · have hclosed := expiry_closed hstate h
      dsimp only [b] at hclosed ⊢
      exact ⟨fun hn => row rfl (hclosed.trans (if_neg hn)), fun hn => row rfl (hclosed.trans (if_pos hn))⟩
  case window =>
    exact ⟨fun h => row (need_of_true (by simp [hw])) (if_pos h), fun h => row (need_of_true (by simp [hw])) (if_neg h)⟩
  case misses =>
    intro over'
    have hover : over' ↔ ¬ (s.tb.state = .unset ∨ sinceBoundary s = 0 ∨ sinceBoundary s % 10000 ≠ 0) := by
      simp [over', b, not_or]
    refine ⟨fun h => row rfl (if_pos (not_not.mp (mt hover.mpr h))), fun h hnone => row rfl ((if_neg (hover.mp h)).trans
      (judgeWindow_none hnone 10000)), fun n k h hn hk hcanon hothers hexists hmeters hk2 hmiss => ?_⟩
    have hwf := canon_folds hcanon
    obtain ⟨-, -, hjudged⟩ := judgeMiss_missed hwf hmeters (if_neg hk2) hmiss
    have hmeter : meterOf (foldAt (judgeMiss n 10000 k s) n) k = missedMeter (windowAgain (meterOf (foldAt s n) k)) := by
      rw [meterOf, hjudged]
      exact if_pos rfl
    refine ⟨judgeMiss n 10000 k s, row rfl ((if_neg (hover.mp h)).trans
      (judgeWindow_one hwf hk hk2 hmeters hmiss hexists hn hothers)), ?_⟩
    rw [hmeter]
    exact ⟨rfl, rfl, rfl⟩
  case noRefresh => exact fun hnone => row rfl (refreshMeters_none hnone)
  case refresh =>
    intro n k hn hk hcanon hexists hmeters
    refine ⟨refreshMeters s, row rfl rfl, ?_⟩
    rw [meterOf_refreshMeters (canon_folds hcanon) hn hk hexists hmeters]
    exact ⟨rfl, rfl⟩
  case gauges =>
    refine ⟨gauge rfl rfl, gauge rfl rfl, gauge rfl rfl, gauge rfl rfl, fun i hi => gauge (decide_eq_true hi) rfl, fun n hn =>
      ⟨gauge (by simp [hn]) rfl, gauge (by simp [hn]) ?_⟩⟩
    simp [sampleGauge, List.range_succ, add_assoc]

end

section
/-! SUPPORT. The image of a model as its load copies it (R216, R218, R221): what fetching and writing its beats leave of a lone
command. -/

namespace Sys2Proof.Machine

/-! ### Beats of a range (R267) -/

/-- Enough cuts give back the length of the range. -/
theorem cutAt_sum {size : Nat} (hsize : 0 < size) (fuel a n : Nat) (h : n + a % size ≤ size * fuel) :
    ((cutAt size fuel a n).map fun b => b.2).sum = n := by
  induction fuel generalizing a n with
  | zero =>
    have hn : n = 0 := by omega
    simp [cutAt, hn]
  | succ fuel ih =>
    have hmod : a % size < size := Nat.mod_lt _ hsize
    rw [Nat.mul_succ] at h
    by_cases hn : n = 0
    · simp [cutAt, hn]
    have hrest : ((cutAt size fuel (a + min n (size - a % size)) (n - min n (size - a % size))).map fun b => b.2).sum =
        n - min n (size - a % size) := by
      by_cases hle : n ≤ size - a % size
      · rw [min_eq_left hle, Nat.sub_self]
        cases fuel <;> simp [cutAt]
      · have hnext : (a + (size - a % size)) % size = 0 := by
          have hdiv := Nat.div_add_mod a size
          rw [show a + (size - a % size) = size * (a / size + 1) by rw [Nat.mul_succ]; omega]
          exact Nat.mul_mod_right _ _
        rw [min_eq_right (by omega)]
        exact ih _ _ (by rw [hnext]; omega)
    rw [cutAt, if_neg hn]
    simp only [List.map_cons, List.sum_cons, hrest]
    omega

theorem beatsAt_sum (a n : Nat) : ((beatsAt a n).map fun b => b.2).sum = n := by
  have hmod : a % 256 < 256 := Nat.mod_lt _ (by decide)
  exact cutAt_sum (by decide) _ _ _ (by omega)

/-! ### A lone command that keeps bytes -/

theorem lone.modCmd {s : State} {c : Cmd} (h : lone s c) {g : Cmd → Cmd} (hp : (g c).phase = c.phase) (hb : (g c).boosted = c.boosted) :
    lone (modCmd s c.uid g) (g c) := by
  obtain ⟨hs, hc, hun, hboost, hrest⟩ := h
  have hc' : (Machine.modCmd s c.uid g).cmds = [g c] := by simp [Machine.modCmd, hc]
  have hun' : unclaiming (g c).phase = true := hp ▸ hun
  refine ⟨?_, hc', hun', hb ▸ hboost, hrest⟩
  unfold still at hs ⊢
  simp only [unitClaimed_unclaiming hc hun] at hs
  simp only [unitClaimed_unclaiming hc' hun']
  exact hs

/-- The lone command is c, but for the bytes that it keeps of an image and of what it fetches. -/
def copying (c : Cmd) (got : List Byte) (s : State) : Prop := ∃ coll, lone s { c with got := got, coll := coll }

section
variable {c : Cmd} {got : List Byte} {s t : State}

theorem copying.keeps (h : copying c got s) (hst : keepsLone s t) : copying c got t := by
  obtain ⟨coll, hl⟩ := h
  exact ⟨coll, hst _ hl⟩

theorem copying.modColl (h : copying c got s) (g : CollState → CollState) :
    copying c got (modCmd s c.uid fun x => { x with coll := g x.coll }) := by
  obtain ⟨coll, hl⟩ := h
  exact ⟨g coll, hl.modCmd (g := fun x => { x with coll := g x.coll }) rfl rfl⟩

theorem copying.modGot (h : copying c got s) (g : List Byte → List Byte) :
    copying c (g got) (modCmd s c.uid fun x => { x with got := g x.got }) := by
  obtain ⟨coll, hl⟩ := h
  exact ⟨coll, hl.modCmd (g := fun x => { x with got := g x.got }) rfl rfl⟩

end

/-! ### Fetching a range (R156, R160) -/

theorem onBehalfOfNone_keepsLone (s : State) : keepsLone s (onBehalfOfNone s) := fun _ h => h

theorem memBytes_length (mem off n : Nat) (s : State) : (memBytes mem off n s).1.length = n := by
  unfold memBytes
  split
  · exact memRead_length _ _ _
  · exact memRead_length _ _ _
  · simp
  · exact memRead_length _ _ _

theorem locRead_length {tag : W16} {mem off n : Nat} {bs : List Byte} {s t : State} (h : locRead tag mem off n s = (.ok bs, t)) :
    bs.length = n := by
  unfold locRead at h
  split at h
  · cases h
  split at h
  · cases h
  split at h
  · cases h
  obtain ⟨hbs, -⟩ := Prod.mk.inj h
  cases hbs
  exact memBytes_length mem off n s

theorem cmdReach_keepsLone {c : Cmd} {place va mem off : Nat} {a : AccessKind} {s t : State}
    (h : cmdReach c place va a s = (.loc mem off, t)) : keepsLone s t := by
  unfold cmdReach at h
  split at h
  · obtain ⟨-, rfl⟩ := Prod.mk.inj h
    exact .refl s
  · exact reach_keepsLone h

section
variable {c x : Cmd} {got bs : List Byte} {place va n : Nat} {master : W16} {s t : State}

/-- A piece that is read here is kept by the command. -/
theorem fetchPiece_copying (hx : x.uid = c.uid) (h : fetchPiece x place master va n s = (.ok bs, t)) (hc : copying c got s) :
    copying c got t ∧ bs.length = n := by
  unfold fetchPiece at h
  split at h
  next mem off s1 hreach =>
    split at h
    next bs' s2 hread =>
      obtain ⟨hbs, rfl⟩ := Prod.mk.inj h
      cases hbs
      rw [hx]
      have hc2 := (hc.keeps (cmdReach_keepsLone hreach)).keeps (locRead_keepsLone hread)
      exact ⟨hc2.modColl fun k => { k with parts := k.parts ++ [(va, bs)] }, locRead_length hread⟩
    all_goals cases h
  all_goals cases h

/-- What waits for a peer's answer is not whole. -/
theorem fetchPieces_waits (l : List (Nat × Nat)) (uid : Nat) (acc : List Byte) (s : State) :
    ∀ bs, (fetchPieces uid place master l acc true s).1 ≠ .ok bs := by
  induction l generalizing acc s with
  | nil => exact fun _ => nofun
  | cons p l ih =>
    obtain ⟨va, n⟩ := p
    intro bs
    unfold fetchPieces
    split
    · exact nofun
    split
    · exact ih _ _ bs
    split
    · exact ih _ _ bs
    · exact ih _ _ bs
    next hok _ => exact fun he => hok bs _ (Prod.ext he rfl)

theorem fetchPieces_copying {l : List (Nat × Nat)} {acc : List Byte}
    (h : fetchPieces c.uid place master l acc false s = (.ok bs, t)) (hc : copying c got s) :
    copying c got t ∧ bs.length = acc.length + (l.map fun p => p.2).sum := by
  induction l generalizing acc s with
  | nil =>
    rw [fetchPieces] at h
    obtain ⟨hbs, rfl⟩ := Prod.mk.inj h
    cases hbs
    exact ⟨hc, rfl⟩
  | cons p l ih =>
    obtain ⟨va, n⟩ := p
    have hnext {bs' : List Byte} {s1 : State} (hlen : bs'.length = n) (hc1 : copying c got s1)
        (h1 : fetchPieces c.uid place master l (acc ++ bs') false s1 = (.ok bs, t)) :
        copying c got t ∧ bs.length = acc.length + (((va, n) :: l).map fun p => p.2).sum := by
      obtain ⟨hct, hl⟩ := ih h1 hc1
      refine ⟨hct, ?_⟩
      rw [hl, List.length_append, hlen, List.map_cons, List.sum_cons, Nat.add_assoc]
    unfold fetchPieces at h
    split at h
    · cases h
    next x hx =>
      have huid : x.uid = c.uid := by simpa using List.find?_some hx
      split at h
      next bs' hpart =>
        refine hnext ?_ hc h
        obtain ⟨y, hy, rfl⟩ := Option.map_eq_some_iff.mp hpart
        have hfound := List.find?_some hy
        rw [Bool.and_eq_true, beq_iff_eq, beq_iff_eq] at hfound
        exact hfound.2
      split at h
      next hpiece =>
        obtain ⟨hc1, hlen⟩ := fetchPiece_copying huid hpiece hc
        exact hnext hlen hc1 h
      next => exact absurd (congrArg Prod.fst h) (fetchPieces_waits _ _ _ _ _)
      next hok _ => exact absurd h (hok _ _)

theorem fetchRange_copying (h : fetchRange c place master va n s = (.ok bs, t)) (hc : copying c got s) :
    copying c got t ∧ bs.length = n := by
  unfold fetchRange at h
  split at h
  next bs' s1 hpieces =>
    obtain ⟨hbs, rfl⟩ := Prod.mk.inj h
    cases hbs
    obtain ⟨hc1, hlen⟩ := fetchPieces_copying hpieces (hc.keeps (onBehalf_keepsLone _ _ s))
    rw [beatsAt_sum, List.length_nil, Nat.zero_add] at hlen
    have hc2 := hc1.modColl fun k => { k with parts := k.parts.filter fun p => !(decide (va ≤ p.1) && decide (p.1 < va + n)) }
    exact ⟨hc2.keeps (onBehalfOfNone_keepsLone _), hlen⟩
  next hok _ =>
    obtain ⟨hg, -⟩ := Prod.mk.inj h
    exact (hok bs hg).elim

end

/-! ### Writing a home (R218, R221) -/

theorem charge_contextTlp_keepsLone (tag : W16) (mem : Nat) (write relaxed : Bool) (a n : Nat) (s : State) :
    keepsLone s (if mem = 3 then contextTlp tag write relaxed a n s else s) := by
  split
  · exact fun _ h => h
  · exact .refl s

theorem putBytes_keepsLone (tag : W16) (mem off : Nat) (bs : List Byte) (s : State) : keepsLone s (putBytes tag mem off bs s) := by
  have hdraw : keepsLone s (drawChoice s).2 := fun _ h => h
  unfold putBytes
  split
  · have hput := hdraw.trans ((memStore_keepsLone mem off bs _).trans (charge_keepsLone tag mem off bs.length true _))
    dsimp only
    split
    · exact hput.trans fun _ h => h
    · exact hput
  · exact (memStore_keepsLone mem off bs s).trans
      ((charge_contextTlp_keepsLone tag mem true (relaxes s) off bs.length _).trans (charge_keepsLone tag mem off bs.length true _))

theorem locWrite_keepsLone {tag : W16} {mem off : Nat} {bs bs' : List Byte} {s t : State}
    (h : locWrite tag mem off bs s = (.ok bs', t)) : keepsLone s t := by
  unfold locWrite at h
  split at h
  · cases h
  split at h
  · cases h
  split at h
  · cases h
  obtain ⟨-, rfl⟩ := Prod.mk.inj h
  exact putBytes_keepsLone tag mem off bs s

theorem writePa_keepsLone {tag : W16} {pa : Nat} {l : List (Nat × Nat)} {bs bs' : List Byte} {s t : State}
    (h : writePa tag pa l bs s = (.ok bs', t)) : keepsLone s t := by
  induction l generalizing bs s with
  | nil =>
    obtain ⟨-, rfl⟩ := Prod.mk.inj h
    exact .refl s
  | cons p l ih =>
    obtain ⟨a, n⟩ := p
    unfold writePa at h
    split at h
    · split at h
      next hwrite => exact (locWrite_keepsLone hwrite).trans (ih h)
      next hok => exact absurd h (hok _ _)
    · cases h

theorem zeroPond_keepsLone (h : BitVec 256) (s : State) : keepsLone s (zeroPond h s) := fun _ hl => hl

theorem restoreLines_keepsLone (tag : W16) (h : BitVec 256) (ls : List Nat) (s : State) : keepsLone s (restoreLines tag h ls s) := by
  refine forEach_keepsLone _ _ (fun l s => ?_) s
  split
  next mem off _ =>
    have hwrite (t : State) (m : Mem) : keepsLone t { t with pond := m } := fun _ hl => hl
    exact (memBytes_keepsLone mem off 4096 s).trans ((hwrite _ _).trans (charge_keepsLone tag mem off 4096 false _))
  · exact .refl s

/-! ### Copying an image (R218, R221) -/

section
variable {c x : Cmd} {got : List Byte} {src home k len uid : Nat} {s t : State} {dg : W64}

/-- A beat that is fetched and written leaves its bytes with the command. -/
theorem copyBeat_eq {bs w : List Byte} {s1 s2 : State}
    (hfetch : fetchRange c (moverPlace c) (moverMaster c) (src + c.got.length) k s = (.ok bs, s1))
    (hwrite : writePa c.tag (home + c.got.length) (pagesOf (home + c.got.length) k) bs (onBehalf c.uid (moverMaster c) s1) = (.ok w, s2)) :
    copyBeat c src home k s = (.ok 0, onBehalfOfNone (modCmd s2 c.uid fun x => { x with got := x.got ++ bs })) := by
  rw [copyBeat]
  dsimp only
  rw [hfetch]
  dsimp only
  rw [hwrite]

theorem copyBeat_ok (h : copyBeat c src home k s = (.ok dg, t)) : ∃ bs w s1 s2,
    fetchRange c (moverPlace c) (moverMaster c) (src + c.got.length) k s = (.ok bs, s1) ∧
    writePa c.tag (home + c.got.length) (pagesOf (home + c.got.length) k) bs (onBehalf c.uid (moverMaster c) s1) = (.ok w, s2) ∧
    t = onBehalfOfNone (modCmd s2 c.uid fun x => { x with got := x.got ++ bs }) := by
  unfold copyBeat at h
  dsimp only at h
  split at h
  next bs s1 hfetch =>
    split at h
    next w s2 hwrite =>
      obtain ⟨-, rfl⟩ := Prod.mk.inj h
      exact ⟨bs, w, s1, s2, hfetch, hwrite, rfl⟩
    all_goals cases h
  all_goals cases h

theorem copyBeat_copying (hx : x = { c with got := x.got, coll := x.coll }) (h : copyBeat x src home k s = (.ok dg, t))
    (hc : copying c got s) : ∃ bs, copying c (got ++ bs) t := by
  obtain ⟨bs, w, s1, s2, hfetch, hwrite, rfl⟩ := copyBeat_ok h
  have huid : x.uid = c.uid := by rw [hx]
  have hcx : copying x got s := by
    obtain ⟨coll, hl⟩ := hc
    rw [hx]
    exact ⟨coll, hl⟩
  obtain ⟨h1, -⟩ := fetchRange_copying hfetch hcx
  have h2 : copying c got s2 := by
    obtain ⟨coll, hl⟩ := (h1.keeps (onBehalf_keepsLone _ _ s1)).keeps (writePa_keepsLone hwrite)
    rw [hx] at hl
    exact ⟨coll, hl⟩
  rw [huid]
  exact ⟨bs, (h2.modGot (· ++ bs)).keeps (onBehalfOfNone_keepsLone _)⟩

theorem copyBeats_copying {fuel : Nat} (h : copyBeats c.uid src len home fuel s = (.ok dg, t)) (hc : copying c got s) :
    copying c [] t := by
  induction fuel generalizing got s with
  | zero => cases h
  | succ fuel ih =>
    obtain ⟨coll, hl⟩ := id hc
    have hat : cmdAt s c.uid = some { c with got := got, coll := coll } := hl.cmdAt
    rw [copyBeats, hat] at h
    dsimp only at h
    split at h
    · obtain ⟨-, rfl⟩ := Prod.mk.inj h
      exact hc.modGot fun _ => []
    split at h
    next hbeat =>
      obtain ⟨bs, h1⟩ := copyBeat_copying rfl hbeat hc
      exact ih h h1
    next hok => exact absurd h (hok _ _)

theorem copyImage_copying {n h : Nat} {lines : List Nat} {src : W64} (hcopy : copyImage c n src len h lines s = (.ok dg, t))
    (hc : copying c got s) : copying c [] t := by
  unfold copyImage at hcopy
  dsimp only at hcopy
  split at hcopy
  next hbeats =>
    obtain ⟨-, rfl⟩ := Prod.mk.inj hcopy
    exact ((copyBeats_copying hbeats hc).keeps (zeroPond_keepsLone _ _)).keeps (restoreLines_keepsLone _ _ _ _)
  next hok => exact absurd hcopy (hok _ _)

end

end Sys2Proof.Machine
end

section
/-! SUPPORT. MODEL_LOAD and MODEL_EVICT accepted in a block at rest (R216, R218, R219, R222). -/

namespace Sys2Proof.Machine

/-! ### Directory entries and bindings of a lone command -/

theorem modFold_keepsLone (s : State) (n : Nat) {g : Fold → Fold} (hg : ∀ f, (g f).state = f.state ∧ (g f).resv = f.resv) :
    keepsLone s (modFold s n g) := setFold_keepsLone s n (hg _)

theorem setModels_keepsLone (n : Nat) (ms : List Model) (s : State) : keepsLone s (setModels n ms s) :=
  modFold_keepsLone s n fun _ => ⟨rfl, rfl⟩

theorem modModel_keepsLone (n : Nat) (id : W64) (g : Model → Model) (s : State) : keepsLone s (modModel n id g s) :=
  setModels_keepsLone n _ s

theorem evictModel_keepsLone (n : Nat) (id : W64) (s : State) : keepsLone s (evictModel n id s) :=
  modFold_keepsLone s n fun _ => ⟨rfl, rfl⟩

theorem modCtx_keepsLone (s : State) (slot : Nat) {g : Ctx → Ctx} (hg : ∀ x, (g x).boosted = x.boosted) : keepsLone s (modCtx s slot g) := by
  rintro c ⟨hs, hc, hp, hb, hctx, hrest⟩
  refine ⟨hs, hc, hp, hb, Tab.all_set (q := fun y : Ctx => !y.boosted) hctx ?_, hrest⟩
  rw [hg]
  exact Tab.get_of_all Ctx.reset (fun y => !y.boosted) s.ctxs slot (by decide) hctx

/-- A context is bound to the model that its load has brought, if the load says so. -/
def boundAfter (c : Cmd) (s : State) : State := if mlBind c.desc then bindModel c.tag (mlId c.desc) s else s

theorem boundAfter_keepsLone (c : Cmd) (s : State) : keepsLone s (boundAfter c s) := by
  unfold boundAfter
  split
  · exact modCtx_keepsLone s _ fun _ => rfl
  · exact .refl s

/-- The end of a copying command that came by a queue leaves the block at rest. -/
theorem copying.complete_resting {c : Cmd} {got : List Byte} {s : State} (h : copying c got s) (hop : 2 < opcodeOf c.desc)
    (hin : c.carriedIn = none) (r : Done) : resting (complete c.uid r s) := by
  obtain ⟨coll, hl⟩ := h
  exact hl.complete_resting hop hin r

/-! ### What a directory change leaves (R216) -/

/-- Evictions from a directory leave the fold's homes. -/
theorem homeOf_evicted {s : State} (hwf : Tab.wf Fold.reset s.folds = true) (n i : Nat) (ids : List W64) :
    homeOf (foldAt (forEach ids (evictModel n) s) n) i = homeOf (foldAt s n) i := by
  induction ids generalizing s with
  | nil => rfl
  | cons id ids ih =>
    have hone : foldAt (evictModel n id s) n = _ := foldAt_modFold_self hwf n _
    rw [forEach_cons, ih (s := evictModel n id s) (modFold_wf hwf n _), hone]
    rfl

/-! ### Starting a load (R218) -/

/-- The directory entry that a new load takes. -/
def loadingModel (c : Cmd) : Model :=
  { id := mlId c.desc, home := mlHome c.desc, state := 1, length := mlLen c.desc, digest := 0, src := mlSrc c.desc, loader := c.tag,
    lastDispatch := 0, written := [], saved := [] }

/-- The directory with the entry of a new load. -/
def entryTaken (c : Cmd) (s : State) : State := setModels (tagFold c.tag) (modelsOf s (tagFold c.tag) ++ [loadingModel c]) s

/-- The rivals of a home are gone. -/
def rivalsEvicted (n h : Nat) (id : W64) (s : State) : State :=
  forEach ((overlapping s n h id).map fun m => m.id) (evictModel n) s

theorem homeHeld_free {s : State} {n h : Nat} {id : W64}
    (hfree : ∀ x ∈ overlapping s n h id, modelInUse s n x.id = false ∧ x.state ≠ 1) : homeHeld s n h id = false := by
  rw [homeHeld, List.any_eq_false]
  intro m hm
  obtain ⟨huse, hstate⟩ := hfree m hm
  simp [huse, hstate]

/-- A fold with one more hit counted. -/
def hitCounted (f : Fold) : Fold := { f with sched := { f.sched with hits := f.sched.hits + 1 } }

section
variable {c : Cmd} {s : State} (hargs : loadArgsOk s c = true)
include hargs

theorem startLoad_resident {m : Model} (hat : modelAt s (tagFold c.tag) (mlId c.desc) = some m) (hhome : m.home = mlHome c.desc)
    (hstate : m.state = 2) (hlen : m.length = mlLen c.desc) :
    startLoad c s = complete c.uid (Done.withDigest m.digest) (boundAfter c (modFold s (tagFold c.tag) hitCounted)) := by
  rw [startLoad]
  dsimp only
  rw [hargs, hat]
  dsimp only
  rw [if_neg (by decide), if_neg (by simp [hstate]), if_neg (not_not.mpr hhome), if_pos ⟨hstate, hlen⟩]
  rfl

theorem startLoad_new (hat : modelAt s (tagFold c.tag) (mlId c.desc) = none) (hroom : (modelsOf s (tagFold c.tag)).length < 64) :
    startLoad c s = loadInto c (entryTaken c s) := by
  rw [startLoad]
  dsimp only
  rw [hargs, hat, if_neg (by decide)]
  dsimp only
  rw [loadNew, takeEntry]
  dsimp only
  rw [if_pos hroom]
  rfl

end

/-- Steps 4 to 6 of R218 with a home whose rivals are not in use. -/
theorem loadInto_ok {c : Cmd} {s t : State} {dg : W64}
    (hfree : ∀ x ∈ overlapping s (tagFold c.tag) (mlHome c.desc) (mlId c.desc), modelInUse s (tagFold c.tag) x.id = false ∧ x.state ≠ 1)
    (hcopy : copyImage c (tagFold c.tag) (mlSrc c.desc) (mlLen c.desc) (mlHome c.desc) []
      (rivalsEvicted (tagFold c.tag) (mlHome c.desc) (mlId c.desc) s) = (.ok dg, t)) :
    loadInto c s = complete c.uid (Done.withDigest dg)
      (boundAfter c (modModel (tagFold c.tag) (mlId c.desc) (fun m => { m with state := 2, digest := dg }) t)) := by
  unfold rivalsEvicted at hcopy
  rw [loadInto]
  dsimp only
  rw [homeHeld_free hfree, hcopy, if_neg (by decide)]
  rfl

/-- An image that one beat brings: it is fetched, written and digested whole (R218, R267). -/
theorem copyImage_beat {c : Cmd} {n len h : Nat} {src : W64} {s s1 s2 : State} {bs w : List Byte} (hl : lone s c) (hgot : c.got = [])
    (hlen : 0 < len) (hfits : homeBase (homeOf (foldAt s n) h) % 256 + len ≤ 256)
    (hfetch : fetchRange c (moverPlace c) (moverMaster c) src.toNat len s = (.ok bs, s1))
    (hwrite : writePa c.tag (homeBase (homeOf (foldAt s n) h)) (pagesOf (homeBase (homeOf (foldAt s n) h)) len) bs
      (onBehalf c.uid (moverMaster c) s1) = (.ok w, s2)) :
    copyImage c n src len h [] s = (.ok (crc64 bs), zeroPond (homeOf (foldAt s n) h) (onBehalfOfNone s2)) := by
  have hc : copying c [] s := ⟨c.coll, by rw [← hgot]; exact hl⟩
  obtain ⟨hc1, hbs⟩ := fetchRange_copying hfetch hc
  obtain ⟨coll, hl2⟩ := (hc1.keeps (onBehalf_keepsLone _ _ s1)).keeps (writePa_keepsLone hwrite)
  generalize hhome : homeOf (foldAt s n) h = home at *
  have hbeat : copyBeat c src.toNat (homeBase home) (min (len - c.got.length) (256 - (homeBase home + c.got.length) % 256)) s =
      (.ok 0, onBehalfOfNone (modCmd s2 c.uid fun x => { x with got := x.got ++ bs })) := by
    rw [hgot]
    have hmin : min (len - ([] : List Byte).length) (256 - (homeBase home + ([] : List Byte).length) % 256) = len := by
      simp only [List.length_nil, Nat.sub_zero, Nat.add_zero]
      omega
    rw [hmin]
    exact copyBeat_eq (by rw [hgot]; exact hfetch) (by rw [hgot]; exact hwrite)
  have hkept : lone (onBehalfOfNone (modCmd s2 c.uid fun x => { x with got := x.got ++ bs })) { c with got := bs, coll := coll } :=
    onBehalfOfNone_keepsLone _ _ (hl2.modCmd (g := fun x => { x with got := x.got ++ bs }) rfl rfl)
  have hback : modCmd (onBehalfOfNone (modCmd s2 c.uid fun x => { x with got := x.got ++ bs })) c.uid (fun x => { x with got := [] }) =
      onBehalfOfNone s2 := by
    have hcmds : (s2.cmds.map fun x => if x.uid == c.uid then { x with got := x.got ++ bs } else x).map
        (fun x => if x.uid == c.uid then { x with got := [] } else x) = s2.cmds := by
      rw [hl2.cmds]
      simp
    exact congrArg (fun cs => { onBehalfOfNone s2 with cmds := cs }) hcmds
  have hbeats : copyBeats c.uid src.toNat len (homeBase home) (len + 2) s = (.ok (crc64 bs), onBehalfOfNone s2) := by
    rw [copyBeats, hl.cmdAt]
    dsimp only
    rw [if_neg (by rw [hgot, List.length_nil]; omega), hbeat]
    dsimp only
    rw [copyBeats, show cmdAt _ c.uid = _ from hkept.cmdAt]
    dsimp only
    rw [if_pos (by rw [hbs]), hback]
  rw [copyImage, hhome, hbeats]
  rfl

/-! ### Evicting by command (R222) -/

/-- No context is bound to a model. -/
def unbound (n : Nat) (id : W64) (s : State) : State :=
  forEach (boundTo s n id) (fun i s => modCtx s i fun x => { x with model := none }) s

theorem unbound_folds (n : Nat) (id : W64) (s : State) : (unbound n id s).folds = s.folds :=
  forEach_keeps State.folds (g := fun i s => modCtx s i fun x => { x with model := none }) (fun _ _ => rfl) s

theorem unbound_keepsLone (n : Nat) (id : W64) (s : State) : keepsLone s (unbound n id s) := by
  refine forEach_keepsLone _ _ (fun i s => modCtx_keepsLone s i fun x => ?_) s
  rfl

theorem startEvict_eq (c : Cmd) (s : State) : startEvict c s =
    if (modelAt s (tagFold c.tag) (mlId c.desc)).isNone then complete c.uid (.plain stSuccess) s
    else if (boundTo s (tagFold c.tag) (mlId c.desc)).any fun i => i != tagSlot c.tag && ctxWorks s i then
      complete c.uid (.plain stRange) s
    else complete c.uid (.plain stSuccess) (setModels (tagFold c.tag)
      ((modelsOf s (tagFold c.tag)).filter fun m => m.id != mlId c.desc) (unbound (tagFold c.tag) (mlId c.desc) s)) := by
  have hmodels : modelsOf (unbound (tagFold c.tag) (mlId c.desc) s) (tagFold c.tag) = modelsOf s (tagFold c.tag) := by
    rw [modelsOf, modelsOf, foldAt, foldAt, unbound_folds]
  rw [startEvict]
  dsimp only
  rw [← unbound, hmodels]
  cases modelAt s (tagFold c.tag) (mlId c.desc) <;> rfl

/-! ### The rows, accepted in a block at rest -/

theorem startCmd_load {c : Cmd} {s : State} (hop : opcodeOf c.desc = 9) : startCmd c s = startLoad c s := by
  rw [startCmd, hop]
  rfl

theorem startCmd_evict {c : Cmd} {s : State} (hop : opcodeOf c.desc = 0x0A) : startCmd c s = startEvict c s := by
  rw [startCmd, hop]
  rfl

theorem foldAt_taken {q : Nat} {d : BitVec 512} {s : State} (n : Nat) : foldAt (taken q d s) n = foldAt s n := by
  rw [taken_sameButIntake (q := q) (d := d) (s := s)]
  rfl

theorem folds_taken {q : Nat} {d : BitVec 512} {s : State} : (taken q d s).folds = s.folds := by
  rw [taken_sameButIntake (q := q) (d := d) (s := s)]

section
variable {q : Nat} {d : BitVec 512} {s : State} (h : alone q d s)
include h

theorem exec_modelLoad_alone (hop : opcodeOf d = 9) (hrest : resting (startLoad (accepted q d s) (taken q d s))) :
    exec (.modelLoad q d) s = .next (startLoad (accepted q d s) (taken q d s)) := by
  refine (queueRow_alone h "MODEL_LOAD" (by rw [hop]; rfl) (by omega)).trans (congrArg _ ?_)
  exact pump_alone_ends h (by omega) (startCmd_load hop) hrest

theorem exec_modelEvict_alone (hop : opcodeOf d = 0x0A) (hrest : resting (startEvict (accepted q d s) (taken q d s))) :
    exec (.modelEvict q d) s = .next (startEvict (accepted q d s) (taken q d s)) := by
  refine (queueRow_alone h "MODEL_EVICT" (by rw [hop]; rfl) (by omega)).trans (congrArg _ ?_)
  exact pump_alone_ends h (by omega) (startCmd_evict hop) hrest

/-- A load that ends where it starts, having kept the block's one command. -/
theorem exec_modelLoad_ends (hop : opcodeOf d = 9) {t : State} {r : Done} {got : List Byte}
    (hstart : startLoad (accepted q d s) (taken q d s) = complete (accepted q d s).uid r t) (ht : copying (accepted q d s) got t) :
    exec (.modelLoad q d) s = .next (complete (accepted q d s).uid r t) := by
  rw [← hstart]
  refine exec_modelLoad_alone h hop ?_
  rw [hstart]
  exact ht.complete_resting (show 2 < opcodeOf d by omega) rfl r

theorem copying_taken : copying (accepted q d s) [] (taken q d s) := ⟨_, lone_taken h⟩

theorem exec_modelEvict (hop : opcodeOf d = 0x0A) : exec (.modelEvict q d) s = .next (startEvict (accepted q d s) (taken q d s)) := by
  have hl := lone_taken h
  have hop2 : 2 < opcodeOf d := by omega
  refine exec_modelEvict_alone h hop ?_
  rw [startEvict_eq]
  split
  · exact hl.complete_resting hop2 rfl _
  split
  · exact hl.complete_resting hop2 rfl _
  · exact (setModels_keepsLone _ _ _ _ (unbound_keepsLone _ _ _ _ hl)).complete_resting hop2 rfl _

end

end Sys2Proof.Machine
end

section
/-! SUPPORT. MODEL_PARK and MODEL_RELOAD (R220, R221): what writing a model's pond lines to their backing leaves of the directory and of
the models in use, and that one parking ends the search when one model in use stands in the way. -/

namespace Sys2Proof.Machine

/-! ### What the writing of pond lines leaves -/

/-- Two folds have the same homes, the same count of parkings and the same models, but for more lines that count as written. -/
def moreWritten (f g : Fold) : Prop :=
  g.sched.homes = f.sched.homes ∧ g.sched.parks = f.sched.parks ∧ ∃ w : Model → List Nat, (∀ x, x.written ⊆ w x) ∧
    g.sched.models = f.sched.models.map fun x => { x with written := w x }

theorem moreWritten_of_models {f g : Fold} (hhomes : g.sched.homes = f.sched.homes) (hparks : g.sched.parks = f.sched.parks)
    (hmodels : g.sched.models = f.sched.models) : moreWritten f g :=
  ⟨hhomes, hparks, Model.written, fun _ => List.Subset.refl _, by rw [hmodels]; exact (List.map_id _).symm⟩

theorem moreWritten.refl (f : Fold) : moreWritten f f := moreWritten_of_models rfl rfl rfl

theorem moreWritten.trans {f g k : Fold} (h : moreWritten f g) (h' : moreWritten g k) : moreWritten f k := by
  obtain ⟨hhomes, hparks, w, hw, hmodels⟩ := h
  obtain ⟨hhomes', hparks', w', hw', hmodels'⟩ := h'
  refine ⟨hhomes'.trans hhomes, hparks'.trans hparks, fun x => w' { x with written := w x }, fun x => ?_, ?_⟩
  · exact List.Subset.trans (hw x) (hw' { x with written := w x })
  · rw [hmodels', hmodels, List.map_map]
    rfl

/-- Commands and contexts are the same, and so is the model cache of a fold but for more lines that count as written. -/
def keepsCache (n : Nat) (s t : State) : Prop :=
  t.cmds = s.cmds ∧ t.ctxs = s.ctxs ∧ (Tab.wf Fold.reset s.folds = true →
    Tab.wf Fold.reset t.folds = true ∧ moreWritten (foldAt s n) (foldAt t n))

section
variable {n : Nat}

theorem keepsCache_of_folds {s t : State} (hcmds : t.cmds = s.cmds) (hctxs : t.ctxs = s.ctxs) (hfolds : t.folds = s.folds) :
    keepsCache n s t := by
  refine ⟨hcmds, hctxs, fun hwf => ⟨hfolds ▸ hwf, ?_⟩⟩
  rw [foldAt, foldAt, hfolds]
  exact .refl _

theorem keepsCache.refl (s : State) : keepsCache n s s := keepsCache_of_folds rfl rfl rfl

theorem keepsCache.trans {s t u : State} (h : keepsCache n s t) (h' : keepsCache n t u) : keepsCache n s u := by
  obtain ⟨hcmds, hctxs, hfolds⟩ := h
  obtain ⟨hcmds', hctxs', hfolds'⟩ := h'
  refine ⟨hcmds'.trans hcmds, hctxs'.trans hctxs, fun hwf => ?_⟩
  obtain ⟨hwft, hmore⟩ := hfolds hwf
  obtain ⟨hwfu, hmore'⟩ := hfolds' hwft
  exact ⟨hwfu, hmore.trans hmore'⟩

theorem forEach_keepsCache {α : Type} (l : List α) {g : α → State → State} (hg : ∀ x s, keepsCache n s (g x s)) (s : State) :
    keepsCache n s (forEach l g s) := by
  induction l generalizing s with
  | nil => exact .refl s
  | cons x l ih => exact (hg x s).trans (ih (g x s))

theorem modFold_keepsCache (k : Nat) {g : Fold → Fold} (hg : ∀ f, moreWritten f (g f)) (s : State) : keepsCache n s (modFold s k g) := by
  refine ⟨rfl, rfl, fun hwf => ⟨modFold_wf hwf k g, ?_⟩⟩
  by_cases hk : n = k
  · subst hk
    rw [foldAt_modFold_self hwf]
    exact hg _
  · rw [foldAt_modFold_ne s hk]
    exact .refl _

theorem modMeter_keepsCache (k c : Nat) (g : Meter → Meter) (s : State) : keepsCache n s (modMeter k c g s) :=
  modFold_keepsCache k (g := withMeter c g) (fun _ => moreWritten_of_models rfl rfl rfl) s

theorem weirCharge_keepsCache (tag : W16) (k b : Nat) (s : State) : keepsCache n s (weirCharge tag k b s) := by
  unfold weirCharge
  split
  · exact .refl s
  · exact modMeter_keepsCache _ _ _ s

theorem stackIssue_keepsCache (mem off b : Nat) (w : Bool) (bs : List Byte) (s : State) :
    keepsCache n s (stackIssue mem off b w bs s) := by
  unfold stackIssue
  split
  · exact .refl s
  dsimp only
  split
  · exact keepsCache_of_folds rfl rfl rfl
  · exact keepsCache_of_folds rfl rfl rfl

/-- A beat that is written is neither looked up in the cache nor answered at once. -/
theorem issueBeat_write_keepsCache (a : Agent) (tag : W16) (mem : Nat) (b : Nat × Nat) (s : State) :
    keepsCache n s (issueBeat a tag mem true b s) := by
  unfold issueBeat
  dsimp only
  rw [if_neg (by simp)]
  refine keepsCache.trans (t := issueReq tag (memClass mem) a.uid a.master b.1 b.2 (if mem = 2 then some (b.1 / 2 ^ 21) else none) a.grp a.pc
    (noteServed (memClass mem) (unitOf s (memClass mem) b.1) (tagFold tag) s)) ?_ (stackIssue_keepsCache _ _ _ _ _ _)
  exact keepsCache_of_folds rfl rfl rfl

theorem charge_write_keepsCache (tag : W16) (mem off b : Nat) (s : State) : keepsCache n s (charge tag mem off b true s) := by
  unfold charge
  split
  · exact .refl s
  dsimp only
  have hcharged : keepsCache n s (unhold (memClass mem) 0 (weirCharge tag (memClass mem) b s)) :=
    (weirCharge_keepsCache _ _ _ s).trans (keepsCache_of_folds rfl rfl rfl)
  split
  · exact hcharged
  split
  · exact hcharged
  · exact hcharged.trans (forEach_keepsCache _ (fun b s => issueBeat_write_keepsCache _ _ _ b s) _)

theorem rekeyUnit_keepsCache (u : Nat) (s : State) : keepsCache n s (rekeyUnit u s) := by
  unfold rekeyUnit
  dsimp only
  split
  · exact .refl s
  · exact keepsCache_of_folds rfl rfl rfl

/-- The lines of a model's home that a pond write touches count as written. -/
def lineNoted (f : Fold) (off b : Nat) (m : Model) : List Nat :=
  if m.state = 2 then m.written ++ (pondLines (homeOf f m.home) off b).filter fun l => !m.written.contains l else m.written

theorem markPond_keepsCache (off b : Nat) (s : State) : keepsCache n s (markPond off b s) := by
  refine forEach_keepsCache _ (fun k s => ?_) s
  refine modFold_keepsCache k (g := fun f => { f with sched := { f.sched with models := f.sched.models.map fun m => if m.state = 2 then
    { m with written := m.written ++ (pondLines (homeOf f m.home) off b).filter fun l => !m.written.contains l } else m } }) (fun f => ?_) s
  refine ⟨rfl, rfl, lineNoted f off b, fun m => ?_, List.map_congr_left fun m _ => ?_⟩
  · unfold lineNoted
    split
    · exact List.subset_append_left _ _
    · exact List.Subset.refl _
  · unfold lineNoted
    split <;> rfl

theorem memStore_keepsCache (mem off : Nat) (bs : List Byte) (s : State) : keepsCache n s (memStore mem off bs s) := by
  have hclear (mem a b : Nat) (s : State) : keepsCache n s (clearPoison mem a b s) := keepsCache_of_folds rfl rfl rfl
  unfold memStore
  split
  · exact .refl s
  split
  · have hpond : keepsCache n s { s with pond := memWrite s.pond off bs } := keepsCache_of_folds rfl rfl rfl
    exact hpond.trans ((markPond_keepsCache _ _ _).trans (hclear _ _ _ _))
  · exact keepsCache_of_folds rfl rfl rfl
  · have hfar (m : Mem) (s : State) : keepsCache n s { s with far := m } := keepsCache_of_folds rfl rfl rfl
    dsimp only
    generalize hrekeyed : forEach _ rekeyUnit s = s1
    have h1 : keepsCache n s s1 := hrekeyed ▸ forEach_keepsCache _ rekeyUnit_keepsCache s
    exact h1.trans ((hfar _ s1).trans (hclear 2 off _ _))
  · unfold hostWrite
    split <;> exact keepsCache_of_folds rfl rfl rfl

/-- Whether a model is in use shows in commands and contexts alone. -/
theorem inUse_congr {s t : State} (hcmds : t.cmds = s.cmds) (hctxs : t.ctxs = s.ctxs) (k : Nat) (id : W64) :
    modelInUse t k id = modelInUse s k id := by
  have hworks : ctxWorks t = ctxWorks s := by
    funext i
    simp only [ctxWorks, ctxAt, hcmds, hctxs]
  simp only [modelInUse, boundTo, hctxs, hworks]

end

/-! ### Parking one model (R220) -/

/-- One line of a home's pond part is written to its backing. -/
def lineSaved (h : BitVec 256) (loader : W16) (l : Nat) (s : State) : State :=
  match decodePa s (homePondBack h + l * 4096) with
  | .loc mem off => charge loader mem off 4096 true (memStore mem off (memRead s.pond (homePond h + l * 4096) 4096) s)
  | _ => s

theorem lineSaved_keepsCache {n : Nat} (h : BitVec 256) (loader : W16) (l : Nat) (s : State) : keepsCache n s (lineSaved h loader l s) := by
  unfold lineSaved
  split
  · exact (memStore_keepsCache _ _ _ s).trans (charge_write_keepsCache _ _ _ _ _)
  · exact .refl s

/-- A model as it is parked. -/
def Model.asParked (x : Model) : Model :=
  { x with state := 3, saved := x.saved ++ x.written.filter fun l => !x.saved.contains l, written := [] }

/-- A fold whose model of an id is parked, which is counted. -/
def parkedIn (id : W64) (f : Fold) : Fold := { f with sched := { f.sched with
  models := f.sched.models.map (fun x => if x.id == id then x.asParked else x), parks := f.sched.parks + 1 } }

/-- A line that was saved or written before a model is parked is saved after. -/
theorem mem_saved_asParked {x : Model} {l : Nat} (h : l ∈ x.saved ++ x.written) : l ∈ x.asParked.saved := by
  rw [List.mem_append] at h
  by_cases hsaved : l ∈ x.saved
  · exact List.mem_append_left _ hsaved
  · refine List.mem_append_right _ (List.mem_filter.mpr ⟨h.resolve_left hsaved, ?_⟩)
    simpa using hsaved

/-- The lines that a model has written are saved. -/
def linesSaved (n : Nat) (m : Model) (s : State) : State := forEach m.written (lineSaved (homeOf (foldAt s n) m.home) m.loader) s

theorem parkModel_eq {s : State} {n : Nat} {id : W64} {m : Model} (hat : modelAt s n id = some m) : parkModel n id s =
    modFold (modModel n id Model.asParked (linesSaved n m s)) n fun f => { f with sched := { f.sched with parks := f.sched.parks + 1 } } := by
  unfold parkModel
  rw [hat]
  rfl

/-- What parking a model comes to: the lines that it has written are saved, then it is marked and counted. -/
theorem parkModel_fold {s : State} {n : Nat} {id : W64} {m : Model} (hwf : Tab.wf Fold.reset s.folds = true)
    (hat : modelAt s n id = some m) : ∃ f, moreWritten (foldAt s n) f ∧ foldAt (parkModel n id s) n = parkedIn id f ∧
      (parkModel n id s).cmds = s.cmds ∧ (parkModel n id s).ctxs = s.ctxs := by
  have hlines : keepsCache n s (linesSaved n m s) := forEach_keepsCache _ (lineSaved_keepsCache _ _) s
  obtain ⟨hcmds, hctxs, hfolds⟩ := hlines
  obtain ⟨hwft, hmore⟩ := hfolds hwf
  refine ⟨_, hmore, ?_, ?_⟩
  · have hmarked : foldAt (modModel n id Model.asParked (linesSaved n m s)) n = _ := foldAt_modFold_self hwft n _
    have hwfm : Tab.wf Fold.reset (modModel n id Model.asParked (linesSaved n m s)).folds = true := modFold_wf hwft n _
    rw [parkModel_eq hat, foldAt_modFold_self hwfm, hmarked]
    rfl
  · rw [parkModel_eq hat]
    exact ⟨hcmds, hctxs⟩

section
variable {s : State} {n h : Nat} {id : W64} {m : Model}

/-- The model after its parking: its saved lines include what it had saved and written. -/
theorem modelAt_parked {f : Fold} (hat : modelAt s n m.id = some m) (hmore : moreWritten (foldAt s n) f)
    (hf : foldAt t n = parkedIn m.id f) : ∃ x, modelAt t n m.id = some x ∧ x.state = 3 ∧ x.written = [] ∧
      ∀ l ∈ m.saved ++ m.written, l ∈ x.saved := by
  obtain ⟨-, -, w, hw, hmodels⟩ := hmore
  refine ⟨Model.asParked { m with written := w m }, ?_, rfl, rfl, fun l hl => mem_saved_asParked ?_⟩
  · rw [modelAt, modelsOf, hf, parkedIn, hmodels, List.map_map, List.find?_map]
    have hsame : ((fun x : Model => x.id == m.id) ∘ (fun x : Model => if x.id == m.id then x.asParked else x) ∘
        fun x : Model => { x with written := w x }) = fun x => x.id == m.id := by
      funext x
      simp only [Function.comp_apply]
      split <;> rfl
    rw [hsame, show (foldAt s n).sched.models.find? _ = _ from hat]
    simp
  · rw [List.mem_append] at hl ⊢
    exact hl.imp_right fun hl => hw m hl

/-- With the one model in the way parked, no model in use is in the way. -/
theorem none_inUse_parked {t : State} {f : Fold} (hmore : moreWritten (foldAt s n) f) (hf : foldAt t n = parkedIn m.id f)
    (huse : ∀ j, modelInUse t n j = modelInUse s n j)
    (hone : (overlapping s n h id).filter (fun x => modelInUse s n x.id) = [m]) :
    (overlapping t n h id).filter (fun x => modelInUse t n x.id) = [] := by
  obtain ⟨hhomes, -, w, -, hmodels⟩ := hmore
  have hhome (i : Nat) : homeOf (foldAt t n) i = homeOf (foldAt s n) i := by
    rw [hf]
    exact congrArg (fun hs => Tab.get 0 hs i) hhomes
  rw [List.filter_eq_nil_iff]
  intro y hy hyuse
  simp only [overlapping, hhome, List.mem_filter, Bool.and_eq_true] at hy
  obtain ⟨hmem, hstate, hover⟩ := hy
  rw [hf, parkedIn, hmodels, List.map_map, List.mem_map] at hmem
  obtain ⟨x, hx, rfl⟩ := hmem
  rw [huse] at hyuse
  simp only [Function.comp_apply] at hstate hover hyuse
  split at hstate
  · exact absurd hstate (by simp [Model.asParked])
  next hid =>
    rw [if_neg hid] at hover hyuse
    have hin : x ∈ (overlapping s n h id).filter (fun x => modelInUse s n x.id) := by
      simp only [overlapping, List.mem_filter, Bool.and_eq_true]
      exact ⟨⟨hx, hstate, hover⟩, hyuse⟩
    rw [hone, List.mem_singleton] at hin
    subst hin
    simp at hid

/-- A context that uses a model is bound to it. -/
theorem ctx_of_usersOf {i : Nat} (hwf : Tab.wf Ctx.reset s.ctxs = true) (h : usersOf s n [m] = [i]) : (ctxAt s i).model = some m.id := by
  have hi : i ∈ usersOf s n [m] := by simp [h]
  simp only [usersOf, List.mem_dedup, List.flatMap_cons, List.flatMap_nil, List.append_nil, List.mem_filter, boundTo, List.mem_map] at hi
  obtain ⟨⟨p, ⟨hp, hbound⟩, rfl⟩, -⟩ := hi
  simp only [Bool.and_eq_true, beq_iff_eq] at hbound
  obtain ⟨-, hmodel⟩ := hbound
  rw [ctxAt, Tab.get_of_mem hwf hp]
  exact hmodel

theorem parkAll_done {fuel : Nat} (hnone : (overlapping s n h id).filter (fun x => modelInUse s n x.id) = []) :
    parkAll n h id fuel s = s := by
  cases fuel with
  | zero => rfl
  | succ fuel =>
    rw [parkAll, hnone]
    rfl

/-- One model in use stands in the way, and one context uses it: it is parked, and nothing more. -/
theorem parkAll_one {fuel i : Nat} (hbound : (ctxAt s i).model = some m.id)
    (hone : (overlapping s n h id).filter (fun x => modelInUse s n x.id) = [m]) (husers : usersOf s n [m] = [i])
    (hnone : (overlapping (parkModel n m.id s) n h id).filter (fun x => modelInUse (parkModel n m.id s) n x.id) = []) :
    parkAll n h id (fuel + 1) s = parkModel n m.id s := by
  have hpicked : [m].filter (fun x => (ctxAt s i).model == some x.id) = [m] := by simp [hbound]
  rw [parkAll, hone, husers, show oldestCtx s [i] = some i from rfl]
  dsimp only
  rw [hpicked]
  exact parkAll_done hnone

end

/-! ### The rows MODEL_PARK and MODEL_RELOAD (R220, R221) -/

/-- What lacks only its model is ready apart from it: a launch, or a tile task that comes through pre-translation. -/
theorem whenReadyApart_ready {c : Cmd} {s : State} (act : State → State)
    (h : opcodeOf c.desc ≠ 1 ∨ ∃ x, cmdAt (dispatchTask c s) c.uid = some x ∧ x.phase = .ready) : whenReadyApart c act s = act s := by
  unfold whenReadyApart
  split
  · rfl
  next htile =>
    obtain ⟨x, hx, hready⟩ := h.resolve_left htile
    dsimp only
    rw [hx]
    exact if_pos hready

section
variable {s : State} {c : Cmd} {n uid : Nat}

theorem parkFor_due {h : Nat} {id : W64} (hc : cmdAt s uid = some c) (hn : tagFold c.tag = n) (hwanted : wantedHome s c = some (h, id))
    (hdue : parkDue s n h id = true) (hwaits : opcodeOf c.desc = 9 ∨ residencyWaits s c = true) :
    parkFor n uid s = if opcodeOf c.desc = 9 then startLoad c (parkAll n h id 512 s) else reloadFor c (parkAll n h id 512 s) := by
  unfold parkFor
  rw [hc]
  dsimp only
  rw [if_neg (not_not.mpr hn), hwanted]
  dsimp only
  rw [hdue, if_neg]
  rcases hwaits with hop | hwait
  · simp [hop]
  · simp [hwait]

/-- MODEL_PARK for a load, or for what is ready apart from its model, parks and goes on. -/
theorem modelParkAt_ready (hc : cmdAt s uid = some c)
    (h : opcodeOf c.desc = 9 ∨ residencyWaits s c = true ∧
      (opcodeOf c.desc = 2 ∨ ∃ x, cmdAt (dispatchTask c s) uid = some x ∧ x.phase = .ready)) :
    modelParkAt n uid s = parkFor n uid s := by
  have huid : c.uid = uid := by simpa using List.find?_some hc
  unfold modelParkAt
  rw [hc]
  dsimp only
  split
  · refine whenReadyApart_ready _ ?_
    rw [huid]
    rcases h with hop | ⟨-, hop | hready⟩
    · exact .inl (by omega)
    · exact .inl (by omega)
    · exact .inr hready
  · rfl

theorem modelReloadAt_ready {slot : Nat} (hc : s.cmds.find? (fun c => tagSlot c.tag == slot && residencyWaits s c) = some c)
    (h : opcodeOf c.desc = 2 ∨ ∃ x, cmdAt (dispatchTask c s) c.uid = some x ∧ x.phase = .ready) :
    modelReloadAt slot s = reloadFor c s := by
  unfold modelReloadAt
  rw [hc]
  exact whenReadyApart_ready _ (h.imp_left (by omega))

/-- The parked model of a context whose home is free is copied back. -/
theorem reloadFor_ok {id dg : W64} {m : Model} {t : State} (hctx : (ctxAt s (tagSlot c.tag)).model = some id)
    (hat : modelAt s (tagFold c.tag) id = some m) (hstate : m.state = 3)
    (hfree : ∀ x ∈ overlapping s (tagFold c.tag) m.home id, modelInUse s (tagFold c.tag) x.id = false ∧ x.state ≠ 1)
    (hcopy : copyImage c (tagFold c.tag) m.src m.length m.home m.saved (rivalsEvicted (tagFold c.tag) m.home id s) = (.ok dg, t)) :
    reloadFor c s = modModel (tagFold c.tag) id (fun x => { x with state := 2, digest := dg, written := [] }) t := by
  unfold rivalsEvicted at hcopy
  unfold reloadFor
  dsimp only
  rw [hctx]
  dsimp only
  rw [hat]
  dsimp only
  rw [if_neg (not_not.mpr hstate), homeHeld_free hfree, hcopy]
  rfl

end

end Sys2Proof.Machine
end

section
/-! SUPPORT. O22, from the state after a descriptor is accepted in a block at rest. -/

namespace Sys2Proof.Machine

theorem canon_ctxs {s : State} (h : canon s = true) : Tab.wf Ctx.reset s.ctxs = true := by
  simp only [canon, Bool.and_eq_true] at h
  obtain ⟨⟨⟨⟨⟨⟨⟨-, hctxs⟩, -⟩, -⟩, -⟩, -⟩, -⟩, -⟩ := h
  exact hctxs

section
variable {q : Nat} {d : BitVec 512} {s : State}

theorem modelsOf_taken (n : Nat) : modelsOf (taken q d s) n = modelsOf s n := by rw [modelsOf, foldAt_taken, modelsOf]

theorem modelAt_taken (n : Nat) (id : W64) : modelAt (taken q d s) n id = modelAt s n id := by rw [modelAt, modelsOf_taken, modelAt]

theorem loadArgsOk_taken (c : Cmd) : loadArgsOk (taken q d s) c = loadArgsOk s c := by rw [loadArgsOk, foldAt_taken, loadArgsOk]

theorem entryTaken_taken (c : Cmd) : entryTaken c (taken q d s) =
    setModels (tagFold c.tag) (modelsOf s (tagFold c.tag) ++ [loadingModel c]) (taken q d s) := by rw [entryTaken, modelsOf_taken]

theorem rivalsEvicted_keepsLone (n h : Nat) (id : W64) (s : State) : keepsLone s (rivalsEvicted n h id s) :=
  forEach_keepsLone _ _ (fun id s => evictModel_keepsLone n id s) s

theorem keepsLone_entryTaken (c : Cmd) (h : Nat) (id : W64) (s : State) :
    keepsLone s (rivalsEvicted (tagFold c.tag) h id (entryTaken c s)) :=
  (setModels_keepsLone _ _ _).trans (rivalsEvicted_keepsLone _ _ _ _)

/-- A load's own entry and the evictions that it makes leave the homes. -/
theorem homeOf_entryTaken (hwf : Tab.wf Fold.reset s.folds = true) (c : Cmd) (h i : Nat) (id : W64) :
    homeOf (foldAt (rivalsEvicted (tagFold c.tag) h id (entryTaken c s)) (tagFold c.tag)) i = homeOf (foldAt s (tagFold c.tag)) i := by
  have hentry : foldAt (entryTaken c s) (tagFold c.tag) = _ := foldAt_modFold_self hwf _ _
  rw [rivalsEvicted, homeOf_evicted (s := entryTaken c s) (modFold_wf hwf _ _), hentry]
  rfl

variable (h : alone q d s) (hop : opcodeOf d = 9) (hargs : loadArgsOk s (accepted q d s) = true)
include h hop hargs

theorem exec_modelLoad_resident {m : Model} (hat : modelAt s (tagFold (accepted q d s).tag) (mlId d) = some m) (hhome : m.home = mlHome d)
    (hstate : m.state = 2) (hlen : m.length = mlLen d) :
    exec (.modelLoad q d) s = .next (complete (accepted q d s).uid (Done.withDigest m.digest) (boundAfter (accepted q d s)
      (modFold (taken q d s) (tagFold (accepted q d s).tag) hitCounted))) := by
  have hargs1 : loadArgsOk (taken q d s) (accepted q d s) = true := by rw [loadArgsOk_taken]; exact hargs
  have hat1 : modelAt (taken q d s) (tagFold (accepted q d s).tag) (mlId (accepted q d s).desc) = some m := by
    rw [modelAt_taken]
    exact hat
  have hhit : keepsLone (taken q d s) (modFold (taken q d s) (tagFold (accepted q d s).tag) hitCounted) :=
    modFold_keepsLone _ _ fun _ => ⟨rfl, rfl⟩
  exact exec_modelLoad_ends h hop (startLoad_resident hargs1 hat1 hhome hstate hlen)
    ((copying_taken h).keeps (hhit.trans (boundAfter_keepsLone _ _)))

section
variable (hat : modelAt s (tagFold (accepted q d s).tag) (mlId d) = none)
  (hroom : (modelsOf s (tagFold (accepted q d s).tag)).length < 64)
  (hfree : ∀ x ∈ overlapping (entryTaken (accepted q d s) (taken q d s)) (tagFold (accepted q d s).tag) (mlHome d) (mlId d),
    modelInUse (entryTaken (accepted q d s) (taken q d s)) (tagFold (accepted q d s).tag) x.id = false ∧ x.state ≠ 1)
include hat hroom hfree

theorem exec_modelLoad_new {dg : W64} {t : State} (hcopy : copyImage (accepted q d s) (tagFold (accepted q d s).tag) (mlSrc d) (mlLen d)
      (mlHome d) [] (rivalsEvicted (tagFold (accepted q d s).tag) (mlHome d) (mlId d) (entryTaken (accepted q d s) (taken q d s))) =
      (.ok dg, t)) :
    exec (.modelLoad q d) s = .next (complete (accepted q d s).uid (Done.withDigest dg) (boundAfter (accepted q d s)
      (modModel (tagFold (accepted q d s).tag) (mlId d) (fun m => { m with state := 2, digest := dg }) t))) := by
  have hstart : startLoad (accepted q d s) (taken q d s) = loadInto (accepted q d s) (entryTaken (accepted q d s) (taken q d s)) := by
    refine startLoad_new ?_ ?_ ?_
    · rw [loadArgsOk_taken]
      exact hargs
    · rw [modelAt_taken]
      exact hat
    · rw [modelsOf_taken]
      exact hroom
  refine exec_modelLoad_ends h hop (hstart.trans (loadInto_ok hfree hcopy)) (got := []) ?_
  have hcopied : copying (accepted q d s) [] t := copyImage_copying hcopy ((copying_taken h).keeps (keepsLone_entryTaken _ _ _ _))
  exact hcopied.keeps ((modModel_keepsLone _ _ _ _).trans (boundAfter_keepsLone _ _))

/-- An image that one beat brings. -/
theorem exec_modelLoad_beat (hwf : Tab.wf Fold.reset s.folds = true) {home : BitVec 256}
    (hhome : homeOf (foldAt s (tagFold (accepted q d s).tag)) (mlHome d) = home) (hfits : homeBase home % 256 + mlLen d ≤ 256)
    {bs w : List Byte} {s4 s5 : State}
    (hfetch : fetchRange (accepted q d s) (moverPlace (accepted q d s)) (moverMaster (accepted q d s)) (mlSrc d).toNat (mlLen d)
      (rivalsEvicted (tagFold (accepted q d s).tag) (mlHome d) (mlId d) (entryTaken (accepted q d s) (taken q d s))) = (.ok bs, s4))
    (hwrite : writePa (accepted q d s).tag (homeBase home) (pagesOf (homeBase home) (mlLen d)) bs
      (onBehalf (accepted q d s).uid (moverMaster (accepted q d s)) s4) = (.ok w, s5)) :
    exec (.modelLoad q d) s = .next (complete (accepted q d s).uid (Done.withDigest (crc64 bs)) (boundAfter (accepted q d s)
      (modModel (tagFold (accepted q d s).tag) (mlId d) (fun m => { m with state := 2, digest := crc64 bs })
        (zeroPond home (onBehalfOfNone s5))))) := by
  have hlen : 0 < mlLen d := by
    simp only [loadArgsOk, Bool.and_eq_true, bne_iff_ne] at hargs
    obtain ⟨⟨-, hne⟩, -⟩ := hargs
    exact Nat.pos_of_ne_zero hne
  have hsame : homeOf (foldAt (rivalsEvicted (tagFold (accepted q d s).tag) (mlHome d) (mlId d)
      (entryTaken (accepted q d s) (taken q d s))) (tagFold (accepted q d s).tag)) (mlHome d) = home := by
    rw [homeOf_entryTaken (by rw [folds_taken]; exact hwf), foldAt_taken, hhome]
  refine exec_modelLoad_new h hop hargs hat hroom hfree ?_
  have hcopy := copyImage_beat (n := tagFold (accepted q d s).tag) (h := mlHome d) (keepsLone_entryTaken _ _ _ _ _ (lone_taken h)) rfl hlen
    (by rw [hsame]; exact hfits) hfetch (by rw [hsame]; exact hwrite)
  rw [hsame] at hcopy
  exact hcopy

end
end

/-- MODEL_PARK with one model in use in the way, which one context uses. -/
theorem exec_modelPark {s : State} {n uid h i : Nat} {id : W64} {c : Cmd} {m : Model} (hcanon : canon s = true) (hn : n < 16)
    (hc : cmdAt s uid = some c) (htag : tagFold c.tag = n) (hwanted : wantedHome s c = some (h, id)) (hdue : parkDue s n h id = true)
    (hready : opcodeOf c.desc = 9 ∨ residencyWaits s c = true ∧
      (opcodeOf c.desc = 2 ∨ ∃ x, cmdAt (dispatchTask c s) uid = some x ∧ x.phase = .ready))
    (hat : modelAt s n m.id = some m) (hone : (overlapping s n h id).filter (fun x => modelInUse s n x.id) = [m])
    (husers : usersOf s n [m] = [i]) :
    exec (.modelPark n uid) s = .next (pump (if opcodeOf c.desc = 9 then startLoad c (parkModel n m.id s) else
      reloadFor c (parkModel n m.id s))) := by
  obtain ⟨f, hmore, hfold, hcmds, hctxs⟩ := parkModel_fold (canon_folds hcanon) hat
  have huse (j : W64) : modelInUse (parkModel n m.id s) n j = modelInUse s n j := inUse_congr hcmds hctxs n j
  have hparked : parkAll n h id 512 s = parkModel n m.id s :=
    parkAll_one (ctx_of_usersOf (canon_ctxs hcanon) husers) hone husers (none_inUse_parked hmore hfold huse hone)
  have hrow : exec (.modelPark n uid) s = .next (pump (modelParkAt n uid s)) := need_of_true (decide_eq_true hn)
  rw [hrow, modelParkAt_ready hc hready, parkFor_due hc htag hwanted hdue (hready.imp_right And.left), hparked]

end Sys2Proof.Machine

open Sys2Proof Sys2Proof.Machine

/-- Settles O22: each row is the block's one command (MODEL_LOAD, MODEL_EVICT), or the command that waits for its model (MODEL_PARK,
MODEL_RELOAD), taken through the model cache's own steps; a load's copy keeps the command alone, and a parking takes the one model in
use out of the way. -/
theorem modelCacheCommands : Obligations.ModelCacheCommands := by
  unfold Obligations.ModelCacheCommands
  refine ⟨?_, ?_, ?_⟩
  · intro q d s h _
    have halone := h
    obtain ⟨-, -, hcanon, -⟩ := halone
    intro c s1 n id bind
    refine ⟨fun hop hargs => ⟨fun m => exec_modelLoad_resident h hop hargs, ?_⟩, fun hop => ?_⟩
    · intro hat hroom m s2 rivals s3 home loaded hfree
      have hs2 : s2 = entryTaken c s1 := (entryTaken_taken c).symm
      have hs3 : s3 = rivalsEvicted n (mlHome d) id (entryTaken c s1) := by rw [← hs2]; rfl
      simp only [rivals, hs2] at hfree
      refine ⟨fun dg s4 hcopy => ?_, fun bs s4 w s5 hfits hfetch hwrite => ?_⟩
      · rw [hs3] at hcopy
        exact exec_modelLoad_new h hop hargs hat hroom hfree hcopy
      · rw [hs3] at hfetch
        exact exec_modelLoad_beat h hop hargs hat hroom hfree (canon_folds hcanon) rfl hfits hfetch hwrite
    · rw [exec_modelEvict h hop, startEvict_eq, modelAt_taken, modelsOf_taken]
      rfl
  · intro s n uid h i id c m hcanon hn hc htag hwanted hdue hready hat hone husers
    obtain ⟨f, hmore, hfold, hcmds, -⟩ := parkModel_fold (canon_folds hcanon) hat
    obtain ⟨x, hx, hparked, hwritten, hsaved⟩ := modelAt_parked hat hmore hfold
    obtain ⟨-, hparks, -⟩ := hmore
    refine ⟨parkModel n m.id s, x, exec_modelPark hcanon hn hc htag hwanted hdue hready hat hone husers, hx, hparked, hwritten, hsaved,
      ?_, hcmds⟩
    rw [hfold, ← hparks]
    rfl
  · intro s slot c id m _ hslot hc hready hctx hat hstate n rivals hfree dg s2 hcopy
    have hrow : exec (.modelReload slot) s = .next (pump (modelReloadAt slot s)) := need_of_true (decide_eq_true hslot)
    have hfound := List.find?_some hc
    simp only [Bool.and_eq_true, beq_iff_eq] at hfound
    obtain ⟨hslotOf, -⟩ := hfound
    rw [hrow, modelReloadAt_ready hc hready, reloadFor_ok (hslotOf ▸ hctx) hat hstate hfree hcopy]

end
